-- ==== Sys2Proof/Word.lean ====
section
/-! DEFINITION. The word types of the device: bytes, 32-bit register words, and the plain data the state is written in. -/

namespace Sys2Proof

/-- A byte of memory, of a record or of a frame. -/
abbrev Byte := BitVec 8

/-- A 32-bit register word (spec/23_register_map.md, Tables 23-3 and 23-4). -/
abbrev Word := BitVec 32

/-- A byte string: a record, a frame or the bytes of an access, lowest address first (R3). -/
abbrev Bytes := List Byte

/-- A register file: pairs of a register's offset and its word, offsets strictly rising, no word equal to 0.
An offset that is not listed holds 0, the reset value R656 gives it. -/
abbrev RegFile := List (Nat × Word)

/-- A set of numbers, strictly rising. -/
abbrev NatSet := List Nat

/-- Runs of consecutive numbers: pairs of a first number and a length, rising and maximal (R121). -/
abbrev Runs := List (Nat × Nat)

end Sys2Proof
end

