-- ==== Sys2Proof/Syntax.lean ====
section
/-! DEFINITION. The commands the device takes, one constructor per row of spec/opcode_table.json. The table gives its rows no bits and no
fields: the operands are the model's, and carry what the outside world decides (a time, the bytes of a frame or a completion, which of the
device's own agents the event belongs to). -/

namespace Sys2Proof

/-- What every packet of a peer on a queue pair carries: the tenant and its queue pair that the QPN names, the packet sequence number, whether
it is CE-marked, and when it arrives (Lodge monotonic ns). -/
structure Pkt where
  tenant : Nat
  q : Nat
  psn : Nat
  ce : Bool
  now : Nat
  deriving DecidableEq, Repr


/-- How a read of tenant host space ends: with its bytes; with no translation that grants it; with no completion in time; or as Unsupported
Request, Completer Abort or poisoned (spec/17, Table 17-7). -/
inductive HostRead where
  | data (b : Bytes)
  | noAccess
  | timeout
  | error
  deriving DecidableEq, Repr

/-- Ranges of addresses: first byte and length. -/
abbrev Ranges := List (Nat × Nat)

/-- A Configuration Request (spec/17, R499, R500): a read of a word of configuration space, or a write of a field that the model keeps. -/
inductive CfgReq where
  | read (off : Nat)
  | vfEnable (on : Bool)
  | relaxed (on : Bool)
  | msix (enable mask : Bool)
  deriving DecidableEq, Repr

/-- What every PTP message carries: its port, domain and transport, the sender's port identity as a number, its sequence number, its correction in
ns, the Lodge's monotonic time and the local PTP time when it arrives. -/
structure PtpMsg where
  port : Nat
  domain : Nat
  l2 : Bool
  source : Nat
  seq : Nat
  correction : Int
  now : Nat
  ptp : Nat
  deriving DecidableEq, Repr

/-- The channels a command arrives by (Table 20-4, ARG0 of class 1). -/
inductive Channel where
  | pf0 | vdm | smbus
  deriving DecidableEq, Repr

/-- A request of Table 20-1 with its inline data, the bytes that the reads of ADDR and of ARG64 give (none when a read fails), and whether the Lodge
met an uncorrectable word in its copy of the source (R634). A PF0 request is the one in the mailbox registers; only its channel and what its
sources give are taken from the command. -/
structure MbxReq where
  chan : Channel
  opcode : Nat
  tag : Nat
  flags : Nat
  arg0 : Nat
  arg1 : Nat
  addr : Nat
  bytes : Nat
  arg64 : Nat
  reserved : Bool
  inlineData : Bytes
  src : Option Bytes
  src2 : Option Bytes
  ecc : Bool
  deriving DecidableEq, Repr

/-- The sensors at a Lodge tick (Table 20-5): the die's diodes, each HBM stack and each OSFP module in 1/16 °C, none where one gives no valid reading;
the input power of VIN and AUX_3V3 in 1/8 W; and the rails by code, in mV and 1/16 A. -/
structure LodgeSample where
  die : List (Option Int)
  hbm : List (Option Int)
  osfp : List (Option Int)
  power : Option Nat
  rails : List (Nat × Nat)
  deriving DecidableEq, Repr

/-- The module's flash as it was programmed outside the device: whether its SFDP tables meet R557, its capacity in MiB, and runs of bytes with
their addresses, the rest erased. -/
structure FlashImage where
  ok : Bool
  mib : Nat
  runs : List (Nat × Bytes)
  deriving DecidableEq, Repr

/-- What the start-up meets: failing Weave groups and side units, laid out as the capability maps (R32); failing Orangery banks and HBM stacks
(R33); and the slots in whose read into the Lodge area a word is uncorrectable (R634). -/
structure SelfTest where
  weave : Nat
  side : Nat
  oryBanks : List Nat
  hbmStacks : List Nat
  slotEcc : List Nat
  deriving DecidableEq, Repr

/-- A unit whose internal checks fail (R635): its class of Table 1-6 and physical instance, the context of the stream it works on (0xFFFF
without one), and the element offset there (Table 21-3). -/
structure UnitCheck where
  cls : Nat
  inst : Nat
  ctx : Nat
  elem : Nat
  deriving DecidableEq, Repr

/-- The numeric sensors of PLDM (R594): one for each reading of Table 20-5. Which sensor ID names which, the spec leaves open. -/
inductive PldmSensor where
  | die
  | hbm (stack : Nat)
  | osfp (port : Nat)
  | board
  | railMv (rail : Nat)
  | railCurrent (rail : Nat)
  | unknown
  deriving DecidableEq, Repr

/-- The commands: one constructor per row of the table of operations and events (spec/opcode_table.json). -/
inductive Instr where
  /-- AUX_POWER_ON (R679). AUX_3V3 comes within range; VDD_AON and VDD_IO come up, and the Lodge leaves reset and arms sensors and the trip. -/
  | auxPowerOn
  /-- VIN_POWER_ON (R679). VIN has been within range for 20 ms; the module charges its input and brings up the main rails and HBM in order. -/
  | vinPowerOn
  /-- START_UP (R566). At reset or insertion the Lodge reads the flash once, combines values, runs self-test, fills the capability registers and sets up standing tenants and Rotas (Table 1-7). -/
  | startUp (flash : Option FlashImage) (self : SelfTest) (now ptp : Nat)
  /-- VIN_FAILURE (R684). VIN has been out of range for more than 1 ms; the module takes the main rails down and the device stops as at a power loss. -/
  | vinFailure
  /-- POWER_GOOD_LOSS (R684). A main-domain power-good falls; the module takes the main rails down and the device stops. -/
  | powerGoodLoss
  /-- AUX_FAILURE (R685). AUX_3V3 leaves its range; the module takes every rail down. -/
  | auxFailure
  /-- DEVICE_RESET (R591). Within 10 ms of an accepted DEV_RESET the whole device resets as at an insertion. -/
  | deviceReset
  /-- LODGE_TICK (R596). At each 1 ms Lodge tick the Lodge samples every sensor, re-applies source selection and advances LODGE_UP_MS. -/
  | lodgeTick (now ptp : Nat) (x : LodgeSample)
  /-- POWER_RECOMPUTE (R597). Every 100 ms the Lodge recomputes ADM_POWER_AVAIL_W and the thermal LEVEL. -/
  | powerRecompute
  /-- BEAT_BOUNDARY (R50). At phase 0 of a beat the device latches the cut, decides every publication, applies commits and updates and issues the boundary's records. -/
  | beatBoundary (now ptp : Nat)
  /-- BEAT_IN_PULSE (R43). A rising edge of BEAT_IN begins the next beat, or realigns a lost beat. -/
  | beatInPulse (now ptp : Nat)
  /-- BEAT_LOST (R71). No boundary within 1.5 times the declared maximum period raises BEAT_LOST and stops course starts and cuts. -/
  | beatLost (now ptp : Nat)
  /-- BEAT_NO_SOURCE (R78). No source qualifies within 1.5 times the maximum period of start-up; standing Rotas are admitted but not started. -/
  | beatNoSource (now ptp : Nat)
  /-- PTP_HOLDOVER_EXPIRY (R71). BEAT_HOLDOVER_MS after the servo leaves lock the PTP source is disqualified. -/
  | ptpHoldoverExpiry (now ptp : Nat)
  /-- PTP_SYNC (R466). A Sync result updates offsetFromMaster, steps or slews the clock and updates lock state. -/
  | ptpSync (m : PtpMsg) (origin : Nat) (twoStep : Bool)
  /-- PTP_ANNOUNCE (R465). An Announce message feeds the best master clock algorithm. -/
  | ptpAnnounce (m : PtpMsg) (attrs : List Nat)
  /-- PTP_FOLLOW_UP (R465). A Follow_Up of a two-step master supplies the Sync timestamp. -/
  | ptpFollowUp (m : PtpMsg) (origin : Nat)
  /-- PTP_DELAY_RESPONSE (R465). A delay response message supplies the path delay measurement of the selected mechanism. -/
  | ptpDelayResponse (m : PtpMsg) (a b c d : Nat)
  /-- NET_PTP_UNLOCK (R467). After 3 Sync intervals without a Sync the device clears LOCKED and enters holdover. -/
  | netPtpUnlock (now ptp : Nat)
  /-- PPS_EDGE (R468). A rising 1PPS edge is reported in NET_PTP_PPS_OFFSET_NS and may steer the clock in holdover. -/
  | ppsEdge (now ptp : Nat)
  /-- GUARD_BAND (R116). In the guard band of each beat the device scrubs Orangery and HBM lines ahead of other requests. -/
  | guardBand
  /-- COIL_CTX_PERFORM (R359). An accepted Coil context save or restore is performed in the first suitable guard band and sets DONE and RESULT. -/
  | coilCtxPerform (t : Nat)
  /-- GRANULE_ZEROED (R122). Zeroing of a freed HBM granule completes and the granule becomes free. -/
  | granuleZeroed
  /-- LOG_ENTRY_WRITE (R643). The Lodge writes the next queued event-log entry, at most one per 40 ns, and signals PF0 vector 1. -/
  | logEntryWrite (now ptp : Nat)
  /-- MBX_NOP (R589). The mailbox command MBX_NOP completes with no effect. -/
  | mbxNop (r : MbxReq)
  /-- MBX_IDENTIFY (R589). The mailbox command MBX_IDENTIFY returns part, stepping, ROM and firmware versions. -/
  | mbxIdentify (r : MbxReq)
  /-- MBX_UNKNOWN_COMMAND (R590). A command with an opcode not in Table 20-2 is refused. -/
  | mbxUnknownCommand (r : MbxReq)
  /-- TEN_CREATE (R539). The long command TEN_CREATE checks a grant record and creates the tenant. -/
  | tenCreate (r : MbxReq)
  /-- TEN_CREATE_COMPLETE (R125). A creation waiting for zeroed granules completes once every granule is free. -/
  | tenCreateComplete
  /-- TEN_RESET (R543). The command TEN_RESET stops the tenant's work and discards its tasks. -/
  | tenReset (r : MbxReq)
  /-- TEN_RESET_COMPLETE (R544). A tenant reset completes within 1 ms, advancing the epoch and clearing counters. -/
  | tenResetComplete (t : Nat)
  /-- TEN_DESTROY (R547). The long command TEN_DESTROY resets the tenant, retires its Rotas and frees its resources. -/
  | tenDestroy (r : MbxReq)
  /-- ROTA_ADMIT (R93). The long command ROTA_ADMIT runs the admission checks in order and admits or refuses a Rota. -/
  | rotaAdmit (r : MbxReq)
  /-- ROTA_RETIRE (R108). The command ROTA_RETIRE stops new tasks for the handle; accepted tasks run on. -/
  | rotaRetire (r : MbxReq)
  /-- BEAT_SET_EPOCH (R43). The command BEAT_SET_EPOCH arms the BEAT_IN or doorbell epoch with a beat number. -/
  | beatSetEpoch (r : MbxReq)
  /-- HOST_QUIESCE (R532). The long command HOST_QUIESCE stops host fetching and non-independent generation and lets tasks drain. -/
  | hostQuiesce (r : MbxReq)
  /-- HOST_QUIESCE_COMPLETE (R532). When no affected task remains and every record is written, HOST_STATE becomes 2 and the command completes. -/
  | hostQuiesceComplete
  /-- HOST_QUIESCE_ABORT (R532). When T boundaries pass first, the remaining tasks are aborted with HOST_QUIESCE_ABORT. -/
  | hostQuiesceAbort
  /-- HOST_RESUME (R533). The command HOST_RESUME returns HOST_STATE to 0 and restarts fetching and generation. -/
  | hostResume (r : MbxReq)
  /-- IMG_WRITE (R575). The long command IMG_WRITE copies, checks, invalidates, programs and optionally activates an image slot. -/
  | imgWrite (r : MbxReq)
  /-- IMG_ACTIVATE (R576). The long command IMG_ACTIVATE checks a slot and appends ACTIVATE to the journal. -/
  | imgActivate (r : MbxReq)
  /-- IMG_CONFIRM (R576). The long command IMG_CONFIRM appends CONFIRM for a slot on trial. -/
  | imgConfirm (r : MbxReq)
  /-- IMG_CAL_WRITE (R577). The long command IMG_CAL_WRITE writes a new user calibration copy. -/
  | imgCalWrite (r : MbxReq)
  /-- DEV_RESET (R591). The command DEV_RESET is checked and, when accepted, schedules a whole-device reset. -/
  | devReset (r : MbxReq)
  /-- MCTP_SET_ENDPOINT_ID (R592). The MCTP control message Set Endpoint ID assigns the endpoint ID. -/
  | mctpSetEndpointId (chan : Channel) (inst op eid : Nat)
  /-- MCTP_GET_ENDPOINT_ID (R592). The MCTP control message Get Endpoint ID returns the endpoint ID. -/
  | mctpGetEndpointId (chan : Channel) (inst : Nat)
  /-- MCTP_GET_VERSION_SUPPORT (R592). The MCTP control message Get MCTP Version Support is answered. -/
  | mctpGetVersionSupport (chan : Channel) (inst type : Nat)
  /-- MCTP_GET_MESSAGE_TYPE_SUPPORT (R592). The MCTP control message Get Message Type Support is answered. -/
  | mctpGetMessageTypeSupport (chan : Channel) (inst : Nat)
  /-- MCTP_GET_VENDOR_MESSAGE_SUPPORT (R592). The MCTP control message Get Vendor Defined Message Support is answered. -/
  | mctpGetVendorMessageSupport (chan : Channel) (inst sel : Nat)
  /-- PLDM_GET_PDR_REPOSITORY_INFO (R594). PLDM GetPDRRepositoryInfo is answered. -/
  | pldmGetPdrRepositoryInfo (chan : Channel) (inst : Nat)
  /-- PLDM_GET_PDR (R594). PLDM GetPDR returns a sensor PDR. -/
  | pldmGetPdr (chan : Channel) (inst record : Nat)
  /-- PLDM_GET_SENSOR_READING (R594). PLDM GetSensorReading returns a numeric reading. -/
  | pldmGetSensorReading (chan : Channel) (inst : Nat) (sensor : PldmSensor)
  /-- PLDM_GET_STATE_SENSOR_READINGS (R594). PLDM GetStateSensorReadings returns the thermal LEVEL. -/
  | pldmGetStateSensorReadings (chan : Channel) (inst : Nat)
  /-- PLDM_SET_EVENT_RECEIVER (R594). PLDM SetEventReceiver sets the receiver of PlatformEventMessage. -/
  | pldmSetEventReceiver (chan : Channel) (inst enable eid : Nat)
  /-- PLDM_REQUEST_UPDATE (R595). PLDM RequestUpdate starts a firmware update as a long command. -/
  | pldmRequestUpdate (chan : Channel) (inst now size : Nat)
  /-- PLDM_FIRMWARE_DATA (R595). A RequestFirmwareData response delivers component data into the Lodge area. -/
  | pldmFirmwareData (chan : Channel) (now : Nat) (data : Bytes)
  /-- PLDM_TRANSFER_COMPLETE (R595). At TransferComplete the component is checked and written by IMG_WRITE with NO_ACTIVATE. -/
  | pldmTransferComplete (chan : Channel) (now : Nat) (back : Option Bytes) (ecc : Bool)
  /-- PLDM_ACTIVATE_FIRMWARE (R595). ActivateFirmware performs IMG_ACTIVATE with TRIAL on the written slot. -/
  | pldmActivateFirmware (chan : Channel) (inst now : Nat) (selfContained : Bool)
  /-- PLDM_CANCEL_UPDATE (R595). CancelUpdate ends the update. -/
  | pldmCancelUpdate (chan : Channel) (inst : Nat)
  /-- PLDM_UPDATE_TIMEOUT (R595). 60 s without a PLDM update message ends the update. -/
  | pldmUpdateTimeout (now : Nat)
  /-- CFG_COMMIT (R99). A write of 1 to CFG_COMMIT snapshots the shadow set and accepts or refuses the commit whole. -/
  | cfgCommit (go : Bool)
  /-- MEM_T_UPD_GO (R135). A write of 1 to MEM_T_UPD_GO requests a region update, replacing any pending one. -/
  | memTUpdGo (t : Nat) (go : Bool) (pinned : Ranges)
  /-- COIL_CTX_SAVE (R358). A write of COIL_T_CTX_GO with SAVE requests a Coil context save. -/
  | coilCtxSave (t : Nat)
  /-- COIL_CTX_RESTORE (R358). A write of COIL_T_CTX_GO with RESTORE requests a Coil context restore. -/
  | coilCtxRestore (t : Nat)
  /-- BEAT_DOORBELL (R45). A write to BEAT_DOORBELL acts as a beat pulse under the host doorbell source. -/
  | beatDoorbell (now ptp : Nat)
  /-- HOST_T_SQ_TAIL_DB (R505). A write to the SQ tail doorbell sets the SQ tail or raises HOST_DOORBELL_INVALID. -/
  | hostTSqTailDb (t q v : Nat)
  /-- HOST_T_CQ_HEAD_DB (R505). A write to the CQ head doorbell sets the CQ head and frees reservations, or raises HOST_DOORBELL_INVALID. -/
  | hostTCqHeadDb (t q v : Nat)
  /-- QUEUE_ENABLE (R504). A write of ENABLE 1 checks and enables a host queue pair. -/
  | queueEnable (t : Nat)
  /-- QUEUE_DISABLE (R522). A write of ENABLE 0 stops fetching from a queue pair; ENABLED clears once its records are written. -/
  | queueDisable (t : Nat)
  /-- QP_INIT (R470). NET_T_QP_CMD INIT loads the queue pair context from RESET. -/
  | qpInit (t : Nat)
  /-- QP_RTR (R470). NET_T_QP_CMD RTR moves a queue pair from INIT to RTR. -/
  | qpRtr (t : Nat)
  /-- QP_RTS (R470). NET_T_QP_CMD RTS moves a queue pair from RTR to RTS. -/
  | qpRts (t : Nat)
  /-- QP_ERR (R470). NET_T_QP_CMD ERR moves a queue pair to ERR. -/
  | qpErr (t : Nat)
  /-- QP_RESET (R470). NET_T_QP_CMD RESET moves a queue pair from INIT or ERR to RESET. -/
  | qpReset (t : Nat)
  /-- NET_T_MR_CTRL (R472). A write of NET_T_MR_CTRL registers or deregisters a region. -/
  | netTMrCtrl (t : Nat) (value : Word)
  /-- LODGE_LOG_READ_SEQ (R601). A write of LODGE_LOG_READ_SEQ acknowledges event-log entries. -/
  | lodgeLogReadSeq (value : Word)
  /-- LODGE_PWR_PEAK_READ (R7). A read of the RC register LODGE_PWR_PEAK returns and clears it indivisibly. -/
  | lodgePwrPeakRead
  /-- PAIR_LOW_READ (R80). A read of the low word of a 64-bit pair latches the high word. -/
  | pairLowRead (fn off : Nat)
  /-- HOOP_HEAD_READ (R201). A read of HOOP_HEAD samples the hoop counters and state together. -/
  | hoopHeadRead (t : Nat)
  /-- STAKE_FULL_READ (R236). A read of STAKE_FULL samples the selected pair's counters and mapping together. -/
  | stakeFullRead (t : Nat)
  /-- REGISTER_WRITE (R5). A write to a register with no row of its own acts field by field by its access code. -/
  | registerWrite (fn addr : Nat) (data : Bytes) (poisoned : Bool)
  /-- CONFIG_REQUEST (R527). A PCIe Configuration Request is answered, with retry status until the factory page is read. -/
  | configRequest (f : Nat) (r : CfgReq)
  /-- DL_DOWN (R529). The host data link goes down; host tenants are orphaned and dependent tasks aborted. -/
  | dlDown
  /-- DL_UP (R531). The host data link comes up; HOST_STATE returns to 0 and standing generation resumes. -/
  | dlUp (gen width : Nat) (flit : Bool)
  /-- PCIE_INTERFACE_RESET (R528). PERST#, Hot Reset, link disable, VF Enable clear or PF0 FLR resets only the PCIe interface and applies the removal rules. -/
  | pcieInterfaceReset
  /-- FUNCTION_LEVEL_RESET (R521). An FLR of a VF disables its queue pairs and requests a tenant reset. -/
  | functionLevelReset (f : Nat)
  /-- LINK_RETRAINED (R498). The host link changes speed or width and sets HOST_EVENT.RETRAINED. -/
  | linkRetrained (gen width : Nat) (flit : Bool)
  /-- ATS_INVALIDATION_REQUEST (R502). An ATS Invalidation Request stops use of translations and is completed within 50 µs. -/
  | atsInvalidationRequest (t base log2 : Nat)
  /-- TRANSLATION_COMPLETION (R501). A Translation Completion arrives; the translation is cached or a translation fault is raised. -/
  | translationCompletion (t base log2 : Nat) (rd wr : Bool)
  /-- HOST_READ_COMPLETION (R523). A host read completes with data or with an error. -/
  | hostReadCompletion (no : Nat) (r : HostRead)
  /-- HOST_CPL_TIMEOUT (R523). A host read gets no completion within the Completion Timeout. -/
  | hostCplTimeout (no : Nat)
  /-- DESCRIPTOR_FETCH (R506). When the SQ is non-empty and CQ room exists, the device fetches up to 8 descriptors and checks DESC_SEQ. -/
  | descriptorFetch (t q : Nat) (r : HostRead)
  /-- TASK_ACCEPT (R96). With descriptor and binding table read and validated, the device accepts the task, numbers it and assigns its beat, or refuses it. -/
  | taskAccept (t q : Nat) (r : HostRead) (pinned : Ranges)
  /-- HOST_STAGING_START (R511). The device starts staging a task's SPACE 1 streams once the entry's earlier owner retires. -/
  | hostStagingStart (h seq : Nat)
  /-- COURSE_START (R488). At the first cycle of a course's first window the device starts the course for the oldest eligible task, or gates it. -/
  | courseStart (h c : Nat)
  /-- COURSE_FINISH (R183). A course finishes when every stream passed END, hoops are empty and the last drain is over. -/
  | courseFinish (h : Nat)
  /-- ROTA_COURSE_OVERRUN (R110). A course still running after W_cyc times n cycles is stopped and its task aborted. -/
  | rotaCourseOverrun (h : Nat)
  /-- TRANSFER_ISSUE (R179). A fetch engine or store path issues a transfer when a slot, the outstanding limit and tokens allow. -/
  | transferIssue (h i : Nat)
  /-- TRANSFER_COMPLETE (R181). A transfer completes, placing its bytes in the slot or memory and releasing output slots. -/
  | transferComplete (h i no : Nat) (check : Option UnitCheck)
  /-- SLOT_COMMIT (R176). A complete slot commits in order once every earlier slot has committed. -/
  | slotCommit (h i : Nat)
  /-- SLOT_ACQUIRE (R175). A consumer waiting at empty acquires the next committed slot. -/
  | slotAcquire (h i : Nat)
  /-- STAKE_WAIT_RELEASE (R226). A wait on a stake counter that has reached its target is released, at most 8 per pair per cycle. -/
  | stakeWaitRelease (p : Nat)
  /-- COIL_FRAME_DECODE (R350). The decode side decodes and checks one frame of a Coil input stream. -/
  | coilFrameDecode (h i : Nat)
  /-- COIL_FRAME_ENCODE (R353). The encode side makes one frame of each acquired output slot. -/
  | coilFrameEncode (h i : Nat)
  /-- FILTER_CMP (R244). A FILTER_CMP batch is compared against the predicate and emits a mask. -/
  | filterCmp (h i : Nat)
  /-- MASK_AND (R247). A MASK_AND batch pair is combined by three-valued logic. -/
  | maskAnd (h i : Nat)
  /-- MASK_OR (R247). A MASK_OR batch pair is combined by three-valued logic. -/
  | maskOr (h i : Nat)
  /-- MASK_NOT (R247). A MASK_NOT batch is complemented. -/
  | maskNot (h i : Nat)
  /-- FILTER_MASK (R248). A FILTER_MASK batch keeps rows whose mask is valid and 1. -/
  | filterMask (h i : Nat)
  /-- HASH (R251). A HASH batch computes Varzitik Hash 64 per row. -/
  | hash (h i : Nat)
  /-- HASH_BUCKET (R252). A HASH_BUCKET batch assigns hash buckets. -/
  | hashBucket (h i : Nat)
  /-- WIDTH_BUCKET (R253). A WIDTH_BUCKET batch assigns equal-width buckets. -/
  | widthBucket (h i : Nat)
  /-- BOUND_BUCKET (R254). A BOUND_BUCKET batch assigns buckets from a boundary entry. -/
  | boundBucket (h i : Nat)
  /-- CLIP (R256). A CLIP batch clips values to LO and HI. -/
  | clip (h i : Nat)
  /-- LOG1P (R257). A LOG1P batch computes ln(1 + x). -/
  | log1p (h i : Nat)
  /-- SLOG1P (R257). A SLOG1P batch computes the signed LOG1P of |x|. -/
  | slog1p (h i : Nat)
  /-- MINMAX (R258). A MINMAX batch normalises with a parameter entry. -/
  | minmax (h i : Nat)
  /-- ZSCORE (R258). A ZSCORE batch normalises with a parameter entry. -/
  | zscore (h i : Nat)
  /-- STATS (R260). A STATS batch adds its rows to per-lane compensated sums. -/
  | stats (h i : Nat)
  /-- STATS_RECORD_EMIT (R261). Once every group member has passed END, the group merges totals and emits one statistics record. -/
  | statsRecordEmit (h i : Nat)
  /-- JOIN_BUILD (R275). A JOIN_BUILD batch inserts rows into the join table, spilling or faulting on overflow. -/
  | joinBuild (h i : Nat)
  /-- JOIN_PROBE (R276). A JOIN_PROBE batch finds matches and emits row pairs by KIND. -/
  | joinProbe (h i : Nat)
  /-- GROUP_KEY (R283). A GROUP_KEY batch assigns group ids, emitting first rows after END. -/
  | groupKey (h i : Nat)
  /-- GROUP_AGG (R284). A GROUP_AGG batch accumulates per group and emits one value per group after END. -/
  | groupAgg (h i : Nat)
  /-- SEQ_GATHER (R285). A SEQ_GATHER batch collects per-group sequences and emits values and lengths after END. -/
  | seqGather (h i : Nat)
  /-- TILE_MATMUL (R288). A TILE_MATMUL batch multiplies rows by the matrix in fixed order. -/
  | tileMatmul (h i : Nat)
  /-- EMBED_BAG (R290). An EMBED_BAG batch reduces bags of matrix rows. -/
  | embedBag (h i : Nat)
  /-- CROSS (R291). A CROSS batch forms outer products of row pairs. -/
  | cross (h i : Nat)
  /-- ONEHOT_MM (R292). A ONEHOT_MM batch outputs the matrix row named by each bucket. -/
  | onehotMm (h i : Nat)
  /-- DIV (R304). The Quotient function DIV divides elements. -/
  | div (h i : Nat)
  /-- RECIP (R304). The Quotient function RECIP takes reciprocals. -/
  | recip (h i : Nat)
  /-- SQRT (R304). The Quotient function SQRT takes square roots. -/
  | sqrt (h i : Nat)
  /-- RSQRT (R304). The Quotient function RSQRT takes reciprocal square roots. -/
  | rsqrt (h i : Nat)
  /-- SOLVE_SPD (R310). The Quotient function SOLVE_SPD solves one SPD system per row. -/
  | solveSpd (h i : Nat)
  /-- ZPARAM (R311). The Quotient function ZPARAM derives z-score entries from statistics records. -/
  | zparam (h i : Nat)
  /-- MMPARAM (R311). The Quotient function MMPARAM derives min-max entries from statistics records. -/
  | mmparam (h i : Nat)
  /-- SELECT_ROW (R322). A Select unit selects the top K of one row and commits its result record. -/
  | selectRow (h i : Nat)
  /-- ARBOUR_SCORE (R393). An Arbour MODE 0 batch scores rows through the ensemble and applies the link. -/
  | arbourScore (h i : Nat)
  /-- ARBOUR_LEAF_INDEX (R396). An Arbour MODE 1 batch emits the leaf id of each tree per row. -/
  | arbourLeafIndex (h i : Nat)
  /-- SAMPLE_SPLIT (R410). SAMPLE_SPLIT places each sample record in its lane hoop after checking its order. -/
  | sampleSplit (h i : Nat)
  /-- SAMPLE_MERGE (R411). SAMPLE_MERGE releases a sample once committed and all earlier samples are released. -/
  | sampleMerge (h i : Nat)
  /-- AUG_DRAW (R422). AUG_DRAW emits ChaCha8 draws for each record of an input slot. -/
  | augDraw (h i : Nat)
  /-- TRELLIS_JOB (R423). A Trellis unit checks a job, remaps every destination pixel and commits its record. -/
  | trellisJob (h i : Nat)
  /-- SHUFFLE_OUT (R485). A SHUFFLE_OUT batch sends rows to pieces and, at END, sends marks. -/
  | shuffleOut (h i : Nat)
  /-- STR_STAKE_SEL (R447). The CSR STR_STAKE_SEL selects a logical stake and counter. -/
  | strStakeSel (h k : Nat)
  /-- STR_SIGNAL (R447). STR_SIGNAL drains the store buffer and signals the selected counter. -/
  | strSignal (h k : Nat)
  /-- STR_WAIT (R447). STR_WAIT holds the core until the selected counter reaches the target. -/
  | strWait (h k : Nat)
  /-- STR_COUNT (R447). STR_COUNT returns the selected counter's value. -/
  | strCount (h k : Nat)
  /-- STR_HOOP_SEL (R447). The CSR STR_HOOP_SEL selects a hoop of the course. -/
  | strHoopSel (h k : Nat)
  /-- STR_HOOP_RESERVE (R447). STR_HOOP_RESERVE waits while full and reserves the next slot. -/
  | strHoopReserve (h k : Nat)
  /-- STR_HOOP_COMMIT (R447). STR_HOOP_COMMIT drains the store buffer and commits the oldest reserved slot. -/
  | strHoopCommit (h k : Nat)
  /-- STR_HOOP_ACQUIRE (R447). STR_HOOP_ACQUIRE acquires the oldest committed slot, waiting at empty unless CSRRW. -/
  | strHoopAcquire (h k : Nat)
  /-- STR_HOOP_LEN (R447). STR_HOOP_LEN returns the acquired slot's length and END. -/
  | strHoopLen (h k : Nat)
  /-- STR_HOOP_RELEASE (R447). STR_HOOP_RELEASE waits for loads and releases the oldest acquired slot. -/
  | strHoopRelease (h k : Nat)
  /-- STR_HOOP_STATE (R447). STR_HOOP_STATE returns the selected hoop's state. -/
  | strHoopState (h k : Nat)
  /-- STR_DRAW_STREAM (R447). The CSR STR_DRAW_STREAM sets the draw stream id. -/
  | strDrawStream (h k : Nat)
  /-- STR_DRAW_INDEX (R447). The CSR STR_DRAW_INDEX sets the sample index. -/
  | strDrawIndex (h k : Nat)
  /-- STR_DRAW (R421). STR_DRAW returns draw d of the selected stream and index. -/
  | strDraw (h k : Nat)
  /-- STR_BEAT (R447). STR_BEAT returns the beat at which the course started. -/
  | strBeat (h k : Nat)
  /-- STR_TASK_SEQ (R447). STR_TASK_SEQ returns the task's sequence number and epoch. -/
  | strTaskSeq (h k : Nat)
  /-- STR_SAMPLE_BASE (R447). STR_SAMPLE_BASE returns the task's SAMPLE_BASE. -/
  | strSampleBase (h k : Nat)
  /-- STR_ABORT (R447). STR_ABORT aborts the task with a tenant-defined cause. -/
  | strAbort (h k : Nat)
  /-- STRAND_MEMORY_ACCESS (R439). A Strand load, store or AMO is decoded by its address space and performed. -/
  | strandMemoryAccess (h k : Nat)
  /-- STRAND_INSTRUCTION (R450). A Strand core executes an ordinary instruction within its cycle bound. -/
  | strandInstruction (h k : Nat)
  /-- ROUTINE_END (R448). ECALL with a7 0 or a fetch from 0x1C000 ends the routine after the store buffer drains. -/
  | routineEnd (h k : Nat)
  /-- STRAND_TRAP (R449). Any other U-mode trap ends the routine with a Strand fault. -/
  | strandTrap (h k : Nat)
  /-- FRAME_RECEIVE (R463). An Ethernet frame is accepted or dropped on a port. -/
  | frameReceive (p : Nat) (frame : Bytes)
  /-- ARP_REQUEST (R463). An ARP request for the port's address is answered. -/
  | arpRequest (p : Nat) (mac ip target : Bytes)
  /-- NEIGHBOUR_SOLICITATION (R463). An IPv6 neighbour solicitation for the port's address is answered. -/
  | neighbourSolicitation (p : Nat) (mac ip target : Bytes)
  /-- PFC_PAUSE_RECEIVE (R464). A PFC pause on the RoCE priority is honoured. -/
  | pfcPauseReceive (p prio quanta : Nat)
  /-- RDMA_WRITE_RECEIVE (R473). A peer's RDMA WRITE to a region or staging window is served, discarded or NAKed. -/
  | rdmaWriteReceive (k : Pkt) (rkey addr : Nat) (data : Bytes) (first : Bool)
  /-- RDMA_READ_RECEIVE (R473). A peer's RDMA READ of a region is served or NAKed. -/
  | rdmaReadReceive (k : Pkt) (rkey addr len : Nat)
  /-- SEND_RECEIVE (R481). A SEND carrying a staging mark is applied or discarded. -/
  | sendReceive (k : Pkt) (data : Bytes)
  /-- ATOMIC_RECEIVE (R463). A RoCE atomic request is answered with NAK invalid request. -/
  | atomicReceive (k : Pkt)
  /-- ACK_RECEIVE (R477). An acknowledgement frees acknowledged bytes from transmit staging. -/
  | ackReceive (t q psn : Nat)
  /-- NAK_RECEIVE (R471). A NAK other than RNR moves the queue pair to ERR; an RNR NAK is retried. -/
  | nakReceive (t q psn : Nat) (rnr : Bool)
  /-- RETRANSMIT_TIMEOUT (R471). A queue pair's retransmission timer expires, retrying go-back-N or moving to ERR on exhaustion. -/
  | retransmitTimeout (t q : Nat)
  /-- CNP_RECEIVE (R469). A CNP lowers the queue pair's rate and raises alpha. -/
  | cnpReceive (t q : Nat)
  /-- ALPHA_TIMER (R469). ALPHA_TIMER expiry without a CNP decays alpha. -/
  | alphaTimer (t q : Nat)
  /-- RATE_TIMER (R469). RATE_TIMER expiry, or BYTE_STEP bytes sent, raises the queue pair's rate. -/
  | rateTimer (t q : Nat) (byBytes : Bool)
  /-- NET_LINK_DOWN (R495). A network port loses link and NET_PORT_STATUS.LINK clears. -/
  | netLinkDown (p : Nat)
  /-- NET_LINK_UP (R496). A network port's link comes up. -/
  | netLinkUp (p : Nat)
  /-- SENSOR_DATAGRAM (R414). A sensor datagram is reassembled and a completed frame is judged and placed in staging. -/
  | sensorDatagram (p udp : Nat) (d : Bytes) (ptp : Nat)
  /-- SENSOR_FRAME_STALE (R415). An incomplete frame whose age exceeds the staleness limit is dropped. -/
  | sensorFrameStale (h i ptp : Nat)
  /-- JTAG_BYPASS (R676). The JTAG instruction BYPASS is loaded. -/
  | jtagBypass
  /-- JTAG_IDCODE (R676). The JTAG instruction IDCODE returns the device identity. -/
  | jtagIdcode
  /-- JTAG_SAMPLE_PRELOAD (R676). The JTAG instruction SAMPLE/PRELOAD is loaded. -/
  | jtagSamplePreload
  /-- JTAG_EXTEST (R677). Loading EXTEST holds every function in reset until the next power cycle. -/
  | jtagExtest
  /-- JTAG_CLAMP (R677). Loading CLAMP holds every function in reset until the next power cycle. -/
  | jtagClamp
  /-- LONG_COMMAND_COMPLETE (R585). A running long mailbox command such as ROTA_ADMIT, TEN_DESTROY or an IMG command finishes, writes its result and sends PF0 vector 0. -/
  | longCommandComplete (back : Option Bytes)
  /-- PLDM_TYPE_0_MESSAGE (R594). A PLDM type 0 base message under DSP0240 is received and answered. -/
  | pldmType0Message (chan : Channel) (inst cmd arg : Nat)
  /-- OSFP_MODULE_PRESENCE (R496). The OSFP_PRS_N line of a cage changes as a module is inserted or removed, and the device re-reads the module type into MEDIA and the cage temperature reading. -/
  | osfpModulePresence (p media : Nat)
  deriving DecidableEq, Repr

end Sys2Proof
end

