-- ==== Sys2Proof/Machine/Registers.lean ====
section
/-! DEFINITION. Where each register lies and how its fields may be written: spec/23_register_map.md, Tables 23-1 to 23-4, and the
register tables of the chapters named at each. A name beginning with r is an offset in PF0 BAR0 (R652), one beginning with v an offset in a
VF's BAR0 (R653). -/

namespace Sys2Proof.Machine

/-- A writable register, or an array of them: base, stride and count, the bits of access code RW, the bits of access code W1C,
and whether a write goes to the shadow set (Table 0-4, R657). -/
structure RegDesc where
  base : Nat
  stride : Nat
  count : Nat
  rw : Nat
  w1c : Nat
  shadow : Bool
  deriving DecidableEq, Repr

/-- LODGE_CAP_ID, Table 1-8. -/
def rLodgeCapId : Nat := 0x0

/-- LODGE_CAP_COUNT_A, Table 1-8. -/
def rLodgeCapCountA : Nat := 0x4

/-- LODGE_CAP_COUNT_B, Table 1-8. -/
def rLodgeCapCountB : Nat := 0x8

/-- LODGE_CAP_MEM, Table 1-8. -/
def rLodgeCapMem : Nat := 0xC

/-- LODGE_CAP_WEAVE_MAP, Table 1-8. -/
def rLodgeCapWeaveMap : Nat := 0x10

/-- LODGE_CAP_SIDE_MAP, Table 1-8. -/
def rLodgeCapSideMap : Nat := 0x14

/-- LODGE_CAP_WEAVE_IMG, Table 1-8. -/
def rLodgeCapWeaveImg : Nat := 0x18

/-- LODGE_CAP_WEAVE_BIST, Table 1-8. -/
def rLodgeCapWeaveBist : Nat := 0x1C

/-- LODGE_CAP_SIDE_IMG, Table 1-8. -/
def rLodgeCapSideImg : Nat := 0x20

/-- LODGE_CAP_SIDE_BIST, Table 1-8. -/
def rLodgeCapSideBist : Nat := 0x24

/-- LODGE_CAP_LIMITS, Table 1-8. -/
def rLodgeCapLimits : Nat := 0x28

/-- LODGE_CAP_LIMITS_B, Table 1-8. -/
def rLodgeCapLimitsB : Nat := 0x2C

/-- LODGE_CAP_CLOCKS, Table 1-8. -/
def rLodgeCapClocks : Nat := 0x30

/-- LODGE_CAP_STATE, Table 1-8. -/
def rLodgeCapState : Nat := 0x34

/-- BEAT_CTRL, Table 2-9. -/
def rBeatCtrl : Nat := 0x1000

/-- BEAT_SRC_ORDER, Table 2-9. -/
def rBeatSrcOrder : Nat := 0x1004

/-- BEAT_PERIOD_NS (64-bit pair, low word), Table 2-9. -/
def rBeatPeriodNs : Nat := 0x1008

/-- BEAT_MAX_PERIOD_NS (64-bit pair, low word), Table 2-9. -/
def rBeatMaxPeriodNs : Nat := 0x1010

/-- BEAT_EPOCH_NS, Table 2-9. -/
def rBeatEpochNs : Nat := 0x1018

/-- BEAT_EPOCH_SEC (64-bit pair, low word), Table 2-9. -/
def rBeatEpochSec : Nat := 0x101C

/-- BEAT_SHORT_TOL_NS, Table 2-9. -/
def rBeatShortTolNs : Nat := 0x1024

/-- BEAT_HOLDOVER_MS, Table 2-9. -/
def rBeatHoldoverMs : Nat := 0x1028

/-- BEAT_STATUS, Table 2-9. -/
def rBeatStatus : Nat := 0x102C

/-- BEAT_NUMBER (64-bit pair, low word), Table 2-9. -/
def rBeatNumber : Nat := 0x1030

/-- BEAT_PHASE, Table 2-9. -/
def rBeatPhase : Nat := 0x1038

/-- BEAT_MEAS_PERIOD_NS (64-bit pair, low word), Table 2-9. -/
def rBeatMeasPeriodNs : Nat := 0x103C

/-- BEAT_EVENT, Table 2-9. -/
def rBeatEvent : Nat := 0x1044

/-- BEAT_SHORT_CNT, Table 2-9. -/
def rBeatShortCnt : Nat := 0x1048

/-- BEAT_SKIP_CNT, Table 2-9. -/
def rBeatSkipCnt : Nat := 0x104C

/-- BEAT_LOST_CNT, Table 2-9. -/
def rBeatLostCnt : Nat := 0x1050

/-- BEAT_DOORBELL, Table 2-9. -/
def rBeatDoorbell : Nat := 0x1054

/-- BEAT_MIN_ADMITTED_NS (64-bit pair, low word), Table 2-9. -/
def rBeatMinAdmittedNs : Nat := 0x1058

/-- BEAT_T_SLIP_CNT, Table 2-10. -/
def vBeatTSlipCnt : Nat := 0x1000

/-- BEAT_T_LATE_DROP_CNT, Table 2-10. -/
def vBeatTLateDropCnt : Nat := 0x1004

/-- BEAT_T_ABSENT_CNT, Table 2-10. -/
def vBeatTAbsentCnt : Nat := 0x1008

/-- BEAT_T_REPEAT_CNT, Table 2-10. -/
def vBeatTRepeatCnt : Nat := 0x100C

/-- BEAT_T_SLIP_ABORT_CNT, Table 2-10. -/
def vBeatTSlipAbortCnt : Nat := 0x1010

/-- BEAT_T_LAST_SEQ, Table 2-10. -/
def vBeatTLastSeq : Nat := 0x1014

/-- BEAT_T_STATUS, Table 2-10. -/
def vBeatTStatus : Nat := 0x1020

/-- BEAT_T_NUMBER (64-bit pair, low word), Table 2-10. -/
def vBeatTNumber : Nat := 0x1024

/-- BEAT_T_PHASE, Table 2-10. -/
def vBeatTPhase : Nat := 0x102C

/-- ADM_GUARD_BP, Table 3-14. -/
def rAdmGuardBp : Nat := 0x2000

/-- ADM_WINDOW_PHASE, Table 3-14. -/
def rAdmWindowPhase : Nat := 0x2004

/-- ADM_HBM_DERATE_PCT, Table 3-14. -/
def rAdmHbmDeratePct : Nat := 0x2008

/-- ADM_POWER_BUDGET_W, Table 3-14. -/
def rAdmPowerBudgetW : Nat := 0x200C

/-- ADM_POWER_AVAIL_W, Table 3-14. -/
def rAdmPowerAvailW : Nat := 0x2010

/-- ADM_POWER_USED_W, Table 3-14. -/
def rAdmPowerUsedW : Nat := 0x2014

/-- ADM_ROTA_CNT, Table 3-14. -/
def rAdmRotaCnt : Nat := 0x2018

/-- CFG_COMMIT, Table 3-14. -/
def rCfgCommit : Nat := 0x2040

/-- CFG_STATUS, Table 3-14. -/
def rCfgStatus : Nat := 0x2044

/-- CFG_APPLY_BEAT (64-bit pair, low word), Table 3-14. -/
def rCfgApplyBeat : Nat := 0x2048

/-- CFG_REPLACED_CNT, Table 3-14. -/
def rCfgReplacedCnt : Nat := 0x2050

/-- ROTA_T_ACCEPT_CNT, Table 3-15. -/
def vRotaTAcceptCnt : Nat := 0x2000

/-- ROTA_T_LATE_ASSIGN_CNT, Table 3-15. -/
def vRotaTLateAssignCnt : Nat := 0x2004

/-- ROTA_T_REJECT_CNT, Table 3-15. -/
def vRotaTRejectCnt : Nat := 0x2008

/-- ROTA_T_LAST_REJECT, Table 3-15. -/
def vRotaTLastReject : Nat := 0x200C

/-- ROTA_T_OVERRUN_CNT, Table 3-15. -/
def vRotaTOverrunCnt : Nat := 0x2010

/-- ROTA_T_WAITING, Table 3-15. -/
def vRotaTWaiting : Nat := 0x2014

/-- MEM_ZERO_SHARE, Table 4-5. -/
def rMemZeroShare : Nat := 0x3000

/-- MEM_ZERO_STATUS, Table 4-5. -/
def rMemZeroStatus : Nat := 0x3004

/-- MEM_FREE, Table 4-5. -/
def rMemFree : Nat := 0x3008

/-- MEM_HBM_CE_CNT, Table 4-5. -/
def rMemHbmCeCnt : Nat := 0x300C

/-- MEM_HBM_UE_CNT, Table 4-5. -/
def rMemHbmUeCnt : Nat := 0x3010

/-- ORY_CE_CNT, Table 4-5. -/
def rOryCeCnt : Nat := 0x3014

/-- ORY_UE_CNT, Table 4-5. -/
def rOryUeCnt : Nat := 0x3018

/-- MEM_UE_LAST, Table 4-5. -/
def rMemUeLast : Nat := 0x301C

/-- MEM_TEN_FILL (stride 8), Table 4-5. -/
def rMemTenFill : Nat := 0x3100

/-- MEM_TEN_CTRL (stride 8), Table 4-5. -/
def rMemTenCtrl : Nat := 0x3104

/-- MEM_T_HBM_SIZE, Table 4-6. -/
def vMemTHbmSize : Nat := 0x3000

/-- MEM_T_ORY_SIZE, Table 4-6. -/
def vMemTOrySize : Nat := 0x3004

/-- MEM_T_FILL, Table 4-6. -/
def vMemTFill : Nat := 0x3008

/-- MEM_T_CTRL, Table 4-6. -/
def vMemTCtrl : Nat := 0x300C

/-- ORY_INIT_CNT, Table 4-6. -/
def vOryInitCnt : Nat := 0x3010

/-- MEM_T_UPD_HANDLE, Table 4-6. -/
def vMemTUpdHandle : Nat := 0x3020

/-- MEM_T_UPD_TABLE, Table 4-6. -/
def vMemTUpdTable : Nat := 0x3024

/-- MEM_T_UPD_SRC (64-bit pair, low word), Table 4-6. -/
def vMemTUpdSrc : Nat := 0x3028

/-- MEM_T_UPD_GO, Table 4-6. -/
def vMemTUpdGo : Nat := 0x3030

/-- MEM_T_UPD_STATUS, Table 4-6. -/
def vMemTUpdStatus : Nat := 0x3034

/-- MEM_T_UPD_GEN, Table 4-6. -/
def vMemTUpdGen : Nat := 0x3038

/-- MEM_T_UPD_REPLACED_CNT, Table 4-6. -/
def vMemTUpdReplacedCnt : Nat := 0x303C

/-- STRM_CTX_FREE, Table 5-8. -/
def rStrmCtxFree : Nat := 0x4000

/-- HOOP_FREE, Table 5-8. -/
def rHoopFree : Nat := 0x4004

/-- STRM_T_RD_BYTES (64-bit pair, low word), Table 5-9. -/
def vStrmTRdBytes : Nat := 0x4000

/-- STRM_T_WR_BYTES (64-bit pair, low word), Table 5-9. -/
def vStrmTWrBytes : Nat := 0x4008

/-- STRM_T_FULL_WAIT (64-bit pair, low word), Table 5-9. -/
def vStrmTFullWait : Nat := 0x4010

/-- STRM_T_REARM_CNT, Table 5-9. -/
def vStrmTRearmCnt : Nat := 0x4018

/-- STRM_T_NULL_INDEX_CNT, Table 5-9. -/
def vStrmTNullIndexCnt : Nat := 0x401C

/-- STRM_T_GATE_WAIT_CNT, Table 5-9. -/
def vStrmTGateWaitCnt : Nat := 0x4020

/-- STRM_T_LAST_ERR, Table 5-9. -/
def vStrmTLastErr : Nat := 0x4024

/-- HOOP_SEL_HANDLE, Table 5-9. -/
def vHoopSelHandle : Nat := 0x4030

/-- HOOP_SEL, Table 5-9. -/
def vHoopSel : Nat := 0x4034

/-- HOOP_HEAD, Table 5-9. -/
def vHoopHead : Nat := 0x4038

/-- HOOP_TAIL, Table 5-9. -/
def vHoopTail : Nat := 0x403C

/-- HOOP_RSV, Table 5-9. -/
def vHoopRsv : Nat := 0x4040

/-- HOOP_STATE, Table 5-9. -/
def vHoopState : Nat := 0x4044

/-- BW_CLASS_SPLIT, Table 6-6. -/
def rBwClassSplit : Nat := 0x5000

/-- BW_BUCKET_DEPTH, Table 6-6. -/
def rBwBucketDepth : Nat := 0x5004

/-- BW_GRANT_FREE_A, Table 6-6. -/
def rBwGrantFreeA : Nat := 0x5008

/-- BW_GRANT_FREE_B, Table 6-6. -/
def rBwGrantFreeB : Nat := 0x500C

/-- STAKE_QUOTA_DEFAULT, Table 6-6. -/
def rStakeQuotaDefault : Nat := 0x5010

/-- STAKE_FREE, Table 6-6. -/
def rStakeFree : Nat := 0x5014

/-- BW_TEN_GRANT_A (stride 16), Table 6-6. -/
def rBwTenGrantA : Nat := 0x5100

/-- BW_TEN_GRANT_B (stride 16), Table 6-6. -/
def rBwTenGrantB : Nat := 0x5104

/-- STAKE_TEN_QUOTA (stride 16), Table 6-6. -/
def rStakeTenQuota : Nat := 0x5108

/-- BW_T_GRANT_A, Table 6-7. -/
def vBwTGrantA : Nat := 0x5000

/-- BW_T_GRANT_B, Table 6-7. -/
def vBwTGrantB : Nat := 0x5004

/-- BW_T_SPARE_A, Table 6-7. -/
def vBwTSpareA : Nat := 0x5008

/-- BW_T_SPARE_B, Table 6-7. -/
def vBwTSpareB : Nat := 0x500C

/-- BW_T_TOKEN_WAIT (64-bit pair, low word), Table 6-7. -/
def vBwTTokenWait : Nat := 0x5010

/-- BW_T_REMOTE_BYTES (64-bit pair, low word), Table 6-7. -/
def vBwTRemoteBytes : Nat := 0x5018

/-- STAKE_T_QUOTA, Table 6-7. -/
def vStakeTQuota : Nat := 0x5020

/-- STAKE_T_FAULT_CNT, Table 6-7. -/
def vStakeTFaultCnt : Nat := 0x5024

/-- STAKE_T_LAST_ERR, Table 6-7. -/
def vStakeTLastErr : Nat := 0x5028

/-- STAKE_SEL_HANDLE, Table 6-7. -/
def vStakeSelHandle : Nat := 0x5030

/-- STAKE_SEL, Table 6-7. -/
def vStakeSel : Nat := 0x5034

/-- STAKE_FULL, Table 6-7. -/
def vStakeFull : Nat := 0x5038

/-- STAKE_EMPTY, Table 6-7. -/
def vStakeEmpty : Nat := 0x503C

/-- STAKE_PHYS, Table 6-7. -/
def vStakePhys : Nat := 0x5040

/-- WEAVE_T_ROWS_DROPPED (64-bit pair, low word), Table 7-11. -/
def vWeaveTRowsDropped : Nat := 0x6000

/-- WEAVE_T_NAN_IN_CNT, Table 7-11. -/
def vWeaveTNanInCnt : Nat := 0x6008

/-- WEAVE_T_SPECIAL_CNT, Table 7-11. -/
def vWeaveTSpecialCnt : Nat := 0x600C

/-- WEAVE_T_CLIP_CNT, Table 7-11. -/
def vWeaveTClipCnt : Nat := 0x6010

/-- WEAVE_T_DOMAIN_CNT, Table 7-11. -/
def vWeaveTDomainCnt : Nat := 0x6014

/-- WEAVE_T_FAULT_CNT, Table 7-11. -/
def vWeaveTFaultCnt : Nat := 0x6018

/-- WEAVE_T_LAST_ERR, Table 7-11. -/
def vWeaveTLastErr : Nat := 0x601C

/-- WEAVE_T_JOIN_MATCH (64-bit pair, low word), Table 8-10. -/
def vWeaveTJoinMatch : Nat := 0x7000

/-- WEAVE_T_JOIN_NULL_KEY_CNT, Table 8-10. -/
def vWeaveTJoinNullKeyCnt : Nat := 0x7008

/-- WEAVE_T_SPILL_PART_CNT, Table 8-10. -/
def vWeaveTSpillPartCnt : Nat := 0x700C

/-- WEAVE_T_AGG_WRAP_CNT, Table 8-10. -/
def vWeaveTAggWrapCnt : Nat := 0x7010

/-- WEAVE_T_SEQ_TRUNC_CNT, Table 8-10. -/
def vWeaveTSeqTruncCnt : Nat := 0x7014

/-- WEAVE_T_TILE_NAN_CNT, Table 8-10. -/
def vWeaveTTileNanCnt : Nat := 0x7018

/-- WEAVE_T_BAG_EMPTY_CNT, Table 8-10. -/
def vWeaveTBagEmptyCnt : Nat := 0x701C

/-- WEAVE_T_BAG_NULL_IDX_CNT, Table 8-10. -/
def vWeaveTBagNullIdxCnt : Nat := 0x7020

/-- QUO_T_NAN_INPUT_CNT, Table 9-8. -/
def vQuoTNanInputCnt : Nat := 0x8000

/-- QUO_T_ZERO_VAR_CNT, Table 9-8. -/
def vQuoTZeroVarCnt : Nat := 0x8004

/-- QUO_T_PIVOT_CNT, Table 9-8. -/
def vQuoTPivotCnt : Nat := 0x8008

/-- QUO_T_NEG_SQRT_CNT, Table 9-8. -/
def vQuoTNegSqrtCnt : Nat := 0x800C

/-- QUO_T_INVALID_CNT, Table 9-8. -/
def vQuoTInvalidCnt : Nat := 0x8010

/-- QUO_T_EMPTY_CNT, Table 9-8. -/
def vQuoTEmptyCnt : Nat := 0x8014

/-- QUO_T_NONFINITE_CNT, Table 9-8. -/
def vQuoTNonfiniteCnt : Nat := 0x8018

/-- QUO_T_DIVZERO_CNT, Table 9-8. -/
def vQuoTDivzeroCnt : Nat := 0x8020

/-- QUO_T_SOLVE_CNT, Table 9-8. -/
def vQuoTSolveCnt : Nat := 0x8024

/-- QUO_T_FAULT_CNT, Table 9-8. -/
def vQuoTFaultCnt : Nat := 0x8028

/-- QUO_T_LAST_ERR, Table 9-8. -/
def vQuoTLastErr : Nat := 0x802C

/-- SEL_T_ROWS (64-bit pair, low word), Table 10-8. -/
def vSelTRows : Nat := 0x9000

/-- SEL_T_NAN_CNT, Table 10-8. -/
def vSelTNanCnt : Nat := 0x9008

/-- SEL_T_NULL_CNT, Table 10-8. -/
def vSelTNullCnt : Nat := 0x900C

/-- SEL_T_TIE_CNT, Table 10-8. -/
def vSelTTieCnt : Nat := 0x9010

/-- SEL_T_SHORT_CNT, Table 10-8. -/
def vSelTShortCnt : Nat := 0x9014

/-- SEL_T_FAULT_CNT, Table 10-8. -/
def vSelTFaultCnt : Nat := 0x9018

/-- SEL_T_LAST_ERR, Table 10-8. -/
def vSelTLastErr : Nat := 0x901C

/-- COIL_CTX_FREE, Table 11-9. -/
def rCoilCtxFree : Nat := 0x6000

/-- COIL_T_DEC_FRAMES (64-bit pair, low word), Table 11-10. -/
def vCoilTDecFrames : Nat := 0xA000

/-- COIL_T_DEC_BYTES (64-bit pair, low word), Table 11-10. -/
def vCoilTDecBytes : Nat := 0xA008

/-- COIL_T_ENC_FRAMES (64-bit pair, low word), Table 11-10. -/
def vCoilTEncFrames : Nat := 0xA010

/-- COIL_T_ENC_BYTES (64-bit pair, low word), Table 11-10. -/
def vCoilTEncBytes : Nat := 0xA018

/-- COIL_T_DYN_CNT, Table 11-10. -/
def vCoilTDynCnt : Nat := 0xA020

/-- COIL_T_FAULT_CNT, Table 11-10. -/
def vCoilTFaultCnt : Nat := 0xA024

/-- COIL_T_LAST_ERR, Table 11-10. -/
def vCoilTLastErr : Nat := 0xA028

/-- COIL_T_LAST_POS (64-bit pair, low word), Table 11-10. -/
def vCoilTLastPos : Nat := 0xA030

/-- COIL_T_CTX_HANDLE, Table 11-10. -/
def vCoilTCtxHandle : Nat := 0xA040

/-- COIL_T_CTX_STREAM, Table 11-10. -/
def vCoilTCtxStream : Nat := 0xA044

/-- COIL_T_CTX_ADDR (64-bit pair, low word), Table 11-10. -/
def vCoilTCtxAddr : Nat := 0xA048

/-- COIL_T_CTX_GO, Table 11-10. -/
def vCoilTCtxGo : Nat := 0xA050

/-- COIL_T_CTX_STATUS, Table 11-10. -/
def vCoilTCtxStatus : Nat := 0xA054

/-- LAY_T_RUNS (64-bit pair, low word), Table 12-8. -/
def vLayTRuns : Nat := 0xB000

/-- LAY_T_EXTRA_BYTES (64-bit pair, low word), Table 12-8. -/
def vLayTExtraBytes : Nat := 0xB008

/-- LAY_T_UNPACKED (64-bit pair, low word), Table 12-8. -/
def vLayTUnpacked : Nat := 0xB010

/-- LAY_T_NAN_CNT, Table 12-8. -/
def vLayTNanCnt : Nat := 0xB018

/-- LAY_T_LAST_CAUSE, Table 12-8. -/
def vLayTLastCause : Nat := 0xB01C

/-- LAY_T_LAST_STREAM, Table 12-8. -/
def vLayTLastStream : Nat := 0xB020

/-- ARB_T_ROWS (64-bit pair, low word), Table 13-7. -/
def vArbTRows : Nat := 0xC000

/-- ARB_T_MISSING_CNT, Table 13-7. -/
def vArbTMissingCnt : Nat := 0xC008

/-- ARB_T_NAN_OUT_CNT, Table 13-7. -/
def vArbTNanOutCnt : Nat := 0xC00C

/-- ARB_T_FAULT_CNT, Table 13-7. -/
def vArbTFaultCnt : Nat := 0xC010

/-- ARB_T_LAST_ERR, Table 13-7. -/
def vArbTLastErr : Nat := 0xC014

/-- ARB_T_LAST_NODE, Table 13-7. -/
def vArbTLastNode : Nat := 0xC018

/-- ARB_T_LAST_TREE, Table 13-7. -/
def vArbTLastTree : Nat := 0xC01C

/-- NET_TEN_SENSOR_STALE_US (stride 4), Table 14-13. -/
def rNetTenSensorStaleUs : Nat := 0x7000

/-- WEAVE_T_SAMPLE (64-bit pair, low word), Table 14-14. -/
def vWeaveTSample : Nat := 0xD000

/-- WEAVE_T_SAMPLE_ABORT_CNT, Table 14-14. -/
def vWeaveTSampleAbortCnt : Nat := 0xD008

/-- NET_T_SENSOR_FRAME_CNT, Table 14-14. -/
def vNetTSensorFrameCnt : Nat := 0xD00C

/-- NET_T_SENSOR_STALE_CNT, Table 14-14. -/
def vNetTSensorStaleCnt : Nat := 0xD010

/-- NET_T_SENSOR_LATE_CNT, Table 14-14. -/
def vNetTSensorLateCnt : Nat := 0xD014

/-- NET_T_SENSOR_DUP_CNT, Table 14-14. -/
def vNetTSensorDupCnt : Nat := 0xD018

/-- NET_T_SENSOR_BAD_CNT, Table 14-14. -/
def vNetTSensorBadCnt : Nat := 0xD01C

/-- NET_T_SENSOR_OVERRUN_CNT, Table 14-14. -/
def vNetTSensorOverrunCnt : Nat := 0xD020

/-- NET_T_SENSOR_UNUSED_CNT, Table 14-14. -/
def vNetTSensorUnusedCnt : Nat := 0xD024

/-- NET_T_SENSOR_ABSENT_CNT, Table 14-14. -/
def vNetTSensorAbsentCnt : Nat := 0xD028

/-- NET_T_STALE_US, Table 14-14. -/
def vNetTStaleUs : Nat := 0xD02C

/-- TRL_T_PIXELS (64-bit pair, low word), Table 14-14. -/
def vTrlTPixels : Nat := 0xD030

/-- TRL_T_NONFINITE_CNT, Table 14-14. -/
def vTrlTNonfiniteCnt : Nat := 0xD038

/-- TRL_T_TOO_LARGE_CNT, Table 14-14. -/
def vTrlTTooLargeCnt : Nat := 0xD03C

/-- TRL_T_FAULT_CNT, Table 14-14. -/
def vTrlTFaultCnt : Nat := 0xD040

/-- TRL_T_LAST_ERR, Table 14-14. -/
def vTrlTLastErr : Nat := 0xD044

/-- STR_FW_VERSION, Table 15-10. -/
def rStrFwVersion : Nat := 0x8000

/-- STR_FW_STATE, Table 15-10. -/
def rStrFwState : Nat := 0x8004

/-- STR_T_ROUTINE_CNT, Table 15-11. -/
def vStrTRoutineCnt : Nat := 0xE000

/-- STR_T_FAULT_CNT, Table 15-11. -/
def vStrTFaultCnt : Nat := 0xE004

/-- STR_T_ABORT_CNT, Table 15-11. -/
def vStrTAbortCnt : Nat := 0xE008

/-- STR_T_LAST_ERR, Table 15-11. -/
def vStrTLastErr : Nat := 0xE00C

/-- STR_T_LAST_PC (64-bit pair, low word), Table 15-11. -/
def vStrTLastPc : Nat := 0xE010

/-- STR_T_LAST_TVAL (64-bit pair, low word), Table 15-11. -/
def vStrTLastTval : Nat := 0xE018

/-- STR_T_INSTRET (64-bit pair, low word), Table 15-11. -/
def vStrTInstret : Nat := 0xE020

/-- NET_PORT_CTRL (stride 256), Table 16-9. -/
def rNetPortCtrl : Nat := 0x9000

/-- NET_PORT_STATUS (stride 256), Table 16-9. -/
def rNetPortStatus : Nat := 0x9004

/-- NET_PORT_MAC (64-bit pair, low word) (stride 256), Table 16-9. -/
def rNetPortMac : Nat := 0x9008

/-- NET_PORT_IPV4 (stride 256), Table 16-9. -/
def rNetPortIpv4 : Nat := 0x9010

/-- NET_PORT_IPV6 (stride 256), Table 16-9. -/
def rNetPortIpv6 : Nat := 0x9014

/-- NET_PORT_ASYM_NS (stride 256), Table 16-9. -/
def rNetPortAsymNs : Nat := 0x9024

/-- NET_PORT_DROP_CNT (stride 256), Table 16-9. -/
def rNetPortDropCnt : Nat := 0x9028

/-- NET_PORT_RX_FULL_CNT (stride 256), Table 16-9. -/
def rNetPortRxFullCnt : Nat := 0x902C

/-- NET_PORT_CNP_CNT (stride 256), Table 16-9. -/
def rNetPortCnpCnt : Nat := 0x9030

/-- NET_PTP_CTRL, Table 16-9. -/
def rNetPtpCtrl : Nat := 0x9400

/-- NET_PTP_STATUS, Table 16-9. -/
def rNetPtpStatus : Nat := 0x9404

/-- NET_PTP_OFFSET_NS, Table 16-9. -/
def rNetPtpOffsetNs : Nat := 0x9408

/-- NET_PTP_PPS_OFFSET_NS, Table 16-9. -/
def rNetPtpPpsOffsetNs : Nat := 0x940C

/-- NET_PTP_LOCK_NS, Table 16-9. -/
def rNetPtpLockNs : Nat := 0x9410

/-- NET_PTP_STEP_NS, Table 16-9. -/
def rNetPtpStepNs : Nat := 0x9414

/-- NET_CC_PARAM (stride 4), Table 16-9. -/
def rNetCcParam : Nat := 0x9420

/-- NET_T_QP_QUOTA, Table 16-10. -/
def vNetTQpQuota : Nat := 0xF000

/-- NET_T_QP_SEL, Table 16-10. -/
def vNetTQpSel : Nat := 0xF004

/-- NET_T_QP_CMD, Table 16-10. -/
def vNetTQpCmd : Nat := 0xF008

/-- NET_T_QP_STATUS, Table 16-10. -/
def vNetTQpStatus : Nat := 0xF00C

/-- NET_T_QP_CTX (stride 4), Table 16-10. -/
def vNetTQpCtx : Nat := 0xF010

/-- NET_T_MR_SEL, Table 16-10. -/
def vNetTMrSel : Nat := 0xF050

/-- NET_T_MR_BASE (64-bit pair, low word), Table 16-10. -/
def vNetTMrBase : Nat := 0xF054

/-- NET_T_MR_LEN (64-bit pair, low word), Table 16-10. -/
def vNetTMrLen : Nat := 0xF05C

/-- NET_T_MR_CTRL, Table 16-10. -/
def vNetTMrCtrl : Nat := 0xF064

/-- NET_T_MR_STATUS, Table 16-10. -/
def vNetTMrStatus : Nat := 0xF068

/-- NET_T_TX_BYTES (64-bit pair, low word), Table 16-10. -/
def vNetTTxBytes : Nat := 0xF070

/-- NET_T_RX_BYTES (64-bit pair, low word), Table 16-10. -/
def vNetTRxBytes : Nat := 0xF078

/-- NET_T_QP_ERR_CNT, Table 16-10. -/
def vNetTQpErrCnt : Nat := 0xF080

/-- NET_T_RACC_ERR_CNT, Table 16-10. -/
def vNetTRaccErrCnt : Nat := 0xF084

/-- NET_T_PEER_DISCARD_CNT, Table 16-10. -/
def vNetTPeerDiscardCnt : Nat := 0xF088

/-- NET_T_TX_DISCARD_CNT, Table 16-10. -/
def vNetTTxDiscardCnt : Nat := 0xF08C

/-- NET_T_SHUF_DROP_CNT, Table 16-10. -/
def vNetTShufDropCnt : Nat := 0xF090

/-- NET_T_FAULT_CNT, Table 16-10. -/
def vNetTFaultCnt : Nat := 0xF094

/-- NET_T_LAST_ERR, Table 16-10. -/
def vNetTLastErr : Nat := 0xF098

/-- HOST_LINK_STATUS, Table 17-8. -/
def rHostLinkStatus : Nat := 0xA000

/-- HOST_EVENT, Table 17-8. -/
def rHostEvent : Nat := 0xA004

/-- HOST_STATE, Table 17-8. -/
def rHostState : Nat := 0xA008

/-- HOST_LINK_DOWN_CNT, Table 17-8. -/
def rHostLinkDownCnt : Nat := 0xA00C

/-- HOST_ATS_INV_CNT, Table 17-8. -/
def rHostAtsInvCnt : Nat := 0xA010

/-- HOST_TEN_PASID (stride 4), Table 17-8. -/
def rHostTenPasid : Nat := 0xA100

/-- HOST_T_Q_SEL, Table 17-9. -/
def vHostTQSel : Nat := 0x10000

/-- HOST_T_SQ_BASE (64-bit pair, low word), Table 17-9. -/
def vHostTSqBase : Nat := 0x10004

/-- HOST_T_CQ_BASE (64-bit pair, low word), Table 17-9. -/
def vHostTCqBase : Nat := 0x1000C

/-- HOST_T_Q_SIZE, Table 17-9. -/
def vHostTQSize : Nat := 0x10014

/-- HOST_T_Q_CTRL, Table 17-9. -/
def vHostTQCtrl : Nat := 0x10018

/-- HOST_T_Q_STATUS, Table 17-9. -/
def vHostTQStatus : Nat := 0x1001C

/-- HOST_T_SQ_HEAD, Table 17-9. -/
def vHostTSqHead : Nat := 0x10020

/-- HOST_T_CQ_TAIL, Table 17-9. -/
def vHostTCqTail : Nat := 0x10024

/-- HOST_T_STATE, Table 17-9. -/
def vHostTState : Nat := 0x10028

/-- HOST_T_FAULT_CNT, Table 17-9. -/
def vHostTFaultCnt : Nat := 0x1002C

/-- HOST_T_XLATE_FAULT_CNT, Table 17-9. -/
def vHostTXlateFaultCnt : Nat := 0x10030

/-- HOST_T_REC_DROP_CNT, Table 17-9. -/
def vHostTRecDropCnt : Nat := 0x10034

/-- HOST_T_LAST_ERR, Table 17-9. -/
def vHostTLastErr : Nat := 0x10038

/-- HOST_T_LAST_ADDR (64-bit pair, low word), Table 17-9. -/
def vHostTLastAddr : Nat := 0x10040

/-- HOST_T_SQ_TAIL_DB (stride 8), Table 17-10. -/
def vHostTSqTailDb : Nat := 0x3F000

/-- HOST_T_CQ_HEAD_DB (stride 8), Table 17-10. -/
def vHostTCqHeadDb : Nat := 0x3F004

/-- TEN_SEL, Table 18-6. -/
def rTenSel : Nat := 0xB000

/-- TEN_STATE, Table 18-6. -/
def rTenState : Nat := 0xB004

/-- TEN_WIN_INST, Table 18-6. -/
def rTenWinInst : Nat := 0xB008

/-- TEN_WIN_MASK (64-bit pair, low word), Table 18-6. -/
def rTenWinMask : Nat := 0xB00C

/-- TEN_HBM_GRAN, Table 18-6. -/
def rTenHbmGran : Nat := 0xB014

/-- TEN_ORY_GRAN, Table 18-6. -/
def rTenOryGran : Nat := 0xB018

/-- TEN_WATTS, Table 18-6. -/
def rTenWatts : Nat := 0xB01C

/-- TEN_QP_QUOTA, Table 18-6. -/
def rTenQpQuota : Nat := 0xB020

/-- TEN_STREAM_QUOTA, Table 18-6. -/
def rTenStreamQuota : Nat := 0xB024

/-- TEN_HOOP_QUOTA, Table 18-6. -/
def rTenHoopQuota : Nat := 0xB028

/-- TEN_SEED (stride 4), Table 18-6. -/
def rTenSeed : Nat := 0xB02C

/-- TEN_T_ID, Table 18-7. -/
def vTenTId : Nat := 0x11000

/-- TEN_T_EPOCH, Table 18-7. -/
def vTenTEpoch : Nat := 0x11004

/-- TEN_T_NEXT_SEQ, Table 18-7. -/
def vTenTNextSeq : Nat := 0x11008

/-- TEN_T_WATTS, Table 18-7. -/
def vTenTWatts : Nat := 0x1100C

/-- TEN_T_STREAMS, Table 18-7. -/
def vTenTStreams : Nat := 0x11010

/-- TEN_T_HOOPS, Table 18-7. -/
def vTenTHoops : Nat := 0x11014

/-- TEN_T_WIN_INST, Table 18-7. -/
def vTenTWinInst : Nat := 0x11018

/-- TEN_T_WIN_MASK (64-bit pair, low word), Table 18-7. -/
def vTenTWinMask : Nat := 0x1101C

/-- IMG_STATUS, Table 19-14. -/
def rImgStatus : Nat := 0xC000

/-- IMG_ACTIVE_SEQ, Table 19-14. -/
def rImgActiveSeq : Nat := 0xC004

/-- IMG_SLOT_A_SEQ, Table 19-14. -/
def rImgSlotASeq : Nat := 0xC008

/-- IMG_SLOT_B_SEQ, Table 19-14. -/
def rImgSlotBSeq : Nat := 0xC00C

/-- IMG_CAL_GEN, Table 19-14. -/
def rImgCalGen : Nat := 0xC010

/-- IMG_FLASH_INFO, Table 19-14. -/
def rImgFlashInfo : Nat := 0xC014

/-- IMG_ROM_VERSION, Table 19-14. -/
def rImgRomVersion : Nat := 0xC018

/-- IMG_BUILD_ID (64-bit pair, low word), Table 19-14. -/
def rImgBuildId : Nat := 0xC020

/-- IMG_BOUNDED_CNT, Table 19-14. -/
def rImgBoundedCnt : Nat := 0xC028

/-- IMG_BOUNDED_LAST, Table 19-14. -/
def rImgBoundedLast : Nat := 0xC02C

/-- IMG_SRC_SEL, Table 19-14. -/
def rImgSrcSel : Nat := 0xC030

/-- IMG_SRC, Table 19-14. -/
def rImgSrc : Nat := 0xC034

/-- IMG_JOURNAL_FREE, Table 19-14. -/
def rImgJournalFree : Nat := 0xC038

/-- IMG_SERIAL (stride 4), Table 19-14. -/
def rImgSerial : Nat := 0xC040

/-- MBX_REQ (stride 4), Table 20-7. -/
def rMbxReq : Nat := 0x10000

/-- MBX_GO, Table 20-7. -/
def rMbxGo : Nat := 0x10040

/-- MBX_STATUS, Table 20-7. -/
def rMbxStatus : Nat := 0x10044

/-- MBX_RESULT, Table 20-7. -/
def rMbxResult : Nat := 0x10048

/-- MBX_DETAIL, Table 20-7. -/
def rMbxDetail : Nat := 0x1004C

/-- MBX_VALUE0 (64-bit pair, low word), Table 20-7. -/
def rMbxValue0 : Nat := 0x10050

/-- MBX_VALUE1 (64-bit pair, low word), Table 20-7. -/
def rMbxValue1 : Nat := 0x10058

/-- MBX_REFUSED, Table 20-7. -/
def rMbxRefused : Nat := 0x10060

/-- MBX_REFUSED_CNT, Table 20-7. -/
def rMbxRefusedCnt : Nat := 0x10064

/-- MBX_PROTO_ERR_CNT, Table 20-7. -/
def rMbxProtoErrCnt : Nat := 0x10068

/-- MBX_MCTP_CTRL, Table 20-7. -/
def rMbxMctpCtrl : Nat := 0x10070

/-- MBX_MCTP_EID, Table 20-7. -/
def rMbxMctpEid : Nat := 0x10074

/-- MBX_DATA (stride 4), Table 20-7. -/
def rMbxData : Nat := 0x11000

/-- LODGE_TEMP_DIE, Table 20-8. -/
def rLodgeTempDie : Nat := 0xD000

/-- LODGE_TEMP_HBM (stride 4), Table 20-8. -/
def rLodgeTempHbm : Nat := 0xD004

/-- LODGE_TEMP_OSFP (stride 4), Table 20-8. -/
def rLodgeTempOsfp : Nat := 0xD024

/-- LODGE_PWR_BOARD, Table 20-8. -/
def rLodgePwrBoard : Nat := 0xD034

/-- LODGE_PWR_PEAK, Table 20-8. -/
def rLodgePwrPeak : Nat := 0xD038

/-- LODGE_RAIL_SEL, Table 20-8. -/
def rLodgeRailSel : Nat := 0xD03C

/-- LODGE_RAIL_READ, Table 20-8. -/
def rLodgeRailRead : Nat := 0xD040

/-- LODGE_THERMAL_STATUS, Table 20-8. -/
def rLodgeThermalStatus : Nat := 0xD048

/-- LODGE_THERMAL_EVENT, Table 20-8. -/
def rLodgeThermalEvent : Nat := 0xD04C

/-- LODGE_DIE_LIMITS, Table 20-8. -/
def rLodgeDieLimits : Nat := 0xD050

/-- LODGE_HBM_LIMITS, Table 20-8. -/
def rLodgeHbmLimits : Nat := 0xD054

/-- LODGE_DERATE_W_PER_C, Table 20-8. -/
def rLodgeDerateWPerC : Nat := 0xD058

/-- LODGE_TEMP_OFFSET, Table 20-8. -/
def rLodgeTempOffset : Nat := 0xD05C

/-- LODGE_PWR_GAIN, Table 20-8. -/
def rLodgePwrGain : Nat := 0xD060

/-- LODGE_PWR_OVER_W, Table 20-8. -/
def rLodgePwrOverW : Nat := 0xD064

/-- LODGE_LOG_WRITE_SEQ, Table 20-9. -/
def rLodgeLogWriteSeq : Nat := 0x80000

/-- LODGE_LOG_READ_SEQ, Table 20-9. -/
def rLodgeLogReadSeq : Nat := 0x80004

/-- LODGE_LOG_LOST_CNT, Table 20-9. -/
def rLodgeLogLostCnt : Nat := 0x80008

/-- LODGE_LOG_ENTRY (stride 64), Table 20-9. -/
def rLodgeLogEntry : Nat := 0x90000

/-- LODGE_INTERNAL_CNT, Table 21-9. -/
def rLodgeInternalCnt : Nat := 0xE000

/-- LODGE_INTERNAL_LAST, Table 21-9. -/
def rLodgeInternalLast : Nat := 0xE004

/-- MEM_POISON_CNT, Table 21-9. -/
def rMemPoisonCnt : Nat := 0xE008

/-- ROTA_T_ABORT_CNT, Table 21-10. -/
def vRotaTAbortCnt : Nat := 0x12000

/-- ROTA_T_ABORT_LAST, Table 21-10. -/
def vRotaTAbortLast : Nat := 0x12004

/-- ROTA_T_ABORT_SEQ, Table 21-10. -/
def vRotaTAbortSeq : Nat := 0x12008

/-- ROTA_T_ABORT_DETAIL, Table 21-10. -/
def vRotaTAbortDetail : Nat := 0x1200C

/-- ROTA_T_COINCIDENT_CNT, Table 21-10. -/
def vRotaTCoincidentCnt : Nat := 0x12010

/-- ROTA_T_AFTER_CUT_CNT, Table 21-10. -/
def vRotaTAfterCutCnt : Nat := 0x12014

/-- LODGE_UP_MS (64-bit pair, low word), Table 22-3. -/
def rLodgeUpMs : Nat := 0xF000

/-- LODGE_SCHED_CYCLES (64-bit pair, low word), Table 22-3. -/
def rLodgeSchedCycles : Nat := 0xF008

/-- LODGE_LOG_QUEUED, Table 22-3. -/
def rLodgeLogQueued : Nat := 0xF010

/-- The writable registers of PF0 BAR0: the fields of access code RW or W1C, with the shadow registers marked (part 0). -/
def pf0Writable0 : List RegDesc :=
  [⟨0x1000, 0x0, 1, 0x3, 0x0, true⟩,
   ⟨0x1004, 0x0, 1, 0xFFF, 0x0, true⟩,
   ⟨0x1008, 0x0, 1, 0xFFFFFFFF, 0x0, true⟩,
   ⟨0x100C, 0x0, 1, 0xFFFFFFFF, 0x0, true⟩,
   ⟨0x1010, 0x0, 1, 0xFFFFFFFF, 0x0, true⟩,
   ⟨0x1014, 0x0, 1, 0xFFFFFFFF, 0x0, true⟩,
   ⟨0x1018, 0x0, 1, 0xFFFFFFFF, 0x0, true⟩,
   ⟨0x101C, 0x0, 1, 0xFFFFFFFF, 0x0, true⟩,
   ⟨0x1020, 0x0, 1, 0xFFFF, 0x0, true⟩,
   ⟨0x1024, 0x0, 1, 0xFFFFFFFF, 0x0, true⟩,
   ⟨0x1028, 0x0, 1, 0xFFFFFFFF, 0x0, true⟩,
   ⟨0x1044, 0x0, 1, 0x0, 0xF, false⟩]

/-- The writable registers of PF0 BAR0: the fields of access code RW or W1C, with the shadow registers marked (part 1). -/
def pf0Writable1 : List RegDesc :=
  [⟨0x2044, 0x0, 1, 0x0, 0xC, false⟩,
   ⟨0x301C, 0x0, 1, 0x0, 0x80000000, false⟩,
   ⟨0x3100, 0x8, 128, 0xFFFFFFFF, 0x0, true⟩,
   ⟨0x3104, 0x8, 128, 0x1, 0x0, true⟩,
   ⟨0x5100, 0x10, 128, 0xFFFFFFFF, 0x0, true⟩,
   ⟨0x5104, 0x10, 128, 0xFFFF, 0x0, true⟩,
   ⟨0x5108, 0x10, 128, 0xFF, 0x0, true⟩,
   ⟨0x7000, 0x4, 128, 0xFFFFFFFF, 0x0, true⟩,
   ⟨0x9000, 0x100, 4, 0x1F, 0x0, true⟩,
   ⟨0x9008, 0x100, 4, 0xFFFFFFFF, 0x0, true⟩,
   ⟨0x900C, 0x100, 4, 0xFFFF, 0x0, true⟩,
   ⟨0x9010, 0x100, 4, 0xFFFFFFFF, 0x0, true⟩]

/-- The writable registers of PF0 BAR0: the fields of access code RW or W1C, with the shadow registers marked (part 2). -/
def pf0Writable2 : List RegDesc :=
  [⟨0x9014, 0x100, 4, 0xFFFFFFFF, 0x0, true⟩,
   ⟨0x9018, 0x100, 4, 0xFFFFFFFF, 0x0, true⟩,
   ⟨0x901C, 0x100, 4, 0xFFFFFFFF, 0x0, true⟩,
   ⟨0x9020, 0x100, 4, 0xFFFFFFFF, 0x0, true⟩,
   ⟨0x9024, 0x100, 4, 0xFFFFFFFF, 0x0, true⟩,
   ⟨0x9400, 0x0, 1, 0x1FFF, 0x0, true⟩,
   ⟨0x9410, 0x0, 1, 0xFFFFFFFF, 0x0, true⟩,
   ⟨0x9414, 0x0, 1, 0xFFFFFFFF, 0x0, true⟩,
   ⟨0xA004, 0x0, 1, 0x0, 0xF, false⟩,
   ⟨0xB000, 0x0, 1, 0x7F, 0x0, false⟩,
   ⟨0xB008, 0x0, 1, 0xFFFF, 0x0, false⟩,
   ⟨0xB00C, 0x0, 1, 0xFFFFFFFF, 0x0, true⟩]

/-- The writable registers of PF0 BAR0: the fields of access code RW or W1C, with the shadow registers marked (part 3). -/
def pf0Writable3 : List RegDesc :=
  [⟨0xB010, 0x0, 1, 0xFFFFFFFF, 0x0, true⟩,
   ⟨0xB014, 0x0, 1, 0xFFFF, 0x0, true⟩,
   ⟨0xB018, 0x0, 1, 0xFFFF, 0x0, true⟩,
   ⟨0xB01C, 0x0, 1, 0xFFFF, 0x0, true⟩,
   ⟨0xB020, 0x0, 1, 0x1FFF, 0x0, true⟩,
   ⟨0xB024, 0x0, 1, 0x1FFF, 0x0, true⟩,
   ⟨0xB028, 0x0, 1, 0x7FF, 0x0, true⟩,
   ⟨0xB02C, 0x4, 4, 0xFFFFFFFF, 0x0, true⟩,
   ⟨0xC030, 0x0, 1, 0xFFFFFF, 0x0, false⟩,
   ⟨0x10000, 0x4, 16, 0xFFFFFFFF, 0x0, false⟩,
   ⟨0x11000, 0x4, 1024, 0xFFFFFFFF, 0x0, false⟩,
   ⟨0xD03C, 0x0, 1, 0xF, 0x0, false⟩]

/-- The writable registers of PF0 BAR0: the fields of access code RW or W1C, with the shadow registers marked (part 4). -/
def pf0Writable4 : List RegDesc :=
  [⟨0xD04C, 0x0, 1, 0x0, 0xF, false⟩,
   ⟨0xD05C, 0x0, 1, 0xFFFF, 0x0, true⟩,
   ⟨0xD060, 0x0, 1, 0xFFFF, 0x0, true⟩,
   ⟨0x80004, 0x0, 1, 0xFFFFFFFF, 0x0, false⟩,
   ⟨0xE004, 0x0, 1, 0x0, 0x80000000, false⟩]

/-- The writable registers of PF0 BAR0: the fields of access code RW or W1C, with the shadow registers marked. -/
def pf0Writable : List RegDesc := pf0Writable0 ++ pf0Writable1 ++ pf0Writable2 ++ pf0Writable3 ++ pf0Writable4

/-- The writable registers of a VF BAR0: the fields of access code RW or W1C (part 0). -/
def vfWritable0 : List RegDesc :=
  [⟨0x3020, 0x0, 1, 0xFFFFFFFF, 0x0, false⟩,
   ⟨0x3024, 0x0, 1, 0x1FFFF, 0x0, false⟩,
   ⟨0x3028, 0x0, 1, 0xFFFFFFFF, 0x0, false⟩,
   ⟨0x302C, 0x0, 1, 0xFFFFFFFF, 0x0, false⟩,
   ⟨0x4030, 0x0, 1, 0xFFFFFFFF, 0x0, false⟩,
   ⟨0x4034, 0x0, 1, 0xFFFF, 0x0, false⟩,
   ⟨0x5030, 0x0, 1, 0xFFFFFFFF, 0x0, false⟩,
   ⟨0x5034, 0x0, 1, 0xFFFF, 0x0, false⟩,
   ⟨0xA040, 0x0, 1, 0xFFFFFFFF, 0x0, false⟩,
   ⟨0xA044, 0x0, 1, 0xFFFF, 0x0, false⟩,
   ⟨0xA048, 0x0, 1, 0xFFFFFFFF, 0x0, false⟩,
   ⟨0xA04C, 0x0, 1, 0xFFFFFFFF, 0x0, false⟩]

/-- The writable registers of a VF BAR0: the fields of access code RW or W1C (part 1). -/
def vfWritable1 : List RegDesc :=
  [⟨0xA054, 0x0, 1, 0x0, 0x2, false⟩,
   ⟨0xF004, 0x0, 1, 0xFFF, 0x0, false⟩,
   ⟨0xF010, 0x4, 16, 0xFFFFFFFF, 0x0, false⟩,
   ⟨0xF050, 0x0, 1, 0x3F, 0x0, false⟩,
   ⟨0xF054, 0x4, 2, 0xFFFFFFFF, 0x0, false⟩,
   ⟨0xF05C, 0x4, 2, 0xFFFFFFFF, 0x0, false⟩,
   ⟨0xF064, 0x0, 1, 0xFFFFFF87, 0x0, false⟩,
   ⟨0x10000, 0x0, 1, 0x7, 0x0, false⟩,
   ⟨0x10004, 0x0, 1, 0xFFFFFFFF, 0x0, false⟩,
   ⟨0x10008, 0x0, 1, 0xFFFFFFFF, 0x0, false⟩,
   ⟨0x1000C, 0x0, 1, 0xFFFFFFFF, 0x0, false⟩,
   ⟨0x10010, 0x0, 1, 0xFFFFFFFF, 0x0, false⟩]

/-- The writable registers of a VF BAR0: the fields of access code RW or W1C (part 2). -/
def vfWritable2 : List RegDesc :=
  [⟨0x10014, 0x0, 1, 0x1FFF, 0x0, false⟩,
   ⟨0x10018, 0x0, 1, 0x1, 0x0, false⟩,
   ⟨0x11018, 0x0, 1, 0xFFFF, 0x0, false⟩]

/-- The writable registers of a VF BAR0: the fields of access code RW or W1C. -/
def vfWritable : List RegDesc := vfWritable0 ++ vfWritable1 ++ vfWritable2

/-- The low words of the 64-bit pairs of PF0 BAR0. -/
def pf0Pairs : List Nat :=
  [0x1008, 0x1010, 0x101C, 0x1030, 0x103C, 0x1058, 0x2048, 0x9008, 0xB00C, 0xC020, 0x10050, 0x10058, 0xF000, 0xF008]

/-- The low words of the 64-bit pairs of VF BAR0. -/
def vfPairs : List Nat :=
  [0x1024, 0x3028, 0x4000, 0x4008, 0x4010, 0x5010, 0x5018, 0x6000, 0x7000, 0x9000, 0xA000, 0xA008, 0xA010, 0xA018, 0xA030, 0xA048, 0xB000, 0xB008, 0xB010, 0xC000, 0xD000, 0xD030, 0xE010, 0xE018, 0xE020, 0xF054, 0xF05C, 0xF070, 0xF078, 0x10004, 0x1000C, 0x10040, 0x1101C]

end Sys2Proof.Machine
end

