-- ==== Sys2Proof/Config.lean ====
section
/-! DEFINITION. What the spec leaves open: the free values. Nothing in Lean can evaluate them. -/

namespace Sys2Proof

/-- A value the spec leaves open, of width `w`, drawn under a number: the counter `State.freeNo` gives every draw a fresh one
(notes/assumptions/1.md). -/
opaque Config.freeValue (w : Nat) : Nat → BitVec w

/-- A value of width `w` that the device is built with and the spec does not state, under its number: 0 Uzocor's JEP106 identity, 1 the vendor
identifier of the ROM, 2 the version of the firmware in ROM (notes/assumptions/1.md). -/
opaque Config.builtIn (w : Nat) : Nat → BitVec w

end Sys2Proof
end

