-- ==== Sys2Proof/Machine/State.lean ====
section
/-! DEFINITION. The state of the device, as plain data: the registers, the memories, and everything the spec keeps behind them. Where a
piece of state comes from is said at each; INVENTORY.md lists them all with their reset values. -/

namespace Sys2Proof.Machine

/-! ### The chip (spec/01) -/

/-- The parts of Table 1-1. -/
inductive Part where
  | vz960 | vz940 | vz920
  deriving DecidableEq, Repr

/-- What the factory fixed: the part, the stepping, and the Weave groups and side units its fuses left (Table 1-5), side units laid out
as LODGE_CAP_SIDE_MAP. -/
structure Chip where
  part : Part
  stepping : Nat
  weave : Nat
  side : Nat
  deriving DecidableEq, Repr

/-! ### Beat and time (spec/02) -/

/-- The beat sources of Table 2-1. -/
inductive BeatSrc where
  | none | ptp | beatIn | doorbell
  deriving DecidableEq, Repr

/-- The beat logic of spec/02. The active source (R39), and the one chosen at the last Lodge tick while none is active or the beat is lost
(R73, R77); for BEAT_IN and the doorbell, whether the epoch is armed and the number its first pulse is still to begin (R43, R45); the
number and phase of the current beat; the Lodge time of its boundary and the last measured interval (R44); whether a boundary has been
taken, the beat is lost (R71), or the phase held (R70); whether the servo qualifies PTP (Table 2-1); the last BEAT_IN edge taken (R671);
when start-up completed and whether R78 has acted; the beat in which the first source became active (R77); the last 64 boundaries with
their local PTP times (spec/14); and the latest Lodge time a command has brought. Times are Lodge monotonic ns. -/
structure Beat where
  src : BeatSrc
  chosen : BeatSrc
  inEpoch : Bool
  inNext : Option Nat
  dbEpoch : Bool
  dbNext : Option Nat
  number : Nat
  phase : Nat
  lastBoundary : Nat
  refInterval : Option Nat
  started : Bool
  lost : Bool
  hold : Bool
  ptpQual : Bool
  lastPulse : Option Nat
  startDone : Option Nat
  noSource : Bool
  activated : Option Nat
  recent : List (Nat × Nat)
  now : Nat
  deriving DecidableEq, Repr

/-- The PTP clock and servo of spec/16, R465 to R468. `clock` is the local PTP time, in ns, at the latest command that brought one; `adj` is what
the steps of R466 have added to the clock's own reading. -/
structure Ptp where
  clock : Nat
  adj : Int
  locked : Bool
  lockRun : Nat
  unlockRun : Nat
  holdover : Bool
  holdoverSince : Nat
  offset : Int
  pathDelay : Int
  awaitFollowUp : Option (Nat × Nat × Int)
  lastSync : Option (Nat × Nat × Int)
  master : Option (List Nat)
  rateAdj : Int
  deriving DecidableEq, Repr

/-! ### Memory (spec/04) -/

/-- Bandwidth accounts of one owner, read, write and remote, in units of 1/65,536 B (R210). -/
structure Accounts where
  read : Nat
  write : Nat
  remote : Nat
  deriving DecidableEq, Repr

/-- The credits and pointers of one port, per class (R204, R206). -/
structure Port where
  port : Nat
  credit : List Int
  pointer : List Nat
  deriving DecidableEq, Repr

/-- The memories: bytes of physical HBM and of the physical Orangery in canonical form, the lines with a set init tag (R115), the words
with bits in error and how many (R113, R692), the scrub positions (R116), the free runs of granules and the queue of freed granules
awaiting zeroing (R121, R122), the ports' arbitration (R204 to R206), and how many writes tenant memory has seen. -/
structure Mem where
  hbm : List Host.Cell
  ory : List Host.Cell
  tags : NatSet
  hbmErr : List (Nat × Nat)
  oryErr : List (Nat × Nat)
  scrubOry : Nat
  scrubHbm : Nat
  hbmFree : Runs
  oryFree : Runs
  zeroQ : Runs
  zeroAcc : Nat
  ports : List Port
  writes : Nat
  deriving DecidableEq, Repr

/-! ### Rotas, tasks and courses (spec/03, 05, 06) -/

/-- Where a course runs: its first window, how many, and the physical instances per class of Table 1-6 (R86). -/
structure Place where
  first : Nat
  count : Nat
  insts : List (List Nat)
  deriving DecidableEq, Repr

/-- The source a region's bytes come from (R135, R139). -/
structure Source where
  host : Bool
  addr : Nat
  deriving DecidableEq, Repr

/-- A region: one PARAM table of an admitted Rota, with its generation and the update pending or in flight (Table 4-2).
`spare` says that the spare copy is the current one (R139); `cur` is the source of the generation in force, where an update gave it.
`staged` holds what has arrived from the host for the update in flight, `held` the host's bytes of the generation in force. -/
structure Region where
  table : Nat
  gen : Nat
  pend : Option Source
  flight : Option Source
  cur : Option Source
  spare : Bool
  poisoned : Bool
  staged : Bytes
  held : Bytes
  deriving DecidableEq, Repr

/-- One Coil context (Tables 11-2 to 11-5): the live history, the base frame and the counts of a dynamic table. -/
structure Coil where
  hist : List (Nat × Nat)
  width : Nat
  base : List (Nat × Nat)
  baseId : Option Nat
  baseWidth : Nat
  counts : List Nat
  countsValid : Bool
  frames : Nat
  deriving DecidableEq, Repr

/-- A stream context (R199): whether it is armed and with what (R184), and its Coil context. -/
structure StreamCtx where
  ctx : Nat
  armed : Bool
  host : Bool
  base : Nat
  size : Nat
  coil : Coil
  deriving DecidableEq, Repr

/-- A slot of a hoop that is reserved or committed and not yet released (R174, R176): its count, the bytes placed in it, whether it is the
stream's last, and whether all its bytes are in place, so that it may commit. -/
structure Slot where
  no : Nat
  len : Nat
  fin : Bool
  complete : Bool
  deriving DecidableEq, Repr

/-- A hoop of the running course (R174): its record, the ring offset of its slots, its counters, and the slots its consumer has acquired.
`done` counts, for each unit operation or stream that reads the hoop, the slots it has finished with. -/
structure Hoop where
  idx : Nat
  start : Nat
  rsv : Nat
  tail : Nat
  head : Nat
  acq : Nat
  ended : Bool
  done : List (Nat × Nat)
  slots : List Slot
  deriving DecidableEq, Repr

/-- A transfer in flight (R179): its number; its place in the stream's delivered or taken bytes; the memory address of its first byte and
how many it moves there; the source position, the element offset of its first byte and, for an indexed stream, the row it serves. `zero` marks bytes delivered without a read
(R169, Table 5-2). An output transfer carries its bytes and the count of the last slot it takes from. -/
structure Xfer where
  no : Nat
  off : Nat
  len : Nat
  addr : Nat
  n : Nat
  pos : Nat
  elem : Nat
  row : Nat
  zero : Bool
  slot : Nat
  data : Bytes
  deriving DecidableEq, Repr

/-- A stream of the running course (R167 to R172, R184): the source bytes issued so far, the delivered or taken bytes, its transfers in
flight, and what it is serving: the index of an indexed stream or the descriptor of a queued one. `drvNo` and `drvOff` say how far it has
read its index or queue hoop, `slotNo` and `slotOff` how far an output stream has taken from its own. `raw` holds the encoded bytes of a Coil
stream that have arrived and are not yet decoded, or are encoded and not yet written; `rawPos` counts those before them; `late` holds
those that arrived ahead of their turn, and `frameOut` counts the bytes of the frame being decoded that are in the hoop. A queued stream
keeps the descriptors of its burst in `raw`. -/
structure StreamRun where
  idx : Nat
  pos : Nat
  bytes : Nat
  nextNo : Nat
  inFlight : List Xfer
  row : Option Nat
  desc : Option Bytes
  nDesc : Nat
  lastElem : Nat
  slotNo : Nat
  slotOff : Nat
  drvNo : Nat
  drvOff : Nat
  raw : Bytes
  rawPos : Nat
  late : List (Nat × Bytes)
  frameOut : Nat
  ended : Bool
  deriving DecidableEq, Repr

/-- A batch or record that a unit has made and that waits for a slot of its output hoop. -/
structure OutBatch where
  hoop : Nat
  data : Bytes
  fin : Bool
  deriving DecidableEq, Repr

/-- The state one operation keeps through its course (spec/07 to 14): its numbers, rows, pairs of numbers and numbers under keys, and the
batches it has made. `stage` is 0 before its first input batch, 1 after it, and 2 once its end work is done. -/
structure OpRun where
  key : Nat
  stage : Nat
  nums : List Nat
  rows : List Bytes
  pairs : List (Nat × Nat)
  table : List (Nat × List Nat)
  outQ : List OutBatch
  deriving DecidableEq, Repr

/-- A source marked in an entry of a staging window (R481). -/
structure PeerMark where
  src : Nat
  bytes : Nat
  deriving DecidableEq, Repr

/-- The staging window of a PEER_IN (R480, R481): the beat that owns each entry, and the entry's marks. -/
structure PeerIn where
  nop : Nat
  owners : List Nat
  marks : List (List PeerMark)
  deriving DecidableEq, Repr

/-- A frame in a sensor channel's staging (R417): its sensor position, its capture beat, and its sensor header. -/
structure SensorFrame where
  pos : Nat
  beat : Nat
  hdr : Bytes
  deriving DecidableEq, Repr

/-- A frame in reassembly (R414): the header of its first fragment, and the fragments. -/
structure SensorPart where
  hdr : Bytes
  frags : List (Nat × Bytes)
  bad : Bool
  deriving DecidableEq, Repr

/-- A sensor channel (R414 to R419), and the beat in which its course last started. -/
structure Sensor where
  smp : Nat
  served : Option Nat
  frames : List SensorFrame
  parts : List SensorPart
  deriving DecidableEq, Repr

/-- A wait on a stake counter by a Strand core: its requester index of Table 6-3, its course's Rota and logical instance, and what it waits
for (R216, R226). -/
structure StakeWait where
  requester : Nat
  handle : Nat
  inst : Nat
  full : Bool
  pair : Nat
  target : Nat
  deriving DecidableEq, Repr

/-- A store of a Strand core in its store buffer (R438): the pc of the store, the memory, the tenant address and the bytes. -/
structure CoreStore where
  pc : Nat
  ory : Bool
  addr : Nat
  data : Bytes
  deriving DecidableEq, Repr

/-- A load from tenant host space that a Strand core waits for (R453): the number of the read, its destination register and whether that is a
floating-point register, its bytes, and whether the value is sign-extended. -/
structure CoreLoad where
  no : Nat
  rd : Nat
  float : Bool
  bytes : Nat
  signed : Bool
  deriving DecidableEq, Repr

/-- An LR reservation of a Strand core: the memory, the address and bytes, the value read, and how many writes tenant memory had seen. -/
structure Resv where
  ory : Bool
  addr : Nat
  bytes : Nat
  value : Nat
  stamp : Nat
  deriving DecidableEq, Repr

/-- A Strand core that runs a routine of the course (R438, R446, Table 15-5): its physical number and logical instance; pc, the x and f
registers, fcsr, and the cycle and instret counters; the bytes of the code region and the tenant region of local SRAM; the store buffer; the
LR reservation; the custom selector CSRs of Table 15-6; a host load it waits for; and whether the
routine has ended (R448). -/
structure Core where
  core : Nat
  inst : Nat
  pc : Nat
  x : List (BitVec 64)
  f : List (BitVec 64)
  fcsr : Nat
  cycle : Nat
  instret : Nat
  code : Nat
  sram : List Host.Cell
  stores : List CoreStore
  resv : Option Resv
  stakeSel : Nat
  hoopSel : Nat
  drawStream : Nat
  drawIndex : Nat
  load : Option CoreLoad
  ended : Bool
  deriving DecidableEq, Repr

/-- The course a Rota runs (R183): its task, when it started, how many cycles it has run (R110), its hoops, streams and operations,
its Strand cores, the generation of each PARAM table it uses (R59), and the tenant seed it holds (R421). -/
structure CourseRun where
  seq : Nat
  course : Nat
  beat : Nat
  cycles : Nat
  hoops : List Hoop
  streams : List StreamRun
  ops : List OpRun
  cores : List Core
  gens : List (Nat × Nat)
  seed : List Nat
  deriving DecidableEq, Repr

/-- The build rows of one spilled partition of a join table, in insertion order, and the bytes its region holds (R280). -/
structure Spill where
  table : Nat
  part : Nat
  rows : List (Nat × Bytes)
  used : Nat
  deriving DecidableEq, Repr

/-- A batch published with a tier absent or repeated, or aborted with SLIP_LIMIT: its sequence number, its publication beat, and the first
course that never started for it (R55). -/
structure LateBatch where
  seq : Nat
  beat : Nat
  course : Nat
  deriving DecidableEq, Repr

/-- The bindings of a standing Rota (Table 19-7): how many tables, their bytes and their tenant HBM address, and its sample indices. -/
structure Standing where
  nBind : Nat
  bindBytes : Nat
  bindAddr : Nat
  samples : Nat
  origin : Nat
  deriving DecidableEq, Repr

/-- An admitted Rota: its binary (Table 3-1), its ranges and placement (R131, R695, R86), what the Lodge assigned it (R199, R223), its
accounts (R210), its regions, stream contexts, work ring and running course, and the last sequence number at which each tier was
published ready (Table 2-3). -/
structure Rota where
  handle : Nat
  bin : Bytes
  standing : Option Standing
  running : Bool
  firstBeat : Nat
  loadAt : Option Nat
  loadBind : Bytes
  place : List Place
  pairs : List Nat
  hoopCtl : List Nat
  hbmBase : Nat
  hbmLen : Nat
  oryBase : Nat
  acc : Accounts
  regions : List Region
  streams : List StreamCtx
  ring : Nat
  standby : Option Nat
  course : Option CourseRun
  lastReady : List (Option Nat)
  retiring : Bool
  peers : List PeerIn
  sensors : List Sensor
  spills : List Spill
  late : List LateBatch
  deriving DecidableEq, Repr

/-- Why a task was aborted and what its records say (R613, R617, Tables 17-4 and 21-4). -/
structure Abort where
  code : Nat
  inst : Nat
  ctx : Nat
  elem : Nat
  detail : Nat
  deriving DecidableEq, Repr

/-- An accepted task (R96): its descriptor, its binding table, the beat it was assigned (R97), how far it has run, and which tiers are
ready (R49). `queue` is the host queue pair that carried it, none for a generated task. -/
structure Task where
  tenant : Nat
  seq : Nat
  handle : Nat
  queue : Option Nat
  descSeq : Nat
  userTag : Nat
  sampleBase : Nat
  binding : Bytes
  assigned : Nat
  pub : Nat
  slip : Nat
  shifted : Bool
  nextCourse : Nat
  busy : Bool
  done : Bool
  ready : List Bool
  lost : List Nat
  abort : Option Abort
  decided : Bool
  staging : Bool
  asked : List (Nat × Nat)
  staged : List (Nat × Nat)
  deriving DecidableEq, Repr

/-- A stake pair (R216). -/
structure Stake where
  full : Nat
  empty : Nat
  deriving DecidableEq, Repr

/-! ### Queue pairs (spec/16) -/

/-- A message that a queue pair sends and its peer has not acknowledged (R477): the Rota it belongs to, the task and tier of a tier write, a
write's key and address or a SEND, its bytes, the SEQ of the publication record it carries, its packet sequence numbers, and whether every
packet of it has been transmitted once (R476). -/
structure QpWrite where
  handle : Nat
  task : Nat
  tier : Option Nat
  send : Bool
  rkey : Nat
  addr : Nat
  data : Bytes
  seq : Option Nat
  psn : Nat
  packets : Nat
  sent : Bool
  deriving DecidableEq, Repr

/-- A queue pair (R469 to R471): its tenant and number, its physical number, its state (0 RESET, 1 INIT, 2 RTR, 3 RTS, 4 ERR), its context
(Table 16-3), its unacknowledged messages, the SEQ of the last publication record acknowledged, its retries, its packet sequence numbers,
the rates of its reaction point in Mb/s with the bytes sent since the last byte step, and when it last sent a CNP. -/
structure Qp where
  tenant : Nat
  q : Nat
  phys : Nat
  st : Nat
  ctx : Bytes
  unacked : List QpWrite
  lastAck : Option Nat
  retries : Nat
  rnr : Nat
  sendPsn : Nat
  recvPsn : Nat
  rc : Rat
  rt : Rat
  alpha : Rat
  stage : Nat
  sent : Nat
  cnp : Bool
  lastCnp : Option Nat
  deriving DecidableEq, Repr

/-- What a packet held in a receive buffer asks for: a sensor datagram, a peer's write, its read, or a SEND. -/
inductive RxWhat where
  | sensor (udp : Nat) (data : Bytes)
  | write (p : Pkt) (rkey addr : Nat) (data : Bytes) (first : Bool)
  | read (p : Pkt) (rkey addr len : Nat)
  | send (p : Pkt) (data : Bytes)
  deriving DecidableEq, Repr

/-- A packet that waits in a receive buffer for tokens (R464, R474), with its tenant and its bytes. -/
structure RxItem where
  tenant : Nat
  bytes : Nat
  what : RxWhat
  deriving DecidableEq, Repr

/-- A network port (R464): its receive buffer, whether the device holds its peer paused, and how long its peer holds the RoCE priority
paused, in thousandths of a schedule-clock cycle.
Its link and module are in NET_PORT_STATUS. -/
structure NetPort where
  rx : List RxItem
  pausing : Bool
  paused : Nat
  deriving DecidableEq, Repr

/-- A registered region (R472). -/
structure Mr where
  no : Nat
  base : Nat
  len : Nat
  read : Bool
  write : Bool
  ory : Bool
  key : Nat
  deriving DecidableEq, Repr

/-! ### Tenants (spec/18) -/

/-- The states of TEN_STATE (Table 18-6). -/
inductive TenPhase where
  | creating | active | resetting | destroying
  deriving DecidableEq, Repr

/-- A host queue pair (R504 to R508, R513): its configuration as the last enable took it and as software last wrote it (`w…`), its heads and tails, the entries reserved, the expected DESC_SEQ, the CQ
phase, and the records a disable still waits for (R522). -/
structure HostQueue where
  enabled : Bool
  stopping : Bool
  fault : Bool
  result : Nat
  sqBase : Nat
  cqBase : Nat
  sqLog : Nat
  cqLog : Nat
  vector : Nat
  irq : Bool
  sqHead : Nat
  sqTail : Nat
  cqHead : Nat
  cqTail : Nat
  phase : Bool
  reserved : Nat
  descSeq : Nat
  wSq : Nat
  wCq : Nat
  wSize : Nat
  deriving DecidableEq, Repr

/-- A descriptor the device has fetched and not yet accepted or refused (R506). -/
structure Fetched where
  queue : Nat
  desc : Bytes
  seqOk : Bool
  deriving DecidableEq, Repr

/-- The MSI-X state of the functions (R514): which functions have it enabled and which are masked as a whole, and by vector key (64 for each
function, PF0 first) the vectors unmasked and those pending; and the words of the MSI-X tables, by 1,024 B for each function. -/
structure Msix where
  on : NatSet
  fmask : NatSet
  unmasked : NatSet
  pend : NatSet
  table : RegFile
  deriving DecidableEq, Repr

/-- The host link (spec/17): whether the data link is up, the speed and width of HOST_LINK_STATUS, HOST_STATE with the beats left of a quiesce
(R532); whether PF0's configuration space answers (R527); VF Enable; and the functions whose Device Control enables Relaxed Ordering. -/
structure HostLink where
  dlUp : Bool
  gen : Nat
  width : Nat
  flit : Bool
  state : Nat
  quiesceLeft : Option Nat
  pcie : Bool
  vfEnable : Bool
  relaxed : NatSet
  deriving DecidableEq, Repr

/-- A tenant: its life-cycle state, epoch and counts (R540, R546), its extents in tenant order (R117), its spare accounts (R210), and
the tenant's queue pairs, regions and translations. Its grant lies in the registers of Table 18-6. -/
structure Tenant where
  id : Nat
  phase : TenPhase
  standing : Bool
  orphaned : Bool
  epoch : Nat
  nextSeq : Nat
  exhausted : Bool
  lastAssigned : Nat
  handleCount : Nat
  hbm : Runs
  ory : Runs
  spare : Accounts
  queues : List HostQueue
  fetched : List Fetched
  mrs : List Mr
  deriving DecidableEq, Repr

/-- A pending Coil context save or restore (R358, R363). -/
structure CoilReq where
  tenant : Nat
  handle : Nat
  stream : Nat
  addr : Nat
  restore : Bool
  deriving DecidableEq, Repr

/-- A commit of the shadow set (R99 to R107): the snapshot, the beat whose boundary applies it, and whether it is of the drain kind. -/
structure Commit where
  snap : RegFile
  beat : Nat
  drain : Bool
  deriving DecidableEq, Repr

/-! ### The management mailbox (spec/20) -/

/-- What a command completes with (R589). -/
structure MbxResult where
  code : Nat
  detail : Nat
  value0 : Nat
  value1 : Nat
  deriving DecidableEq, Repr

/-- The long command that runs (R585): its request, how far it has come (its own numbering, 0 when just taken), the flash slot or copy it
writes, and its result once it has one. -/
structure LongCmd where
  req : MbxReq
  phase : Nat
  slot : Nat
  result : Option MbxResult
  deriving DecidableEq, Repr

/-- The Lodge's mailbox: READY and STOPPED of MBX_STATUS, the thermal trip (R599), the long command that runs, and an accepted DEV_RESET
(R591). -/
structure Mailbox where
  ready : Bool
  stopped : Bool
  tripped : Bool
  long : Option LongCmd
  resetDue : Bool
  deriving DecidableEq, Repr

/-- A PLDM firmware update (R595): the channel it runs over, the size announced, the component data delivered so far, the Lodge time of its
last message, and the slot it has written. -/
structure PldmUpdate where
  chan : Channel
  size : Nat
  data : Bytes
  last : Nat
  slot : Option Nat
  deriving DecidableEq, Repr

/-- PLDM (R594, R595): the terminus ID, the event receiver set with the channel it was set by, and the update that runs. -/
structure Pldm where
  tid : Nat
  receiver : Option (Channel × Nat)
  update : Option PldmUpdate
  deriving DecidableEq, Repr

/-- The sensors (R596 to R599): per tick, newest first, the die temperature and the HBM stacks' temperatures (1/16 °C, none where a sensor gives
no reading) of the last 100 ticks, the input power after the gain (1/8 W) of the last 10, and the excess over BOARD_W in W of the last
1,000; what the last 10 recomputations computed, newest first; and the rails' last readings in mV and 1/16 A. -/
structure Telemetry where
  die : List (Option Int)
  hbm : List (List (Option Int))
  power : List Nat
  excess : List Nat
  computed : List Nat
  rails : List (Nat × Nat)
  deriving DecidableEq, Repr

/-- The boot flash of the module (R557, Table 19-1): whether its SFDP tables meet R557, its capacity in MiB, and its bytes in canonical form, an
unlisted byte being erased (0xFF). -/
structure Flash where
  ok : Bool
  mib : Nat
  cells : List Host.Cell
  deriving DecidableEq, Repr

/-- The last start-up (spec/19): whether it has begun; the slot started (none without a valid one), the factory page and the calibration copy in
use, the layer of each setting in force that is not the ROM's (R567); the bytes the Lodge area holds and whether its HBM passed the self-test
(R580); the TENANT section whose creation waits (R125), and whether every TENANT and STANDING section so far went through (R570). -/
structure Boot where
  begun : Bool
  slot : Option Nat
  factory : Option Bytes
  calCopy : Option Nat
  layers : List (Nat × Nat)
  area : Bytes
  areaOk : Bool
  todo : Option Nat
  allOk : Bool
  deriving DecidableEq, Repr

/-- The JTAG instructions (R676). -/
inductive JtagInstr where
  | bypass | idcode | samplePreload | extest | clamp
  deriving DecidableEq, Repr

/-- Supplies and pins (spec/24): the aux and the main rails are up; the JTAG instruction loaded, and whether one of R677 holds every function in
reset; THERMTRIP_N is low. -/
structure Power where
  aux : Bool
  main : Bool
  jtag : JtagInstr
  held : Bool
  thermtrip : Bool
  deriving DecidableEq, Repr

/-! ### The event log (spec/20, R600; spec/22, R643) -/

/-- A log entry (Table 20-4) before its ESEQ is given. -/
structure LogEntry where
  code : Nat
  cls : Nat
  tenant : Nat
  detail : Nat
  arg0 : Nat
  arg1 : Nat
  deriving DecidableEq, Repr

/-- The event log (R600, R643): the entries that wait, oldest first; the written slots that are not all zero; and when the last was written. -/
structure EventLog where
  queue : List LogEntry
  ring : List (Nat × Bytes)
  last : Option Nat
  deriving DecidableEq, Repr

/-! ### What the device sends -/

/-- What leaves the device, newest last in `State.out`. -/
inductive Out where
  /-- A read completed on the register interface. -/
  | readData (value : Word)
  /-- A posted memory write on the host link: the function's tenant (none for PF0), address, bytes, and the Relaxed Ordering attribute. -/
  | hostWrite (tenant : Option Nat) (addr : Nat) (data : Bytes) (relaxed : Bool)
  /-- A memory read request on the host link, with its number. -/
  | hostRead (tenant : Option Nat) (no addr len : Nat)
  /-- An ATS Translation Request for the page of an address (R501). -/
  | xlate (tenant addr : Nat)
  /-- An ATS Invalidation Completion (R502). -/
  | invalidated (tenant : Nat)
  /-- An MSI-X message of a function (0 for PF0, n for VF n). -/
  | msix (function vector : Nat)
  /-- The completion of a Configuration Request: its data, or a Configuration Request Retry Status (R527). -/
  | cfgData (function value : Nat)
  | cfgRetry (function : Nat)
  /-- A delay request of the PTP clock (R465). -/
  | delayReq (port : Nat) (p2p : Bool)
  /-- An RDMA WRITE to a peer, with immediate data for a publication record (R476). -/
  | peerWrite (port tenant qp psn rkey addr : Nat) (data : Bytes) (imm : Option Nat)
  /-- A SEND on a queue pair: a staging mark (R486). -/
  | peerSend (port tenant qp psn : Nat) (data : Bytes)
  /-- An acknowledgement, a NAK with its code, and the response to an RDMA READ. -/
  | ack (tenant qp psn : Nat)
  | nak (tenant qp psn code : Nat)
  | readResponse (tenant qp psn : Nat) (data : Bytes)
  /-- A congestion notification packet (R469). -/
  | cnp (tenant qp : Nat)
  /-- PFC pause on a port's RoCE priority, or its release (R464). -/
  | pause (port : Nat) (on : Bool)
  /-- The answer to an ARP request or a neighbour solicitation (R463). -/
  | arpReply (port : Nat) (mac ip : Bytes)
  | neighbourAdvert (port : Nat) (mac ip : Bytes)
  /-- A message of the MCTP endpoint on a channel (R592 to R595), without its transport header: its type and body. -/
  | mctp (chan : Channel) (type : Nat) (body : Bytes)
  /-- THERMTRIP_N falls or rises (R599, R670). -/
  | thermtrip (low : Bool)
  /-- What JTAG shifts out: the identity (R676). -/
  | jtag (value : Nat)
  deriving DecidableEq, Repr

/-! ### Host accesses (spec/17, R501, R523) -/

/-- What a host access serves: staging of a SPACE 1 stream, a region update, a Strand core, a tier, a SPACE 1 output stream, a publication
record, a completion record of a pair, or an MSI-X message that follows what was sent before it (R515). -/
inductive HostUse where
  | stage (handle seq stream off : Nat)
  | region (handle table off : Nat)
  | core (handle inst : Nat)
  | tier (handle seq tier stream off : Nat)
  | output (handle seq stream off : Nat)
  | record (handle seq course : Nat) (aborted : Bool)
  | completion (queue : Nat)
  | message (vector : Nat)
  deriving DecidableEq, Repr

/-- A host access of a tenant: its number, address and bytes, the data of a write, and what it serves. -/
structure HostReq where
  no : Nat
  tenant : Nat
  addr : Nat
  len : Nat
  data : Option Bytes
  use : HostUse
  deriving DecidableEq, Repr

/-- A translation cached for a tenant's VF (R501): a page of 2^log2 bytes and the access it grants. -/
structure Translation where
  tenant : Nat
  base : Nat
  log2 : Nat
  read : Bool
  write : Bool
  deriving DecidableEq, Repr

/-- The device. `pending` is the queue of commands that wait, first in first out. `freeNo` counts the free values taken. `pf0` and `vf` are the
registers of PF0 and of the VFs that hold a value of their own, and `shadow` the shadow set (Table 0-4); a register that only shows other state
is computed where it is read. `latch` holds what reads have latched or sampled (R80, R201, R236), each one more than its value. `out` is what has
left the device. -/
structure State where
  pending : List Instr
  freeNo : Nat
  chip : Chip
  pf0 : RegFile
  shadow : RegFile
  vf : RegFile
  latch : List (Nat × Nat)
  beat : Beat
  ptp : Ptp
  mem : Mem
  host : HostLink
  msix : Msix
  tenants : List Tenant
  epochs : List (Nat × Nat)
  rotas : List Rota
  tasks : List Task
  stakes : List (Nat × Stake)
  waits : List StakeWait
  commit : Option Commit
  qps : List Qp
  net : List NetPort
  coilReqs : List CoilReq
  mbx : Mailbox
  pldm : Pldm
  tele : Telemetry
  flash : Flash
  boot : Boot
  power : Power
  log : EventLog
  hostNo : Nat
  atc : List Translation
  held : List HostReq
  reads : List HostReq
  out : List Out
  deriving DecidableEq, Repr

/-- The model stops: a condition that the spec says cannot be met by a command. No meaning raises one. -/
inductive Fault where
  /-- An access outside the device's address spaces (safe). -/
  | noSuchAddress
  deriving DecidableEq, Repr

/-- A command the model gives no effect. -/
inductive Refusal where
  /-- Not modelled yet; only Dispatch raises it (safe). -/
  | notModelled (mnemonic : String)
  deriving DecidableEq, Repr

/-- A VZ-960 at stepping 1 with every unit of the part (notes/assumptions/3.md). -/
def Chip.reset : Chip := { part := .vz960, stepping := 1, weave := 0xFFFF, side := 0x3FFFF }

def Beat.reset : Beat :=
  { src := .none, chosen := .none, inEpoch := false, inNext := none, dbEpoch := false, dbNext := none, number := 0, phase := 0, lastBoundary := 0,
    refInterval := none, started := false, lost := false, hold := false, ptpQual := false, lastPulse := none, startDone := none,
    noSource := false, activated := none, recent := [], now := 0 }

def Ptp.reset : Ptp :=
  { clock := 0, adj := 0, locked := false, lockRun := 0, unlockRun := 0, holdover := false, holdoverSince := 0,
    offset := 0, pathDelay := 0, awaitFollowUp := none, lastSync := none, master := none, rateAdj := 0 }

def Msix.reset : Msix := { on := [], fmask := [], unmasked := [], pend := [], table := [] }

def HostLink.reset : HostLink := { dlUp := false, gen := 0, width := 0, flit := false, state := 0, quiesceLeft := none, pcie := false, vfEnable := false, relaxed := [] }

def HostQueue.reset : HostQueue :=
  { enabled := false, stopping := false, fault := false, result := 0, sqBase := 0, cqBase := 0, sqLog := 0, cqLog := 0, vector := 0,
    irq := false, sqHead := 0, sqTail := 0, cqHead := 0, cqTail := 0, phase := true, reserved := 0, descSeq := 0, wSq := 0, wCq := 0, wSize := 0 }

def NetPort.reset : NetPort := { rx := [], pausing := false, paused := 0 }

def Mailbox.reset : Mailbox := { ready := false, stopped := false, tripped := false, long := none, resetDue := false }

def Pldm.reset : Pldm := { tid := 0, receiver := none, update := none }

def Telemetry.reset : Telemetry := { die := [], hbm := [], power := [], excess := [], computed := [], rails := [] }

/-- A flash of 64 MiB with nothing written (notes/assumptions/33.md). -/
def Flash.reset : Flash := { ok := true, mib := 64, cells := [] }

def Boot.reset : Boot := { begun := false, slot := none, factory := none, calCopy := none, layers := [], area := [], areaOk := true, todo := none, allOk := true }

/-- The supplies are up (notes/assumptions/33.md); JTAG holds IDCODE, as IEEE 1149.1 resets it. -/
def Power.reset : Power := { aux := true, main := true, jtag := .idcode, held := false, thermtrip := false }

def EventLog.reset : EventLog := { queue := [], ring := [], last := none }

def Mem.reset : Mem :=
  { hbm := [], ory := [], tags := [], hbmErr := [], oryErr := [], scrubOry := 0, scrubHbm := 0, hbmFree := [], oryFree := [],
    zeroQ := [], zeroAcc := 0, ports := [], writes := 0 }

/-- The registers R656 gives a value other than 0 at reset. -/
def RegFile.reset : RegFile := [(0xC018, 0x00010000#32), (0x10070, 0x34C#32)]

/-- The VF registers at reset: BEAT_T_LAST_SEQ of every VF reads 0xFFFF_FFFF (R656). -/
def vfReset : RegFile := (List.range 128).map (fun t => (t * 0x40000 + 0x1014, 0xFFFFFFFF#32))

def State.reset : State :=
  { pending := [], freeNo := 0, chip := Chip.reset, pf0 := RegFile.reset, shadow := [], vf := vfReset, latch := [], beat := Beat.reset, ptp := Ptp.reset,
    mem := Mem.reset, host := HostLink.reset, msix := Msix.reset, tenants := [], epochs := [], rotas := [], tasks := [], stakes := [], waits := [], commit := none, qps := [], net := List.replicate 4 NetPort.reset, coilReqs := [], mbx := Mailbox.reset, pldm := Pldm.reset, tele := Telemetry.reset, flash := Flash.reset, boot := Boot.reset, power := Power.reset, log := EventLog.reset, hostNo := 0, atc := [], held := [],
    reads := [], out := [] }

end Sys2Proof.Machine
end

