-- ==== Sys2Proof/Machine/Ops.lean ====
section
/-! DEFINITION. The named operations over the state: sparse files of registers and bytes, byte strings, registers and their counters,
tenant memory (spec/04), and the event log. Everything later is written over these. -/

namespace Sys2Proof.Machine

/-! ### Sparse files in canonical form -/

/-- The value at a key of a sparse file; `z` where the key is not listed. -/
def sparseGet {α : Type} (z : α) : List (Nat × α) → Nat → α
  | [], _ => z
  | (k, v) :: t, a => if k = a then v else sparseGet z t a

/-- A sparse file with `v` at `a`: keys stay rising, and a key whose value is `z` is not listed. -/
def sparseSet {α : Type} [DecidableEq α] (z : α) : List (Nat × α) → Nat → α → List (Nat × α)
  | [], a, v => if v = z then [] else [(a, v)]
  | (k, w) :: t, a, v =>
    if a < k then (if v = z then (k, w) :: t else (a, v) :: (k, w) :: t)
    else if a = k then (if v = z then t else (a, v) :: t)
    else (k, w) :: sparseSet z t a v

/-- A sparse file without the keys from `lo` to `hi` - 1. -/
def sparseClear {α : Type} (l : List (Nat × α)) (lo hi : Nat) : List (Nat × α) :=
  l.filter (fun p => decide (p.1 < lo ∨ hi ≤ p.1))

/-- The canonical form: keys strictly rising above `lo`, no value `z`. -/
def sparseWfFrom {α : Type} [DecidableEq α] (z : α) : Option Nat → List (Nat × α) → Bool
  | _, [] => true
  | lo, (k, v) :: t => (match lo with | none => true | some m => decide (m < k)) && decide (v ≠ z) && sparseWfFrom z (some k) t

/-- A sparse file is in its canonical form. -/
def sparseWf {α : Type} [DecidableEq α] (z : α) (l : List (Nat × α)) : Bool := sparseWfFrom z none l

/-- A set of numbers with `a` in it. -/
def setInsert : NatSet → Nat → NatSet
  | [], a => [a]
  | k :: t, a => if a < k then a :: k :: t else if a = k then k :: t else k :: setInsert t a

/-- A set of numbers without those from `lo` to `hi` - 1. -/
def setClear (l : NatSet) (lo hi : Nat) : NatSet := l.filter (fun k => decide (k < lo ∨ hi ≤ k))

/-- Numbers strictly rising. -/
def setWf : NatSet → Bool
  | [] => true
  | [_] => true
  | a :: b :: t => decide (a < b) && setWf (b :: t)

/-! ### Byte strings (R3: least significant byte first) -/

/-- The number the bytes spell, least significant first. -/
def leNat : Bytes → Nat
  | [] => 0
  | b :: t => b.toNat + 256 * leNat t

/-- `n` bytes of a number, least significant first. -/
def leBytes : Nat → Nat → Bytes
  | 0, _ => []
  | n + 1, v => BitVec.ofNat 8 v :: leBytes n (v / 256)

/-- The `n`-byte field at `off` of a record. Bytes past its end count as 0. -/
def fieldAt (b : Bytes) (off n : Nat) : Nat := leNat ((b.drop off).take n)

/-- `n` bytes at `off` of a record. -/
def slice (b : Bytes) (off n : Nat) : Bytes := (b.drop off).take n

/-- All bytes are 0. -/
def allZero (b : Bytes) : Bool := b.all (fun x => x == 0)

/-- Bits `hi` down to `lo` of a number. -/
def bits (v hi lo : Nat) : Nat := v / 2 ^ lo % 2 ^ (hi - lo + 1)

/-- Bit `i` of a number. -/
def bit (v i : Nat) : Bool := v / 2 ^ i % 2 == 1

/-- A truth value as a bit. -/
def ofBool (b : Bool) : Nat := if b then 1 else 0

/-- A number of `w` bits read as two's complement (Table 0-5). -/
def toSigned (w v : Nat) : Int := if v % 2 ^ w < 2 ^ (w - 1) then (v % 2 ^ w : Nat) else ((v % 2 ^ w : Nat) : Int) - (2 ^ w : Nat)

/-- The low `w` bits of an integer. -/
def ofSigned (w : Nat) (v : Int) : Nat := (v % ((2 ^ w : Nat) : Int)).toNat

/-- The bits of a word from `hi` down to `lo`, as a number. -/
def wField (w : Word) (hi lo : Nat) : Nat := bits w.toNat hi lo

/-- A word with bits `hi` down to `lo` replaced by the low bits of `v`. -/
def wWith (w : Word) (hi lo v : Nat) : Word :=
  BitVec.ofNat 32 (w.toNat - bits w.toNat hi lo * 2 ^ lo + v % 2 ^ (hi - lo + 1) * 2 ^ lo)

/-- Rounding up to a multiple of `m`. -/
def roundUp (v m : Nat) : Nat := (v + m - 1) / m * m

/-- Division rounding up. -/
def ceilDiv (v m : Nat) : Nat := (v + m - 1) / m

/-! ### CRC-32C -/

/-- One byte of CRC-32C, reflected polynomial 0x82F6_3B78, bit by bit. -/
def crcBits : Nat → BitVec 32 → BitVec 32
  | 0, c => c
  | n + 1, c => crcBits n (if c.getLsbD 0 then (c >>> 1) ^^^ 0x82F63B78#32 else c >>> 1)

/-- The running CRC-32C register over bytes. -/
def crcFold (c : BitVec 32) (b : Bytes) : BitVec 32 := b.foldl (fun c x => crcBits 8 (c ^^^ x.setWidth 32)) c

/-- CRC-32C (Castagnoli) of a byte string: initial value and final inversion all ones. -/
def crc32c (b : Bytes) : BitVec 32 := crcFold 0xFFFFFFFF#32 b ^^^ 0xFFFFFFFF#32

/-! ### Lists -/

/-- The `i`th entry, or `d`. -/
def nth {α : Type} (l : List α) (i : Nat) (d : α) : α := l.getD i d

/-- The list with its `i`th entry changed. -/
def modifyAt {α : Type} : List α → Nat → (α → α) → List α
  | [], _, _ => []
  | a :: t, 0, f => f a :: t
  | a :: t, i + 1, f => a :: modifyAt t i f

/-- Replace the entries that satisfy `p`. -/
def updWhere {α : Type} (l : List α) (p : α → Bool) (f : α → α) : List α := l.map (fun x => if p x then f x else x)

/-- Insert into a list kept rising under a key. -/
def insertBy {α : Type} (key : α → Nat) (x : α) : List α → List α
  | [] => [x]
  | a :: t => if key x < key a then x :: a :: t else a :: insertBy key x t

/-- The sum of a list of numbers. -/
def sumList (l : List Nat) : Nat := l.foldl (· + ·) 0

/-- The largest of a list of numbers, at least 0. -/
def maxList (l : List Nat) : Nat := l.foldl Nat.max 0

/-! ### Registers -/

/-- A word of PF0's registers. -/
def State.get (s : State) (off : Nat) : Word := sparseGet 0 s.pf0 off

/-- The same as a number. -/
def State.getN (s : State) (off : Nat) : Nat := (s.get off).toNat

/-- A field of one of PF0's registers. -/
def State.getF (s : State) (off hi lo : Nat) : Nat := wField (s.get off) hi lo

/-- A 64-bit pair of PF0's registers, low word at `off`. -/
def State.get64 (s : State) (off : Nat) : Nat := s.getN off + 2 ^ 32 * s.getN (off + 4)

/-- Write a word of PF0's registers. -/
def State.set (s : State) (off : Nat) (v : Word) : State := { s with pf0 := sparseSet 0 s.pf0 off v }

/-- Write a word given as a number, modulo 2^32. -/
def State.setN (s : State) (off v : Nat) : State := s.set off (BitVec.ofNat 32 v)

/-- Write a field of one of PF0's registers. -/
def State.setF (s : State) (off hi lo v : Nat) : State := s.set off (wWith (s.get off) hi lo v)

/-- Write a 64-bit pair. -/
def State.set64 (s : State) (off v : Nat) : State := (s.setN off v).setN (off + 4) (v / 2 ^ 32)

/-- Where a tenant's VF register lies in the VF file. -/
def vfKey (t off : Nat) : Nat := t * 0x40000 + off

/-- A word of tenant `t`'s VF registers. -/
def State.vget (s : State) (t off : Nat) : Word := sparseGet 0 s.vf (vfKey t off)

/-- The same as a number. -/
def State.vgetN (s : State) (t off : Nat) : Nat := (s.vget t off).toNat

/-- A 64-bit pair of a tenant's VF registers. -/
def State.vget64 (s : State) (t off : Nat) : Nat := s.vgetN t off + 2 ^ 32 * s.vgetN t (off + 4)

/-- Write a word of tenant `t`'s VF registers. -/
def State.vset (s : State) (t off : Nat) (v : Word) : State := { s with vf := sparseSet 0 s.vf (vfKey t off) v }

/-- Write a VF word given as a number. -/
def State.vsetN (s : State) (t off v : Nat) : State := s.vset t off (BitVec.ofNat 32 v)

/-- Write a field of a VF register. -/
def State.vsetF (s : State) (t off hi lo v : Nat) : State := s.vset t off (wWith (s.vget t off) hi lo v)

/-- Write a 64-bit pair of a VF's registers. -/
def State.vset64 (s : State) (t off v : Nat) : State := (s.vsetN t off v).vsetN t (off + 4) (v / 2 ^ 32)

/-- A free value of the model's own counter, and the state with the counter advanced. -/
def State.free (s : State) (w : Nat) : BitVec w × State := (Config.freeValue w s.freeNo, { s with freeNo := s.freeNo + 1 })

/-- Bytes of free values. -/
def State.freeBytes (s : State) : Nat → State × Bytes
  | 0 => (s, [])
  | n + 1 =>
    let d := s.free 8
    let r := d.2.freeBytes n
    (r.1, d.1 :: r.2)

/-- Something leaves the device. -/
def State.emit (s : State) (o : Out) : State := { s with out := s.out ++ [o] }

end Sys2Proof.Machine
end

