-- ==== Sys2Proof/Machine/Flags.lean ====
section
/-! DEFINITION. The codes of Table 21-8 (spec/21_faults_and_ordering.md, R14, R636), the counters with their limit behaviour (R642), the
event bits, and the event log's queue (R600, R643). -/

namespace Sys2Proof.Machine

/-- LODGE_UNIT_BIST_FAIL, kind E (Table 21-8). -/
def errLodgeUnitBistFail : Nat := 0x0101
/-- LODGE_MEM_BIST_FAIL, kind E (Table 21-8). -/
def errLodgeMemBistFail : Nat := 0x0102
/-- LODGE_UNIT_INTERNAL, kind F (Table 21-8). -/
def errLodgeUnitInternal : Nat := 0x0103
/-- UNIT_ABSENT, kind R (Table 21-8). -/
def errUnitAbsent : Nat := 0x0105
/-- LODGE_THERMAL_DERATE, kind E (Table 21-8). -/
def errLodgeThermalDerate : Nat := 0x0110
/-- LODGE_THERMAL_CRITICAL, kind E (Table 21-8). -/
def errLodgeThermalCritical : Nat := 0x0111
/-- LODGE_THERMAL_TRIP, kind E (Table 21-8). -/
def errLodgeThermalTrip : Nat := 0x0112
/-- LODGE_POWER_OVER, kind E (Table 21-8). -/
def errLodgePowerOver : Nat := 0x0113
/-- LODGE_THERMAL_CLEAR, kind E (Table 21-8). -/
def errLodgeThermalClear : Nat := 0x0114
/-- BEAT_TOO_SHORT, kind E (Table 21-8). -/
def errBeatTooShort : Nat := 0x0201
/-- BEAT_LOST, kind E (Table 21-8). -/
def errBeatLost : Nat := 0x0202
/-- SLIP_LIMIT, kind A (Table 21-8). -/
def errSlipLimit : Nat := 0x0203
/-- BEAT_NO_SOURCE, kind E (Table 21-8). -/
def errBeatNoSource : Nat := 0x0204
/-- BEAT_PERIOD_INVALID, kind R (Table 21-8). -/
def errBeatPeriodInvalid : Nat := 0x0205
/-- ROTA_FORMAT_INVALID, kind R (Table 21-8). -/
def errRotaFormatInvalid : Nat := 0x0301
/-- ROTA_PERIOD_MISMATCH, kind R (Table 21-8). -/
def errRotaPeriodMismatch : Nat := 0x0302
/-- ROTA_NO_WINDOWS, kind R (Table 21-8). -/
def errRotaNoWindows : Nat := 0x0303
/-- ROTA_STAKE_QUOTA, kind R (Table 21-8). -/
def errRotaStakeQuota : Nat := 0x0304
/-- ROTA_NO_HOOPS, kind R (Table 21-8). -/
def errRotaNoHoops : Nat := 0x0305
/-- ROTA_ORANGERY_FULL, kind R (Table 21-8). -/
def errRotaOrangeryFull : Nat := 0x0306
/-- ROTA_HBM_FULL, kind R (Table 21-8). -/
def errRotaHbmFull : Nat := 0x0307
/-- ROTA_BANDWIDTH, kind R (Table 21-8). -/
def errRotaBandwidth : Nat := 0x0308
/-- ROTA_POWER, kind R (Table 21-8). -/
def errRotaPower : Nat := 0x0309
/-- TASK_TOO_LATE, kind R (Table 21-8). -/
def errTaskTooLate : Nat := 0x030A
/-- ROTA_HANDLE_INVALID, kind R (Table 21-8). -/
def errRotaHandleInvalid : Nat := 0x030B
/-- ROTA_BINDING_INVALID, kind R (Table 21-8). -/
def errRotaBindingInvalid : Nat := 0x030C
/-- ROTA_COURSE_OVERRUN, kind A (Table 21-8). -/
def errRotaCourseOverrun : Nat := 0x030D
/-- ROTA_NO_COIL_CONTEXT, kind R (Table 21-8). -/
def errRotaNoCoilContext : Nat := 0x030E
/-- ROTA_SENSOR_PORT_BUSY, kind R (Table 21-8). -/
def errRotaSensorPortBusy : Nat := 0x030F
/-- ROTA_NET_STAGING, kind R (Table 21-8). -/
def errRotaNetStaging : Nat := 0x0310
/-- ROTA_PEER_WINDOW_BUSY, kind R (Table 21-8). -/
def errRotaPeerWindowBusy : Nat := 0x0311
/-- MEM_UNINIT_READ, kind F (Table 21-8). -/
def errMemUninitRead : Nat := 0x0401
/-- MEM_ECC_UNCORRECTABLE, kind F; also E where R630 and R633 log it, and C where R631 and R634 report it as the result of an update or command (Table 21-8). -/
def errMemEccUncorrectable : Nat := 0x0402
/-- MEM_OUT_OF_RANGE, kind F (Table 21-8). -/
def errMemOutOfRange : Nat := 0x0403
/-- MEM_NO_EXTENT, kind R (Table 21-8). -/
def errMemNoExtent : Nat := 0x0404
/-- MEM_ZERO_PENDING, kind R (Table 21-8). -/
def errMemZeroPending : Nat := 0x0405
/-- MEM_REGION_INVALID, kind R (Table 21-8). -/
def errMemRegionInvalid : Nat := 0x0406
/-- MEM_SOURCE_INVALID, kind R (Table 21-8). -/
def errMemSourceInvalid : Nat := 0x0407
/-- STRM_INDEX_RANGE, kind F (Table 21-8). -/
def errStrmIndexRange : Nat := 0x0501
/-- STRM_DESC_SEQ, kind F (Table 21-8). -/
def errStrmDescSeq : Nat := 0x0502
/-- STRM_DESC_INVALID, kind F (Table 21-8). -/
def errStrmDescInvalid : Nat := 0x0503
/-- STRM_OVERFLOW, kind F (Table 21-8). -/
def errStrmOverflow : Nat := 0x0504
/-- STRM_HOOP_MISUSE, kind F (Table 21-8). -/
def errStrmHoopMisuse : Nat := 0x0505
/-- STRM_GATE_WAIT, kind E (Table 21-8). -/
def errStrmGateWait : Nat := 0x0506
/-- STAKE_RANGE, kind F (Table 21-8). -/
def errStakeRange : Nat := 0x0601
/-- STAKE_OVER_RELEASE, kind F (Table 21-8). -/
def errStakeOverRelease : Nat := 0x0602
/-- STAKE_SIGNAL_INVALID, kind F (Table 21-8). -/
def errStakeSignalInvalid : Nat := 0x0603
/-- WEAVE_BATCH_INVALID, kind F (Table 21-8). -/
def errWeaveBatchInvalid : Nat := 0x0701
/-- WEAVE_OFFSETS_INVALID, kind F (Table 21-8). -/
def errWeaveOffsetsInvalid : Nat := 0x0702
/-- WEAVE_DICT_RANGE, kind F (Table 21-8). -/
def errWeaveDictRange : Nat := 0x0703
/-- WEAVE_BATCH_MISMATCH, kind F (Table 21-8). -/
def errWeaveBatchMismatch : Nat := 0x0704
/-- WEAVE_BOUNDS_UNSORTED, kind F (Table 21-8). -/
def errWeaveBoundsUnsorted : Nat := 0x0705
/-- WEAVE_NULL_COUNT_MISMATCH, kind F (Table 21-8). -/
def errWeaveNullCountMismatch : Nat := 0x0706
/-- JOIN_BUILD_OVERFLOW, kind F (Table 21-8). -/
def errJoinBuildOverflow : Nat := 0x0707
/-- WEAVE_KEY_TOO_LONG, kind F (Table 21-8). -/
def errWeaveKeyTooLong : Nat := 0x0708
/-- WEAVE_GROUP_OVERFLOW, kind F (Table 21-8). -/
def errWeaveGroupOverflow : Nat := 0x0709
/-- WEAVE_SEQ_OVERFLOW, kind F (Table 21-8). -/
def errWeaveSeqOverflow : Nat := 0x070A
/-- WEAVE_INDEX_RANGE, kind F (Table 21-8). -/
def errWeaveIndexRange : Nat := 0x070B
/-- WEAVE_SHAPE_MISMATCH, kind F (Table 21-8). -/
def errWeaveShapeMismatch : Nat := 0x070C
/-- WEAVE_ROW_LIMIT, kind F (Table 21-8). -/
def errWeaveRowLimit : Nat := 0x070D
/-- WEAVE_SAMPLE_ORDER, kind F (Table 21-8). -/
def errWeaveSampleOrder : Nat := 0x070E
/-- WEAVE_SAMPLE_INVALID, kind F (Table 21-8). -/
def errWeaveSampleInvalid : Nat := 0x070F
/-- QUO_BATCH_INVALID, kind F (Table 21-8). -/
def errQuoBatchInvalid : Nat := 0x0801
/-- QUO_BATCH_MISMATCH, kind F (Table 21-8). -/
def errQuoBatchMismatch : Nat := 0x0802
/-- QUO_SHAPE_MISMATCH, kind F (Table 21-8). -/
def errQuoShapeMismatch : Nat := 0x0803
/-- SEL_ROW_TOO_LONG, kind F (Table 21-8). -/
def errSelRowTooLong : Nat := 0x0901
/-- SEL_BATCH_INVALID, kind F (Table 21-8). -/
def errSelBatchInvalid : Nat := 0x0902
/-- SEL_LENGTH_MISMATCH, kind F (Table 21-8). -/
def errSelLengthMismatch : Nat := 0x0903
/-- COIL_ILLEGAL_CODE, kind F (Table 21-8). -/
def errCoilIllegalCode : Nat := 0x0A01
/-- COIL_DISTANCE_BEYOND_HISTORY, kind F (Table 21-8). -/
def errCoilDistanceBeyondHistory : Nat := 0x0A02
/-- COIL_LENGTH_OVERRUN, kind F (Table 21-8). -/
def errCoilLengthOverrun : Nat := 0x0A03
/-- COIL_CHECK_MISMATCH, kind F (Table 21-8). -/
def errCoilCheckMismatch : Nat := 0x0A04
/-- COIL_MISSING_REFERENCE, kind F (Table 21-8). -/
def errCoilMissingReference : Nat := 0x0A05
/-- COIL_TABLE_INVALID, kind F (Table 21-8). -/
def errCoilTableInvalid : Nat := 0x0A06
/-- COIL_TRUNCATED, kind F (Table 21-8). -/
def errCoilTruncated : Nat := 0x0A07
/-- COIL_OUTPUT_FULL, kind F (Table 21-8). -/
def errCoilOutputFull : Nat := 0x0A08
/-- COIL_HEADER_INVALID, kind F (Table 21-8). -/
def errCoilHeaderInvalid : Nat := 0x0A09
/-- COIL_CONTEXT_INVALID, kind R (Table 21-8). -/
def errCoilContextInvalid : Nat := 0x0A0A
/-- LAY_REACH, kind K (Table 21-8). -/
def errLayReach : Nat := 0x0B01
/-- LAY_SCALE_REACH, kind K (Table 21-8). -/
def errLayScaleReach : Nat := 0x0B02
/-- LAY_OUTPUT_OVERLAP, kind K (Table 21-8). -/
def errLayOutputOverlap : Nat := 0x0B03
/-- LAY_PACKED_GEOMETRY, kind K (Table 21-8). -/
def errLayPackedGeometry : Nat := 0x0B04
/-- LAY_TYPE, kind K (Table 21-8). -/
def errLayType : Nat := 0x0B05
/-- LAY_EXTENT, kind K (Table 21-8). -/
def errLayExtent : Nat := 0x0B06
/-- ARB_BATCH_INVALID, kind F (Table 21-8). -/
def errArbBatchInvalid : Nat := 0x0C01
/-- ARB_SHAPE_MISMATCH, kind F (Table 21-8). -/
def errArbShapeMismatch : Nat := 0x0C02
/-- ARB_ENSEMBLE_MISMATCH, kind F (Table 21-8). -/
def errArbEnsembleMismatch : Nat := 0x0C03
/-- ARB_NODE_INVALID, kind F (Table 21-8). -/
def errArbNodeInvalid : Nat := 0x0C04
/-- TRL_JOB_INVALID, kind F (Table 21-8). -/
def errTrlJobInvalid : Nat := 0x0D01
/-- TRL_JOB_TOO_LARGE, kind S (Table 21-8). -/
def errTrlJobTooLarge : Nat := 0x0D02
/-- STR_ILLEGAL_INSTR, kind F (Table 21-8). -/
def errStrIllegalInstr : Nat := 0x0E01
/-- STR_ACCESS_FAULT, kind F (Table 21-8). -/
def errStrAccessFault : Nat := 0x0E02
/-- STR_MISALIGNED, kind F (Table 21-8). -/
def errStrMisaligned : Nat := 0x0E03
/-- STR_ECALL_INVALID, kind F (Table 21-8). -/
def errStrEcallInvalid : Nat := 0x0E04
/-- STR_BREAKPOINT, kind F (Table 21-8). -/
def errStrBreakpoint : Nat := 0x0E05
/-- STR_CSR_INVALID, kind F (Table 21-8). -/
def errStrCsrInvalid : Nat := 0x0E06
/-- NET_LINK_DOWN, kind E (Table 21-8). -/
def errNetLinkDown : Nat := 0x0F01
/-- NET_PTP_UNLOCK, kind E (Table 21-8). -/
def errNetPtpUnlock : Nat := 0x0F02
/-- NET_QP_ERROR, kind E (Table 21-8). -/
def errNetQpError : Nat := 0x0F03
/-- NET_QP_STATE, kind R (Table 21-8). -/
def errNetQpState : Nat := 0x0F04
/-- NET_QP_BUSY, kind R (Table 21-8). -/
def errNetQpBusy : Nat := 0x0F05
/-- NET_QP_INVALID, kind R (Table 21-8). -/
def errNetQpInvalid : Nat := 0x0F06
/-- NET_MR_INVALID, kind R (Table 21-8). -/
def errNetMrInvalid : Nat := 0x0F07
/-- NET_BATCH_INVALID, kind F (Table 21-8). -/
def errNetBatchInvalid : Nat := 0x0F08
/-- NET_SHUF_PART_RANGE, kind F (Table 21-8). -/
def errNetShufPartRange : Nat := 0x0F09
/-- NET_SHUF_OVERFLOW, kind F (Table 21-8). -/
def errNetShufOverflow : Nat := 0x0F0A
/-- NET_SENSOR_ABSENT, kind S (Table 21-8). -/
def errNetSensorAbsent : Nat := 0x0F21
/-- HOST_LINK_DOWN, kind A; also E where R529 logs it, R where R529 refuses tasks with it, and C where R580 ends a command with it (Table 21-8). -/
def errHostLinkDown : Nat := 0x1001
/-- HOST_XLATE_FAULT, kind F (Table 21-8). -/
def errHostXlateFault : Nat := 0x1002
/-- HOST_CPL_TIMEOUT, kind F (Table 21-8). -/
def errHostCplTimeout : Nat := 0x1003
/-- HOST_READ_ERROR, kind F (Table 21-8). -/
def errHostReadError : Nat := 0x1004
/-- HOST_DESC_SEQ, kind R (Table 21-8). -/
def errHostDescSeq : Nat := 0x1005
/-- HOST_QUEUE_FAULT, kind E (Table 21-8). -/
def errHostQueueFault : Nat := 0x1006
/-- HOST_DOORBELL_INVALID, kind E (Table 21-8). -/
def errHostDoorbellInvalid : Nat := 0x1007
/-- HOST_QUIESCE_ABORT, kind A (Table 21-8). -/
def errHostQuiesceAbort : Nat := 0x1008
/-- HOST_TENANT_ORPHANED, kind R (Table 21-8). -/
def errHostTenantOrphaned : Nat := 0x1009
/-- HOST_QUEUE_INVALID, kind R (Table 21-8). -/
def errHostQueueInvalid : Nat := 0x100A
/-- TEN_INVALID, kind R (Table 21-8). -/
def errTenInvalid : Nat := 0x1101
/-- TEN_EXISTS, kind R (Table 21-8). -/
def errTenExists : Nat := 0x1102
/-- TEN_NOT_FOUND, kind R (Table 21-8). -/
def errTenNotFound : Nat := 0x1103
/-- TEN_WINDOW_CONFLICT, kind R (Table 21-8). -/
def errTenWindowConflict : Nat := 0x1104
/-- TEN_OVERGRANT, kind R (Table 21-8). -/
def errTenOvergrant : Nat := 0x1105
/-- TEN_SEQ_EXHAUSTED, kind R (Table 21-8). -/
def errTenSeqExhausted : Nat := 0x1106
/-- IMG_FACTORY_INVALID, kind E (Table 21-8). -/
def errImgFactoryInvalid : Nat := 0x1201
/-- IMG_SLOT_INVALID, kind E (Table 21-8). -/
def errImgSlotInvalid : Nat := 0x1202
/-- IMG_SLOT_FALLBACK, kind E (Table 21-8). -/
def errImgSlotFallback : Nat := 0x1203
/-- IMG_NO_VALID_SLOT, kind E (Table 21-8). -/
def errImgNoValidSlot : Nat := 0x1204
/-- IMG_VALUE_BOUNDED, kind E (Table 21-8). -/
def errImgValueBounded : Nat := 0x1205
/-- IMG_MASK_INVALID, kind E (Table 21-8). -/
def errImgMaskInvalid : Nat := 0x1206
/-- IMG_CAL_INVALID, kind E (Table 21-8). -/
def errImgCalInvalid : Nat := 0x1207
/-- IMG_RECORD_INVALID, kind E (Table 21-8). -/
def errImgRecordInvalid : Nat := 0x1208
/-- IMG_UPDATE_INVALID, kind R (Table 21-8). -/
def errImgUpdateInvalid : Nat := 0x1209
/-- IMG_FLASH_ERROR, kind C (Table 21-8). -/
def errImgFlashError : Nat := 0x120A
/-- IMG_FLASH_UNSUPPORTED, kind E (Table 21-8). -/
def errImgFlashUnsupported : Nat := 0x120B
/-- CFG_WOULD_BREAK, kind R (Table 21-8). -/
def errCfgWouldBreak : Nat := 0x1301
/-- CFG_PENDING, kind R (Table 21-8). -/
def errCfgPending : Nat := 0x1302
/-- CFG_RESET_ONLY, kind R (Table 21-8). -/
def errCfgResetOnly : Nat := 0x1303
/-- CFG_OVERGRANT, kind R (Table 21-8). -/
def errCfgOvergrant : Nat := 0x1304
/-- CFG_WINDOW_CONFLICT, kind R (Table 21-8). -/
def errCfgWindowConflict : Nat := 0x1305
/-- MBX_BUSY, kind R (Table 21-8). -/
def errMbxBusy : Nat := 0x1401
/-- MBX_UNKNOWN_COMMAND, kind R (Table 21-8). -/
def errMbxUnknownCommand : Nat := 0x1402
/-- MBX_ARG_INVALID, kind R (Table 21-8). -/
def errMbxArgInvalid : Nat := 0x1403
/-- MBX_SOURCE_FAULT, kind C (Table 21-8). -/
def errMbxSourceFault : Nat := 0x1404
/-- MBX_DEVICE_IN_USE, kind R (Table 21-8). -/
def errMbxDeviceInUse : Nat := 0x1405
/-- MBX_NOT_PERMITTED, kind R (Table 21-8). -/
def errMbxNotPermitted : Nat := 0x1406
/-- MBX_ABANDONED, kind C (Table 21-8). -/
def errMbxAbandoned : Nat := 0x1407

/-! ### Counters -/

/-- A saturating u32 count with `n` added (R641, R646). -/
def satAdd (w : Word) (n : Nat) : Word := BitVec.ofNat 32 (Nat.min (w.toNat + n) 0xFFFFFFFF)

/-- Add to a saturating count of PF0. -/
def State.count (s : State) (off n : Nat) : State := s.set off (satAdd (s.get off) n)

/-- Add to a saturating count of a tenant's VF. -/
def State.vcount (s : State) (t off n : Nat) : State := s.vset t off (satAdd (s.vget t off) n)

/-- Add to a modular u64 count of PF0. -/
def State.count64 (s : State) (off n : Nat) : State := s.set64 off (s.get64 off + n)

/-- Add to a modular u64 count of a tenant's VF. -/
def State.vcount64 (s : State) (t off n : Nat) : State := s.vset64 t off (s.vget64 t off + n)

/-- Set bits of an event register (access code W1C). -/
def State.raise (s : State) (off mask : Nat) : State := s.set off (s.get off ||| BitVec.ofNat 32 mask)

/-! ### MSI-X (R514) -/

/-- The key of vector `v` of function `f`. -/
def msixKey (f v : Nat) : Nat := 64 * f + v

/-- The masks let a vector of a function out. -/
def State.msixOpen (s : State) (k : Nat) : Bool := !s.msix.fmask.contains (k / 64) && s.msix.unmasked.contains k

/-- Function `f` signals vector `v`: sent, or kept pending while a mask holds it; nothing while MSI-X is off or the link is down. -/
def State.msg (s : State) (f v : Nat) : State :=
  if !s.host.dlUp || !s.msix.on.contains f then s
  else if s.msixOpen (msixKey f v) then s.emit (.msix f v)
  else { s with msix := { s.msix with pend := setInsert s.msix.pend (msixKey f v) } }

/-- The pending vectors that no mask holds any more go out. -/
def State.msixRelease (s : State) : State :=
  let go := s.msix.pend.filter (fun k => s.host.dlUp && s.msix.on.contains (k / 64) && s.msixOpen k)
  go.foldl (fun s k => s.emit (.msix (k / 64) (k % 64)))
    { s with msix := { s.msix with pend := s.msix.pend.filter (fun k => !go.contains k) } }

/-! ### The event log -/

/-- Classes of log entries (Table 20-4). -/
def clsEvent : Nat := 0
def clsCommand : Nat := 1
def clsAbort : Nat := 2
def clsTelemetry : Nat := 3

/-- No tenant, in the TENANT field of a log entry. -/
def noTenant : Nat := 0xFF

/-- An entry falls due: it waits in the queue of 256, and is lost and counted when the queue is full (R643). -/
def State.logEntry (s : State) (e : LogEntry) : State :=
  if s.log.queue.length < 256 then { s with log := { s.log with queue := s.log.queue ++ [e] } } else s.count rLodgeLogLostCnt 1

/-- An event of CLASS 0. -/
def State.logEvent (s : State) (code tenant detail arg0 arg1 : Nat) : State :=
  s.logEntry { code := code, cls := clsEvent, tenant := tenant, detail := detail, arg0 := arg0, arg1 := arg1 }

/-- An event whose two arguments Table 20-4 leaves to its code, where the spec states neither: free values (notes/assumptions/1.md). -/
def State.logOpen (s : State) (code tenant detail : Nat) : State :=
  let a := s.free 64
  let b := a.2.free 64
  b.2.logEvent code tenant detail a.1.toNat b.1.toNat

/-- An event whose second argument the spec does not state: a free value. -/
def State.logOne (s : State) (code tenant detail arg0 : Nat) : State :=
  let a := s.free 64
  a.2.logEvent code tenant detail arg0 a.1.toNat

end Sys2Proof.Machine
end

