-- ==== Sys2Proof/Machine/Memory.lean ====
section
/-! DEFINITION. Tenant memory (spec/04_memory.md): translation, reads and writes with their init tags and SECDED words, allocation and
zeroing of granules, and the scrub. -/

namespace Sys2Proof.Machine

/-! ### The part's figures (Tables 1-1 and 3-6) -/

/-- Orangery banks of 32 MiB. -/
def Part.banks : Part → Nat
  | .vz960 => 64 | .vz940 => 48 | .vz920 => 32

/-- HBM stacks of 24 GiB. -/
def Part.stacks : Part → Nat
  | .vz960 => 8 | .vz940 => 6 | .vz920 => 4

/-- HBM bytes per schedule-clock cycle. -/
def Part.hbmBpc : Part → Nat
  | .vz960 => 5000 | .vz940 => 3750 | .vz920 => 2500

/-- Maximum board power in watts. -/
def Part.boardW : Part → Nat
  | .vz960 => 640 | .vz940 => 520 | .vz920 => 380

/-- The image default of ADM_POWER_BUDGET_W. -/
def Part.budgetW : Part → Nat
  | .vz960 => 560 | .vz940 => 455 | .vz920 => 330

/-- The part code of LODGE_CAP_ID. -/
def Part.code : Part → Nat
  | .vz960 => 0x0960 | .vz940 => 0x0940 | .vz920 => 0x0920

/-- The Weave groups the part carries, one bit each (Table 1-5). -/
def Part.weaveMap : Part → Nat
  | .vz960 => 0xFFFF | .vz940 => 0x0FFF | .vz920 => 0x00FF

/-- The side units the part carries, laid out as LODGE_CAP_SIDE_MAP. -/
def Part.sideMap : Part → Nat
  | .vz960 => 0x3FFFF | .vz940 => 0x3C33F | .vz920 => 0x0C00F

/-- Physical HBM in granules of 4 MiB. -/
def Part.hbmGranules (p : Part) : Nat := p.stacks * 6144

/-- Physical Orangery in granules of 4 MiB. -/
def Part.oryGranules (p : Part) : Nat := p.banks * 8

/-- Network ports present, of LODGE_CAP_SIDE_MAP bits 17 to 14. -/
def State.portsPresent (s : State) : Nat :=
  ofBool (bit (s.getN rLodgeCapSideMap) 14) + ofBool (bit (s.getN rLodgeCapSideMap) 15)
    + ofBool (bit (s.getN rLodgeCapSideMap) 16) + ofBool (bit (s.getN rLodgeCapSideMap) 17)

/-- Granules the Lodge may allocate: physical HBM less the Lodge area and 256 MiB of transmit staging per present port (R118). -/
def State.allocatable (s : State) : Nat := s.chip.part.hbmGranules - 64 - 64 * s.portsPresent

/-! ### Tenants -/

/-- The tenant of a number. -/
def State.tenant? (s : State) (t : Nat) : Option Tenant := s.tenants.find? (fun x => x.id == t)

/-- The tenant exists: its creation is over. -/
def State.exists? (s : State) (t : Nat) : Bool := match s.tenant? t with | some x => x.phase != TenPhase.creating | none => false

/-- Change the tenant of a number. -/
def State.updTenant (s : State) (t : Nat) (f : Tenant → Tenant) : State :=
  { s with tenants := updWhere s.tenants (fun x => x.id == t) f }

/-- Address spaces of tenant memory (Table 4-1). -/
inductive Space where
  | hbm | ory
  deriving DecidableEq, Repr

/-- A tenant's extents in a memory. -/
def State.extents (s : State) (t : Nat) : Space → Runs
  | .hbm => match s.tenant? t with | some x => x.hbm | none => []
  | .ory => match s.tenant? t with | some x => x.ory | none => []

/-- Granules of a list of runs. -/
def runsLen (r : Runs) : Nat := sumList (r.map (·.2))

/-- The physical granule of tenant granule `g` (R119). -/
def granuleOf : Runs → Nat → Option Nat
  | [], _ => none
  | (b, l) :: t, g => if g < l then some (b + g) else granuleOf t (g - l)

/-- The physical address of a tenant address (R119); none faults. -/
def translate (ext : Runs) (a : Nat) : Option Nat :=
  match granuleOf ext (a / 0x400000) with
  | none => none
  | some g => some (g * 0x400000 + a % 0x400000)

/-- The physical addresses of `n` bytes from `a`; none when any piece faults, and then nothing is accessed (R120, R142). -/
def translateAll (ext : Runs) (a : Nat) : Nat → Option (List Nat)
  | 0 => some []
  | n + 1 => match translate ext a, translateAll ext (a + 1) n with
    | some p, some l => some (p :: l)
    | _, _ => none

/-! ### ECC words -/

/-- The list of words in error of a memory. -/
def State.errs (s : State) : Space → List (Nat × Nat)
  | .hbm => s.mem.hbmErr
  | .ory => s.mem.oryErr

/-- Bits in error in the aligned 64-bit word of number `w`. -/
def State.errOf (s : State) (sp : Space) (w : Nat) : Nat := sparseGet 0 (s.errs sp) w

/-- Set the number of bits in error of a word. -/
def State.setErr (s : State) (sp : Space) (w n : Nat) : State :=
  match sp with
  | .hbm => { s with mem := { s.mem with hbmErr := sparseSet 0 s.mem.hbmErr w n } }
  | .ory => { s with mem := { s.mem with oryErr := sparseSet 0 s.mem.oryErr w n } }

/-- The stack or bank of a physical address (R696, R114). -/
def State.unitOf (s : State) (sp : Space) (a : Nat) : Nat :=
  match sp with
  | .hbm => a / 256 % s.chip.part.stacks
  | .ory => a / 256 % s.chip.part.banks

/-- A corrected error is counted (R152). -/
def State.countCe (s : State) (sp : Space) : State :=
  match sp with
  | .hbm => s.count rMemHbmCeCnt 1
  | .ory => s.count rOryCeCnt 1

/-- An uncorrectable error is counted and recorded in MEM_UE_LAST (R151). -/
def State.countUe (s : State) (sp : Space) (w : Nat) : State :=
  let s := match sp with
    | .hbm => s.count rMemHbmUeCnt 1
    | .ory => s.count rOryUeCnt 1
  s.setN rMemUeLast (s.unitOf sp (w * 8) % 256 + (match sp with | .hbm => 0 | .ory => 0x100) + 0x80000000)

/-- How the SECDED code decodes a word: clean, corrected, uncorrectable, or silently wrong. Three or more bits in error leave the choice
open (R692): a free value makes it, and a wrong word is a free value too. -/
inductive EccOut where
  | clean | corrected | uncorrectable | wrong
  deriving DecidableEq, Repr

/-- Decode the word of number `w` on a read: corrected words are written back and counted (R152), uncorrectable ones counted and
recorded (R151). -/
def State.eccRead (s : State) (sp : Space) (w : Nat) : State × EccOut :=
  match s.errOf sp w with
  | 0 => (s, .clean)
  | 1 => ((s.setErr sp w 0).countCe sp, .corrected)
  | 2 => (s.countUe sp w, .uncorrectable)
  | _ =>
    let d := s.free 2
    if d.1 = 0 then (d.2.countUe sp w, .uncorrectable)
    else if d.1 = 1 then (d.2.countCe sp, .wrong)
    else (d.2, .wrong)

/-! ### Physical bytes -/

/-- A byte of physical memory; an unlisted byte reads 0 (R122). -/
def State.byteAt (s : State) (sp : Space) (a : Nat) : Byte :=
  match sp with
  | .hbm => sparseGet 0 s.mem.hbm a
  | .ory => sparseGet 0 s.mem.ory a

/-- Write a byte of physical memory. -/
def State.putByte (s : State) (sp : Space) (a : Nat) (b : Byte) : State :=
  match sp with
  | .hbm => { s with mem := { s.mem with hbm := sparseSet 0 s.mem.hbm a b } }
  | .ory => { s with mem := { s.mem with ory := sparseSet 0 s.mem.ory a b } }

/-- Write bytes at consecutive physical addresses. -/
def State.putBytes (s : State) (sp : Space) (a : Nat) : Bytes → State
  | [] => s
  | b :: t => (s.putByte sp a b).putBytes sp (a + 1) t

/-- The line of a physical Orangery address has been written since it was last cleared (R115). -/
def State.tagged (s : State) (line : Nat) : Bool := s.mem.tags.contains line

/-- The byte a clear line shows at an address: the tenant's fill pattern, little-endian (R127). -/
def fillByte (fill : Word) (a : Nat) : Byte := (fill >>> (8 * (a % 4))).setWidth 8

/-- Numbers with consecutive repeats dropped. -/
def dedupAdj : List Nat → List Nat
  | [] => []
  | [a] => [a]
  | a :: b :: t => if a = b then dedupAdj (b :: t) else a :: dedupAdj (b :: t)

/-- ECC over the words of a read, in order: the first uncorrectable word stops it. The result lists the words that came out wrong. -/
def State.eccReadAll (s : State) (sp : Space) : List Nat → State × Option (List Nat)
  | [] => (s, some [])
  | w :: t =>
    match s.eccRead sp w with
    | (s1, .uncorrectable) => (s1, none)
    | (s1, o) => match s1.eccReadAll sp t with
      | (s2, none) => (s2, none)
      | (s2, some l) => (s2, some (if o = .wrong then w :: l else l))

/-- The bytes a read returns: the fill pattern from clear lines, and free values from words whose decoding came out wrong (R692). -/
def State.gather (s : State) (sp : Space) (fill : Word) (wrong : List Nat) : List Nat → State × Bytes
  | [] => (s, [])
  | a :: t =>
    if sp = .ory ∧ s.tagged (a / 128) = false then
      let r := s.gather sp fill wrong t; (r.1, fillByte fill a :: r.2)
    else if wrong.contains (a / 8) then
      let d := s.free 8; let r := d.2.gather sp fill wrong t; (r.1, d.1 :: r.2)
    else
      let r := s.gather sp fill wrong t; (r.1, s.byteAt sp a :: r.2)

/-- A tenant's fill pattern in force (R127). -/
def State.fillOf (s : State) (t : Nat) : Word := s.get (rMemTenFill + 8 * t)

/-- Read `n` bytes of tenant memory at `a` as one access. `strict` says that the access is made for a Rota admitted at LEVEL 1, so that
UNINIT_ABORT applies (R129). The result is the bytes, or the code of the fault (Table 4-4). -/
def State.readMem (s : State) (t : Nat) (sp : Space) (strict : Bool) (a n : Nat) : State × Except Nat Bytes :=
  match translateAll (s.extents t sp) a n with
  | none => (s, .error errMemOutOfRange)
  | some pas =>
    let fresh := if sp = .ory then (dedupAdj (pas.map (· / 128))).filter (fun l => !s.tagged l) else []
    let s := s.vcount t vOryInitCnt fresh.length
    if fresh ≠ [] ∧ strict ∧ bit (s.getN (rMemTenCtrl + 8 * t)) 0 then (s, .error errMemUninitRead)
    else
      let words := dedupAdj ((pas.filter (fun p => sp = .hbm || s.tagged (p / 128))).map (· / 8))
      match s.eccReadAll sp words with
      | (s, none) => (s, .error errMemEccUncorrectable)
      | (s, some wrong) => let r := s.gather sp (s.fillOf t) wrong pas; (r.1, .ok r.2)

/-- Clear the errors of the 16 words of a line. -/
def State.clearLineErr (s : State) (line : Nat) : State :=
  { s with mem := { s.mem with oryErr := sparseClear s.mem.oryErr (line * 16) (line * 16 + 16) } }

/-- Fill a clear line with the fill pattern and set its tag, before the bytes of a write land in it (R128). -/
def State.openLine (s : State) (t line : Nat) : State :=
  if s.tagged line then s
  else
    let s := s.putBytes .ory (line * 128) ((List.range 128).map (fun i => fillByte (s.fillOf t) i))
    let s := s.clearLineErr line
    { s with mem := { s.mem with tags := setInsert s.mem.tags line } }

/-- A piece of a write that covers `k` bytes of a word: a whole word clears any error (R151); a part of a word corrects a single-bit
error first and counts it (R152), and faults on a double-bit one (R632). -/
def State.eccWrite (s : State) (sp : Space) (w k : Nat) : State × Bool :=
  if k = 8 then (s.setErr sp w 0, true)
  else match s.eccRead sp w with
    | (s1, .uncorrectable) => (s1, false)
    | (s1, .wrong) =>
      -- the merged word is written with a new code over whatever the decoding gave
      let d := s1.free 64
      ((d.2.setErr sp w 0).putBytes sp (w * 8) (leBytes 8 d.1.toNat), true)
    | (s1, _) => (s1, true)

/-- Write bytes at consecutive pieces of physical addresses, piece by piece in ascending order (R142). -/
def State.writePieces (s : State) (t : Nat) (sp : Space) : List (Nat × Byte) → Nat → State × Bool
  | [], _ => (s, true)
  | (a, b) :: rest, 0 =>
    -- first byte of a new word: how many bytes of the word follow
    let k := 1 + (rest.takeWhile (fun p => p.1 / 8 == a / 8)).length
    let s := if sp = .ory then s.openLine t (a / 128) else s
    match s.eccWrite sp (a / 8) k with
    | (s1, false) => (s1, false)
    | (s1, true) => (s1.putByte sp a b).writePieces t sp rest (k - 1)
  | (a, b) :: rest, k + 1 => (s.putByte sp a b).writePieces t sp rest k

/-- Write bytes to tenant memory at `a`; the result is the code of the fault, or none. -/
def State.writeMem (s : State) (t : Nat) (sp : Space) (a : Nat) (data : Bytes) : State × Option Nat :=
  match translateAll (s.extents t sp) a data.length with
  | none => (s, some errMemOutOfRange)
  | some pas => match s.writePieces t sp (pas.zip data) 0 with
    | (s1, true) => ({ s1 with mem := { s1.mem with writes := s1.mem.writes + 1 } }, none)
    | (s1, false) => (s1, some errMemEccUncorrectable)

/-- The tenant granule that lies at physical granule `g`, counting from tenant granule `k`. -/
def granuleFrom : Runs → Nat → Nat → Option Nat
  | [], _, _ => none
  | (b, l) :: t, k, g => if b ≤ g ∧ g < b + l then some (k + (g - b)) else granuleFrom t (k + l) g

/-- The tenant address of a physical address, the inverse of R119. -/
def untranslate (ext : Runs) (p : Nat) : Option Nat :=
  match granuleFrom ext 0 (p / 0x400000) with
  | none => none
  | some g => some (g * 0x400000 + p % 0x400000)

/-- Clear the init tags of the lines of a range of tenant Orangery addresses (R130). -/
def State.clearTags (s : State) (t a n : Nat) : State :=
  { s with mem := { s.mem with tags := s.mem.tags.filter (fun l =>
      match untranslate (s.extents t .ory) (l * 128) with
      | some x => !(decide (a < x + 128) && decide (x < a + n))
      | none => true) } }

/-! ### Granules -/

/-- Add granule `g` to a list of maximal runs. -/
def runsAdd : Runs → Nat → Runs
  | [], g => [(g, 1)]
  | (b, l) :: t, g =>
    if g + 1 < b then (g, 1) :: (b, l) :: t
    else if g + 1 = b then (g, l + 1) :: t
    else if g < b + l then (b, l) :: t
    else if g = b + l then
      match t with
      | (b2, l2) :: t2 => if b2 = g + 1 then (b, l + 1 + l2) :: t2 else (b, l + 1) :: t
      | [] => [(b, l + 1)]
    else (b, l) :: runsAdd t g

/-- Take the granules from `b` to `b + k` - 1, the first of a run, out of a list of runs. -/
def runsTake (r : Runs) (b k : Nat) : Runs :=
  r.filterMap (fun p => if p.1 = b then (if k < p.2 then some (p.1 + k, p.2 - k) else none) else some p)

/-- The longest run, the lowest on a tie. -/
def runsLongest : Runs → Option (Nat × Nat)
  | [] => none
  | p :: t => match runsLongest t with
    | none => some p
    | some q => if p.2 < q.2 then some q else some p

/-- Choose the physical granules to add to a tenant's extents (R121): the extents after it and the free runs left. `fuel` bounds the
number of runs taken. None when the free granules run out. -/
def growLoop : Nat → Runs → Runs → Nat → Option (Runs × Runs)
  | _, ext, free, 0 => some (ext, free)
  | 0, _, _, _ => none
  | n + 1, ext, free, need =>
    match free.find? (fun p => decide (need ≤ p.2)) with
    | some p => some (ext ++ [(p.1, need)], runsTake free p.1 need)
    | none => match runsLongest free with
      | none => none
      | some p => growLoop n (ext ++ [p]) (runsTake free p.1 p.2) (need - p.2)

/-- The first arm of R121: extend the last extent by the free run that follows it. -/
def growFirst (ext free : Runs) (need : Nat) : Runs × Runs × Nat :=
  match ext.getLast? with
  | none => (ext, free, need)
  | some e => match free.find? (fun p => p.1 == e.1 + e.2) with
    | none => (ext, free, need)
    | some p =>
      let k := Nat.min need p.2
      (ext.dropLast ++ [(e.1, e.2 + k)], runsTake free p.1 k, need - k)

/-- Grow a tenant's extents by `need` granules (R121): none when the free granules run out or the table would pass 16 extents. -/
def grow (ext free : Runs) (need : Nat) : Option (Runs × Runs) :=
  let f := growFirst ext free need
  match growLoop (f.2.1.length + 1) f.1 f.2.1 f.2.2 with
  | none => none
  | some r => if r.1.length ≤ 16 then some r else none

/-- Cut the top `k` granules off a tenant's extents: what remains, and the granules cut, in tenant order (R121). -/
def shrink (ext : Runs) (k : Nat) : Runs × List Nat :=
  let all := ext.flatMap (fun p => (List.range p.2).map (fun i => p.1 + i))
  let keep := runsLen ext - k
  let rec cut : Runs → Nat → Runs
    | [], _ => []
    | (b, l) :: t, n => if n = 0 then [] else if n < l then [(b, n)] else (b, l) :: cut t (n - l)
  (cut ext keep, all.drop keep)

/-- Add one granule to each of the runs of a list in ascending order. -/
def runsOf (l : List Nat) : Runs := l.foldl runsAdd []

/-- Freed HBM granules join the zeroing queue, ascending within the action (R122). -/
def State.freeHbm (s : State) (gs : List Nat) : State :=
  { s with mem := { s.mem with zeroQ := s.mem.zeroQ ++ runsOf gs } }

/-- Freed Orangery granules are free at once (R155). -/
def State.freeOry (s : State) (gs : List Nat) : State :=
  { s with mem := { s.mem with oryFree := gs.foldl runsAdd s.mem.oryFree } }

/-- Clear the init tags of physical Orangery granules (R124). -/
def State.clearGranuleTags (s : State) (gs : List Nat) : State :=
  { s with mem := { s.mem with tags := gs.foldl (fun l g => setClear l (g * 0x8000) (g * 0x8000 + 0x8000)) s.mem.tags } }

/-- A list of runs without the granules of one run. -/
def runsMinus (r : Runs) (q : Nat × Nat) : Runs :=
  r.flatMap (fun p =>
    (if p.1 < q.1 then [(p.1, Nat.min p.2 (q.1 - p.1))] else [])
      ++ (if q.1 + q.2 < p.1 + p.2 then [(Nat.max p.1 (q.1 + q.2), p.1 + p.2 - Nat.max p.1 (q.1 + q.2))] else []))

/-- A list of maximal runs with a further run of granules. -/
def runsPut (r : Runs) (q : Nat × Nat) : Runs :=
  (insertBy (fun p => p.1) q r).foldr (fun p acc => match acc with
    | (b, l) :: t => if p.1 + p.2 = b then (p.1, p.2 + l) :: t else p :: acc
    | [] => [p]) []

/-- The granules of a list of runs, in order. -/
def runsList (r : Runs) : List Nat := r.flatMap (fun p => (List.range p.2).map (fun i => p.1 + i))

end Sys2Proof.Machine
end

