-- ==== Sys2Proof/Machine/Operands.lean ====
section
/-! DEFINITION. The fields of the records a tenant gives the device, by the tables of spec/03 (Tables 3-1 to 3-5, 3-8, 3-9) and spec/05
(Tables 5-1 to 5-3). A Rota binary is kept whole; each field is read where it is used. -/

namespace Sys2Proof.Machine

/-! ### Rota header (Table 3-1) -/

def rhMagic (b : Bytes) : Nat := fieldAt b (0x0) 4
def rhVersion (b : Bytes) : Nat := fieldAt b (0x4) 2
def rhHdrBytes (b : Bytes) : Nat := fieldAt b (0x6) 2
def rhTotalBytes (b : Bytes) : Nat := fieldAt b (0x8) 4
def rhCrc (b : Bytes) : Nat := fieldAt b (0xC) 4
def rhSpan (b : Bytes) : Nat := fieldAt b (0x10) 1
def rhLevel (b : Bytes) : Nat := fieldAt b (0x11) 1
def rhPolicy (b : Bytes) : Nat := fieldAt b (0x12) 1
def rhFlags (b : Bytes) : Nat := fieldAt b (0x13) 1
def rhNCourse (b : Bytes) : Nat := fieldAt b (0x14) 2
def rhNTier (b : Bytes) : Nat := fieldAt b (0x16) 1
def rhNConsumer (b : Bytes) : Nat := fieldAt b (0x17) 1
def rhMinPeriod (b : Bytes) : Nat := fieldAt b (0x18) 8
def rhWatts (b : Bytes) : Nat := fieldAt b (0x20) 2
def rhStakes (b : Bytes) : Nat := fieldAt b (0x22) 2
def rhHoops (b : Bytes) : Nat := fieldAt b (0x24) 2
def rhStreams (b : Bytes) : Nat := fieldAt b (0x26) 2
def rhBwRead (b : Bytes) : Nat := fieldAt b (0x28) 2
def rhBwWrite (b : Bytes) : Nat := fieldAt b (0x2A) 2
def rhBwRemote (b : Bytes) : Nat := fieldAt b (0x2C) 2
def rhOryBytes (b : Bytes) : Nat := fieldAt b (0x30) 8
def rhHbmBytes (b : Bytes) : Nat := fieldAt b (0x38) 8
def rhCourseOff (b : Bytes) : Nat := fieldAt b (0x48) 4
def rhTierOff (b : Bytes) : Nat := fieldAt b (0x4C) 4
def rhLinkOff (b : Bytes) : Nat := fieldAt b (0x50) 4
def rhNLink (b : Bytes) : Nat := fieldAt b (0x54) 2
def rhNTable (b : Bytes) : Nat := fieldAt b (0x56) 2
def rhTableOff (b : Bytes) : Nat := fieldAt b (0x58) 4
def rhStreamOff (b : Bytes) : Nat := fieldAt b (0x5C) 4
def rhNStream (b : Bytes) : Nat := fieldAt b (0x60) 2
def rhNHoop (b : Bytes) : Nat := fieldAt b (0x62) 2
def rhHoopOff (b : Bytes) : Nat := fieldAt b (0x64) 4
def rhStrandOff (b : Bytes) : Nat := fieldAt b (0x68) 4
def rhStrandBytes (b : Bytes) : Nat := fieldAt b (0x6C) 4
def rhExpertOff (b : Bytes) : Nat := fieldAt b (0x70) 4
def rhExpertBytes (b : Bytes) : Nat := fieldAt b (0x74) 4

/-! ### Course record (Table 3-2) -/

def rcCourse (b : Bytes) (c : Nat) : Nat := fieldAt b (rhCourseOff b + 64 * c + 0x0) 1
def rcBeatOff (b : Bytes) (c : Nat) : Nat := fieldAt b (rhCourseOff b + 64 * c + 0x1) 1
def rcFlags (b : Bytes) (c : Nat) : Nat := fieldAt b (rhCourseOff b + 64 * c + 0x2) 1
def rcBodyCycles (b : Bytes) (c : Nat) : Nat := fieldAt b (rhCourseOff b + 64 * c + 0xC) 4
def rcHbmRead (b : Bytes) (c : Nat) : Nat := fieldAt b (rhCourseOff b + 64 * c + 0x10) 8
def rcHbmWrite (b : Bytes) (c : Nat) : Nat := fieldAt b (rhCourseOff b + 64 * c + 0x18) 8
def rcRemote (b : Bytes) (c : Nat) : Nat := fieldAt b (rhCourseOff b + 64 * c + 0x20) 8
def rcOryWork (b : Bytes) (c : Nat) : Nat := fieldAt b (rhCourseOff b + 64 * c + 0x28) 8
def rcTableFirst (b : Bytes) (c : Nat) : Nat := fieldAt b (rhCourseOff b + 64 * c + 0x30) 2
def rcTableCnt (b : Bytes) (c : Nat) : Nat := fieldAt b (rhCourseOff b + 64 * c + 0x32) 2
def rcStreamFirst (b : Bytes) (c : Nat) : Nat := fieldAt b (rhCourseOff b + 64 * c + 0x34) 2
def rcStreamCnt (b : Bytes) (c : Nat) : Nat := fieldAt b (rhCourseOff b + 64 * c + 0x36) 2
def rcLinkFirst (b : Bytes) (c : Nat) : Nat := fieldAt b (rhCourseOff b + 64 * c + 0x38) 2
def rcLinkCnt (b : Bytes) (c : Nat) : Nat := fieldAt b (rhCourseOff b + 64 * c + 0x3A) 2
def rcWatts (b : Bytes) (c : Nat) : Nat := fieldAt b (rhCourseOff b + 64 * c + 0x3C) 2

/-! ### Tier record (Table 3-3) -/

def rtTier (b : Bytes) (i : Nat) : Nat := fieldAt b (rhTierOff b + 16 * i + 0x0) 1
def rtCourse (b : Bytes) (i : Nat) : Nat := fieldAt b (rhTierOff b + 16 * i + 0x1) 1
def rtStreamFirst (b : Bytes) (i : Nat) : Nat := fieldAt b (rhTierOff b + 16 * i + 0x2) 2
def rtStreamCnt (b : Bytes) (i : Nat) : Nat := fieldAt b (rhTierOff b + 16 * i + 0x4) 2
def rtMaxBytes (b : Bytes) (i : Nat) : Nat := fieldAt b (rhTierOff b + 16 * i + 0x8) 8

/-! ### Link record (Table 3-4) -/

def rlStake (b : Bytes) (i : Nat) : Nat := fieldAt b (rhLinkOff b + 16 * i + 0x0) 2
def rlCourse (b : Bytes) (i : Nat) : Nat := fieldAt b (rhLinkOff b + 16 * i + 0x2) 1
def rlProdClass (b : Bytes) (i : Nat) : Nat := fieldAt b (rhLinkOff b + 16 * i + 0x4) 1
def rlProdInst (b : Bytes) (i : Nat) : Nat := fieldAt b (rhLinkOff b + 16 * i + 0x5) 1
def rlConsClass (b : Bytes) (i : Nat) : Nat := fieldAt b (rhLinkOff b + 16 * i + 0x6) 1
def rlConsInst (b : Bytes) (i : Nat) : Nat := fieldAt b (rhLinkOff b + 16 * i + 0x7) 1
def rlHoop (b : Bytes) (i : Nat) : Nat := fieldAt b (rhLinkOff b + 16 * i + 0x8) 2

/-! ### Orangery table record (Table 3-5) -/

def roTable (b : Bytes) (i : Nat) : Nat := fieldAt b (rhTableOff b + 32 * i + 0x0) 2
def roFlags (b : Bytes) (i : Nat) : Nat := fieldAt b (rhTableOff b + 32 * i + 0x2) 2
def roBytes (b : Bytes) (i : Nat) : Nat := fieldAt b (rhTableOff b + 32 * i + 0x8) 8
def roSrcStream (b : Bytes) (i : Nat) : Nat := fieldAt b (rhTableOff b + 32 * i + 0x10) 2
def roSrcOffset (b : Bytes) (i : Nat) : Nat := fieldAt b (rhTableOff b + 32 * i + 0x18) 8

/-! ### Stream descriptor (Table 5-1) -/

def rsStream (b : Bytes) (i : Nat) : Nat := fieldAt b (rhStreamOff b + 128 * i + 0x0) 2
def rsKind (b : Bytes) (i : Nat) : Nat := fieldAt b (rhStreamOff b + 128 * i + 0x2) 1
def rsSpace (b : Bytes) (i : Nat) : Nat := fieldAt b (rhStreamOff b + 128 * i + 0x3) 1
def rsFlags (b : Bytes) (i : Nat) : Nat := fieldAt b (rhStreamOff b + 128 * i + 0x4) 2
def rsHoop (b : Bytes) (i : Nat) : Nat := fieldAt b (rhStreamOff b + 128 * i + 0x6) 2
def rsDriver (b : Bytes) (i : Nat) : Nat := fieldAt b (rhStreamOff b + 128 * i + 0x8) 2
def rsTable (b : Bytes) (i : Nat) : Nat := fieldAt b (rhStreamOff b + 128 * i + 0xA) 2
def rsPerm (b : Bytes) (i : Nat) : Nat := fieldAt b (rhStreamOff b + 128 * i + 0xC) 2
def rsOutstanding (b : Bytes) (i : Nat) : Nat := fieldAt b (rhStreamOff b + 128 * i + 0xE) 2
def rsNDim (b : Bytes) (i : Nat) : Nat := fieldAt b (rhStreamOff b + 128 * i + 0x10) 1
def rsEtype (b : Bytes) (i : Nat) : Nat := fieldAt b (rhStreamOff b + 128 * i + 0x11) 1
def rsScaleCode (b : Bytes) (i : Nat) : Nat := fieldAt b (rhStreamOff b + 128 * i + 0x12) 1
def rsBurst (b : Bytes) (i : Nat) : Nat := fieldAt b (rhStreamOff b + 128 * i + 0x13) 1
def rsXferLog2 (b : Bytes) (i : Nat) : Nat := fieldAt b (rhStreamOff b + 128 * i + 0x14) 1
def rsTier (b : Bytes) (i : Nat) : Nat := fieldAt b (rhStreamOff b + 128 * i + 0x15) 1
def rsCoilEnc (b : Bytes) (i : Nat) : Nat := fieldAt b (rhStreamOff b + 128 * i + 0x16) 1
def rsOffset (b : Bytes) (i : Nat) : Nat := fieldAt b (rhStreamOff b + 128 * i + 0x18) 8
def rsBytes (b : Bytes) (i : Nat) : Nat := fieldAt b (rhStreamOff b + 128 * i + 0x20) 8
def rsScaleOffset (b : Bytes) (i : Nat) : Nat := fieldAt b (rhStreamOff b + 128 * i + 0x78) 8

/-! ### Hoop geometry record (Table 5-3) -/

def rpHoop (b : Bytes) (i : Nat) : Nat := fieldAt b (rhHoopOff b + 16 * i + 0x0) 2
def rpSlots (b : Bytes) (i : Nat) : Nat := fieldAt b (rhHoopOff b + 16 * i + 0x2) 1
def rpSlotLog2 (b : Bytes) (i : Nat) : Nat := fieldAt b (rhHoopOff b + 16 * i + 0x3) 1
def rpProd (b : Bytes) (i : Nat) : Nat := fieldAt b (rhHoopOff b + 16 * i + 0x4) 1
def rpProdInst (b : Bytes) (i : Nat) : Nat := fieldAt b (rhHoopOff b + 16 * i + 0x5) 1
def rpCons (b : Bytes) (i : Nat) : Nat := fieldAt b (rhHoopOff b + 16 * i + 0x6) 1
def rpConsInst (b : Bytes) (i : Nat) : Nat := fieldAt b (rhHoopOff b + 16 * i + 0x7) 1
def rpCourse (b : Bytes) (i : Nat) : Nat := fieldAt b (rhHoopOff b + 16 * i + 0x8) 1
def rpFlags (b : Bytes) (i : Nat) : Nat := fieldAt b (rhHoopOff b + 16 * i + 0x9) 1
def rpLink (b : Bytes) (i : Nat) : Nat := fieldAt b (rhHoopOff b + 16 * i + 0xA) 2

/-! ### Task descriptor (Table 3-8) -/

def tdHandle (b : Bytes) : Nat := fieldAt b (0x0) 4
def tdFlags (b : Bytes) : Nat := fieldAt b (0x4) 2
def tdSeq (b : Bytes) : Nat := fieldAt b (0x6) 2
def tdPubBeat (b : Bytes) : Nat := fieldAt b (0x8) 8
def tdBindAddr (b : Bytes) : Nat := fieldAt b (0x10) 8
def tdBindBytes (b : Bytes) : Nat := fieldAt b (0x18) 4
def tdSampleBase (b : Bytes) : Nat := fieldAt b (0x20) 8
def tdUserTag (b : Bytes) : Nat := fieldAt b (0x28) 8

/-! ### Arrays inside the records -/

/-- UNIT_PEAK of class code `k` (Table 3-1). -/
def rhUnitPeak (b : Bytes) (k : Nat) : Nat := fieldAt b (0x40 + (k - 1)) 1
/-- UNITS of class code `k` in course `c` (Table 3-2). -/
def rcUnits (b : Bytes) (c k : Nat) : Nat := fieldAt b (rhCourseOff b + 64 * c + 4 + (k - 1)) 1
/-- EXTENT of dimension `d` (Table 5-1). -/
def rsExtent (b : Bytes) (i d : Nat) : Nat := fieldAt b (rhStreamOff b + 128 * i + 0x28 + 8 * d) 8
/-- STRIDE of dimension `d`, an i64 (Table 5-1). -/
def rsStride (b : Bytes) (i d : Nat) : Int := toSigned 64 (fieldAt b (rhStreamOff b + 128 * i + 0x50 + 8 * d) 8)
/-- The source dimension delivered at output position `i` of PERM (Table 5-1). -/
def rsPermAt (b : Bytes) (st i : Nat) : Nat := bits (rsPerm b st) (3 * i + 2) (3 * i)
/-- DIR of KIND: an output stream. -/
def rsOut (b : Bytes) (i : Nat) : Bool := bit (rsKind b i) 0
/-- MODE of KIND: 0 strided, 1 indexed, 2 queued. -/
def rsMode (b : Bytes) (i : Nat) : Nat := bits (rsKind b i) 2 1
def rsPersistent (b : Bytes) (i : Nat) : Bool := bit (rsFlags b i) 0
def rsCoil (b : Bytes) (i : Nat) : Bool := bit (rsFlags b i) 1
def rsSubbyte (b : Bytes) (i : Nat) : Bool := bit (rsFlags b i) 2
/-- REUSE_POINT of a course (Table 3-2). -/
def rcReuse (b : Bytes) (c : Nat) : Bool := bit (rcFlags b c) 0
def roResident (b : Bytes) (i : Nat) : Bool := bit (roFlags b i) 0
def roParam (b : Bytes) (i : Nat) : Bool := bit (roFlags b i) 1
def rhStanding (b : Bytes) : Bool := bit (rhFlags b) 0
def rhHostIndependent (b : Bytes) : Bool := bit (rhFlags b) 1
/-- LINKED of a hoop (Table 5-3). -/
def rpLinked (b : Bytes) (i : Nat) : Bool := bit (rpFlags b i) 0
/-- Bytes of a slot. -/
def rpSlotBytes (b : Bytes) (i : Nat) : Nat := 2 ^ rpSlotLog2 b i

/-! ### Binding table (Table 3-9) -/

def btNStream (b : Bytes) : Nat := fieldAt b 0 2
def btNConsumer (b : Bytes) : Nat := fieldAt b 2 1
def btStream (b : Bytes) (i : Nat) : Nat := fieldAt b (0x10 + 32 * i) 2
def btFlags (b : Bytes) (i : Nat) : Nat := fieldAt b (0x10 + 32 * i + 2) 2
def btHost (b : Bytes) (i : Nat) : Bool := bit (btFlags b i) 0
def btBase (b : Bytes) (i : Nat) : Nat := fieldAt b (0x10 + 32 * i + 8) 8
def btBytes (b : Bytes) (i : Nat) : Nat := fieldAt b (0x10 + 32 * i + 16) 8
/-- Where consumer entry `k` lies. -/
def btConsOff (b : Bytes) (k : Nat) : Nat := 0x10 + 32 * btNStream b + 128 * k
def btPath (b : Bytes) (k : Nat) : Nat := fieldAt b (btConsOff b k) 1
def btPort (b : Bytes) (k : Nat) : Nat := fieldAt b (btConsOff b k + 1) 1
def btQp (b : Bytes) (k : Nat) : Nat := fieldAt b (btConsOff b k + 2) 2
def btRkey (b : Bytes) (k : Nat) : Nat := fieldAt b (btConsOff b k + 4) 4
def btRecordAddr (b : Bytes) (k : Nat) : Nat := fieldAt b (btConsOff b k + 8) 8
def btTierAddr (b : Bytes) (k t : Nat) : Nat := fieldAt b (btConsOff b k + 0x10 + 8 * t) 8
def btTierBytes (b : Bytes) (k t : Nat) : Nat := fieldAt b (btConsOff b k + 0x50 + 4 * t) 4

/-- The stream entry of a stream in a binding table. -/
def btFind (b : Bytes) (st : Nat) : Option Nat := (List.range (btNStream b)).find? (fun i => btStream b i == st)

/-- Carry an address on through the ranges that hold it; `fuel` bounds how many are passed. -/
def pinnedFrom (p : Ranges) : Nat → Nat → Nat
  | 0, a => a
  | n + 1, a => match p.find? (fun x => decide (x.1 ≤ a ∧ a < x.1 + x.2)) with
    | some x => pinnedFrom p n (x.1 + x.2)
    | none => a

/-- Every byte of a host buffer lies in the pinned ranges, where they are told (R109, R503). -/
def isPinned : Option Ranges → Nat → Nat → Bool
  | none, _, _ => true
  | some p, a, n => decide (a + n ≤ pinnedFrom p p.length a)

/-! ### What the records say together -/

/-- next(c) (R87): the course after `c`, or course 0 after the last. -/
def rotaNext (b : Bytes) (c : Nat) : Nat := if c + 1 < rhNCourse b then c + 1 else 0

/-- The table records a course uses. -/
def courseTables (b : Bytes) (c : Nat) : List Nat := (List.range (rcTableCnt b c)).map (fun i => rcTableFirst b c + i)

/-- The non-resident table records a course uses. -/
def courseLoose (b : Bytes) (c : Nat) : List Nat := (courseTables b c).filter (fun i => !roResident b i)

/-- The stream descriptors of a course. -/
def courseStreams (b : Bytes) (c : Nat) : List Nat := (List.range (rcStreamCnt b c)).map (fun i => rcStreamFirst b c + i)

/-- The hoop records of a course. -/
def courseHoops (b : Bytes) (c : Nat) : List Nat := (List.range (rhNHoop b)).filter (fun i => rpCourse b i == c)

/-- Bytes of tables, each rounded up to an Orangery line. -/
def tableSpan (b : Bytes) (l : List Nat) : Nat := sumList (l.map (fun i => roundUp (roBytes b i) 128))

/-- The table records in ascending TABLE number. -/
def tablesByNumber (b : Bytes) (l : List Nat) : List Nat := l.foldl (fun acc i => insertBy (fun j => roTable b j) i acc) []

/-- The resident records in ascending TABLE number. -/
def residentTables (b : Bytes) : List Nat :=
  tablesByNumber b ((List.range (rhNTable b)).filter (roResident b))

/-- The records that are RESIDENT and PARAM, in ascending TABLE number. -/
def spareTables (b : Bytes) : List Nat := (residentTables b).filter (roParam b)

/-- The handle's tenant (R94). -/
def handleTenant (h : Nat) : Nat := h / 2 ^ 24 % 256

end Sys2Proof.Machine
end

