-- ==== Sys2Proof/Machine/Lists.lean ====
section
/-! DEFINITION. The operation lists of a Rota binary (spec/07, 09, 10, 13, 14, 16): where each list lies, its descriptors, and which of them
read a hoop. -/

namespace Sys2Proof.Machine

/-! ### Where the lists lie -/

/-- The lists behind the hoop geometry records, in order: column and join operations, Quotient, Select, Arbour, sample, network. -/
inductive OpList where
  | weave | quotient | select | arbour | sample | network
  deriving DecidableEq, Repr

/-- The list after a list that starts at `at`. -/
def listEnd (b : Bytes) (off : Nat) : Nat := off + 16 + 64 * fieldAt b off 4

/-- The offset of a list's header. -/
def listAt (b : Bytes) : OpList → Nat
  | .weave => rhHoopOff b + 16 * rhNHoop b
  | .quotient => listEnd b (rhHoopOff b + 16 * rhNHoop b)
  | .select => listEnd b (listEnd b (rhHoopOff b + 16 * rhNHoop b))
  | .arbour => listEnd b (listEnd b (listEnd b (rhHoopOff b + 16 * rhNHoop b)))
  | .sample => listEnd b (listEnd b (listEnd b (listEnd b (rhHoopOff b + 16 * rhNHoop b))))
  | .network => listEnd b (listEnd b (listEnd b (listEnd b (listEnd b (rhHoopOff b + 16 * rhNHoop b)))))

/-- How many descriptors a list holds. -/
def listN (b : Bytes) (l : OpList) : Nat := fieldAt b (listAt b l) 4

/-- The offset of descriptor `i` in the binary. -/
def opOff (b : Bytes) (l : OpList) (i : Nat) : Nat := listAt b l + 16 + 64 * i

/-- Descriptor `i` of a list, 64 B. -/
def opRec (b : Bytes) (l : OpList) (i : Nat) : Bytes := slice b (opOff b l i) 64

/-- COURSE of a descriptor, at 0x02 in every list. -/
def opCourse (d : Bytes) : Nat := fieldAt d 2 1

/-- The descriptors of a list that a course runs. -/
def courseOps (b : Bytes) (l : OpList) (c : Nat) : List Nat :=
  (List.range (listN b l)).filter (fun i => opCourse (opRec b l i) == c)

/-- The expert extension a descriptor's EXPERT_OFF names, `n` bytes; zeros when there is none. -/
def expertExt (b : Bytes) (off n : Nat) : Bytes := if off = 0 then List.replicate n 0 else slice b (rhExpertOff b + off) n

/-! ### Keys: each reader of hoops under a number of its own -/

/-- The number of a list in keys. -/
def OpList.code : OpList → Nat
  | .weave => 1 | .quotient => 2 | .select => 3 | .arbour => 4 | .sample => 5 | .network => 6

/-- The key of an operation. -/
def opKey (l : OpList) (i : Nat) : Nat := 0x10000 * l.code + i

/-- The key of a stream that reads a hoop. -/
def streamKey (i : Nat) : Nat := 0x70000 + i

/-- The hoops an operation reads. -/
def opInputs (l : OpList) (d : Bytes) : List Nat :=
  (match l with
   | .weave => [fieldAt d 6 2, fieldAt d 8 2]
   | .quotient => [fieldAt d 8 2, fieldAt d 0xA 2]
   | .select => [fieldAt d 8 2, fieldAt d 0xA 2]
   | .arbour => [fieldAt d 8 2]
   | .sample =>
     if fieldAt d 3 1 = 2 then (List.range (fieldAt d 5 1)).map (fun i => fieldAt d (0x10 + 2 * i) 2)
     else [fieldAt d 6 2]
   | .network => if fieldAt d 3 1 = 2 then [fieldAt d 6 2, fieldAt d 8 2] else []).filter (fun h => h != 0xFFFF)

/-- The streams that read a hoop: an indexed stream reads its driver's hoop, a queued one its queue hoop, an output stream its own. -/
def streamReads (b : Bytes) (i : Nat) : List Nat :=
  (if rsOut b i then [rsHoop b i] else []) ++
  (if rsMode b i = 1 then [rsHoop b (rsDriver b i)] else if rsMode b i = 2 then [rsDriver b i] else [])

/-- The readers of hoop `h`, by key; a hoop that a Strand core consumes has none. -/
def hoopReaders (b : Bytes) (h : Nat) : List Nat :=
  let c := rpCourse b h
  let ops := [OpList.weave, .quotient, .select, .arbour, .sample, .network].flatMap (fun l =>
    ((courseOps b l c).filter (fun i => (opInputs l (opRec b l i)).contains h)).map (opKey l))
  ops ++ ((courseStreams b c).filter (fun i => (streamReads b i).contains h)).map streamKey

/-- The input stream that fills a hoop. -/
def hoopFeeder (b : Bytes) (h : Nat) : Option Nat :=
  (courseStreams b (rpCourse b h)).find? (fun i => !rsOut b i && rsHoop b i == h)

end Sys2Proof.Machine
end

