-- ==== Sys2Proof/Machine/HostPort.lean ====
section
/-! DEFINITION. How the device's accesses to tenant host space leave on the link (spec/17): the translation cache of R501, the accesses that
wait for a translation, and the order of R515 among what one tenant sends. -/

namespace Sys2Proof.Machine

/-- A cached translation lets an access to host byte `a` of a tenant go out (R501). -/
def State.mapped (s : State) (t a : Nat) (write : Bool) : Bool :=
  s.atc.any (fun x => x.tenant == t && decide (x.base ≤ a) && decide (a < x.base + 2 ^ x.log2) && (if write then x.write else x.read))

/-- One byte of each 4 KiB page an access touches: no page of a translation is smaller. -/
def hostPages (a n : Nat) : List Nat := a :: (List.range ((a + n - 1) / 4096 - a / 4096)).map (fun i => (a / 4096 + 1 + i) * 4096)

/-- The first page of an access without a translation. -/
def State.unmapped (s : State) (t a n : Nat) (write : Bool) : Option Nat :=
  if n = 0 then none else (hostPages a n).find? (fun p => !s.mapped t p write)

def HostReq.isMessage (q : HostReq) : Bool :=
  match q.use with
  | .message _ => true
  | _ => false

/-- The page an access waits for; a message needs none. -/
def State.waitsFor (s : State) (q : HostReq) : Option Nat :=
  if q.isMessage then none else s.unmapped q.tenant q.addr q.len q.data.isSome

/-- A tier write, which alone may be relaxed (R515). -/
def HostReq.isTier (q : HostReq) : Bool :=
  match q.use with
  | .tier _ _ _ _ _ => true
  | _ => false

/-- An access goes out on the link. -/
def State.hostSend (s : State) (q : HostReq) : State :=
  match q.use with
  | .message v => s.msg (q.tenant + 1) v
  | _ => match q.data with
    | some d => s.emit (.hostWrite (some q.tenant) q.addr d (q.isTier && s.host.relaxed.contains (q.tenant + 1)))
    | none =>
      let s := s.emit (.hostRead (some q.tenant) q.no q.addr q.len)
      { s with reads := s.reads ++ [q] }

/-- A tenant's access to host space: it goes out when its pages are translated and nothing the tenant sent earlier still waits (R501, R515,
R516); else it waits, and a translation is asked for. While the link is down a write is lost, and a read gets no completion
(notes/assumptions/25.md). -/
def State.hostReq (s : State) (t addr len : Nat) (data : Option Bytes) (use : HostUse) : State :=
  let q : HostReq := { no := s.hostNo, tenant := t, addr := addr, len := len, data := data, use := use }
  let s := { s with hostNo := s.hostNo + 1 }
  if !s.host.dlUp then (if data.isSome || q.isMessage then s else { s with reads := s.reads ++ [q] })
  else if s.held.any (fun x => x.tenant == t) then { s with held := s.held ++ [q] }
  else match s.waitsFor q with
    | none => s.hostSend q
    | some p => { s.emit (.xlate t p) with held := s.held ++ [q] }

/-- A posted write of a tenant. -/
def State.hostWrite (s : State) (t addr : Nat) (data : Bytes) (use : HostUse) : State := s.hostReq t addr data.length (some data) use

/-- A read of a tenant. -/
def State.hostRead (s : State) (t addr len : Nat) (use : HostUse) : State := s.hostReq t addr len none use

/-- An MSI-X message of a tenant's VF, after all it has sent (R515). -/
def State.message (s : State) (t vector : Nat) : State := s.hostReq t 0 0 none (.message vector)

/-- What waits at the front of a tenant's accesses goes out as far as translations allow; the next page is asked for. `fuel` counts accesses. -/
def State.releaseHeld (s : State) (t : Nat) : Nat → State
  | 0 => s
  | n + 1 =>
    match s.held.find? (fun x => x.tenant == t) with
    | none => s
    | some q => match s.waitsFor q with
      | some p => s.emit (.xlate t p)
      | none => (({ s with held := s.held.filter (fun x => x.no != q.no) } : State).hostSend q).releaseHeld t n

/-- Tier writes of a task still wait to go out (R49, R516). -/
def State.tierHeld (s : State) (h seq tier : Nat) : Bool := s.held.any (fun q => match q.use with
  | .tier a b c _ _ => a == h && b == seq && c == tier
  | _ => false)

end Sys2Proof.Machine
end

