-- ==== Sys2Proof/Machine/Tasks.lean ====
section
/-! DEFINITION. Rotas, tasks and courses as the rest of the device handles them: finding and changing them, where a course's areas lie
(R131, R133), aborting a task (R613 to R617), and the records of a batch (Tables 2-3, 17-3 and 17-4). -/

namespace Sys2Proof.Machine

/-! ### Finding and changing -/

def State.rota? (s : State) (h : Nat) : Option Rota := s.rotas.find? (fun r => r.handle == h)

def State.updRota (s : State) (h : Nat) (f : Rota → Rota) : State :=
  { s with rotas := updWhere s.rotas (fun r => r.handle == h) f }

def State.task? (s : State) (t seq : Nat) : Option Task := s.tasks.find? (fun x => x.tenant == t && x.seq == seq)

def State.updTask (s : State) (t seq : Nat) (f : Task → Task) : State :=
  { s with tasks := updWhere s.tasks (fun x => x.tenant == t && x.seq == seq) f }

/-- The admitted Rotas of a tenant, in admission order. -/
def State.rotasOf (s : State) (t : Nat) : List Rota := s.rotas.filter (fun r => handleTenant r.handle == t)

/-- The tasks of a tenant, in ascending sequence number. -/
def State.tasksOf (s : State) (t : Nat) : List Task := s.tasks.filter (fun x => x.tenant == t)

/-- The unpublished batches of a tenant, in ascending sequence number. -/
def State.unpublished (s : State) (t : Nat) : List Task := (s.tasksOf t).filter (fun x => !x.decided)

/-- The tenant's current epoch. -/
def State.epochOf (s : State) (t : Nat) : Nat := match s.tenant? t with | some x => x.epoch | none => 0

/-- Change the course a Rota runs. -/
def State.updCourse (s : State) (h : Nat) (f : CourseRun → CourseRun) : State :=
  s.updRota h (fun r => { r with course := r.course.map f })

/-! ### Staging windows of PEER_IN operations (Table 16-4, R480, R481) -/

def piCourse (d : Bytes) : Nat := fieldAt d 2 1
def piRows (d : Bytes) : Bool := bit (fieldAt d 5 1) 0
def piStream (d : Bytes) : Nat := fieldAt d 6 2
def piKey (d : Bytes) : Nat := fieldAt d 0xC 2
def piRowBytes (d : Bytes) : Nat := fieldAt d 0xE 2
def piSrc (d : Bytes) : Nat := fieldAt d 0x10 4
def piSrcBytes (d : Bytes) : Nat := fieldAt d 0x14 4
def piDepth (d : Bytes) : Nat := fieldAt d 0x18 1
def piOffset (d : Bytes) : Nat := fieldAt d 0x20 8

/-- The last course of a task has passed `c`, or will never reach it: it is decided or aborted and does not run `c`. -/
def Task.past (x : Task) (c : Nat) : Bool :=
  decide (c < x.nextCourse) || ((x.decided || x.abort.isSome) && !(x.busy && x.nextCourse == c))

/-- Beat `b` is retired for a window that course `c` of a Rota reads (R481). -/
def State.beatRetired (s : State) (h c b : Nat) : Bool :=
  match s.tasks.find? (fun x => x.handle == h && x.pub == b) with
  | some x => x.past c
  | none => decide (b < s.beat.number)

/-- The lowest beat from `b` on, in steps of DEPTH, that is not retired. -/
def State.ownerFrom (s : State) (h c depth : Nat) : Nat → Nat → Nat
  | 0, b => b
  | n + 1, b => if s.beatRetired h c b then s.ownerFrom h c depth n (b + depth) else b

/-- The entries of one window pass to the beats that own them now; the marks of a retired beat lapse. -/
def State.ownersOf (s : State) (r : Rota) (p : PeerIn) : PeerIn :=
  let d := opRec r.bin .network p.nop
  let next := p.owners.map (s.ownerFrom r.handle (piCourse d) (piDepth d) 64)
  { p with owners := next,
           marks := (List.range p.marks.length).map (fun e => if nth next e 0 = nth p.owners e 0 then nth p.marks e [] else []) }

/-- Every window of a Rota. -/
def State.settleOwners (s : State) (h : Nat) : State :=
  match s.rota? h with
  | none => s
  | some r => s.updRota h (fun q => { q with peers := r.peers.map (s.ownersOf r) })

/-! ### The Orangery range of a Rota (R131, R133) -/

/-- IMAGE_BYTES of the Strand package (Table 15-3), 0 without one. -/
def strandImage (b : Bytes) : Nat := if rhStrandOff b = 0 then 0 else fieldAt b (rhStrandOff b + 0x14) 4

/-- Bytes of the resident area: the resident tables, the spare copies, and the Strand image. -/
def residentSpan (b : Bytes) : Nat :=
  tableSpan b (residentTables b) + tableSpan b (spareTables b) + roundUp (strandImage b) 128

/-- Bytes of a Rota's Orangery range. -/
def orySpan (b : Bytes) : Nat := roundUp (rhOryBytes b) 128

/-- Bytes of the work ring. -/
def ringSpan (b : Bytes) : Nat := orySpan b - residentSpan b

/-- Offset of record `i` in a list of areas laid out in order. -/
def offsetIn (b : Bytes) : List Nat → Nat → Nat
  | [], _ => 0
  | j :: t, i => if i = j then 0 else roundUp (roBytes b j) 128 + offsetIn b t i

/-- Tenant Orangery address of the first copy of a resident table, of its spare copy, and of the Strand image. -/
def Rota.residentAt (r : Rota) (i : Nat) : Nat := r.oryBase + offsetIn r.bin (residentTables r.bin) i
def Rota.spareAt (r : Rota) (i : Nat) : Nat :=
  r.oryBase + tableSpan r.bin (residentTables r.bin) + offsetIn r.bin (spareTables r.bin) i
def Rota.strandAt (r : Rota) : Nat :=
  r.oryBase + tableSpan r.bin (residentTables r.bin) + tableSpan r.bin (spareTables r.bin)

/-- Tenant Orangery address of offset `o` of the work ring; areas wrap from its end to its start (R133). -/
def Rota.ringAt (r : Rota) (o : Nat) : Nat :=
  r.oryBase + residentSpan r.bin + (if ringSpan r.bin = 0 then 0 else o % ringSpan r.bin)

/-- Ring offset of the work area of the course whose tables start at `r.ring`. -/
def Rota.workOff (r : Rota) (c : Nat) : Nat := r.ring + tableSpan r.bin (courseLoose r.bin c)

/-- Ring offset of the standby area of course `c`. -/
def Rota.standbyOff (r : Rota) (c : Nat) : Nat := r.workOff c + roundUp (rcOryWork r.bin c) 128

/-- The region of a table record, if it carries PARAM. -/
def Rota.region? (r : Rota) (i : Nat) : Option Region := r.regions.find? (fun g => g.table == roTable r.bin i)

/-- Tenant Orangery address at which the course that runs finds byte `o` of table record `i`: the current copy of a resident table, or
the table area of the ring. -/
def Rota.tableAt (r : Rota) (c i o : Nat) : Nat :=
  if roResident r.bin i then
    match r.region? i with
    | some g => (if g.spare then r.spareAt i else r.residentAt i) + o
    | none => r.residentAt i + o
  else r.ringAt (r.ring + offsetIn r.bin (courseLoose r.bin c) i + o)

/-- Tenant Orangery addresses of `n` bytes of the ring from offset `o`, in order. -/
def Rota.ringAddrs (r : Rota) (o n : Nat) : List Nat := (List.range n).map (fun i => r.ringAt (o + i))

/-- The Rota was admitted at LEVEL 1, so UNINIT_ABORT applies to its reads (R129). -/
def Rota.strict (r : Rota) : Bool := rhLevel r.bin == 1

/-- Read `n` bytes of a Rota's ring at offset `o`: the part up to the ring's end, then the part that wraps. -/
def State.readRing (s : State) (r : Rota) (o n : Nat) : State × Except Nat Bytes :=
  let t := handleTenant r.handle
  let size := ringSpan r.bin
  let first := if size = 0 then n else Nat.min n (size - o % size)
  match s.readMem t .ory r.strict (r.ringAt o) first with
  | (s, .error e) => (s, .error e)
  | (s, .ok a) =>
    if n ≤ first then (s, .ok a)
    else match s.readMem t .ory r.strict (r.ringAt (o + first)) (n - first) with
      | (s, .error e) => (s, .error e)
      | (s, .ok b) => (s, .ok (a ++ b))

/-- Write bytes to a Rota's ring at offset `o`. -/
def State.writeRing (s : State) (r : Rota) (o : Nat) (data : Bytes) : State × Option Nat :=
  let t := handleTenant r.handle
  let size := ringSpan r.bin
  let first := if size = 0 then data.length else Nat.min data.length (size - o % size)
  match s.writeMem t .ory (r.ringAt o) (data.take first) with
  | (s, some e) => (s, some e)
  | (s, none) => if data.length ≤ first then (s, none) else s.writeMem t .ory (r.ringAt (o + first)) (data.drop first)

/-- Read `n` bytes of table record `i` at byte `o` for course `c`. -/
def State.readTable (s : State) (r : Rota) (c i o n : Nat) : State × Except Nat Bytes :=
  if roResident r.bin i then s.readMem (handleTenant r.handle) .ory r.strict (r.tableAt c i o) n
  else s.readRing r (r.ring + offsetIn r.bin (courseLoose r.bin c) i + o) n

/-! ### Stakes (R216, R217, R222) -/

def State.stake (s : State) (p : Nat) : Stake := sparseGet { full := 0, empty := 0 } s.stakes p

def State.setStake (s : State) (p : Nat) (v : Stake) : State :=
  { s with stakes := sparseSet { full := 0, empty := 0 } s.stakes p v }

/-- Every pair mapped to a Rota is set to 0 (R222, R231). -/
def State.clearStakes (s : State) (pairs : List Nat) : State :=
  pairs.foldl (fun s p => s.setStake p { full := 0, empty := 0 }) s

/-- `reached` of R216: counter `c` has reached target `t`, modulo 2^32. -/
def reached (c t : Nat) : Bool := decide (0 ≤ toSigned 32 (ofSigned 32 ((c : Int) - (t : Int))))

/-- A counter of a pair. -/
def Stake.count (k : Stake) (full : Bool) : Nat := if full then k.full else k.empty

/-- SIGNAL(counter, n) on a pair, modulo 2^32 (R216). -/
def State.signal (s : State) (p : Nat) (full : Bool) (n : Nat) : State :=
  let k := s.stake p
  s.setStake p (if full then { k with full := (k.full + n) % 2 ^ 32 } else { k with empty := (k.empty + n) % 2 ^ 32 })

/-- STAKE_OVER_RELEASE: FULL - EMPTY is negative (R217). -/
def Stake.overReleased (k : Stake) : Bool := !reached k.full k.empty

/-! ### Coil contexts -/

/-- A cleared context: no history and no base frame (R185). -/
def Coil.empty : Coil :=
  { hist := [], width := 0, base := [], baseId := none, baseWidth := 0, counts := [], countsValid := false, frames := 0 }

/-! ### The course of an abort (R613 to R617) -/

/-- The fault counter and the LAST_ERR register of a unit's tenant block, by unit number (Tables 5-9 to 17-9). -/
def unitRegs (unit : Nat) : Option Nat × Option Nat :=
  if unit = 0x05 then (none, some vStrmTLastErr)
  else if unit = 0x06 then (some vStakeTFaultCnt, some vStakeTLastErr)
  else if unit = 0x07 then (some vWeaveTFaultCnt, some vWeaveTLastErr)
  else if unit = 0x08 then (some vQuoTFaultCnt, some vQuoTLastErr)
  else if unit = 0x09 then (some vSelTFaultCnt, some vSelTLastErr)
  else if unit = 0x0A then (some vCoilTFaultCnt, some vCoilTLastErr)
  else if unit = 0x0C then (some vArbTFaultCnt, some vArbTLastErr)
  else if unit = 0x0D then (some vTrlTFaultCnt, some vTrlTLastErr)
  else if unit = 0x0E then (some vStrTFaultCnt, some vStrTLastErr)
  else if unit = 0x0F then (some vNetTFaultCnt, some vNetTLastErr)
  else if unit = 0x10 then (some vHostTFaultCnt, some vHostTLastErr)
  else (none, none)

/-- A fault adds to its unit's counter and sets its LAST_ERR register; a cause of STR_ABORT has a counter of its own (R460),
and the abort causes of the host logic have none. -/
def State.unitFault (s : State) (t code : Nat) : State :=
  let r := if 0x0E80 ≤ code ∧ code ≤ 0x0EFF then (some vStrTAbortCnt, some vStrTLastErr)
    else if code = errHostLinkDown ∨ code = errHostQuiesceAbort then (none, none)
    else unitRegs (code / 256)
  let s := match r.1 with | some c => s.vcount t c 1 | none => s
  match r.2 with | some e => s.vsetF t e 15 0 code | none => s

/-- The Rota stops its course: the hoops, streams and operations go, the stakes are cleared, and the standby tables become the table area
of the next course, which belongs to another task (R614). -/
def Rota.dropCourse (r : Rota) : Rota :=
  match r.course with
  | none => r
  | some c => { r with course := none, ring := r.standbyOff c.course, standby := some (rotaNext r.bin c.course) }

/-- The Coil contexts of the PERSISTENT streams of courses 0 to `c` are cleared, their base and size kept (R196). -/
def Rota.clearCoil (r : Rota) (c : Nat) : Rota :=
  { r with streams := (List.range r.streams.length).map (fun i =>
      let x := nth r.streams i { ctx := 0, armed := false, host := false, base := 0, size := 0, coil := Coil.empty }
      if (List.range (c + 1)).any (fun k => (courseStreams r.bin k).contains i) then { x with coil := Coil.empty } else x) }

/-- The course a task runs now, in its Rota. -/
def State.courseOf (s : State) (x : Task) : Option CourseRun :=
  match s.rota? x.handle with
  | none => none
  | some r => match r.course with
    | none => none
    | some c => if c.seq = x.seq then some c else none

/-- COURSE of the abort detail word: the running course, else the last one started, else 0xFF (Table 21-4). -/
def State.courseByte (s : State) (x : Task) : Nat :=
  match s.courseOf x with
  | some c => c.course
  | none => if x.nextCourse = 0 then 0xFF else x.nextCourse - 1

/-- Stop the course a task runs and everything that works for it (R196, R613, R614). -/
def State.stopTask (s : State) (x : Task) : State :=
  match s.courseOf x, s.rota? x.handle with
  | some c, some r =>
    let s := { s.clearStakes r.pairs with waits := s.waits.filter (fun w => w.handle != x.handle) }
    (s.updRota x.handle (fun r => (r.clearCoil c.course).dropCourse)).updTask x.tenant x.seq
      (fun x => { x with busy := false })
  | _, _ => s

/-- Latch a fault or abort cause of a task: log it, count it, stop the task's course, and mark its batch aborted. A task that is already
aborted takes no second one (R623, R624). A fault after the cut leaves the decided record as it stands (R620). `cls` is the class code of
the detecting agent, and `co` says that another fault of the task fell in the same cycle (R622). -/
def State.abortWith (s : State) (co : Bool) (t seq code inst ctx elem cls : Nat) : State :=
  match s.task? t seq with
  | none => s
  | some x =>
    if x.abort.isSome then s
    else
      let detail := s.courseByte x + (if co then 0x100 else 0) + (if x.decided then 0x200 else 0) + cls * 0x10000
      let s := (if co then s.vcount t vRotaTCoincidentCnt 1 else s)
      let s := s.unitFault t code
      let s := s.logEntry { code := code, cls := clsAbort, tenant := t, detail := detail, arg0 := seq + s.epochOf t * 2 ^ 32,
                            arg1 := inst % 256 + ctx % 65536 * 256 }
      let s := if x.decided then s.vcount t vRotaTAfterCutCnt 1
        else (((s.vcount t vRotaTAbortCnt 1).vsetF t vRotaTAbortLast 15 0 code).vsetN t vRotaTAbortSeq seq).vsetN t vRotaTAbortDetail detail
      ((s.stopTask x).updTask t seq (fun x => { x with
        abort := some { code := code, inst := inst, ctx := ctx, elem := elem, detail := detail } })).settleOwners x.handle

/-- The same for a fault that falls in a cycle of its own. -/
def State.abortTask (s : State) (t seq code inst ctx elem cls : Nat) : State := s.abortWith false t seq code inst ctx elem cls

/-! ### Records -/

/-- The publication record of Table 2-3. -/
def pubRecord (seq epoch flags pub assigned map err slip : Nat) (src : List Nat) : Bytes :=
  leBytes 4 seq ++ leBytes 2 epoch ++ leBytes 2 flags ++ leBytes 8 pub ++ leBytes 8 assigned ++ leBytes 2 map ++ leBytes 2 err
    ++ leBytes 2 (Nat.min slip 0xFFFF) ++ leBytes 2 0 ++ (src.map (leBytes 4)).flatten

/-- The completion record of Table 17-3, its KIND area given. -/
def complRecord (seq flags descSeq tag err : Nat) (area : Bytes) : Bytes :=
  leBytes 4 seq ++ leBytes 2 flags ++ leBytes 2 descSeq ++ leBytes 8 tag ++ leBytes 2 err ++ area

/-- The KIND 0 area of Table 17-4. -/
def area0 (map pub assigned : Nat) : Bytes := leBytes 2 map ++ leBytes 6 pub ++ leBytes 6 assigned

/-- The KIND 1 area of Table 17-4. -/
def area1 (inst ctx elem : Nat) : Bytes := leBytes 1 inst ++ leBytes 1 0 ++ leBytes 2 ctx ++ leBytes 2 0 ++ leBytes 8 elem

/-- The KIND 2 area of Table 17-4. -/
def area2 (detail : Nat) : Bytes := leBytes 2 0 ++ leBytes 4 detail ++ leBytes 8 0

/-- Change a queue pair of a tenant. -/
def State.updQueue (s : State) (t q : Nat) (f : HostQueue → HostQueue) : State :=
  s.updTenant t (fun x => { x with queues := modifyAt x.queues q f })

/-- A queue pair of a tenant. -/
def State.queue (s : State) (t q : Nat) : HostQueue :=
  match s.tenant? t with
  | some x => nth x.queues q HostQueue.reset
  | none => HostQueue.reset

/-- A disabled pair clears ENABLED once no fetched descriptor of it still waits for its record (R522). -/
def State.settleQueue (s : State) (t q : Nat) : State :=
  let k := s.queue t q
  if k.stopping && (s.tasksOf t).all (fun x => decide (x.queue ≠ some q) || x.decided) &&
      (match s.tenant? t with | some x => x.fetched.all (fun f => decide (f.queue ≠ q)) | none => true) then
    s.updQueue t q (fun k => { k with enabled := false, stopping := false })
  else s

/-- Write a completion record at the CQ tail of a pair and advance it, the phase inverting at the wrap (R513); a record that cannot be
delivered is dropped and counted (R525). -/
def State.complete (s : State) (t q : Nat) (mk : Nat → Bytes) : State :=
  let k := s.queue t q
  if !s.host.dlUp || !k.enabled || k.fault then s.vcount t vHostTRecDropCnt 1
  else
    let s := s.hostWrite t (k.cqBase + 32 * k.cqTail) (mk (ofBool k.phase)) (.completion q)
    let tail := (k.cqTail + 1) % 2 ^ k.cqLog
    s.updQueue t q (fun k => { k with cqTail := tail, phase := if tail = 0 then !k.phase else k.phase })

/-! ### Sending to peers (R475 to R478) -/

/-- A queue pair of a tenant. -/
def State.qp? (s : State) (t q : Nat) : Option Qp := s.qps.find? (fun x => x.tenant == t && x.q == q)

def State.updQp (s : State) (t q : Nat) (f : Qp → Qp) : State :=
  { s with qps := updWhere s.qps (fun x => x.tenant == t && x.q == q) f }

/-- The transmit staging reserved for a Rota: twice its largest course REMOTE, rounded up to 4 MiB (R477). -/
def stagingOf (b : Bytes) : Nat := roundUp (2 * maxList ((List.range (rhNCourse b)).map (rcRemote b))) 0x400000

/-- The bytes of a Rota in transmit staging. -/
def State.stagedOut (s : State) (h : Nat) : Nat :=
  sumList (s.qps.map (fun q => sumList ((q.unacked.filter (fun w => w.handle == h)).map (·.data.length))))

/-- A network port. -/
def State.port (s : State) (p : Nat) : NetPort := nth s.net p NetPort.reset

def State.updPort (s : State) (p : Nat) (f : NetPort → NetPort) : State := { s with net := modifyAt s.net p f }

/-- A port transmits on the RoCE priority: its link is up and its peer does not hold it paused (R464). -/
def State.portOpen (s : State) (p : Nat) : Bool := bit (s.getN (rNetPortStatus + 0x100 * p)) 0 && (s.port p).paused == 0

/-- The port of a queue pair, and the bytes of one of its packets (Table 16-3). -/
def Qp.port (k : Qp) : Nat := fieldAt k.ctx 0 1
def Qp.mtu (k : Qp) : Nat := 1024 * 2 ^ fieldAt k.ctx 2 1

/-- Packets of `n` bytes: at least one. -/
def Qp.packets (k : Qp) (n : Nat) : Nat := Nat.max 1 (ceilDiv n k.mtu)

/-- A message goes out on the wire. -/
def State.transmit (s : State) (k : Qp) (w : QpWrite) : State :=
  if w.send then s.emit (.peerSend k.port k.tenant k.q w.psn w.data)
  else s.emit (.peerWrite k.port k.tenant k.q w.psn w.rkey w.addr w.data w.seq)

/-- Send a message of its Rota to a peer on a queue pair; false when it is discarded, because the queue pair is not in RTS, or because the
slot would overflow the Rota's staging while this pair holds unacknowledged bytes of it (R478). A message a closed port cannot transmit yet
waits among the unacknowledged ones. -/
def State.peerSend (s : State) (t q : Nat) (w : QpWrite) : State × Bool :=
  match s.qp? t q with
  | none => (s, false)
  | some k =>
    let room := match s.rota? w.handle with | some r => stagingOf r.bin | none => 0
    let full := w.tier.isSome && decide (room < s.stagedOut w.handle + w.data.length) && k.unacked.any (fun x => x.handle == w.handle)
    if k.st ≠ 3 ∨ full then (if w.tier.isSome || w.seq.isSome then s.vcount t vNetTTxDiscardCnt w.data.length else s, false)
    else
      let n := k.packets w.data.length
      let go := s.portOpen k.port
      let w := { w with psn := k.sendPsn, packets := n, sent := go }
      let s := s.updQp t q (fun k => { k with unacked := k.unacked ++ [w], sent := k.sent + w.data.length, sendPsn := (k.sendPsn + n) % 2 ^ 24 })
      let s := s.vcount64 t vNetTTxBytes w.data.length
      (if go then s.transmit k w else s, true)

/-- Tier writes of a task still wait to be transmitted (R476). -/
def State.tierUnsent (s : State) (h seq tier : Nat) : Bool :=
  s.qps.any (fun k => k.unacked.any (fun w => w.handle == h && w.task == seq && w.tier == some tier && !w.sent))

/-- Deliver a publication record to a consumer of the binding table: by the host link, or by the peer's queue pair (R54, R476). -/
def State.deliver (s : State) (t h : Nat) (binding : Bytes) (k : Nat) (rec : Bytes) : State :=
  let course := match s.task? t (fieldAt rec 0 4) with | some x => s.courseByte x | none => 0xFF
  if btPath binding k = 0 then
    if s.host.dlUp then s.hostWrite t (btRecordAddr binding k) rec (.record h (fieldAt rec 0 4) course (bit (fieldAt rec 6 2) 0)) else s.vcount t vHostTRecDropCnt 1
  else (s.peerSend t (btQp binding k)
    { handle := h, task := fieldAt rec 0 4, tier := none, send := false, rkey := btRkey binding k, addr := btRecordAddr binding k, data := rec,
      seq := some (fieldAt rec 0 4), psn := 0, packets := 0, sent := false }).1

/-! ### Accounts (R210, R212, R213) -/

/-- The class an account serves. -/
inductive BwClass where
  | read | write | remote
  deriving DecidableEq, Repr

def Accounts.bal (a : Accounts) : BwClass → Nat
  | .read => a.read | .write => a.write | .remote => a.remote

/-- Tokens for `n` bytes are present. -/
def Accounts.has (a : Accounts) (c : BwClass) (n : Nat) : Bool := decide (n * 65536 ≤ a.bal c)

/-- Tokens for `n` bytes are taken. -/
def Accounts.take (a : Accounts) (c : BwClass) (n : Nat) : Accounts :=
  match c with
  | .read => { a with read := a.read - n * 65536 }
  | .write => { a with write := a.write - n * 65536 }
  | .remote => { a with remote := a.remote - n * 65536 }

/-- Charge a Rota's account, and count what the remote class moves. -/
def State.chargeRota (s : State) (h : Nat) (c : BwClass) (n : Nat) : State :=
  let s := s.updRota h (fun r => { r with acc := r.acc.take c n })
  if c = .remote then s.vcount64 (handleTenant h) vBwTRemoteBytes n else s

end Sys2Proof.Machine
end

