-- ==== Sys2Proof/Machine/Publish.lean ====
section
/-! DEFINITION. The publication boundary (spec/02, R50 to R57): the cut, the decisions of R51, the records of R52 to R54 and the slips of
R53. -/

namespace Sys2Proof.Machine

/-- Lateness policies (Table 2-4; POLICY of Table 3-1). -/
inductive Policy where
  | hold | mark | repeats
  deriving DecidableEq, Repr

def policyOf (b : Bytes) : Policy := if rhPolicy b = 0 then .hold else if rhPolicy b = 1 then .mark else .repeats

/-- What a tier shows in a record (Table 2-3). -/
inductive TierOut where
  | ready | absent | repeated (src : Nat) | undeclared
  deriving DecidableEq, Repr

def TierOut.code : TierOut → Nat
  | .ready => 0 | .absent => 1 | .repeated _ => 2 | .undeclared => 3

def TierOut.src : TierOut → Nat
  | .repeated q => q
  | _ => 0xFFFFFFFF

/-- TIER_MAP of the eight tiers. -/
def tierMap (l : List TierOut) : Nat := sumList ((List.range 8).map (fun i => (nth l i .undeclared).code * 4 ^ i))

/-- The tiers of a batch that is published: ready ones, and the unready ones by the policy (Table 2-4). -/
def tierOuts (bin : Bytes) (last : List (Option Nat)) (ready : List Bool) : List TierOut :=
  (List.range 8).map (fun i =>
    if rhNTier bin ≤ i then .undeclared
    else if nth ready i false then .ready
    else match policyOf bin, nth last i none with
      | .repeats, some q => .repeated q
      | _, _ => .absent)

/-- The tiers of an aborted batch: every declared one absent (R616). -/
def tierAborted (bin : Bytes) : List TierOut :=
  (List.range 8).map (fun i => if rhNTier bin ≤ i then .undeclared else .absent)

/-- The doorbell is the active source, so publications are untimed (R40). -/
def State.untimed (s : State) : Bool := s.beat.src == .doorbell

/-- FLAGS of a publication record (Table 2-3). -/
def recFlags (aborted untimed shifted slipped : Bool) : Nat :=
  ofBool aborted + 2 * ofBool untimed + 4 * ofBool shifted + 8 * ofBool slipped

/-- Deliver a record to every consumer of the publication list, in order (R52). -/
def State.deliverAll (s : State) (t h : Nat) (binding : Bytes) (n : Nat) (rec : Bytes) : State :=
  (List.range n).foldl (fun s k => s.deliver t h binding k rec) s

/-- Issue the records of a batch: the publication record to each consumer, then the completion record where a host queue submitted the task
(R52, R513). -/
def State.issue (s : State) (x : Task) (bin : Bytes) (b : Nat) (tiers : List TierOut) : State :=
  let err := match x.abort with | some a => a.code | none => 0
  let flags := recFlags x.abort.isSome s.untimed x.shifted (decide (0 < x.slip))
  let map := tierMap tiers
  let rcd := pubRecord x.seq (s.epochOf x.tenant) flags b x.assigned map err x.slip (tiers.map TierOut.src)
  let s := s.deliverAll x.tenant x.handle x.binding (rhNConsumer bin) rcd
  let s := match x.queue with
    | none => s
    | some q => s.complete x.tenant q (fun ph => complRecord x.seq
        (ph + 2 * (if x.abort.isSome then 1 else 0) + 8 * ofBool s.untimed + 16 * ofBool x.shifted + 32 * ofBool (decide (0 < x.slip)))
        x.descSeq x.userTag err
        (match x.abort with | some a => area1 a.inst a.ctx a.elem | none => area0 map b x.assigned))
  s.vsetN x.tenant vBeatTLastSeq x.seq

/-- The Rota binary behind a task; a task's Rota is held as long as the task is. -/
def State.binOf (s : State) (x : Task) : Bytes := match s.rota? x.handle with | some r => r.bin | none => []

/-- Count the tiers published absent and repeated, and remember the ready ones for REPEAT_SRC. -/
def State.noteTiers (s : State) (x : Task) (tiers : List TierOut) : State :=
  let s := s.vcount x.tenant vBeatTAbsentCnt (tiers.filter (· == .absent)).length
  let s := s.vcount x.tenant vBeatTRepeatCnt (tiers.filter (fun o => o.code == 2)).length
  s.updRota x.handle (fun r => { r with lastReady := (List.range 8).map (fun i =>
    if nth tiers i .undeclared == .ready then some x.seq else nth r.lastReady i none) })

/-- A batch leaves the publication order: it is decided, and forgotten once no course of it runs. -/
def State.retireBatch (s : State) (x : Task) : State :=
  let s := (s.updTask x.tenant x.seq (fun y => { y with decided := true })).settleOwners x.handle
  { s with tasks := s.tasks.filter (fun y => !(y.tenant == x.tenant && y.seq == x.seq && !y.busy)) }

/-- The last byte of tier `i` has been produced: its course has finished, or runs with every stream of the tier at its end. -/
def State.tierMade (s : State) (x : Task) (i : Nat) : Bool :=
  nth x.ready i false ||
    (match s.courseOf x, s.rota? x.handle with
     | some c, some r => (List.range (rhNTier r.bin)).any (fun j => rtTier r.bin j == i && rtCourse r.bin j == c.course
         && (List.range (rtStreamCnt r.bin j)).all (fun k => c.streams.any (fun q =>
              q.idx == rtStreamFirst r.bin j + k && q.ended && q.inFlight.isEmpty && q.raw.isEmpty)))
     | _, _ => false)

/-- Tier `i` of a batch is ready: produced, none of it lost, and every write of it gone out (R49, R476, R478, R516). -/
def State.tierReady (s : State) (x : Task) (i : Nat) : Bool :=
  s.tierMade x i && !x.lost.contains i && !s.tierHeld x.handle x.seq i && !s.tierUnsent x.handle x.seq i

/-- Remember a batch whose later inputs count as late (R55). -/
def State.noteLate (s : State) (x : Task) : State :=
  s.updRota x.handle (fun r => { r with
    late := r.late ++ [{ seq := x.seq, beat := x.pub, course := if x.busy then x.nextCourse + 1 else x.nextCourse }] })

/-- An input of course `c` for the beat `b` of a late batch counts in BEAT_T_LATE_DROP_CNT (R55). -/
def State.countLate (s : State) (r : Rota) (b c : Nat) : State :=
  if r.late.any (fun l => l.beat == b && decide (l.course ≤ c)) then s.vcount (handleTenant r.handle) vBeatTLateDropCnt 1 else s

/-- Publish a batch (R54) with the tiers of Table 2-4. -/
def State.publish (s : State) (x : Task) (b : Nat) : State :=
  let bin := s.binOf x
  let last := match s.rota? x.handle with | some r => r.lastReady | none => []
  let tiers := tierOuts bin last ((List.range 8).map (s.tierReady x))
  let s := (s.issue x bin b tiers).noteTiers x tiers
  (if tiers.any (fun o => o == .absent || o.code == 2) then s.noteLate x else s).retireBatch x

/-- Publish the abort record of a batch (R616). -/
def State.publishAbort (s : State) (x : Task) (b : Nat) : State :=
  let bin := s.binOf x
  (s.issue x bin b (tierAborted bin)).retireBatch x

/-- Every declared tier of a batch is ready. -/
def State.allReady (s : State) (x : Task) : Bool :=
  (List.range (rhNTier (s.binOf x))).all (s.tierReady x)

/-- The decisions of R51 for one tenant at the cut of beat `b`, with the queue pairs that received a record. -/
def State.decideDue (b t : Nat) : Nat → State → List Nat → State × List Nat
  | 0, s, q => (s, q)
  | n + 1, s, q =>
    match s.unpublished t with
    | [] => (s, q)
    | x :: _ =>
      let q' := match x.queue with | some k => k :: q | none => q
      if b < x.pub then (s, q)
      else if x.abort.isSome then State.decideDue b t n (s.publishAbort x b) q'
      else if s.allReady x then State.decideDue b t n (s.publish x b) q'
      else match policyOf (s.binOf x) with
        | .mark => State.decideDue b t n (s.publish x b) q'
        | .repeats => State.decideDue b t n (s.publish x b) q'
        | .hold =>
          let held := ((s.unpublished t).filter (fun y => decide (y.pub ≤ b))).length
          if held ≤ 2 then (s, q)
          else
            let s := (s.abortTask t x.seq errSlipLimit 0 0xFFFF 0 0).vcount t vBeatTSlipAbortCnt 1
            match s.task? t x.seq with
            | none => (s, q)
            | some y => State.decideDue b t n ((s.noteLate x).publishAbort y b) q'

/-- Every batch of a tenant left due and unpublished slips (R53). -/
def State.slip (s : State) (b t : Nat) : State :=
  let due := fun (y : Task) => y.tenant == t && !y.decided && decide (y.pub ≤ b)
  let s := s.vcount t vBeatTSlipCnt (s.tasks.filter due).length
  { s with tasks := updWhere s.tasks due (fun y => { y with slip := y.slip + 1 }) }

/-- The MSI-X messages of the pairs that received a record at this boundary, one each, in ascending pair (Table 17-5); a pair whose last
record this was may finish its disable (R522). -/
def State.signalPairs (s : State) (t : Nat) (qs : List Nat) : State :=
  (List.range 8).foldl (fun s q =>
    if qs.contains q then
      let k := s.queue t q
      (if k.irq && k.enabled && !k.fault && s.host.dlUp then s.message t k.vector else s).settleQueue t q
    else s) s

/-- The cut of beat `b` for one tenant. A tenant under reset or destruction takes no part (R543). -/
def State.cutTenant (s : State) (b t : Nat) : State :=
  match s.tenant? t with
  | none => s
  | some x =>
    if x.phase ≠ .active then s
    else
      let r := State.decideDue b t ((s.unpublished t).length + 1) s []
      (r.1.slip b t).signalPairs t r.2

/-- The cut of beat `b`: every tenant in ascending number (R50, R52). -/
def State.cut (s : State) (b : Nat) : State := (s.tenants.map (·.id)).foldl (fun s t => s.cutTenant b t) s

/-- Publication beats move by `k` skipped beat numbers (R69, R74). -/
def State.shift (s : State) (k : Nat) : State :=
  if k = 0 then s
  else { s with tasks := updWhere s.tasks (fun y => !y.decided) (fun y => { y with pub := y.pub + k, shifted := true }) }

end Sys2Proof.Machine
end

