-- ==== Sys2Proof/Machine/Regions.lean ====
section
/-! DEFINITION. Tables and their updates (spec/04): the load of R95, the standby fetch of R134, region updates (R135 to R141), the scrub of
the guard band (R116) and the zeroing of granules (R122). -/

namespace Sys2Proof.Machine

/-! ### Copies that serve no single reading task (R630) -/

/-- A word a copy could not read becomes a poisoned word: it reads as an uncorrectable error until a write covers it (R630). -/
def State.poisonWord (s : State) (t dst src : Nat) : State :=
  let s := match translate (s.extents t .ory) dst with
    | some pa => s.setErr .ory (pa / 8) 2
    | none => s
  (s.logOne errMemEccUncorrectable t 0 src).count rMemPoisonCnt 1

/-- Copy `n` bytes of tenant HBM from `src` to the tenant Orangery addresses `dst` gives, 8 B at a time; a word that cannot be corrected is
poisoned at the destination, and a byte outside the allocation is left alone. -/
def State.copyIn (s : State) (t src : Nat) (dst : Nat → Nat) (o : Nat) : Nat → Nat → State
  | 0, _ => s
  | k + 1, n =>
    let len := Nat.min 8 n
    let s := match s.readMem t .hbm false (src + o) len with
      | (s, .ok d) => (s.writeMem t .ory (dst o) d).1
      | (s, .error e) =>
        if e = errMemEccUncorrectable then
          ((s.writeMem t .ory (dst o) (List.replicate len 0)).1).poisonWord t (dst o) (src + o)
        else s
    s.copyIn t src dst (o + 8) k (n - len)

/-- Copy a table's bytes from tenant HBM. -/
def State.copyTable (s : State) (t src : Nat) (dst : Nat → Nat) (n : Nat) : State := s.copyIn t src dst 0 (ceilDiv n 8) n

/-- Write bytes held on the device to the tenant Orangery addresses `dst` gives, a line at a time. -/
def State.placeBytes (s : State) (t : Nat) (dst : Nat → Nat) (o : Nat) : Nat → Bytes → State
  | 0, _ => s
  | _, [] => s
  | k + 1, d => ((s.writeMem t .ory (dst o) (d.take 128)).1).placeBytes t dst (o + 128) k (d.drop 128)

/-- Where a table's bytes lie when no update has given it a source: the buffer of the entry for SRC_STREAM in a binding table. -/
def tableSrc (bin bind : Bytes) (i : Nat) : Option Nat :=
  match btFind bind (roSrcStream bin i) with
  | some e => some (btBase bind e + roSrcOffset bin i)
  | none => none

/-- A fetch takes the update in flight: it may, and its `n` bytes are on the device where they come from the host. -/
def Region.arrived (g : Region) (n : Nat) (useFlight : Bool) : Bool :=
  useFlight && (match g.flight with
    | some f => !f.host || decide (n ≤ g.staged.length)
    | none => false)

/-- The source of a table's bytes for a fetch now: the generation's own source (R139), else the binding of the task that runs, else the
base its stream was last armed with, else the admission binding table (R694; notes/assumptions/20.md). -/
def Rota.tableSource (r : Rota) (bind : Bytes) (i : Nat) (useFlight : Bool) : Option Source :=
  let g := r.region? i
  let upd := match g with
    | some g => if g.arrived (roBytes r.bin i) useFlight then g.flight else g.cur
    | none => none
  match upd with
  | some u => some u
  | none => match tableSrc r.bin bind i with
    | some a => some { host := false, addr := a }
    | none =>
      let st := nth r.streams (roSrcStream r.bin i) { ctx := 0, armed := false, host := false, base := 0, size := 0, coil := Coil.empty }
      if st.armed && !st.host then some { host := false, addr := st.base + roSrcOffset r.bin i }
      else match tableSrc r.bin r.loadBind i with
        | some a => some { host := false, addr := a }
        | none => none

/-- Fetch one non-resident table into its place. -/
def State.fetchTable (s : State) (r : Rota) (bind : Bytes) (useFlight : Bool) (dst : Nat → Nat) (i : Nat) : State :=
  let t := handleTenant r.handle
  match r.tableSource bind i useFlight with
  | none => s
  | some src =>
    if src.host then
      match r.region? i with
      | some g =>
        let d := if g.arrived (roBytes r.bin i) useFlight then g.staged else g.held
        s.placeBytes t dst 0 (ceilDiv (roBytes r.bin i) 128) (d.take (roBytes r.bin i))
      | none => s
    else s.copyTable t src.addr dst (roBytes r.bin i)

/-- Fetch the non-resident tables of course `c` to ring offset `o` (R134). `useFlight` says that the course starts at or after the boundary
that applies an update in flight (R139). -/
def State.fetchLoose (s : State) (r : Rota) (c o : Nat) (bind : Bytes) (useFlight : Bool) : State :=
  let l := courseLoose r.bin c
  l.foldl (fun s i => s.fetchTable r bind useFlight (fun k => r.ringAt (o + offsetIn r.bin l i + k)) i) s

/-- A device-built table: no byte is ever loaded into it (R273). -/
def deviceBuilt (b : Bytes) (i : Nat) : Bool := roResident b i && roSrcStream b i == 0xFFFF

/-- The tables the Lodge loads after admission: the resident ones that are not device-built, and course 0's non-resident ones (R95). -/
def loadedTables (b : Bytes) : List Nat := (residentTables b).filter (fun i => !deviceBuilt b i) ++ courseLoose b 0

/-- The load of R95: resident tables into the resident area, course 0's tables at the start of the work ring. -/
def State.loadRota (s : State) (r : Rota) : State :=
  let t := handleTenant r.handle
  let res := (residentTables r.bin).filter (fun i => !deviceBuilt r.bin i)
  let s := res.foldl (fun s i => match tableSrc r.bin r.loadBind i with
    | some a => s.copyTable t a (fun k => r.residentAt i + k) (roBytes r.bin i)
    | none => s) s
  let s := s.fetchLoose r 0 r.ring r.loadBind false
  s.updRota r.handle (fun r => { r with loadAt := none, standby := some 0 })

/-! ### Region updates (R135 to R141) -/

/-- STATE of a region (Table 4-2). -/
def Region.state (g : Region) : Nat := (if g.pend.isSome then 1 else 0) + (if g.flight.isSome then 2 else 0)

/-- The table record of an admitted Rota by its TABLE number. -/
def tableRec (b : Bytes) (table : Nat) : Option Nat := (List.range (rhNTable b)).find? (fun i => roTable b i == table)

def State.updRegion (s : State) (h table : Nat) (f : Region → Region) : State :=
  s.updRota h (fun r => { r with regions := updWhere r.regions (fun g => g.table == table) f })

/-- The region a tenant's selectors name: the Rota and the table record. -/
def State.namedRegion (s : State) (t h table : Nat) : Option (Rota × Nat × Region) :=
  match s.rota? h with
  | none => none
  | some r =>
    if handleTenant h ≠ t then none
    else match tableRec r.bin table with
      | none => none
      | some i => match r.region? i with
        | none => none
        | some g => some (r, i, g)

/-- A request's code in MEM_T_UPD_STATUS.RESULT. -/
def State.updResult (s : State) (t code : Nat) : State := s.vsetF t vMemTUpdStatus 31 16 code

/-- MEM_T_UPD_GO: a write of 1 to GO on VF `t` + 1 requests a region update (R135, R138, R149, R153). A region of the tenant that does not
exist, or a write before the tenant does, changes nothing else. -/
def execMemTUpdGo (t : Nat) (go : Bool) (pinned : Ranges) (s : State) : Host.Outcome State Fault Refusal :=
  if !go || !s.exists? t then .next s
  else
    let h := s.vgetN t vMemTUpdHandle
    let sel := s.vgetN t vMemTUpdTable
    let src : Source := { host := bit sel 16, addr := s.vget64 t vMemTUpdSrc }
    match s.namedRegion t h (bits sel 15 0) with
    | none => .next (s.updResult t errMemRegionInvalid)
    | some (r, i, g) =>
      if r.retiring then .next (s.updResult t errMemRegionInvalid)
      else
        let n := roBytes r.bin i
        let orphan := match s.tenant? t with | some x => x.orphaned || (src.host && !s.host.dlUp) | none => true
        let bad := if src.host then decide (2 ^ 64 < src.addr + n) || !isPinned (some pinned) src.addr n || orphan
          else decide (runsLen (s.extents t .hbm) * 0x400000 < src.addr + n)
        if bad then .next (s.updResult t errMemSourceInvalid)
        else
          let s := (if g.pend.isSome then s.vcount t vMemTUpdReplacedCnt 1 else s)
          .next ((s.updRegion h g.table (fun g => { g with pend := some src })).updResult t 0)

/-- The copy of R139 into the spare copy of a RESIDENT PARAM table, from tenant HBM; an uncorrectable word spoils it (R631). -/
def State.copySpare (s : State) (r : Rota) (i : Nat) (g : Region) (src : Nat) : State :=
  let t := handleTenant r.handle
  let dst := fun k => (if g.spare then r.residentAt i else r.spareAt i) + k
  let ok := match s.readMem t .hbm false src (roBytes r.bin i) with | (_, .ok _) => true | (_, .error _) => false
  if ok then s.copyTable t src dst (roBytes r.bin i)
  else
    let s := (s.readMem t .hbm false src (roBytes r.bin i)).1
    (s.updRegion r.handle g.table (fun g => { g with poisoned := true })).updResult t errMemEccUncorrectable

/-- A pending update's fetch starts (R137): a resident table is copied into its spare copy (R139), a source in host space is asked for on
the link. -/
def State.startFlight (s : State) (h table : Nat) : State :=
  match s.rota? h with
  | none => s
  | some r => match tableRec r.bin table with
    | none => s
    | some i => match r.region? i with
      | none => s
      | some g => match g.pend with
        | none => s
        | some src =>
          let s := s.updRegion h table (fun g => { g with pend := none, flight := some src, poisoned := false, staged := [] })
          if src.host then (s.chargeRota h .remote (roBytes r.bin i)).hostRead (handleTenant h) src.addr (roBytes r.bin i) (.region h table 0)
          else if roResident r.bin i then s.copySpare r i g src.addr
          else s

/-- The update in flight is applied at the boundary with the next generation (R137, R59), unless its copy failed (R631); one whose host
bytes have not all arrived waits. -/
def State.landFlight (s : State) (h table : Nat) : State :=
  match s.rota? h with
  | none => s
  | some r => match tableRec r.bin table with
    | none => s
    | some i => match r.region? i with
      | none => s
      | some g => match g.flight with
        | none => s
        | some src =>
          if g.poisoned then s.updRegion h table (fun g => { g with flight := none, poisoned := false })
          else if src.host && decide (g.staged.length < roBytes r.bin i) then s
          else
            let s := (if src.host && roResident r.bin i then
                s.placeBytes (handleTenant h) (fun k => (if g.spare then r.residentAt i else r.spareAt i) + k) 0
                  (ceilDiv (roBytes r.bin i) 128) (g.staged.take (roBytes r.bin i))
              else s)
            s.updRegion h table (fun g => { g with
              gen := (g.gen + 1) % 2 ^ 32, flight := none, held := if src.host then g.staged else [],
              cur := if roResident r.bin i then none else some src, spare := if roResident r.bin i then !g.spare else g.spare })

/-- Host bytes of a non-resident table that arrive during a course go on into the standby area of the next course, when that one starts at or
after the boundary that applies them (R134, R139). -/
def State.placeStandby (s : State) (h table : Nat) : State :=
  match s.rota? h with
  | none => s
  | some r => match r.course, tableRec r.bin table with
    | some c, some i => match r.region? i with
      | some g =>
        let l := courseLoose r.bin 0
        if g.flight.isNone || rotaNext r.bin c.course ≠ 0 || !l.contains i || decide (g.staged.length < roBytes r.bin i) then s
        else s.placeBytes (handleTenant h) (fun k => r.ringAt (r.standbyOff c.course + offsetIn r.bin l i + k)) 0
          (ceilDiv (roBytes r.bin i) 128) (g.staged.take (roBytes r.bin i))
      | none => s
    | _, _ => s

/-- Every region at a boundary: what is in flight is applied, then what is pending starts, unless a fetch is still in flight (R137). -/
def State.regionsAt (s : State) : State :=
  s.rotas.foldl (fun s r => r.regions.foldl (fun s g =>
    let s := s.landFlight r.handle g.table
    match s.rota? r.handle with
    | none => s
    | some r' => if r'.regions.any (fun k => k.table == g.table && k.flight.isSome) then s else s.startFlight r.handle g.table) s) s

/-- The loads of R95 that start at the boundary of beat `b`. -/
def State.loadsAt (s : State) (b : Nat) : State :=
  s.rotas.foldl (fun s r => match r.loadAt with
    | some k => if k ≤ b then s.loadRota r else s
    | none => s) s

/-! ### Zeroing (R122) -/

/-- The first granule of the zeroing queue. -/
def zeroHead : Runs → Option (Nat × Runs)
  | [] => none
  | (b, l) :: t => if l ≤ 1 then some (b, t) else some (b, (b + 1, l - 1) :: t)

/-- Drop a granule's words in error and its listed bytes: it reads 0 from now on. -/
def State.zeroGranule (s : State) (g : Nat) : State :=
  { s with mem := { s.mem with hbm := sparseClear s.mem.hbm (g * 0x400000) ((g + 1) * 0x400000),
                               hbmErr := sparseClear s.mem.hbmErr (g * 0x80000) ((g + 1) * 0x80000) } }

/-- GRANULE_ZEROED: zeroing of the first granule of the queue completes, and the granule becomes free from now on (R122). With nothing to
zero the event changes nothing. -/
def execGranuleZeroed (s : State) : Host.Outcome State Fault Refusal :=
  match (if s.mbx.tripped then none else zeroHead s.mem.zeroQ) with
  | none => .next s
  | some (g, q) =>
    let s := s.zeroGranule g
    .next { s with mem := { s.mem with zeroQ := q, zeroAcc := 0, hbmFree := runsAdd s.mem.hbmFree g } }

/-! ### The scrub (R116) -/

/-- SCHED_CLK_RUN: a tenant exists, a Rota is admitted or a granule awaits zeroing (R19), and no thermal trip has stopped the clock (R599). -/
def State.schedRun (s : State) : Bool := !s.mbx.tripped && (!s.tenants.isEmpty || !s.rotas.isEmpty || !s.mem.zeroQ.isEmpty)

/-- Scrub the words in error of a memory that lie in the units the beat checks: a single-bit error is corrected and counted, a double-bit
one counted and recorded, and no task aborted (R116, R151, R152). Words of clear Orangery lines are passed over (R147). -/
def State.scrubWords (s : State) (sp : Space) (p : Nat → Bool) : State :=
  (s.errs sp).foldl (fun s e =>
    if p e.1 && (match sp with | .hbm => true | .ory => s.tagged (e.1 / 16)) then (s.eccRead sp e.1).1 else s) s

/-- Offset of physical byte `a` within its stack or bank, 256 B units spread in turn (R114, R696). -/
def unitOffset (units a : Nat) : Nat := a / (256 * units) * 256 + a % 256

/-- `x` lies in the window of `n` from `pos`, wrapping at `size`. -/
def inWindow (pos n size x : Nat) : Bool := decide ((x + size - pos % size) % size < n)

/-- GUARD_BAND: in the guard band of a beat in which the schedule clock runs, the device scrubs 1,024 lines of every Orangery bank and 2 MiB
of every HBM stack, in ascending order, wrapping (R116). -/
def execGuardBand (s : State) : Host.Outcome State Fault Refusal :=
  if !s.schedRun then .next s
  else
    let p := s.chip.part
    let s := s.scrubWords .ory (fun w => inWindow (s.mem.scrubOry * 128) 0x20000 0x2000000 (unitOffset p.banks (w * 8)))
    let s := s.scrubWords .hbm (fun w => inWindow (s.mem.scrubHbm * 128) 0x200000 0x600000000 (unitOffset p.stacks (w * 8)))
    .next { s with mem := { s.mem with scrubOry := (s.mem.scrubOry + 1024) % 0x40000,
                                       scrubHbm := (s.mem.scrubHbm + 16384) % 0xC000000 } }

end Sys2Proof.Machine
end

