-- ==== Sys2Proof/Machine/Cost.lean ====
section
/-! DEFINITION. The admission arithmetic of spec/03: windows (R83, R84), costs (R88), the Orangery figure (Table 3-7), placement (R85, R86),
and what a tenant's grant leaves (R90, R91). -/

namespace Sys2Proof.Machine

/-- What the arithmetic of R88 takes from the device: bytes per cycle, class shares, derating, and the window width S of R83. -/
structure AdmEnv where
  bpc : Nat
  read : Nat
  write : Nat
  remote : Nat
  derate : Nat
  width : Nat
  deriving DecidableEq, Repr

/-- S of R83, from the guard band in basis points. -/
def windowWidth (guard : Nat) : Nat := 65536 * (10000 - guard) / 640000

/-- The values in force. -/
def State.admEnv (s : State) : AdmEnv :=
  { bpc := s.chip.part.hbmBpc, read := s.getF rBwClassSplit 7 0, write := s.getF rBwClassSplit 15 8, remote := s.getF rBwClassSplit 23 16,
    derate := s.getF rAdmHbmDeratePct 7 0, width := windowWidth (s.getF rAdmGuardBp 15 0) }

/-- `rate` of R88, in bytes per 65,536 cycles. -/
def AdmEnv.rate (e : AdmEnv) (share bw : Nat) : Nat := e.bpc * share * e.derate * bw * 65536 / 40960000

/-- `t` of R88: cycles for bytes at a rate. -/
def cyclesFor (bytes rate : Nat) : Nat := if bytes = 0 then 0 else (bytes * 65536 + rate - 1) / rate

/-- W_cyc of R84. -/
def AdmEnv.wCyc (e : AdmEnv) (b : Bytes) : Nat := e.width * rhMinPeriod b * 8 / 327680

/-- An input stream read from tenant HBM or from the Orangery, not an external input. -/
def ownInput (b : Bytes) (i : Nat) : Bool := !rsOut b i && (rsSpace b i == 0 || rsSpace b i == 2)

/-- The cost of a course in cycles (R88). -/
def AdmEnv.cost (e : AdmEnv) (b : Bytes) (c : Nat) : Nat :=
  let rr := e.rate e.read (rhBwRead b)
  let rw := e.rate e.write (rhBwWrite b)
  let rx := e.rate e.remote (rhBwRemote b)
  let nx := sumList ((courseLoose b (rotaNext b c)).map (roBytes b))
  let m := Nat.max (cyclesFor (rcHbmRead b c + nx) rr) (Nat.max (cyclesFor (rcHbmWrite b c) rw) (cyclesFor (rcRemote b c) rx))
  let body := Nat.max (rcBodyCycles b c) m
  let ins := (courseStreams b c).filter (ownInput b)
  let outs := (courseStreams b c).filter (rsOut b)
  let slot := fun i => rpSlotBytes b (rsHoop b i)
  let lat := maxList (ins.map (fun i => (if rsSpace b i = 0 then 1536 else 128) + (if rsCoil b i then 96 else 0)))
  let fill := lat + cyclesFor (sumList ((ins.filter (fun i => rsSpace b i == 0)).map slot)) rr
  let drain := 1024 + cyclesFor (sumList ((outs.filter (fun i => rsSpace b i == 0)).map slot)) rw
    + cyclesFor (sumList ((outs.filter (fun i => rsSpace b i != 0)).map slot)) rx
  fill + body + drain

/-- Windows of a course (R88). -/
def AdmEnv.windows (e : AdmEnv) (b : Bytes) (c : Nat) : Nat := ceilDiv (e.cost b c) (e.wCyc b)

/-- The Orangery figure of Table 3-7. -/
def oryFigure (b : Bytes) : Nat :=
  tableSpan b (residentTables b)
    + maxList ((List.range (rhNCourse b)).map (fun c =>
        roundUp (rcOryWork b c) 128 + tableSpan b (courseLoose b c) + tableSpan b (courseLoose b (rotaNext b c))))

/-- The load count k of R95. -/
def AdmEnv.loadBeats (e : AdmEnv) (b : Bytes) : Nat :=
  let bytes := sumList ((loadedTables b).map (roBytes b))
  let pcyc := rhMinPeriod b * 8 / 5
  Nat.max 1 (ceilDiv (cyclesFor bytes (e.rate e.read (rhBwRead b))) pcyc)

/-! ### The grant of a tenant (Tables 18-1, 18-2, 18-6) -/

/-- Where a tenant's copy of a selected register of Table 18-6 lies in the PF0 files. -/
def tenKey (t off : Nat) : Nat := 0x1000000 * (t + 1) + off

/-- The instances that have window masks, numbered: Weave groups, Select, Arbour and Trellis units. -/
def winIdx (cls inst : Nat) : Option Nat :=
  if cls = 1 ∧ inst < 16 then some inst
  else if cls = 4 ∧ inst < 8 then some (16 + inst)
  else if cls = 6 ∧ inst < 4 then some (24 + inst)
  else if cls = 7 ∧ inst < 2 then some (28 + inst)
  else none

/-- The class code and physical instance of a numbered instance. -/
def winInst (i : Nat) : Nat × Nat :=
  if i < 16 then (1, i) else if i < 24 then (4, i - 16) else if i < 28 then (6, i - 24) else (7, i - 28)

/-- Where the window mask of a numbered instance lies in the PF0 files. -/
def winKey (t i : Nat) : Nat := tenKey t (0x100000 + 8 * i)

/-- A tenant's window mask, in a file of PF0 registers. -/
def winMask (f : RegFile) (t i : Nat) : Nat := (sparseGet 0 f (winKey t i)).toNat + 2 ^ 32 * (sparseGet 0 f (winKey t i + 4)).toNat

/-- A number held in a file of PF0 registers. -/
def fileN (f : RegFile) (off : Nat) : Nat := (sparseGet 0 f off).toNat

/-- The items of a grant with a bound on their sum, by class of Table 18-2. -/
def grantItem (f : RegFile) (t cls : Nat) : Nat :=
  if cls = 0 then bits (fileN f (rBwTenGrantA + 16 * t)) 15 0
  else if cls = 1 then bits (fileN f (rBwTenGrantA + 16 * t)) 31 16
  else if cls = 2 then bits (fileN f (rBwTenGrantB + 16 * t)) 15 0
  else if cls = 3 then bits (fileN f (rStakeTenQuota + 16 * t)) 7 0
  else if cls = 4 then fileN f (tenKey t rTenWatts)
  else if cls = 5 then fileN f (tenKey t rTenQpQuota)
  else if cls = 6 then fileN f (tenKey t rTenStreamQuota)
  else fileN f (tenKey t rTenHoopQuota)

/-- The bound of a class of Table 18-2. -/
def State.grantBound (s : State) (cls : Nat) : Nat :=
  if cls = 1 then 4096 - s.getF rMemZeroShare 15 0
  else if cls = 3 then 192
  else if cls = 4 then s.getF rAdmPowerBudgetW 15 0
  else if cls = 7 then 1024
  else 4096

/-- The sum of an item over the tenants other than `t`. -/
def State.grantOthers (s : State) (f : RegFile) (t cls : Nat) : Nat :=
  sumList ((s.tenants.filter (fun x => x.id != t)).map (fun x => grantItem f x.id cls))

/-! ### Placement (R85, R86) -/

/-- The numbered instances a placed course uses. -/
def Place.uses (p : Place) (i : Nat) : Bool :=
  let ci := winInst i
  (nth p.insts ci.1 []).contains ci.2

/-- Windows `w` to `w + n` - 1 as a mask. -/
def winRange (w n : Nat) : Nat := (2 ^ n - 1) * 2 ^ w

/-- The windows of a numbered instance that a tenant's admitted Rotas use. -/
def State.winUsed (s : State) (t i : Nat) : Nat :=
  (s.rotasOf t).foldl (fun m r => r.place.foldl (fun m p => if p.uses i then m ||| winRange p.first p.count else m) m) 0

/-- The tenant holds windows `w` to `w + n` - 1 of an instance in the file `f`, and no admitted Rota uses any of them. -/
def State.winFree (s : State) (f : RegFile) (t i w n : Nat) : Bool :=
  let r := winRange w n
  (winMask f t i &&& r) == r && (s.winUsed t i &&& r) == 0

/-- The physical instances of the classes of one course at window `w`, or the class that runs short. -/
def State.chooseAt (s : State) (f : RegFile) (t : Nat) (b : Bytes) (c w n : Nat) : Except Nat (List (List Nat)) :=
  let units := rcUnits b c
  let weave := ((List.range 16).filter (fun g => s.winFree f t g w n)).take (units 1)
  if weave.length < units 1 then .error 1
  else
    let sel := ((List.range 8).filter (fun x => (weave.contains (2 * x) || weave.contains (2 * x + 1)) && s.winFree f t (16 + x) w n)).take (units 4)
    if sel.length < units 4 then .error 4
    else
      let arb := ((List.range 4).filter (fun x => s.winFree f t (24 + x) w n)).take (units 6)
      if arb.length < units 6 then .error 6
      else
        let trl := ((List.range 2).filter (fun x => s.winFree f t (28 + x) w n)).take (units 7)
        if trl.length < units 7 then .error 7
        else
          let cores := (weave.flatMap (fun g => [4 * g, 4 * g + 1, 4 * g + 2, 4 * g + 3])).take (units 2)
          let ports := ((List.range 4).filter (fun p => bit (s.getN rLodgeCapSideMap) (14 + p))).take (units 8)
          .ok [[], weave, cores, weave.take (units 3), sel, weave.take (units 5), arb, trl, ports]

/-- The lowest window at or above `w` at which a course fits. `fuel` counts the windows left to try. -/
def State.placeFrom (s : State) (f : RegFile) (t : Nat) (b : Bytes) (c n : Nat) : Nat → Nat → Option Place
  | 0, _ => none
  | k + 1, w =>
    if 64 < w + n then none
    else match s.chooseAt f t b c w n with
      | .ok insts => some { first := w, count := n, insts := insts }
      | .error _ => s.placeFrom f t b c n k (w + 1)

/-- Place courses `c` onward, each above the last window of the one before (R85). The error is the detail word of ROTA_NO_WINDOWS. -/
def State.placeCourses (s : State) (f : RegFile) (t : Nat) (b : Bytes) (e : AdmEnv) : List Nat → Nat → Nat → Except Nat (List Place)
  | [], _, _ => .ok []
  | c :: rest, w, total =>
    let n := e.windows b c
    let total := total + n
    if 64 < total then .error (c % 256 + Nat.min n 255 * 256)
    else match s.placeFrom f t b c n 65 w with
      | none =>
        let cls := if 64 < w + n then 0 else match s.chooseAt f t b c w n with | .error k => k | .ok _ => 0
        .error (c % 256 + Nat.min n 255 * 256 + cls * 0x10000)
      | some p => match s.placeCourses f t b e rest (p.first + n) total with
        | .error d => .error d
        | .ok l => .ok (p :: l)

/-- The placement of a Rota against the windows of the file `f` (R89): the sum is checked before any course is placed. -/
def State.placeRota (s : State) (f : RegFile) (t : Nat) (b : Bytes) : Except Nat (List Place) :=
  let e := s.admEnv
  let cs := List.range (rhNCourse b)
  let sum := sumList (cs.map (e.windows b))
  if 64 < sum then
    match cs.find? (fun c => decide (64 < sumList ((List.range (c + 1)).map (e.windows b)))) with
    | some c => .error (c % 256 + Nat.min (e.windows b c) 255 * 256)
    | none => .error 0
  else s.placeCourses f t b e cs 0 0

/-! ### Ranges (R131, R695) -/

/-- The lowest multiple of `step` at which `len` bytes fit below `top` without touching the held ranges (pairs of base and length). -/
def fitRange (held : List (Nat × Nat)) (step top len : Nat) : Option Nat :=
  let starts := 0 :: held.map (fun p => roundUp (p.1 + p.2) step)
  let ok := fun a => decide (a + len ≤ top) && held.all (fun p => decide (a + len ≤ p.1 ∨ p.1 + p.2 ≤ a ∨ len = 0 ∨ p.2 = 0))
  starts.foldl (fun best a => if ok a then (match best with | none => some a | some m => some (Nat.min m a)) else best) none

/-- The largest range free below `top`, on multiples of `step`. -/
def largestGap (held : List (Nat × Nat)) (step top : Nat) : Nat :=
  let starts := 0 :: held.map (fun p => roundUp (p.1 + p.2) step)
  let room := fun a =>
    if held.any (fun p => decide (p.1 ≤ a ∧ a < p.1 + p.2)) then 0
    else (held.foldl (fun m p => if a ≤ p.1 then Nat.min m (p.1 - a) else m) (top - a))
  maxList (starts.map room)

/-- The Orangery ranges a tenant's admitted Rotas hold. -/
def State.oryHeld (s : State) (t : Nat) : List (Nat × Nat) := (s.rotasOf t).map (fun r => (r.oryBase, orySpan r.bin))

/-- The own HBM ranges a tenant's admitted Rotas hold. -/
def State.hbmHeld (s : State) (t : Nat) : List (Nat × Nat) := (s.rotasOf t).map (fun r => (r.hbmBase, r.hbmLen))

/-- What a tenant's admitted Rotas use of a header field. -/
def State.usedOf (s : State) (t : Nat) (f : Bytes → Nat) : Nat := sumList ((s.rotasOf t).map (fun r => f r.bin))

/-- ADM_POWER_USED_W: the WATTS of the admitted Rotas (R91). -/
def State.powerUsed (s : State) : Nat := sumList (s.rotas.map (fun r => rhWatts r.bin))

/-- BEAT_MIN_ADMITTED_NS: the shortest minimum period of the admitted Rotas, 0 while none. -/
def State.minAdmitted (s : State) : Nat :=
  match s.rotas with
  | [] => 0
  | r :: t => t.foldl (fun m x => Nat.min m (rhMinPeriod x.bin)) (rhMinPeriod r.bin)

end Sys2Proof.Machine
end

