-- ==== Sys2Proof/Machine/Commit.lean ====
section
/-! DEFINITION. Configuration changes under load: the commit of the shadow set (spec/03, R99 to R107; spec/02, R61 and R62; spec/06, R232;
spec/18, R541 and R542; spec/04, R125 and R126). -/

namespace Sys2Proof.Machine

/-! ### The shadow set -/

/-- A row of the register table holds the offset. -/
def RegDesc.covers (d : RegDesc) (k : Nat) : Bool :=
  if d.stride = 0 then k == d.base
  else decide (d.base ≤ k) && (k - d.base) % d.stride == 0 && decide ((k - d.base) / d.stride < d.count)

/-- A register whose writes go to the shadow set; the tenant-selected ones of Table 18-6 lie above 0x100_0000 in the files. -/
def isShadow (k : Nat) : Bool := decide (0x1000000 ≤ k) || pf0Writable.any (fun d => d.shadow && d.covers k)

/-- The shadow registers that differ between a snapshot and the values in force. -/
def changedKeys (snap force : RegFile) : List Nat :=
  let ks := (snap.map (·.1)) ++ ((force.map (·.1)).filter isShadow)
  (ks.filter (fun k => sparseGet 0 snap k != sparseGet 0 force k)).foldl setInsert []

/-- The file in force with the changed registers of a snapshot. -/
def applyKeys (snap force : RegFile) (ks : List Nat) : RegFile := ks.foldl (fun f k => sparseSet 0 f k (sparseGet 0 snap k)) force

/-! ### Kinds of change (Table 3-10) -/

/-- A beat field of R62 that may not change while a Rota is admitted. -/
def isBeatKey (k : Nat) : Bool := decide (rBeatCtrl ≤ k ∧ k < rBeatShortTolNs)

/-- A reset-only field (R102). -/
def isResetOnly (k : Nat) : Bool := k == rBwClassSplit || k == rAdmGuardBp || k == rAdmHbmDeratePct || k == rAdmPowerBudgetW

/-- A drain-kind change: windows, quotas, grant units, watts and allocation sizes (R541). TEN_SEED is simple. -/
def isDrain (k : Nat) : Bool :=
  (decide (0x1000000 ≤ k) && !(decide (rTenSeed ≤ k % 0x1000000 ∧ k % 0x1000000 < rTenSeed + 16)))
    || (decide (rBwTenGrantA ≤ k ∧ k < rBwTenGrantA + 2048))

/-! ### Checks -/

/-- The values of Table 2-5 lie within their limits (R61), and the epoch's nanoseconds below one second (Table 2-9). -/
def beatLimitsOk (f : RegFile) : Bool :=
  let p := fileN f rBeatPeriodNs + 2 ^ 32 * fileN f (rBeatPeriodNs + 4)
  let m := fileN f rBeatMaxPeriodNs + 2 ^ 32 * fileN f (rBeatMaxPeriodNs + 4)
  decide (250000 ≤ p ∧ p ≤ 60000000000) && (m == 0 || decide (250000 ≤ m ∧ m ≤ 60000000000 ∧ p ≤ m))
    && decide (fileN f rBeatShortTolNs ≤ 1000000) && decide (fileN f rBeatHoldoverMs ≤ 600000)
    && decide (fileN f rBeatEpochNs ≤ 999999999)

/-- The tenant a register of a grant belongs to (Tables 18-6, 6-6, 4-5, 14-13). -/
def tenantOfKey (k : Nat) : Option Nat :=
  if 0x1000000 ≤ k then some (k / 0x1000000 - 1)
  else if rBwTenGrantA ≤ k ∧ k < rBwTenGrantA + 2048 then some ((k - rBwTenGrantA) / 16)
  else if rMemTenFill ≤ k ∧ k < rMemTenFill + 1024 then some ((k - rMemTenFill) / 8)
  else if rNetTenSensorStaleUs ≤ k ∧ k < rNetTenSensorStaleUs + 512 then some ((k - rNetTenSensorStaleUs) / 4)
  else none

/-- The tenants a set of changed registers touches. -/
def State.touched (s : State) (ks : List Nat) : List Nat :=
  (s.tenants.map (·.id)).filter (fun t => ks.any (fun k =>
    decide (0x1000000 ≤ k ∧ k / 0x1000000 = t + 1) || (decide (rBwTenGrantA + 16 * t ≤ k ∧ k < rBwTenGrantA + 16 * t + 16))))

/-- A window bit of the file on an instance that is absent (R536): the detail word of R30 with 1 required and 0 present. -/
def State.absentWindow (s : State) (f : RegFile) (t : Nat) : Option Nat :=
  match (List.range 30).find? (fun i =>
      let p := winInst i
      let present := if p.1 = 1 then bit (s.getN rLodgeCapWeaveMap) p.2
        else if p.1 = 4 then bit (s.getN rLodgeCapSideMap) p.2
        else if p.1 = 6 then bit (s.getN rLodgeCapSideMap) (8 + p.2) else bit (s.getN rLodgeCapSideMap) (12 + p.2)
      !present && winMask f t i != 0) with
  | some i => some ((winInst i).1 + 0x100)
  | none => none

/-- The lowest set bit of a mask. -/
def lowestBit (m : Nat) : Nat := match (List.range 64).find? (bit m) with | some i => i | none => 0

/-- A window that two tenants would hold, in the file or in the values in force: the detail word of TEN_WINDOW_CONFLICT (Table 18-5). -/
def State.windowConflict (s : State) (f g : RegFile) (t : Nat) : Option Nat :=
  match (List.range 30).find? (fun i => (s.tenants.filter (fun x => x.id != t)).any (fun x =>
      ((winMask g x.id i ||| winMask f x.id i) &&& winMask f t i) != 0)) with
  | none => none
  | some i =>
    let m := (s.tenants.filter (fun x => x.id != t)).foldl (fun m x => m ||| ((winMask g x.id i ||| winMask f x.id i) &&& winMask f t i)) 0
    let p := winInst i
    some (p.1 * 256 + p.2 + lowestBit m * 0x10000)

/-- A sum of Table 18-2 above its bound after the change: the class and the free amount (R232). -/
def State.overgrant (s : State) (f : RegFile) (ts : List Nat) : Option Nat :=
  (List.range 8).findSome? (fun cls =>
    let sum := sumList (s.tenants.map (fun x => grantItem f x.id cls))
    if s.grantBound cls < sum then
      match ts.find? (fun t => decide (grantItem s.pf0 t cls < grantItem f t cls)) with
      | some t => some (cls + Nat.min (s.grantBound cls - s.grantOthers s.pf0 t cls) 0xFFFF * 0x10000)
      | none => none
    else none)

/-- The first Rota of a tenant, in admission order, that the values of a file would break: its windows, the quotas and shares it uses with
those before it, its ranges, its watts (R99, R126, R542), or a buffer of one of its accepted tasks. -/
def State.breaks (s : State) (f : RegFile) (t : Nat) : Option Nat :=
  let rs := s.rotasOf t
  let upto := fun (i : Nat) (g : Bytes → Nat) => sumList ((rs.take (i + 1)).map (fun r => g r.bin))
  let hbm := fileN f (tenKey t rTenHbmGran) * 0x400000
  let ory := fileN f (tenKey t rTenOryGran) * 0x400000
  match (List.range rs.length).find? (fun i => match rs[i]? with
    | none => false
    | some r =>
      r.place.any (fun p => (List.range 30).any (fun k => p.uses k && (winMask f t k &&& winRange p.first p.count) != winRange p.first p.count))
      || decide (grantItem f t 3 < upto i rhStakes) || decide (grantItem f t 7 < upto i rhHoops) || decide (grantItem f t 6 < upto i rhStreams)
      || decide (grantItem f t 0 < upto i rhBwRead) || decide (grantItem f t 1 < upto i rhBwWrite) || decide (grantItem f t 2 < upto i rhBwRemote)
      || decide (grantItem f t 4 < upto i rhWatts)
      || decide (ory < r.oryBase + orySpan r.bin) || decide (hbm < r.hbmBase + r.hbmLen)
      || (s.tasksOf t).any (fun x => x.handle == r.handle && !x.decided && (List.range (btNStream x.binding)).any (fun e =>
            !btHost x.binding e && decide (hbm < btBase x.binding e + btBytes x.binding e)))) with
  | some i => match rs[i]? with | some r => some r.handle | none => none
  | none => none

/-- An allocation the file asks for that cannot be given: MEM_ZERO_PENDING when zeroing would supply the granules, else MEM_NO_EXTENT
(R125, Table 4-3). -/
def State.memShort (s : State) (f : RegFile) (ts : List Nat) : Option Nat :=
  let want := fun (t : Nat) (off : Nat) (ext : Runs) => fileN f (tenKey t off) - runsLen ext
  let hbmNeed := sumList (ts.map (fun t => want t rTenHbmGran (s.extents t .hbm)))
  let oryNeed := sumList (ts.map (fun t => want t rTenOryGran (s.extents t .ory)))
  let tryAll := fun (off : Nat) (sp : Space) (free : Runs) => ts.foldl (fun (acc : Option Runs) t => match acc with
    | none => none
    | some fr => match grow (s.extents t sp) fr (want t off (s.extents t sp)) with
      | none => none
      | some r => some r.2) (some free)
  if ts.any (fun t => decide (fileN f (tenKey t rTenHbmGran) = 0)) then some errMemNoExtent
  else if (tryAll rTenHbmGran .hbm s.mem.hbmFree).isNone then
    if runsLen s.mem.hbmFree < hbmNeed ∧ hbmNeed ≤ runsLen s.mem.hbmFree + runsLen s.mem.zeroQ then some errMemZeroPending
    else some errMemNoExtent
  else if oryNeed = 0 then none
  else if (tryAll rTenOryGran .ory s.mem.oryFree).isNone then some errMemNoExtent
  else none

/-- A long command runs, a PLDM update among them (R585, R595). -/
def State.longRuns (s : State) : Bool := s.mbx.long.isSome || s.pldm.update.isSome

/-- The code that refuses a commit, or none (R61, R62, R99, R125, R126, R232, R542). -/
def State.commitRefusal (s : State) (snap : RegFile) (ks : List Nat) : Option Nat :=
  let f := applyKeys snap s.pf0 ks
  let ts := s.touched ks
  if s.longRuns then some errMbxBusy
  else if (match s.commit with | some c => c.drain | none => false) then some errCfgPending
  else if ks.any (fun k => decide (rBeatCtrl ≤ k ∧ k < rBeatStatus)) && !beatLimitsOk f then some errBeatPeriodInvalid
  else if ks.any isResetOnly then some errCfgResetOnly
  else if !s.rotas.isEmpty && ks.any isBeatKey then some errCfgWouldBreak
  else if ts.any (fun t => (s.absentWindow f t).isSome) then some errUnitAbsent
  else if (s.overgrant f ts).isSome then some errCfgOvergrant
  else if ts.any (fun t => (s.breaks f t).isSome) then some errCfgWouldBreak
  else if ts.any (fun t => (s.windowConflict f s.pf0 t).isSome) then some errCfgWindowConflict
  else s.memShort f ts

/-! ### Applying a commit (R100) -/

/-- A physical queue pair as it is mapped to a tenant: in RESET, with no context. -/
def Qp.fresh (t q phys : Nat) : Qp :=
  { tenant := t, q := q, phys := phys, st := 0, ctx := List.replicate 64 0, unacked := [], lastAck := none, retries := 0, rnr := 0, sendPsn := 0,
    recvPsn := 0, rc := 400000, rt := 400000, alpha := 1, stage := 0, sent := 0, cnp := false, lastCnp := none }

/-- The tenant's queue pairs follow its quota: those that remain keep their mapping, and others come or go at the top of its numbers, on the lowest
free physical queue pairs (R538). -/
def State.mapQps (s : State) (t quota : Nat) : State :=
  let mine := (s.qps.filter (fun k => k.tenant == t)).length
  if quota < mine then { s with qps := s.qps.filter (fun k => k.tenant != t || decide (k.q < quota)) }
  else
    let used := s.qps.map (·.phys)
    let free := ((List.range 4096).filter (fun p => !used.contains p)).take (quota - mine)
    { s with qps := s.qps ++ (List.range free.length).map (fun i => Qp.fresh t (mine + i) (nth free i 0)) }

/-- Resize a tenant's allocations to what the registers in force now say (R121, R124, R125). -/
def State.resize (s : State) (t : Nat) : State :=
  match s.tenant? t with
  | none => s
  | some x =>
    let hbm := fileN s.pf0 (tenKey t rTenHbmGran)
    let ory := fileN s.pf0 (tenKey t rTenOryGran)
    let s := (if runsLen x.hbm < hbm then
        match grow x.hbm s.mem.hbmFree (hbm - runsLen x.hbm) with
        | some r => { (s.updTenant t (fun x => { x with hbm := r.1 })) with mem := { s.mem with hbmFree := r.2 } }
        | none => s
      else
        let c := shrink x.hbm (runsLen x.hbm - hbm)
        (s.updTenant t (fun x => { x with hbm := c.1 })).freeHbm c.2)
    if runsLen x.ory < ory then
      match grow x.ory s.mem.oryFree (ory - runsLen x.ory) with
      | some r =>
        let s := { (s.updTenant t (fun x => { x with ory := r.1 })) with mem := { s.mem with oryFree := r.2 } }
        s.clearGranuleTags ((runsList r.1).drop (runsLen x.ory))
      | none => s
    else
      let c := shrink x.ory (runsLen x.ory - ory)
      (s.updTenant t (fun x => { x with ory := c.1 })).freeOry c.2

/-- CFG_STATUS bits DONE and REFUSED; the message of PF0 vector 3 when one becomes set (Table 17-5). -/
def State.cfgEvent (s : State) (b : Nat) : State :=
  let was := bit (s.getN rCfgStatus) b
  let s := s.raise rCfgStatus (2 ^ b)
  if was then s else s.msg 0 3

/-- Apply an accepted commit whole (R100). Entries of tenants that no longer exist are dropped. -/
def State.applyCommit (s : State) (c : Commit) : State :=
  let ks := (changedKeys c.snap s.pf0).filter (fun k => match tenantOfKey k with | some t => (s.tenant? t).isSome | none => true)
  let s := { s with pf0 := applyKeys c.snap s.pf0 ks, commit := none }
  ((s.touched ks).foldl (fun s t => (s.resize t).mapQps t (fileN s.pf0 (tenKey t rTenQpQuota))) s).cfgEvent 2

/-- The pending commit whose boundary has come (R100). -/
def State.commitAt (s : State) (b : Nat) : State :=
  match s.commit with
  | some c => if c.beat ≤ b then s.applyCommit c else s
  | none => s

/-- CFG_COMMIT: a write of 1 to COMMIT snapshots the shadow set and accepts or refuses it whole (R99 to R107). Until READY the write is
ignored (R664). -/
def execCfgCommit (go : Bool) (s : State) : Host.Outcome State Fault Refusal :=
  if !go || !s.mbx.ready then .next s
  else
    let snap := s.shadow
    let ks := changedKeys snap s.pf0
    match s.commitRefusal snap ks with
    | some code => .next ((s.setF rCfgStatus 31 16 code).cfgEvent 3)
    | none =>
      let drain := ks.any isDrain
      let now := ks.any isBeatKey && (s.beat.src == .none || s.beat.lost)
      let beat := s.beat.number + (if drain then 2 else 1)
      let s := (if s.commit.isSome then s.count rCfgReplacedCnt 1 else s)
      let c : Commit := { snap := snap, beat := beat, drain := drain }
      let s := (s.setF rCfgStatus 31 16 0).set64 rCfgApplyBeat (if now then s.beat.number else beat)
      .next (if now then s.applyCommit c else { s with commit := some c })

end Sys2Proof.Machine
end

