-- ==== Sys2Proof/Machine/Channel.lean ====
section
/-! DEFINITION. The management mailbox (spec/20, R584 to R593, R608, R609): how a command is taken, refused, run and completed, whatever its channel.
A short command completes when it is taken; a long one that is not refused at once completes by an event of its own. -/

namespace Sys2Proof.Machine

/-! ### Requests -/

/-- A channel's number in a log entry (Table 20-4). -/
def chanCode : Channel → Nat
  | .pf0 => 0 | .vdm => 1 | .smbus => 2

/-- The 64 B of MBX_REQ. -/
def State.reqBytes (s : State) : Bytes := (List.range 16).flatMap (fun i => leBytes 4 (s.getN (rMbxReq + 4 * i)))

/-- The first `n` bytes of MBX_DATA. -/
def State.mbxBytes (s : State) (n : Nat) : Bytes :=
  ((List.range (ceilDiv (Nat.min n 4096) 4)).flatMap (fun i => leBytes 4 (s.getN (rMbxData + 4 * i)))).take n

/-- The snapshot of a request (R587): for PF0 the mailbox registers and the first BYTES of MBX_DATA; over MCTP the message itself (R593). -/
def State.snapshot (s : State) (r : MbxReq) : MbxReq :=
  match r.chan with
  | .pf0 =>
    let q := s.reqBytes
    let n := fieldAt q 0x18 8
    { r with opcode := fieldAt q 0 2, tag := fieldAt q 2 2, flags := fieldAt q 4 4, arg0 := fieldAt q 8 4, arg1 := fieldAt q 0xC 4,
             addr := fieldAt q 0x10 8, bytes := n, arg64 := fieldAt q 0x20 8, reserved := !allZero (slice q 0x28 24),
             inlineData := s.mbxBytes n }
  | _ => r

/-- The Lodge runs: its aux rails are up, and JTAG does not hold it in reset (R675, R677, R679). -/
def State.lodgeRuns (s : State) : Bool := s.power.aux && !s.power.held

/-- A command reaches the Lodge by a channel: by PF0 and by MCTP over VDM only over the link, and by MCTP only where it is enabled (R592, R675). -/
def State.hears (s : State) : Channel → Bool
  | .pf0 => s.lodgeRuns && s.host.dlUp
  | .vdm => s.lodgeRuns && s.host.dlUp && bit (s.getN rMbxMctpCtrl) 9
  | .smbus => s.lodgeRuns && bit (s.getN rMbxMctpCtrl) 8

/-- The rows of Table 20-2: the FLAGS bits named, what BYTES must be (none: the length of a source), and whether ADDR is needed. A command that
names no BYTES takes 0 (notes/assumptions/70.md). -/
def commandRow (op : Nat) : Option (Nat × Option Nat × Bool) :=
  if op = 0x0010 then some (0, some 384, false)
  else if op = 0x0020 then some (0, none, true)
  else if op = 0x0050 then some (1, none, true)
  else if op = 0x0051 ∨ op = 0x0060 then some (1, some 0, false)
  else if op = 0x0053 then some (0, some 32768, true)
  else if [0x0001, 0x0002, 0x0011, 0x0012, 0x0021, 0x0030, 0x0040, 0x0041, 0x0052].contains op then some (0, some 0, false)
  else none

/-- The code of R590 or R593 that refuses a request, if any. -/
def argFault (r : MbxReq) : Option Nat :=
  match commandRow r.opcode with
  | none => some errMbxUnknownCommand
  | some (mask, len, addr) =>
    if addr && r.chan != Channel.pf0 then some errMbxNotPermitted
    else if r.reserved || r.flags / (mask + 1) != 0 || (match len with | some n => r.bytes != n | none => false) then some errMbxArgInvalid
    else none

/-! ### Completion (R589, R593, R600) -/

/-- A command that went through. -/
def MbxResult.ok : MbxResult := { code := 0, detail := 0, value0 := 0, value1 := 0 }

/-- A command refused or failed. -/
def MbxResult.bad (code detail : Nat) : MbxResult := { code := code, detail := detail, value0 := 0, value1 := 0 }

/-- The tenant a request names, or 0xFF. -/
def reqTenant (r : MbxReq) : Nat :=
  if r.opcode = 0x0010 then (if r.inlineData.isEmpty then noTenant else fieldAt r.inlineData 0 1)
  else if r.opcode = 0x0011 ∨ r.opcode = 0x0012 ∨ r.opcode = 0x0020 then r.arg0 % 256
  else if r.opcode = 0x0021 then r.arg0 / 2 ^ 24 % 256
  else noTenant

/-- The CLASS 1 entry of a refused or failed command. -/
def State.logCommand (s : State) (r : MbxReq) (code detail : Nat) : State :=
  let a := s.free 64
  a.2.logEntry { code := code, cls := clsCommand, tenant := reqTenant r, detail := detail,
                 arg0 := r.opcode + r.tag * 2 ^ 16 + chanCode r.chan * 2 ^ 32, arg1 := a.1.toNat }

/-- The response of Table 20-3. -/
def mctpResponse (tag : Nat) (x : MbxResult) : Bytes :=
  leBytes 2 x.code ++ leBytes 2 tag ++ leBytes 4 x.detail ++ leBytes 8 x.value0 ++ leBytes 8 x.value1 ++ leBytes 8 0

/-- The result of a command in the mailbox registers, and the message of PF0 vector 0. -/
def State.showResult (s : State) (tag : Nat) (x : MbxResult) : State :=
  let s := (s.setN rMbxResult (x.code % 0x10000 + tag % 0x10000 * 0x10000)).setN rMbxDetail x.detail
  ((s.set64 rMbxValue0 x.value0).set64 rMbxValue1 x.value1).msg 0 0

/-- MBX_STATUS names the command that runs or was last done. -/
def State.showState (s : State) (r : MbxReq) (state : Nat) : State := (s.setF rMbxStatus 1 0 state).setF rMbxStatus 31 16 r.opcode

/-- A command completes (R589, R593): the log, the status, and the result by its channel. -/
def State.finishCmd (s : State) (r : MbxReq) (x : MbxResult) : State :=
  let s := (if x.code = 0 then s else s.logCommand r x.code x.detail)
  let s := s.showState r 3
  match r.chan with
  | .pf0 => s.showResult r.tag x
  | c => s.emit (.mctp c 0x7E (mctpResponse r.tag x))

/-! ### Busy (R586, R599, R608, R609) -/

/-- The Lodge answers no command of this opcode but with MBX_BUSY. -/
def State.busyFor (s : State) (op : Nat) : Bool :=
  if s.mbx.tripped then op != 0x0060
  else if s.mbx.stopped then s.longRuns || !(decide (0x0050 ≤ op) && decide (op ≤ 0x0053))
  else if !s.mbx.ready then op != 0x0001 && op != 0x0002
  else s.longRuns

/-- The answer MBX_BUSY (R586). -/
def State.answerBusy (s : State) (r : MbxReq) : State :=
  let s := s.logCommand r errMbxBusy 0
  match r.chan with
  | .pf0 => (s.setN rMbxRefused (r.opcode + r.tag * 0x10000)).count rMbxRefusedCnt 1
  | c => s.emit (.mctp c 0x7E (mctpResponse r.tag (MbxResult.bad errMbxBusy 0)))

/-- The previous PF0 command has not completed (R587). -/
def State.pf0Running (s : State) : Bool := match s.mbx.long with | some l => l.req.chan == Channel.pf0 | none => false

/-! ### Taking a command -/

/-- What a command's own work gives: it completes at once, or it runs on. -/
inductive Work where
  | done (s : State) (x : MbxResult)
  | runs (s : State) (l : LongCmd)

/-- A long command with its request, and the result it will end with once that is known. -/
def longFor (r : MbxReq) (x : Option MbxResult) : LongCmd := { req := r, phase := 0, slot := 0, result := x }

/-- A long command begins: MBX_STATUS names it as running, and it ends by an event of its own. Its PROGRESS lies below 100; the spec fixes no more, so
it is a free value. -/
def State.begins (s : State) (r : MbxReq) (l : LongCmd) : State :=
  let p := s.free 8
  let s := ((p.2.showState r 2).setF rMbxStatus 15 8 (p.1.toNat % 100))
  { s with mbx := { s.mbx with long := some l } }

/-- A command is taken: refused, or its work done. -/
def State.perform (s : State) (r : MbxReq) (body : State → MbxReq → Work) : State :=
  if r.chan == Channel.pf0 && s.pf0Running then s.count rMbxProtoErrCnt 1
  else if s.busyFor r.opcode then s.answerBusy r
  else match argFault r with
    | some c => s.finishCmd r (MbxResult.bad c 0)
    | none => match body s r with
      | .done s x => s.finishCmd r x
      | .runs s l => s.begins r l

/-- A command of one of the opcodes `p` names; a request of another one is not this command. -/
def State.command (s : State) (p : Nat → Bool) (r : MbxReq) (body : State → MbxReq → Work) : State :=
  let r := s.snapshot r
  if !p r.opcode || !s.hears r.chan then s else s.perform r body

/-- A source could not be read (R588); with the link down the code is that of R580. -/
def State.sourceCode (s : State) : Nat := if s.host.dlUp then errMbxSourceFault else errHostLinkDown

/-- The running long command ends with a result. -/
def State.endLong (s : State) (x : MbxResult) : State :=
  match s.mbx.long with
  | none => s
  | some l => (({ s with mbx := { s.mbx with long := none } } : State).setF rMbxStatus 15 8 100).finishCmd l.req x

/-- The link goes down while the Lodge programs straight from the host's source, its own area having failed the self-test: the command ends and its
target stays invalidated (R580). -/
def State.updateLinkLost (s : State) : State :=
  match s.mbx.long with
  | some l => if !s.boot.areaOk && (l.req.opcode == 0x0050 || l.req.opcode == 0x0053) then s.endLong (MbxResult.bad errHostLinkDown 0) else s
  | none => s

end Sys2Proof.Machine
end

