-- ==== Sys2Proof/Machine/Float.lean ====
section
/-! DEFINITION. Floating point as spec/00 (Table 0-5) and spec/12 (Tables 12-2 and 12-3) give it: IEEE 754 formats and the OCP 8-bit and
4-bit formats, decoded to exact values, computed exactly, and rounded once to nearest, ties to even, with subnormals kept. -/

namespace Sys2Proof.Machine

/-- An IEEE 754 interchange format: exponent and mantissa widths. -/
structure Fmt where
  e : Nat
  m : Nat
  deriving DecidableEq, Repr

def f16 : Fmt := { e := 5, m := 10 }
def bf16 : Fmt := { e := 8, m := 7 }
def f32 : Fmt := { e := 8, m := 23 }
def f64 : Fmt := { e := 11, m := 52 }
def e5m2 : Fmt := { e := 5, m := 2 }

/-- A value: NaN, an infinity, or (-1)^neg * man * 2^exp. Zero has man 0 and keeps its sign. -/
inductive FV where
  | nan
  | inf (neg : Bool)
  | fin (neg : Bool) (man : Nat) (exp : Int)
  deriving DecidableEq, Repr

def Fmt.width (f : Fmt) : Nat := 1 + f.e + f.m

/-- The exponent of a subnormal's lowest bit. -/
def Fmt.emin (f : Fmt) : Int := 2 - (2 ^ (f.e - 1) : Nat) - (f.m : Int)

/-- The value a pattern holds. -/
def Fmt.decode (f : Fmt) (b : Nat) : FV :=
  let neg := bit b (f.e + f.m)
  let ex := bits b (f.e + f.m - 1) f.m
  let ma := b % 2 ^ f.m
  if ex = 2 ^ f.e - 1 then (if ma = 0 then .inf neg else .nan)
  else if ex = 0 then .fin neg ma f.emin
  else .fin neg (2 ^ f.m + ma) (f.emin + (ex : Int) - 1)

/-- The pattern of an infinity, and of the canonical NaN: sign clear, quiet bit set, payload 0. -/
def Fmt.infBits (f : Fmt) (neg : Bool) : Nat := (2 ^ f.e - 1) * 2 ^ f.m + ofBool neg * 2 ^ (f.e + f.m)
def Fmt.qnan (f : Fmt) : Nat := (2 ^ f.e - 1) * 2 ^ f.m + 2 ^ (f.m - 1)

/-- man * 2^exp in units of 2^t, rounded to nearest, ties to even. -/
def roundAt (man : Nat) (exp t : Int) : Nat :=
  if t ≤ exp then man * 2 ^ (exp - t).toNat
  else
    let sh := (t - exp).toNat
    let q := man / 2 ^ sh
    let r := man % 2 ^ sh
    if 2 ^ sh < 2 * r ∨ (2 * r = 2 ^ sh ∧ q % 2 = 1) then q + 1 else q

/-- Round a value to a format: nearest, ties to even, subnormals kept, overflow to infinity; NaN becomes the canonical NaN. -/
def Fmt.round (f : Fmt) : FV → Nat
  | .nan => f.qnan
  | .inf neg => f.infBits neg
  | .fin neg man exp =>
    let sign := ofBool neg * 2 ^ (f.e + f.m)
    if man = 0 then sign
    else
      let top : Int := exp + (Nat.log2 man : Int) - (f.m : Int)
      let t := if top < f.emin then f.emin else top
      let q := roundAt man exp t
      let b := (t - f.emin).toNat * 2 ^ f.m + q
      if (2 ^ f.e - 1) * 2 ^ f.m ≤ b then f.infBits neg else b + sign

/-! ### Exact operations -/

def FV.isNan : FV → Bool
  | .nan => true
  | _ => false

def FV.isZero : FV → Bool
  | .fin _ m _ => m == 0
  | _ => false

def FV.isFinite : FV → Bool
  | .fin _ _ _ => true
  | _ => false

/-- The sign bit of a value that is not NaN. -/
def FV.sign : FV → Bool
  | .nan => false
  | .inf n => n
  | .fin n _ _ => n

def FV.negate : FV → FV
  | .nan => .nan
  | .inf n => .inf (!n)
  | .fin n m e => .fin (!n) m e

def FV.abs : FV → FV
  | .nan => .nan
  | .inf _ => .inf false
  | .fin _ m e => .fin false m e

/-- A signed integer times a power of two as a value; an exact zero is +0. -/
def fvOfInt (v : Int) (e : Int) : FV := .fin (decide (v < 0)) v.natAbs e

/-- The integer of a finite value in units of 2^e, for an e at or below its exponent. -/
def scaled (neg : Bool) (m : Nat) (ex e : Int) : Int :=
  let v : Int := ((m * 2 ^ (ex - e).toNat : Nat) : Int)
  if neg then -v else v

/-- Exact sum; x + (-x) is +0, and the sum of two negative zeros is -0. -/
def FV.add : FV → FV → FV
  | .nan, _ => .nan
  | _, .nan => .nan
  | .inf a, .inf b => if a = b then .inf a else .nan
  | .inf a, _ => .inf a
  | _, .inf b => .inf b
  | .fin n1 m1 e1, .fin n2 m2 e2 =>
    if m1 = 0 ∧ m2 = 0 then .fin (n1 && n2) 0 0
    else
      let e := if e1 ≤ e2 then e1 else e2
      fvOfInt (scaled n1 m1 e1 e + scaled n2 m2 e2 e) e

def FV.sub (a b : FV) : FV := a.add b.negate

/-- Exact product; 0 times an infinity is NaN. -/
def FV.mul : FV → FV → FV
  | .nan, _ => .nan
  | _, .nan => .nan
  | .inf a, .inf b => .inf (xor a b)
  | .inf a, .fin n m _ => if m = 0 then .nan else .inf (xor a n)
  | .fin n m _, .inf b => if m = 0 then .nan else .inf (xor n b)
  | .fin n1 m1 e1, .fin n2 m2 e2 => .fin (xor n1 n2) (m1 * m2) (e1 + e2)

/-- Quotient to more than `p` bits with a sticky bit, so that one rounding to at most `p` bits is correct. 0/0 and inf/inf are NaN; x/0 is an
infinity. -/
def FV.div (p : Nat) : FV → FV → FV
  | .nan, _ => .nan
  | _, .nan => .nan
  | .inf _, .inf _ => .nan
  | .inf a, .fin n _ _ => .inf (xor a n)
  | .fin n _ _, .inf b => .fin (xor n b) 0 0
  | .fin n1 m1 e1, .fin n2 m2 e2 =>
    if m2 = 0 then (if m1 = 0 then .nan else .inf (xor n1 n2))
    else
      let k := p + 3 + Nat.log2 m2
      let q := m1 * 2 ^ k / m2
      let r := m1 * 2 ^ k % m2
      .fin (xor n1 n2) (2 * q + (if r = 0 then 0 else 1)) (e1 - e2 - (k : Int) - 1)

/-- The integer square root, bit by bit from bit `k` - 1 down. -/
def isqrtFrom (n : Nat) : Nat → Nat → Nat
  | 0, r => r
  | k + 1, r => isqrtFrom n k (if (r + 2 ^ k) * (r + 2 ^ k) ≤ n then r + 2 ^ k else r)

def isqrt (n : Nat) : Nat := isqrtFrom n (Nat.log2 n / 2 + 1) 0

/-- Square root to more than `p` bits with a sticky bit; a negative value other than -0 gives NaN. -/
def FV.sqrt (p : Nat) : FV → FV
  | .nan => .nan
  | .inf false => .inf false
  | .inf true => .nan
  | .fin n m e =>
    if m = 0 then .fin n 0 0
    else if n then .nan
    else
      let k0 := 2 * (p + 3)
      let k := if (e - (k0 : Int)) % 2 = 0 then k0 else k0 + 1
      let v := m * 2 ^ k
      let r := isqrt v
      .fin false (2 * r + (if r * r = v then 0 else 1)) ((e - (k : Int)) / 2 - 1)

/-- Ordering of two values neither of which is NaN; -0 and +0 compare equal. -/
def FV.compare : FV → FV → Ordering
  | .inf a, .inf b => if a = b then .eq else if a then .lt else .gt
  | .inf a, _ => if a then .lt else .gt
  | _, .inf b => if b then .gt else .lt
  | .fin n1 m1 e1, .fin n2 m2 e2 =>
    let e := if e1 ≤ e2 then e1 else e2
    let x := scaled n1 m1 e1 e
    let y := scaled n2 m2 e2 e
    if x < y then .lt else if x = y then .eq else .gt
  | _, _ => .eq

def FV.lt (a b : FV) : Bool := !a.isNan && !b.isNan && a.compare b == .lt
def FV.le (a b : FV) : Bool := !a.isNan && !b.isNan && a.compare b != .gt
def FV.eqv (a b : FV) : Bool := !a.isNan && !b.isNan && a.compare b == .eq

/-- The lesser operand, with -0 below +0 (Table 0-5). -/
def FV.minV (a b : FV) : FV := if a.compare b = .eq then (if a.sign then a else b) else if a.compare b = .lt then a else b

/-- The greater operand, with -0 below +0 (Table 0-5). -/
def FV.maxV (a b : FV) : FV := if a.compare b = .eq then (if a.sign then b else a) else if a.compare b = .lt then b else a

/-- The largest integral value not above x, exact; infinities, zeros and NaN unchanged (Table 0-5). -/
def FV.floor : FV → FV
  | .fin n m e =>
    if 0 ≤ e ∨ m = 0 then .fin n m e
    else
      let k := (-e).toNat
      let v : Int := if n then -((ceilDiv m (2 ^ k) : Nat) : Int) else ((m / 2 ^ k : Nat) : Int)
      .fin n v.natAbs 0
  | v => v

/-- The value truncated towards zero, as an integer; 0 for what is not finite (Table 0-5 applies it only to finite values). -/
def FV.trunc : FV → Int
  | .fin n m e =>
    let v : Nat := if 0 ≤ e then m * 2 ^ e.toNat else m / 2 ^ (-e).toNat
    if n then -(v : Int) else (v : Int)
  | _ => 0

/-- The value of an integer. -/
def fvInt (v : Int) : FV := fvOfInt v 0

/-! ### Operations on patterns of a format -/

def Fmt.add (f : Fmt) (a b : Nat) : Nat := f.round ((f.decode a).add (f.decode b))
def Fmt.sub (f : Fmt) (a b : Nat) : Nat := f.round ((f.decode a).sub (f.decode b))
def Fmt.mul (f : Fmt) (a b : Nat) : Nat := f.round ((f.decode a).mul (f.decode b))
def Fmt.div (f : Fmt) (a b : Nat) : Nat := f.round (FV.div (f.m + 1) (f.decode a) (f.decode b))
def Fmt.sqrt (f : Fmt) (a : Nat) : Nat := f.round (FV.sqrt (f.m + 1) (f.decode a))
def Fmt.fma (f : Fmt) (a b c : Nat) : Nat := f.round (((f.decode a).mul (f.decode b)).add (f.decode c))

/-! ### The 8-bit and 4-bit formats -/

/-- FP8 E4M3: bias 7, no infinity, NaN at S.1111.111 (Table 12-2). -/
def decodeE4m3 (b : Nat) : FV :=
  let neg := bit b 7
  let ex := bits b 6 3
  let ma := b % 8
  if ex = 15 ∧ ma = 7 then .nan
  else if ex = 0 then .fin neg ma (-9)
  else .fin neg (8 + ma) ((ex : Int) - 10)

/-- FP4 E2M1 (Table 12-3). -/
def decodeE2m1 (b : Nat) : FV :=
  let neg := bit b 3
  let ex := bits b 2 1
  let ma := b % 2
  if ex = 0 then .fin neg ma (-1) else .fin neg (2 + ma) ((ex : Int) - 2)

/-- E8M0: 2^(e - 127), 0xFF is NaN. -/
def decodeE8m0 (b : Nat) : FV := if b % 256 = 255 then .nan else .fin false 1 ((b % 256 : Nat) - 127)

/-! ### Element types (Table 12-2) -/

/-- Bits of an element type; 0 for the variable and reserved codes. -/
def typeBits (c : Nat) : Nat :=
  if c = 0x01 then 1
  else if c = 0x02 ∨ c = 0x06 ∨ c = 0x0E ∨ c = 0x0F then 8
  else if c = 0x03 ∨ c = 0x07 ∨ c = 0x0A ∨ c = 0x0B then 16
  else if c = 0x04 ∨ c = 0x08 ∨ c = 0x0C then 32
  else if c = 0x05 ∨ c = 0x09 ∨ c = 0x0D then 64
  else if c = 0x18 ∨ c = 0x19 ∨ c = 0x1B then 4
  else if c = 0x1A then 2
  else 0

/-- Bytes of an element of a type a stream may carry. -/
def typeBytes (c : Nat) : Nat := typeBits c / 8

/-- A packed sub-byte type. -/
def typePacked (c : Nat) : Bool := decide (0x18 ≤ c ∧ c ≤ 0x1B)

/-- A type marked for streams in Table 12-2, SUBBYTE given. -/
def typeForStream (c : Nat) (sub : Bool) : Bool := decide (0x02 ≤ c ∧ c ≤ 0x0F) || (sub && typePacked c)

/-- The value of an element of a type. -/
def typeValue (c v : Nat) : FV :=
  if c = 0x0A then f16.decode v
  else if c = 0x0B then bf16.decode v
  else if c = 0x0C then f32.decode v
  else if c = 0x0D then f64.decode v
  else if c = 0x0E then decodeE4m3 v
  else if c = 0x0F then e5m2.decode v
  else if c = 0x1B then decodeE2m1 v
  else if c = 0x02 ∨ c = 0x03 ∨ c = 0x04 ∨ c = 0x05 ∨ c = 0x18 ∨ c = 0x1A then fvInt (toSigned (typeBits c) v)
  else fvInt ((v % 2 ^ typeBits c : Nat) : Int)

end Sys2Proof.Machine
end

