-- ==== Sys2Proof/Machine/Hoops.lean ====
section
/-! DEFINITION. Hoops (spec/05, R173 to R178): reserving, filling, committing, acquiring and releasing slots, and the signals of linked
hoops (R177). -/

namespace Sys2Proof.Machine

/-! ### Finding -/

/-- The Rota of a handle together with the course it runs. -/
def State.running (s : State) (h : Nat) : Option (Rota × CourseRun) :=
  match s.rota? h with
  | none => none
  | some r => match r.course with
    | none => none
    | some c => some (r, c)

def CourseRun.hoop? (c : CourseRun) (i : Nat) : Option Hoop := c.hoops.find? (fun k => k.idx == i)

def CourseRun.stream? (c : CourseRun) (i : Nat) : Option StreamRun := c.streams.find? (fun k => k.idx == i)

def CourseRun.op? (c : CourseRun) (key : Nat) : Option OpRun := c.ops.find? (fun k => k.key == key)

/-- Hoop `i` of the running course of Rota `h`. -/
def State.hoop? (s : State) (h i : Nat) : Option Hoop :=
  match s.running h with
  | none => none
  | some (_, c) => c.hoop? i

def State.updHoop (s : State) (h i : Nat) (f : Hoop → Hoop) : State :=
  s.updCourse h (fun c => { c with hoops := updWhere c.hoops (fun k => k.idx == i) f })

def State.updStream (s : State) (h i : Nat) (f : StreamRun → StreamRun) : State :=
  s.updCourse h (fun c => { c with streams := updWhere c.streams (fun k => k.idx == i) f })

def State.updOp (s : State) (h key : Nat) (f : OpRun → OpRun) : State :=
  s.updCourse h (fun c => { c with ops := updWhere c.ops (fun k => k.key == key) f })

/-- The physical instance of a logical one in a course. -/
def Rota.phys (r : Rota) (c cls i : Nat) : Nat :=
  nth (nth (nth r.place c { first := 0, count := 0, insts := [] }).insts cls []) i 0

/-- The stream context of stream `i`. -/
def Rota.ctxOf (r : Rota) (i : Nat) : Nat :=
  (nth r.streams i { ctx := 0xFFFF, armed := false, host := false, base := 0, size := 0, coil := Coil.empty }).ctx

/-! ### Faults in a course -/

/-- A fault in the course a Rota runs aborts its task (R197, R613). -/
def State.courseFault (s : State) (h code inst ctx elem cls : Nat) : State :=
  match s.running h with
  | none => s
  | some (_, c) => s.abortTask (handleTenant h) c.seq code inst ctx elem cls

/-- The class of Table 1-6 of a hoop endpoint (Table 5-4; Table 21-4). -/
def endClass (e : Nat) : Nat := if e = 0x10 ∨ e = 0x11 then 1 else if e = 0x12 then 0 else e

/-- Signal the pair of a linked hoop and check it (R177, R217). -/
def State.linkSignal (s : State) (h : Nat) (r : Rota) (i : Nat) (full : Bool) (n : Nat) : State :=
  if !rpLinked r.bin i || n = 0 then s
  else
    let p := nth r.pairs (rlStake r.bin (rpLink r.bin i)) 0
    let s := s.signal p full n
    if (s.stake p).overReleased then
      s.courseFault h errStakeOverRelease p 0xFFFF 0 (endClass (if full then rpProd r.bin i else rpCons r.bin i))
    else s

/-! ### Slots -/

def Hoop.full (k : Hoop) (slots : Nat) : Bool := decide (slots ≤ k.rsv - k.head)

def Hoop.empty (k : Hoop) : Bool := k.tail == k.head

def Hoop.slot? (k : Hoop) (no : Nat) : Option Slot := k.slots.find? (fun x => x.no == no)

/-- A slot is reserved (R175); the caller has seen that the hoop is not full. -/
def Hoop.reserve (k : Hoop) : Hoop :=
  { k with rsv := k.rsv + 1, slots := k.slots ++ [{ no := k.rsv, len := 0, fin := false, complete := false }] }

def Hoop.updSlot (k : Hoop) (no : Nat) (f : Slot → Slot) : Hoop := { k with slots := updWhere k.slots (fun x => x.no == no) f }

/-- Ring offset of byte `o` of slot `no`. -/
def slotOff (b : Bytes) (k : Hoop) (no o : Nat) : Nat :=
  k.start + (if rpSlots b k.idx = 0 then 0 else no % rpSlots b k.idx) * rpSlotBytes b k.idx + o

/-- Read `n` bytes of a slot from byte `o`. -/
def State.readSlot (s : State) (r : Rota) (k : Hoop) (no o n : Nat) : State × Except Nat Bytes :=
  s.readRing r (slotOff r.bin k no o) n

/-- Write bytes of a slot at byte `o`. -/
def State.writeSlot (s : State) (r : Rota) (k : Hoop) (no o : Nat) (data : Bytes) : State × Option Nat :=
  s.writeRing r (slotOff r.bin k no o) data

/-- A unit places a whole batch in the next slot of a hoop and completes it; none when the hoop is full (R175). The Option Nat is the fault of
the write. -/
def State.placeBatch (s : State) (h : Nat) (r : Rota) (k : Hoop) (data : Bytes) (fin : Bool) : Option (State × Option Nat) :=
  if k.full (rpSlots r.bin k.idx) then none
  else
    let w := s.writeSlot r k k.rsv 0 data
    some (w.1.updHoop h k.idx (fun k => (k.reserve).updSlot k.rsv (fun x => { x with len := data.length, fin := fin, complete := true })), w.2)

/-! ### SLOT_COMMIT and SLOT_ACQUIRE -/

/-- The slot of count TAIL, when its bytes are complete. -/
def Hoop.ready (k : Hoop) : Option Slot :=
  match k.slot? k.tail with
  | some x => if x.complete then some x else none
  | none => none

/-- Commit the slot of count TAIL of hoop `i` (R176): TAIL moves past it, END is noted, and a linked hoop signals FULL (R177). -/
def State.commitSlot (s : State) (h i : Nat) : State :=
  match s.running h with
  | none => s
  | some (r, c) => match c.hoop? i with
    | none => s
    | some k => match k.ready with
      | none => s
      | some x => (s.updHoop h i (fun k => { k with tail := k.tail + 1, ended := x.fin })).linkSignal h r i true 1

/-- SLOT_ACQUIRE: the consumer of hoop `i` acquires the next committed slot; at empty it waits (R175, R176). -/
def execSlotAcquire (h i : Nat) (s : State) : Host.Outcome State Fault Refusal :=
  match s.hoop? h i with
  | none => .next s
  | some k => if k.acq < k.tail then .next (s.updHoop h i (fun k => { k with acq := k.acq + 1 })) else .next s

/-! ### Releasing -/

/-- The slots that every reader of the hoop has finished with. -/
def Hoop.freed (b : Bytes) (k : Hoop) : Nat :=
  match hoopReaders b k.idx with
  | [] => k.head
  | r :: t => t.foldl (fun m q => Nat.min m (sparseGet 0 k.done q)) (sparseGet 0 k.done r)

/-- HEAD moves to `n`, and a linked hoop signals EMPTY once per slot (R177). -/
def State.moveHead (s : State) (h : Nat) (r : Rota) (i n : Nat) : State :=
  match s.hoop? h i with
  | none => s
  | some k =>
    if n ≤ k.head then s
    else (s.updHoop h i (fun k => { k with head := n, slots := k.slots.filter (fun x => decide (n ≤ x.no)) })).linkSignal h r i false (n - k.head)

/-- A reader has finished with the first `n` slots of hoop `i`: the slots every reader has finished with are released in order (R176). -/
def State.finishSlots (s : State) (h : Nat) (r : Rota) (i key n : Nat) : State :=
  let s := s.updHoop h i (fun k => { k with done := sparseSet 0 k.done key n })
  match s.hoop? h i with
  | none => s
  | some k => s.moveHead h r i (k.freed r.bin)

/-! ### Reading a hoop as its consumer -/

/-- The bytes acquired and not yet read from slot `no`, byte `o` on, as pieces (slot, offset, length). -/
def Hoop.pieces (k : Hoop) (no o : Nat) : List (Nat × Nat × Nat) :=
  ((k.slots.filter (fun x => decide (no ≤ x.no ∧ x.no < k.acq))).map (fun x =>
    if x.no = no then (x.no, o, x.len - o) else (x.no, 0, x.len)))

/-- Bytes in pieces. -/
def piecesLen (l : List (Nat × Nat × Nat)) : Nat := sumList (l.map (fun p => p.2.2))

/-- The first `n` bytes of pieces. -/
def takePieces : List (Nat × Nat × Nat) → Nat → List (Nat × Nat × Nat)
  | [], _ => []
  | (k, o, l) :: t, n => if n = 0 then [] else if n ≤ l then [(k, o, n)] else (k, o, l) :: takePieces t (n - l)

/-- Read pieces of a hoop. -/
def State.readPieces (s : State) (r : Rota) (k : Hoop) : List (Nat × Nat × Nat) → State × Except Nat Bytes
  | [] => (s, .ok [])
  | (no, o, n) :: t =>
    match s.readSlot r k no o n with
    | (s, .error e) => (s, .error e)
    | (s, .ok a) => match s.readPieces r k t with
      | (s, .error e) => (s, .error e)
      | (s, .ok b) => (s, .ok (a ++ b))

/-- The position after `n` bytes from (`no`, `o`): slots read to their end are left behind. -/
def Hoop.advance (k : Hoop) (no o n : Nat) : Nat × Nat :=
  ((k.slots.filter (fun x => decide (no ≤ x.no ∧ x.no < k.acq))).foldl (fun (p : (Nat × Nat) × Nat) x =>
    let left := x.len - p.1.2
    if p.1.1 = x.no ∧ left ≤ p.2 then ((x.no + 1, 0), p.2 - left)
    else if p.1.1 = x.no then ((p.1.1, p.1.2 + p.2), 0)
    else p) ((no, o), n)).1

end Sys2Proof.Machine
end

