-- ==== Sys2Proof/Machine/Tensor.lean ====
section
/-! DEFINITION. Tensors (spec/12; spec/05, R167, R168): where each byte of a stream's tensor lies, the runs of contiguous bytes (R372), what
a run charges (R373), the reach of a tensor (R370), and the unpacking of sub-byte and scaled values (R375, R376). -/

namespace Sys2Proof.Machine

/-! ### Dimensions -/

/-- The source dimensions in delivery order, fastest first: the positions of PERM below N_DIM, the dimension `skip` left out. -/
def permDims (b : Bytes) (i skip : Nat) : List Nat :=
  ((List.range (rsNDim b i)).map (rsPermAt b i)).filter (fun d => d != skip)

/-- The index of each dimension of element `k`, in delivery order. -/
def dimIdx (b : Bytes) (i : Nat) : List Nat → Nat → List (Nat × Nat)
  | [], _ => []
  | d :: t, k => (d, k % Nat.max 1 (rsExtent b i d)) :: dimIdx b i t (k / Nat.max 1 (rsExtent b i d))

/-- The sum of index times stride (R167). -/
def idxOff (b : Bytes) (i : Nat) (l : List (Nat × Nat)) : Int :=
  l.foldl (fun (a : Int) p => a + (p.2 : Int) * rsStride b i p.1) 0

/-- The product of the extents of a list of dimensions. -/
def extProd (b : Bytes) (i : Nat) (l : List Nat) : Nat := l.foldl (fun a d => a * rsExtent b i d) 1

/-- Bits of the stream's element type. -/
def rsBits (b : Bytes) (i : Nat) : Nat := typeBits (rsEtype b i)

/-- Bytes of an element in memory, 1 for a packed type. -/
def rsSize (b : Bytes) (i : Nat) : Nat := if typePacked (rsEtype b i) then 1 else typeBytes (rsEtype b i)

def rsPacked (b : Bytes) (i : Nat) : Bool := typePacked (rsEtype b i)

/-- Bytes of one packed dimension-0 row. -/
def packedRow (b : Bytes) (i : Nat) : Nat := (rsExtent b i 0 * rsBits b i + 7) / 8

/-- The dimension an index stream drives, the outermost; none in the other modes. -/
def drivenDim (b : Bytes) (i : Nat) : Nat := if rsMode b i = 1 then rsNDim b i - 1 else 0xFF

/-- The single packed element of a one-dimensional indexed stream (R168). -/
def loneElem (b : Bytes) (i : Nat) : Bool := rsPacked b i && rsMode b i == 1 && rsNDim b i == 1

/-- Bytes in memory of what the stream visits: its tensor, or one row of an indexed stream. -/
def srcTotal (b : Bytes) (i : Nat) : Nat :=
  let dims := permDims b i (drivenDim b i)
  if loneElem b i then 1
  else if rsPacked b i then packedRow b i * extProd b i (dims.filter (fun d => d != 0))
  else rsSize b i * extProd b i dims

/-- The offset, within the allocation, of visited byte `j` of the tensor, or of the row of index `row` (R167, R168, R375). -/
def srcOff (b : Bytes) (i row j : Nat) : Int :=
  let dims := permDims b i (drivenDim b i)
  let base : Int := (rsOffset b i : Int) + (if rsMode b i = 1 then (row : Int) * rsStride b i (drivenDim b i) else 0)
  if loneElem b i then base + ((row * rsBits b i / 8 : Nat) : Int)
  else if rsPacked b i then
    let w := Nat.max 1 (packedRow b i)
    base + idxOff b i (dimIdx b i (dims.filter (fun d => d != 0)) (j / w)) + ((j % w : Nat) : Int)
  else
    let z := Nat.max 1 (rsSize b i)
    base + idxOff b i (dimIdx b i dims (j / z)) + ((j % z : Nat) : Int)

/-- How many bytes from visited byte `j` on lie one after another, up to `n`. -/
def runFrom (b : Bytes) (i row j : Nat) (first : Int) : Nat → Nat → Nat
  | 0, k => k
  | n + 1, k => if srcOff b i row (j + k) = first + (k : Int) then runFrom b i row j first n (k + 1) else k

/-- The run that starts at visited byte `j`, for a buffer at `base`: contiguous, and split at multiples of 2^XFER_LOG2 (R372). -/
def runLen (b : Bytes) (i base row j : Nat) : Nat :=
  let o := srcOff b i row j
  let x := 2 ^ rsXferLog2 b i
  let room := x - ((base : Int) + o).toNat % x
  runFrom b i row j o (Nat.min room (srcTotal b i - j)) 0

/-- Bytes charged for a run: every aligned 64 B block it touches (R373). -/
def blocksOf (addr n : Nat) : Nat := if n = 0 then 0 else ((addr + n - 1) / 64 - addr / 64 + 1) * 64

/-! ### Reach (R370, R375) -/

/-- The least and greatest offset a tensor reaches. -/
def reach (b : Bytes) (i : Nat) : Int × Int :=
  let o : Int := rsOffset b i
  let packed := rsPacked b i
  let r := (List.range (rsNDim b i)).foldl (fun (a : Int × Int) d =>
    if packed && d == 0 then a
    else
      let span := ((rsExtent b i d : Int) - 1) * rsStride b i d
      if span < 0 then (a.1 + span, a.2) else (a.1, a.2 + span)) (o, o)
  if packed then (r.1, r.2 + (packedRow b i : Int) - 1) else (r.1, r.2 + (rsSize b i : Int) - 1)

/-- The tensor lies within an allocation of `n` bytes. -/
def reachOk (b : Bytes) (i n : Nat) : Bool := decide (0 ≤ (reach b i).1 ∧ (reach b i).2 ≤ (n : Int) - 1)

/-- Table 12-4. -/
def scType (b : Bytes) (i : Nat) : Nat := bits (rsScaleCode b i) 1 0
def scBlock (b : Bytes) (i : Nat) : Nat := if bit (rsScaleCode b i) 2 then 32 else 16
def scOut (b : Bytes) (i : Nat) : Nat := bits (rsScaleCode b i) 4 3
/-- Bytes of a scale. -/
def scBytes (b : Bytes) (i : Nat) : Nat := if scType b i = 2 then 1 else if scType b i = 3 then 0 else 2

/-- Bytes of the scale array. -/
def scaleSpan (b : Bytes) (i : Nat) : Nat :=
  extProd b i (List.range (rsNDim b i)) / scBlock b i * scBytes b i

/-- The scale array lies within an allocation of `n` bytes (R375). -/
def scaleOk (b : Bytes) (i n : Nat) : Bool :=
  !rsSubbyte b i || scType b i == 3 || decide (rsScaleOffset b i + scaleSpan b i ≤ n)

/-- An output tensor that may place two elements on one byte: the dimension whose stride fails (R371). -/
def overlapDim (b : Bytes) (i : Nat) : Option Nat :=
  let dims := (List.range (rsNDim b i)).filter (fun d => decide (1 < rsExtent b i d))
  let sorted := dims.foldl (fun l d => insertBy (fun d => (rsStride b i d).natAbs) d l) []
  (sorted.foldl (fun (a : Nat × Option Nat) d =>
    match a.2 with
    | some _ => a
    | none => if (rsStride b i d).natAbs < a.1 then (a.1, some d)
      else (a.1 + (rsExtent b i d - 1) * (rsStride b i d).natAbs, none)) (rsSize b i, none)).2

/-! ### Unpacking (R375, R376) -/

/-- Bytes of an unpacked element: f32, bf16, f16, or one byte. -/
def outSize (b : Bytes) (i : Nat) : Nat := if scOut b i = 0 then 4 else if scOut b i = 3 then 1 else 2

/-- Bytes delivered for `n` bytes read (R376). -/
def delivered (b : Bytes) (i n : Nat) : Nat :=
  if !rsSubbyte b i then n
  else if loneElem b i then outSize b i
  else n * 8 / Nat.max 1 (rsBits b i) * outSize b i

/-- Bytes of a delivered element. -/
def delivSize (b : Bytes) (i : Nat) : Nat := if rsSubbyte b i then outSize b i else Nat.max 1 (rsSize b i)

/-- The source indices of element `k` of the tensor, or of the row of index `row`. -/
def elemIdx (b : Bytes) (i row k : Nat) : List (Nat × Nat) :=
  let l := dimIdx b i (permDims b i (drivenDim b i)) k
  if rsMode b i = 1 then (drivenDim b i, row) :: l else l

/-- The index of dimension `d` in a list of indices. -/
def idxAt (l : List (Nat × Nat)) (d : Nat) : Nat := match l.find? (fun p => p.1 == d) with | some p => p.2 | none => 0

/-- Dense row-major position of dimensions `d` onward. -/
def densePos (b : Bytes) (i : Nat) (l : List (Nat × Nat)) : List Nat → Nat
  | [] => 0
  | d :: t => idxAt l d + rsExtent b i d * densePos b i l t

/-- Where the scale of an element lies, in the allocation (R375). -/
def scaleAt (b : Bytes) (i row k : Nat) : Nat :=
  let l := elemIdx b i row k
  let rest := densePos b i l ((List.range (rsNDim b i)).drop 1)
  let q := idxAt l 0 / scBlock b i + rsExtent b i 0 / scBlock b i * rest
  rsScaleOffset b i + q * scBytes b i

/-- A scale's value. -/
def scaleValue (b : Bytes) (i : Nat) (v : Bytes) : FV :=
  if scType b i = 0 then f16.decode (leNat v)
  else if scType b i = 1 then bf16.decode (leNat v)
  else if scType b i = 2 then decodeE8m0 (leNat v)
  else .fin false 1 0

/-- One unpacked element, and whether it is a NaN (R376). -/
def unpackOne (b : Bytes) (i code : Nat) (g : FV) : Bytes × Bool :=
  if scOut b i = 3 then
    (leBytes 1 (if rsEtype b i = 0x19 then code else ofSigned 8 (toSigned (rsBits b i) code)), false)
  else
    let x := typeValue (rsEtype b i) code
    let y := f32.decode (f32.round (x.mul g))
    let fmt := if scOut b i = 0 then f32 else if scOut b i = 1 then bf16 else f16
    let o := fmt.round y
    (leBytes (outSize b i) o, (fmt.decode o).isNan)

/-- The codes of the elements in bytes read for a run: `row` places the lone element of a one-dimensional indexed stream. -/
def codesOf (b : Bytes) (i row : Nat) (data : Bytes) : List Nat :=
  if loneElem b i then [leNat data / 2 ^ (row * rsBits b i % 8) % 2 ^ rsBits b i]
  else if rsPacked b i then
    data.flatMap (fun v => (List.range (8 / Nat.max 1 (rsBits b i))).map (fun k => v.toNat / 2 ^ (k * rsBits b i) % 2 ^ rsBits b i))
  else data.map (·.toNat)

/-- Unpack a run: the codes with their scales; the NaN elements are counted. -/
def unpackAll (b : Bytes) (i : Nat) : List (Nat × FV) → Bytes × Nat
  | [] => ([], 0)
  | (c, g) :: t =>
    let a := unpackOne b i c g
    let r := unpackAll b i t
    (a.1 ++ r.1, ofBool a.2 + r.2)

end Sys2Proof.Machine
end

