-- ==== Sys2Proof/Machine/Batch.lean ====
section
/-! DEFINITION. Column batches (spec/07, R241, R242, R698; Table 7-5): taking one apart with the checks of Table 7-10, and laying one out. -/

namespace Sys2Proof.Machine

/-- A column batch: its header fields and its buffers. `offs` holds ROWS + 1 offsets in layouts 1, 2 and 4. -/
structure Batch where
  rows : Nat
  nulls : Nat
  layout : Nat
  etype : Nat
  noValid : Bool
  rowBase : Nat
  dict : Nat
  valid : List Bool
  offs : List Nat
  values : Bytes
  deriving DecidableEq, Repr

/-! ### Bitmaps -/

/-- Bit `i` of a bitmap: bit i % 8 of byte i / 8. -/
def bitAt (b : Bytes) (i : Nat) : Bool := (nth b (i / 8) 0).getLsbD (i % 8)

/-- The first `n` bits of a bitmap. -/
def bitsOf (b : Bytes) (n : Nat) : List Bool := (List.range n).map (bitAt b)

/-- Eight bits of a list as a byte. -/
def packByte (l : List Bool) : Byte := BitVec.ofNat 8 ((l.foldr (fun x a => ofBool x + 2 * a) 0))

/-- A list of bits packed into bytes; `fuel` counts bytes. -/
def packBits : Nat → List Bool → Bytes
  | 0, _ => []
  | n + 1, l => packByte (l.take 8) :: packBits n (l.drop 8)

/-- A bitmap of a list of bits. -/
def bitmap (l : List Bool) : Bytes := packBits (ceilDiv l.length 8) l

/-! ### Classes of element types (Table 7-6) -/

def isSigned (t : Nat) : Bool := decide (0x02 ≤ t ∧ t ≤ 0x05)
def isUnsigned (t : Nat) : Bool := decide (0x06 ≤ t ∧ t ≤ 0x09)
def isInt (t : Nat) : Bool := isSigned t || isUnsigned t
def isFloat (t : Nat) : Bool := decide (0x0A ≤ t ∧ t ≤ 0x0F)
def isVar (t : Nat) : Bool := t == 0x10 || t == 0x11
def isFixed (t : Nat) : Bool := isInt t || isFloat t

/-- Bytes of `n` values of a fixed-width type; bool is packed. -/
def valueBytes (t n : Nat) : Nat := if t = 1 then ceilDiv n 8 else n * typeBytes t

/-- Bytes of an offset of a layout, 0 where it has none. -/
def offWidth (layout : Nat) : Nat := if layout = 2 then 8 else if layout = 1 ∨ layout = 4 then 4 else 0

/-- A layout may carry a type. -/
def layoutOk (layout t : Nat) : Bool :=
  if layout = 0 then isFixed t || t == 1
  else if layout = 4 then isFixed t
  else isVar t

/-! ### Taking a batch apart -/

/-- `n` numbers of `w` bytes. -/
def readNums (w : Nat) : Nat → Bytes → List Nat
  | 0, _ => []
  | n + 1, b => leNat (b.take w) :: readNums w n (b.drop w)

/-- The header fields a slot's bytes show. -/
def hdrRows (b : Bytes) : Nat := fieldAt b 0 4
def hdrRowBase (b : Bytes) : Nat := fieldAt b 0x10 8

/-- The batch in a slot's committed bytes, or none where it breaks R241 or Table 7-5 (WEAVE_BATCH_INVALID). -/
def parseBatch (b : Bytes) : Option Batch :=
  let rows := hdrRows b
  let nulls := fieldAt b 4 4
  let layout := fieldAt b 8 1
  let et := fieldAt b 9 1
  let flags := fieldAt b 0xA 2
  let voff := fieldAt b 0x18 4
  let ooff := fieldAt b 0x1C 4
  let doff := fieldAt b 0x20 4
  let vb := fieldAt b 0x24 4
  let dict := fieldAt b 0x28 2
  let noV := bit flags 0
  let w := offWidth layout
  let need := if layout = 0 then valueBytes et rows else if layout = 3 then 4 * rows else 0
  let ok := decide (64 ≤ b.length) && decide (rows ≤ 65536) && decide (nulls ≤ rows) && decide (layout ≤ 4) && layoutOk layout et
    && decide (flags ≤ 1) && fieldAt b 0xC 4 == 0 && allZero (slice b 0x2A 22) && (layout == 3 || dict == 0)
    && (noV || (voff % 64 == 0 && decide (voff + ceilDiv rows 8 ≤ b.length)))
    && (if w = 0 then ooff == 0 else ooff % 64 == 0 && decide (ooff + (rows + 1) * w ≤ b.length))
    && doff % 64 == 0 && decide (doff + vb ≤ b.length) && decide (need ≤ vb)
  if ok then some {
    rows := rows, nulls := nulls, layout := layout, etype := et, noValid := noV, rowBase := hdrRowBase b, dict := dict,
    valid := if noV then List.replicate rows true else bitsOf (b.drop voff) rows,
    offs := if w = 0 then [] else readNums w (rows + 1) (b.drop ooff),
    values := slice b doff vb }
  else none

/-- Bytes one unit of a layout's offsets counts (R698). -/
def Batch.unit (x : Batch) : Nat := if x.layout = 4 then typeBytes x.etype else 1

/-- The first row whose offset decreases or reaches past the values (WEAVE_OFFSETS_INVALID). -/
def Batch.badOffset (x : Batch) : Option Nat :=
  (List.range x.rows).find? (fun i =>
    decide (nth x.offs (i + 1) 0 < nth x.offs i 0) || decide (x.values.length < nth x.offs (i + 1) 0 * x.unit)
      || decide (x.values.length < nth x.offs i 0 * x.unit))

/-- NULLS differs from the bitmap, or NO_VALIDITY stands beside a NULLS above 0 (WEAVE_NULL_COUNT_MISMATCH). -/
def Batch.nullsBad (x : Batch) : Bool :=
  if x.noValid then x.nulls != 0 else x.nulls != (x.valid.filter (fun v => !v)).length

/-- The bits of row `i` of a fixed-width batch. -/
def Batch.elem (x : Batch) (i : Nat) : Nat :=
  if x.etype = 1 then ofBool (bitAt x.values i) else fieldAt x.values (i * typeBytes x.etype) (typeBytes x.etype)

/-- The bytes of row `i` in a layout with offsets. -/
def Batch.span (x : Batch) (i : Nat) : Bytes :=
  slice x.values (nth x.offs i 0 * x.unit) ((nth x.offs (i + 1) 0 - nth x.offs i 0) * x.unit)

/-- The elements of list row `i`. -/
def Batch.list (x : Batch) (i : Nat) : List Nat :=
  readNums (typeBytes x.etype) (nth x.offs (i + 1) 0 - nth x.offs i 0) (x.span i)

/-! ### Laying a batch out (R242) -/

/-- Bytes padded with zeros to a multiple of 64. -/
def pad64 (b : Bytes) : Bytes := b ++ List.replicate (roundUp b.length 64 - b.length) 0

/-- The header of Table 7-5. -/
def batchHeader (rows nulls layout et rowBase voff ooff doff vb dict : Nat) : Bytes :=
  leBytes 4 rows ++ leBytes 4 nulls ++ leBytes 1 layout ++ leBytes 1 et ++ leBytes 2 (if nulls = 0 then 1 else 0) ++ leBytes 4 0
    ++ leBytes 8 rowBase ++ leBytes 4 voff ++ leBytes 4 ooff ++ leBytes 4 doff ++ leBytes 4 vb ++ leBytes 2 dict ++ List.replicate 22 0

/-- A batch with its buffers: validity, offsets, values. -/
def buildBatch (layout et rowBase dict : Nat) (valid : List Bool) (offs : List Nat) (values : Bytes) : Bytes :=
  let nulls := (valid.filter (fun v => !v)).length
  let v := if nulls = 0 then [] else pad64 (bitmap valid)
  let w := offWidth layout
  let o := if w = 0 then [] else pad64 ((offs.map (leBytes w)).flatten)
  let voff := if nulls = 0 then 0 else 64
  let ooff := if w = 0 then 0 else 64 + v.length
  let doff := 64 + v.length + o.length
  batchHeader valid.length nulls layout et rowBase voff ooff doff values.length dict ++ v ++ o ++ pad64 values

/-- Offsets of pieces laid one after another. -/
def offsFrom (a : Nat) : List Nat → List Nat
  | [] => [a]
  | n :: t => a :: offsFrom (a + n) t

/-- A fixed-width column of patterns; null rows are written as zeros. -/
def fixedBatch (et rowBase : Nat) (rows : List (Option Nat)) : Bytes :=
  let valid := rows.map (·.isSome)
  let values := if et = 1 then bitmap (rows.map (fun r => r.getD 0 == 1))
    else (rows.map (fun r => leBytes (typeBytes et) (r.getD 0))).flatten
  buildBatch 0 et rowBase 0 valid [] values

/-- A column of lists over a fixed-width child; a null row has a list of the length given, all zero. -/
def listBatch (et rowBase : Nat) (rows : List (Bool × List Nat)) : Bytes :=
  buildBatch 4 et rowBase 0 (rows.map (·.1)) (offsFrom 0 (rows.map (fun r => r.2.length)))
    ((rows.map (fun r => (r.2.map (fun v => leBytes (typeBytes et) (if r.1 then v else 0))).flatten)).flatten)

/-- A u32 column that carries NO_VALIDITY. -/
def u32Batch (rowBase : Nat) (rows : List Nat) : Bytes := fixedBatch 0x08 rowBase (rows.map some)

end Sys2Proof.Machine
end

