-- ==== Sys2Proof/Machine/Streams.lean ====
section
/-! DEFINITION. Streams in a running course (spec/05, R164 to R197; spec/16, R484): issuing and completing transfers, the ends of streams, and
what the accounts of R210 let through. -/

namespace Sys2Proof.Machine

/-! ### Staging areas -/

/-- The SPACE 1 input streams of a Rota. -/
def hostInputs (b : Bytes) : List Nat := (List.range (rhNStream b)).filter (fun i => !rsOut b i && rsSpace b i == 1)

/-- Bytes of one entry of the host staging area (R510). -/
def hostEntry (b : Bytes) : Nat := sumList ((hostInputs b).map (rsBytes b))

/-- The bytes of a SPACE 1 stream that are staged: what a strided stream visits, or the stream's BYTES (R510; notes/assumptions/40.md). -/
def stageTotal (b : Bytes) (i : Nat) : Nat := if rsMode b i = 0 then srcTotal b i else rsBytes b i

/-- Where a task's bytes of SPACE 1 stream `i` lie: tenant HBM (R510). -/
def Rota.hostStageAt (r : Rota) (x : Task) (i : Nat) : Nat :=
  r.hbmBase + roundUp (rhHbmBytes r.bin) 0x400000 + x.assigned % 2 * hostEntry r.bin
    + sumList (((hostInputs r.bin).filter (fun j => decide (j < i))).map (rsBytes r.bin))

/-- The PEER_IN whose stream is `i`: its descriptor and its window. -/
def Rota.peerOf (r : Rota) (i : Nat) : Option (Bytes × PeerIn) :=
  match r.peers.find? (fun p => piStream (opRec r.bin .network p.nop) == i) with
  | some p => some (opRec r.bin .network p.nop, p)
  | none => none

/-- The staged bytes of a PEER_IN for a task, as HBM spans in the order of sources (R480, R484). -/
def Rota.peerSpans (r : Rota) (d : Bytes) (p : PeerIn) (x : Task) : List (Nat × Nat) :=
  let e := if piDepth d = 0 then 0 else x.pub % piDepth d
  let marks := nth p.marks e []
  (List.range (piSrc d)).filterMap (fun k => match marks.find? (fun m => m.src == k) with
    | some m => some (r.hbmBase + piOffset d + (e * piSrc d + k) * piSrcBytes d, m.bytes)
    | none => none)

/-- The part of spans from byte `j` on that one transfer can take: address and bytes to the end of the span. -/
def spanAt : List (Nat × Nat) → Nat → Nat × Nat
  | [], _ => (0, 0)
  | (a, n) :: t, j => if j < n then (a + j, n - j) else spanAt t (j - n)

/-- `n` bytes of spans from byte `j`, as pieces of memory. -/
def spanPieces : List (Nat × Nat) → Nat → Nat → List (Nat × Nat)
  | [], _, _ => []
  | (a, k) :: t, j, n =>
    if n = 0 then [] else if k ≤ j then spanPieces t (j - k) n
    else if n ≤ k - j then [(a + j, n)] else (a + j, k - j) :: spanPieces t 0 (n - (k - j))

/-- Read pieces of tenant HBM. -/
def State.readSpans (s : State) (t : Nat) (strict : Bool) : List (Nat × Nat) → State × Except Nat Bytes
  | [] => (s, .ok [])
  | (a, n) :: rest => match s.readMem t .hbm strict a n with
    | (s, .error e) => (s, .error e)
    | (s, .ok d) => match s.readSpans t strict rest with
      | (s, .error e) => (s, .error e)
      | (s, .ok d2) => (s, .ok (d ++ d2))

/-- Rows of one wrapped batch: the most that fit a slot (R484). -/
def wrapRowsFrom (slot rb : Nat) : Nat → Nat
  | 0 => 0
  | n + 1 => if 64 + roundUp (4 * (n + 2)) 64 + (n + 1) * rb ≤ slot then n + 1 else wrapRowsFrom slot rb n
def wrapRows (slot rb : Nat) : Nat := if rb = 0 then 0 else wrapRowsFrom slot rb (Nat.min 65536 (slot / rb))

/-! ### What a stream reads and where -/

/-- A stream of the running course with everything it works with. -/
structure StreamEnv where
  r : Rota
  c : CourseRun
  q : StreamRun
  k : Hoop
  x : Task
  deriving Repr

/-- Find it. -/
def State.streamEnv (s : State) (h i : Nat) : Option StreamEnv :=
  match s.running h with
  | none => none
  | some (r, c) => match c.stream? i, c.hoop? (rsHoop r.bin i), s.task? (handleTenant h) c.seq with
    | some q, some k, some x => some { r := r, c := c, q := q, k := k, x := x }
    | _, _, _ => none

/-- The armed context of stream `i`. -/
def Rota.streamCtx (r : Rota) (i : Nat) : StreamCtx :=
  nth r.streams i { ctx := 0xFFFF, armed := false, host := false, base := 0, size := 0, coil := Coil.empty }

/-- The physical Weave group of a stream's fetch engine or store path (R164, R197). -/
def StreamEnv.group (e : StreamEnv) (i : Nat) : Nat :=
  let b := e.r.bin
  let hp := rsHoop b i
  if rsOut b i then e.r.phys e.c.course 1 (rpConsInst b hp)
  else if rpProd b hp = 0x08 then e.r.phys e.c.course 8 (rpProdInst b hp)
  else if rpProd b hp = 0x12 then 0
  else e.r.phys e.c.course 1 (rpProdInst b hp)

/-- The low byte of the requester index (Table 6-3) of a stream's engine. -/
def StreamEnv.requester (e : StreamEnv) (i : Nat) : Nat :=
  let b := e.r.bin
  let hp := rsHoop b i
  if rsOut b i then 0x20 + e.group i
  else if rpProd b hp = 0x08 then 0x90 + e.group i
  else if rpProd b hp = 0x12 then 0x94
  else 0x10 + e.group i

/-- The class code of a stream's engine in the abort detail word (Table 21-4). -/
def StreamEnv.cls (e : StreamEnv) (i : Nat) : Nat :=
  let hp := rsHoop e.r.bin i
  if rsOut e.r.bin i then 1 else if rpProd e.r.bin hp = 0x08 then 8 else if rpProd e.r.bin hp = 0x12 then 0 else 1

/-- A stream fault (R197). -/
def State.streamFault (s : State) (h i : Nat) (e : StreamEnv) (code elem : Nat) : State :=
  s.courseFault h code (e.group i) (e.r.ctxOf i) elem (e.cls i)

/-- A memory fault on a stream's access (R150, Table 21-3). -/
def State.streamMemFault (s : State) (h i : Nat) (e : StreamEnv) (code elem : Nat) : State :=
  s.courseFault h code (e.requester i) (e.r.ctxOf i) elem (e.cls i)

/-- The byte count of the buffer, table or tier a stream works in. -/
def StreamEnv.bufBytes (e : StreamEnv) (i : Nat) : Nat :=
  let b := e.r.bin
  if rsSpace b i = 2 then match (List.range (rhNTable b)).find? (fun j => roTable b j == rsTable b i) with
    | some j => roBytes b j
    | none => 0
  else if rsSpace b i = 3 then rsBytes b i
  else if rsSpace b i = 4 then match (List.range (rhNTier b)).find? (fun j => rtTier b j == rsTier b i) with
    | some j => rtMaxBytes b j
    | none => 0
  else (e.r.streamCtx i).size

/-- The table record of a SPACE 2 stream. -/
def StreamEnv.table (e : StreamEnv) (i : Nat) : Nat :=
  ((List.range (rhNTable e.r.bin)).find? (fun j => roTable e.r.bin j == rsTable e.r.bin i)).getD 0

/-- The address that buffer offset `o` has for the engine: tenant HBM for SPACE 0 and for staged bytes, an offset within the table for
SPACE 2. Staged bytes of a strided stream lie in the order they are visited, those of the other modes from OFFSET on
(notes/assumptions/40.md). -/
def StreamEnv.addrOf (e : StreamEnv) (i : Nat) (o : Nat) : Nat :=
  let b := e.r.bin
  if rsSpace b i = 2 then o
  else if rsSpace b i = 1 then e.r.hostStageAt e.x i + (o - rsOffset b i)
  else (e.r.streamCtx i).base + o

/-- The address that decides where runs split. -/
def StreamEnv.splitBase (e : StreamEnv) (i : Nat) : Nat :=
  if rsSpace e.r.bin i = 2 then e.r.tableAt e.c.course (e.table i) 0 else (e.r.streamCtx i).base

/-- Read what a transfer of an input stream moves. -/
def State.readXfer (s : State) (h i : Nat) (e : StreamEnv) (addr n : Nat) : State × Except Nat Bytes :=
  if rsSpace e.r.bin i = 2 then s.readTable e.r e.c.course (e.table i) addr n
  else s.readMem (handleTenant h) .hbm e.r.strict addr n

/-! ### Delivering bytes into a hoop -/

/-- The slots that bytes `off` to `off` + `n` - 1 of a stream fall in: slot, offset, length. `fuel` counts slots. -/
def slotSplit (size : Nat) : Nat → Nat → Nat → List (Nat × Nat × Nat)
  | 0, _, _ => []
  | f + 1, off, n =>
    if n = 0 ∨ size = 0 then []
    else
      let m := Nat.min n (size - off % size)
      (off / size, off % size, m) :: slotSplit size f (off + m) (n - m)

/-- Bytes land in their slots: each slot counts them and is complete when it is full. -/
def State.landBytes (s : State) (h : Nat) (r : Rota) (k : Hoop) : List (Nat × Nat × Nat) → Bytes → State × Option Nat
  | [], _ => (s, none)
  | (no, o, n) :: t, d =>
    match s.writeSlot r k no o (d.take n) with
    | (s, some e) => (s, some e)
    | (s, none) =>
      (s.updHoop h k.idx (fun k => k.updSlot no (fun x =>
        { x with len := x.len + n, complete := decide (x.len + n = rpSlotBytes r.bin k.idx) }))).landBytes h r k t (d.drop n)

/-- Reserve slots so that the slot of count `last` is reserved. -/
def Hoop.reserveTo (k : Hoop) (last : Nat) : Nat → Hoop
  | 0 => k
  | n + 1 => if last < k.rsv then k else k.reserve.reserveTo last n

/-- The END slot of a stream whose last byte has been issued or decoded: the slot that holds the last byte, or one of length 0 after it when
that slot has been committed already or there was no byte (R176). It waits for room. -/
def State.sealEnd (s : State) (h i : Nat) : State :=
  match s.streamEnv h i with
  | none => s
  | some e =>
    if rsOut e.r.bin i || !e.q.ended || e.k.ended || e.k.slots.any (·.fin) then s
    else
      let size := rpSlotBytes e.r.bin e.k.idx
      let total := e.q.bytes
      let last := if total = 0 then 0 else (total - 1) / size
      let no := if last < e.k.tail then e.k.tail else last
      if no < e.k.rsv then
        s.updHoop h e.k.idx (fun k => k.updSlot no (fun x =>
          { x with fin := true, complete := decide (x.len = total - no * size) }))
      else if e.k.full (rpSlots e.r.bin e.k.idx) then s
      else s.updHoop h e.k.idx (fun k => (k.reserve).updSlot no (fun x => { x with fin := true, complete := true }))

/-- Bytes of stream `i` are delivered at offset `off`. -/
def State.deliverBytes (s : State) (h i off : Nat) (data : Bytes) : State × Option Nat :=
  match s.streamEnv h i with
  | none => (s, none)
  | some e =>
    let size := rpSlotBytes e.r.bin e.k.idx
    match s.landBytes h e.r e.k (slotSplit size (data.length / Nat.max 1 size + 2) off data.length) data with
    | (s, some c) => (s, some c)
    | (s, none) =>
      -- the END slot is complete when its last byte has landed
      (match s.streamEnv h i with
       | none => s
       | some e => s.updHoop h e.k.idx (fun k => { k with slots := k.slots.map (fun x =>
           if x.fin && decide (x.len = e.q.bytes - x.no * size) then { x with complete := true } else x) }), none)

/-! ### Ports (R204 to R207) -/

/-- The credits of a port after a grant opportunity, and the class that owned it (R204). -/
def ownOpportunity (pct : List Nat) (credit : List Int) : List Int × Nat :=
  let c := (List.range 3).map (fun k => nth credit k 0 + ((nth pct k 0 : Nat) : Int))
  let own := (List.range 3).foldl (fun m k => if nth c m 0 < nth c k 0 then k else m) 0
  (modifyAt c own (fun v => v - 100), own)

/-- READ_PCT, WRITE_PCT and REMOTE_PCT. -/
def State.classSplit (s : State) : List Nat := [s.getF rBwClassSplit 7 0, s.getF rBwClassSplit 15 8, s.getF rBwClassSplit 23 16]

def BwClass.code : BwClass → Nat
  | .read => 0 | .write => 1 | .remote => 2

/-- A grant opportunity of a port at which one request is pending, of tenant `t` (128 for zeroing) and class `c`: the request takes it, its own or
lent (R205), and the class's pointer moves past the tenant (R206). -/
def Port.grant (p : Port) (pct : List Nat) (c : BwClass) (t : Nat) : Port :=
  { p with credit := (ownOpportunity pct p.credit).1, pointer := modifyAt p.pointer c.code (fun _ => (t + 1) % 129) }

/-- A request takes a grant opportunity at a port. -/
def State.portGrant (s : State) (port : Nat) (c : BwClass) (t : Nat) : State :=
  let p := match s.mem.ports.find? (fun p => p.port == port) with
    | some p => p
    | none => { port := port, credit := [0, 0, 0], pointer := [0, 0, 0] }
  let rest := s.mem.ports.filter (fun q => q.port != port)
  { s with mem := { s.mem with ports := insertBy Port.port (p.grant s.classSplit c t) rest } }

/-- The port at which a memory holds a physical address: an Orangery bank (R114), or an HBM stack, from 0x100 on (R696; which channel of it, the
spec leaves open). -/
def State.portOf (s : State) (sp : Space) (a : Nat) : Nat := (match sp with | .hbm => 0x100 | .ory => 0) + s.unitOf sp a

/-- A transfer takes a grant opportunity at the port of its first byte; one that touches no tenant memory takes none. -/
def State.portIssue (s : State) (h i : Nat) (e : StreamEnv) (x : Xfer) (c : BwClass) : State :=
  let t := handleTenant h
  let sp := if rsSpace e.r.bin i = 2 then Space.ory else Space.hbm
  let a := if rsSpace e.r.bin i = 2 then e.r.tableAt e.c.course (e.table i) x.addr else x.addr
  if x.zero || x.n = 0 || c = .remote || 2 < rsSpace e.r.bin i then s
  else match translate (s.extents t sp) a with
    | none => s
    | some p => s.portGrant (s.portOf sp p) c t

/-! ### Issuing -/

/-- Delivered elements so far, the element offset of a fault on an input stream (R197). -/
def StreamEnv.elem (e : StreamEnv) (i : Nat) : Nat :=
  let b := e.r.bin
  match e.q.desc with
  | some d => if rsMode b i = 2 then fieldAt d 0x10 8 + e.q.pos / Nat.max 1 (rsSize b i) else e.q.bytes / Nat.max 1 (delivSize b i)
  | none => if rsMode b i = 2 then e.q.lastElem else e.q.bytes / Nat.max 1 (delivSize b i)

/-- Try to issue a transfer of an input stream (R179): below OUTSTANDING, its slots reserved or free, its bytes granted. `need` is the last
slot it must have, `cls` and `charge` the account and bytes it draws, `runs` what it adds to LAY_T_RUNS. -/
def State.tryIssue (s : State) (h i : Nat) (e : StreamEnv) (x : Xfer) (need charge runs : Nat) (after : StreamRun → StreamRun) : State :=
  let t := handleTenant h
  let b := e.r.bin
  let granted := e.r.acc.has .read charge
  if rsOutstanding b i ≤ e.q.inFlight.length then s
  else if e.k.head + rpSlots b e.k.idx ≤ need then
    (if granted then s.vcount64 t vStrmTFullWait 1 else s)
  else if !granted then s.vcount64 t vBwTTokenWait 1
  else
    let s := (if charge = 0 then s else s.chargeRota h .read charge).portIssue h i e x .read
    let s := s.updHoop h e.k.idx (fun k => k.reserveTo need (rpSlots b e.k.idx))
    let s := s.updStream h i (fun q => after { q with nextNo := q.nextNo + 1, bytes := q.bytes + x.len, inFlight := q.inFlight ++ [x] })
    let s := (s.vcount64 t vLayTRuns runs).vcount64 t vLayTExtraBytes (charge - Nat.min charge x.n)
    s.sealEnd h i

/-- The last slot that `len` delivered bytes touch. -/
def StreamEnv.lastSlot (e : StreamEnv) (i len : Nat) : Nat :=
  let size := Nat.max 1 (rpSlotBytes e.r.bin (rsHoop e.r.bin i))
  (e.q.bytes + Nat.max 1 len - 1) / size

/-- Issue the run that starts at the stream's position, of the tensor or of row `row`; `done` says what follows its last byte. -/
def State.issueRun (s : State) (h i : Nat) (e : StreamEnv) (row : Nat) (done : StreamRun → StreamRun) : State :=
  let b := e.r.bin
  let j := e.q.pos
  let staged := rsSpace b i == 1
  let n := if staged then Nat.min (2 ^ rsXferLog2 b i - e.addrOf i (rsOffset b i + j) % 2 ^ rsXferLog2 b i) (srcTotal b i - j)
    else runLen b i (e.splitBase i) row j
  let addr := if staged && rsMode b i == 0 then e.addrOf i (rsOffset b i + j) else e.addrOf i (srcOff b i row j).toNat
  let coil := rsCoil b i
  let len := if coil then 0 else delivered b i n
  if !coil && decide (rsBytes b i < e.q.bytes + len) then
    s.streamFault h i e errStrmOverflow (rsBytes b i / Nat.max 1 (delivSize b i))
  else
    let x : Xfer := { no := e.q.nextNo, off := if coil then j else e.q.bytes, len := len, addr := addr, n := n, pos := j, elem := e.elem i, row := row,
                      zero := false, slot := 0, data := [] }
    let charge := if rsSpace b i = 0 then blocksOf addr n else 0
    s.tryIssue h i e x (e.lastSlot i len) charge 1 (fun q =>
      let q := { q with pos := q.pos + n }
      if srcTotal b i ≤ q.pos then done q else q)

/-- Issue part of a row of zero bytes (R169), or of a ZERO descriptor's run (Table 5-2): `n` source bytes are left. -/
def State.issueZero (s : State) (h i : Nat) (e : StreamEnv) (n len : Nat) (after : StreamRun → StreamRun) : State :=
  let b := e.r.bin
  if rsBytes b i < e.q.bytes + len then s.streamFault h i e errStrmOverflow (rsBytes b i / Nat.max 1 (delivSize b i))
  else
    let x : Xfer := { no := e.q.nextNo, off := e.q.bytes, len := len, addr := 0, n := n, pos := e.q.pos, elem := e.elem i, row := 0, zero := true, slot := 0,
                      data := [] }
    s.tryIssue h i e x (e.lastSlot i len) 0 0 after

/-! ### Index and queue hoops -/

/-- The next `n` bytes of the hoop a stream consumes, if they are acquired. -/
def State.peekHoop (s : State) (e : StreamEnv) (k : Hoop) (n : Nat) : Option (State × Except Nat Bytes) :=
  let p := k.pieces e.q.drvNo e.q.drvOff
  if piecesLen p < n then none else some (s.readPieces e.r k (takePieces p n))

/-- Every slot of the hoop has been read to its end, and the last carried END. -/
def Hoop.drainedBy (k : Hoop) (no o : Nat) : Bool := k.ended && decide (k.acq = k.tail) && piecesLen (k.pieces no o) == 0

/-- A stream moves on by `n` bytes in the hoop it consumes, and finishes with the slots left behind. -/
def State.stepHoop (s : State) (h i : Nat) (e : StreamEnv) (k : Hoop) (n : Nat) : State :=
  let p := k.advance e.q.drvNo e.q.drvOff n
  (s.updStream h i (fun q => { q with drvNo := p.1, drvOff := p.2 })).finishSlots h e.r k.idx (streamKey i) p.1

/-- Take the next index of an indexed stream (R168, R169), or end the stream when the index stream has (R194). -/
def State.takeIndex (s : State) (h i : Nat) (e : StreamEnv) : State :=
  let b := e.r.bin
  match e.c.hoop? (rsHoop b (rsDriver b i)) with
  | none => s
  | some k =>
    let w := typeBytes (rsEtype b (rsDriver b i))
    if k.drainedBy e.q.drvNo e.q.drvOff then
      let s := s.stepHoop h i e k 0
      (s.updStream h i (fun q => { q with ended := true })).sealEnd h i
    else match s.peekHoop e k w with
      | none => s
      | some (s, .error c) => s.streamMemFault h i e c (e.elem i)
      | some (s, .ok d) =>
        let v := leNat d
        let s := s.stepHoop h i e k w
        if v = 2 ^ (8 * w) - 1 then
          (s.vcount (handleTenant h) vStrmTNullIndexCnt 1).updStream h i (fun q => { q with row := some v, pos := 0 })
        else if rsExtent b i (drivenDim b i) ≤ v then s.streamFault h i e errStrmIndexRange (e.elem i)
        else s.updStream h i (fun q => { q with row := some v, pos := 0 })

/-- Fields of a transfer descriptor (Table 5-2). -/
def xdSeq (d : Bytes) : Nat := fieldAt d 0 2
def xdLast (d : Bytes) : Bool := bit (fieldAt d 2 2) 0
def xdZero (d : Bytes) : Bool := bit (fieldAt d 2 2) 1
def xdLen (d : Bytes) : Nat := fieldAt d 4 4
def xdAddr (d : Bytes) : Nat := fieldAt d 8 8
def xdElem (d : Bytes) : Nat := fieldAt d 0x10 8
def xdRows (d : Bytes) : Nat := fieldAt d 0x18 4
def xdStride (d : Bytes) : Nat := fieldAt d 0x20 8

/-- The fault a descriptor shows (R170, R171), if any. -/
def StreamEnv.descFault (e : StreamEnv) (i : Nat) (d : Bytes) : Option Nat :=
  let b := e.r.bin
  let start := rsOffset b i + xdAddr d
  let top := start + (xdRows d - 1) * xdStride d + xdLen d
  if xdSeq d ≠ e.q.nDesc % 65536 then some errStrmDescSeq
  else if decide (3 < fieldAt d 2 2) || fieldAt d 0x1C 4 != 0 || !allZero (slice d 0x28 24) || decide (16777216 < xdLen d)
      || xdRows d == 0 || decide (65536 < xdRows d) || (xdZero d && rsOut b i)
      || decide (rsOffset b i + rsBytes b i < top) || decide (e.bufBytes i < top) then some errStrmDescInvalid
  else none

/-- Take the next descriptor of a queued stream: a burst is read from the head slot in one access, and each descriptor is checked when every
transfer of those before it has been issued (R170 to R172). -/
def State.takeDesc (s : State) (h i : Nat) (e : StreamEnv) : State :=
  let b := e.r.bin
  match e.c.hoop? (rsDriver b i) with
  | none => s
  | some k =>
    if e.q.raw.length = 0 then
      if k.drainedBy e.q.drvNo e.q.drvOff then
        ((s.stepHoop h i e k 0).updStream h i (fun q => { q with ended := true })).sealEnd h i
      else match k.slot? e.q.drvNo with
        | none => s
        | some x =>
          if k.acq ≤ e.q.drvNo then s
          else if x.len % 64 ≠ 0 then s.streamFault h i e errStrmDescInvalid e.q.lastElem
          else if x.len ≤ e.q.drvOff then s.stepHoop h i e k 0
          else
            let n := Nat.min (Nat.max 1 (rsBurst b i)) ((x.len - e.q.drvOff) / 64)
            match s.readSlot e.r k e.q.drvNo e.q.drvOff (64 * n) with
            | (s, .error c) => s.streamMemFault h i e c e.q.lastElem
            | (s, .ok d) => s.updStream h i (fun q => { q with raw := d })
    else
      let d := e.q.raw.take 64
      match e.descFault i d with
      | some c => s.streamFault h i e c (xdElem d)
      | none =>
        let s := s.stepHoop h i e k 64
        s.updStream h i (fun q => { q with
          raw := q.raw.drop 64, desc := some d, nDesc := q.nDesc + 1, pos := 0,
          lastElem := xdElem d + xdRows d * xdLen d / Nat.max 1 (rsSize b i) })

/-- What the queue hoop of a queued stream still brings when the stream has ended goes unread (R172, R183; notes/assumptions/36.md). -/
def State.dropQueue (s : State) (h i : Nat) (e : StreamEnv) : State :=
  if rsMode e.r.bin i ≠ 2 then s
  else match e.c.hoop? (rsDriver e.r.bin i) with
    | none => s
    | some k => (s.updStream h i (fun q => { q with raw := [] })).finishSlots h e.r k.idx (streamKey i) k.acq

/-- A queued stream leaves its descriptor; one with LAST ends it. -/
def leaveDesc (d : Bytes) (q : StreamRun) : StreamRun := { q with desc := none, pos := 0, ended := q.ended || xdLast d }

/-- Issue from the descriptor being served. -/
def State.issueDesc (s : State) (h i : Nat) (e : StreamEnv) (d : Bytes) : State :=
  let b := e.r.bin
  let total := xdRows d * xdLen d
  if total ≤ e.q.pos then (s.updStream h i (leaveDesc d)).sealEnd h i
  else
    let o := e.q.pos % xdLen d
    let left := xdLen d - o
    let after := fun (n : Nat) (q : StreamRun) =>
      let q := { q with pos := q.pos + n }
      if total ≤ q.pos then leaveDesc d q else q
    if xdZero d then
      let n := Nat.min left (2 ^ rsXferLog2 b i)
      s.issueZero h i e n n (after n)
    else
      let off := rsOffset b i + xdAddr d + e.q.pos / xdLen d * xdStride d + o
      let x := 2 ^ rsXferLog2 b i
      let n := Nat.min left (x - (e.splitBase i + off) % x)
      if rsBytes b i < e.q.bytes + n then s.streamFault h i e errStrmOverflow (xdElem d + e.q.pos / Nat.max 1 (rsSize b i))
      else
        let addr := e.addrOf i off
        let xf : Xfer := { no := e.q.nextNo, off := e.q.bytes, len := n, addr := addr, n := n, pos := e.q.pos, elem := e.elem i, row := 0, zero := false,
                           slot := 0, data := [] }
        s.tryIssue h i e xf (e.lastSlot i n) (if rsSpace b i = 0 then blocksOf addr n else 0) 1 (after n)

/-- Issue from a staged peer stream (R484): bytes as they are, or one wrapped batch per slot. -/
def State.issuePeer (s : State) (h i : Nat) (e : StreamEnv) : State :=
  let b := e.r.bin
  match e.r.peerOf i with
  | none => s
  | some (d, p) =>
    let spans := e.r.peerSpans d p e.x
    let total := sumList (spans.map (·.2))
    if total ≤ e.q.pos then
      (if rsCoil b i then s else (s.updStream h i (fun q => { q with ended := true })).sealEnd h i)
    else if piRows d then
      let size := rpSlotBytes b e.k.idx
      let rb := Nat.max 1 (piRowBytes d)
      let rows := Nat.min (wrapRows size rb) ((total - e.q.pos) / rb)
      let last := decide (total ≤ e.q.pos + rows * rb)
      let len := if last then 64 + roundUp (4 * (rows + 1)) 64 + roundUp (rows * rb) 64 else size
      if rsBytes b i < e.q.bytes + len then s.streamFault h i e errStrmOverflow (rsBytes b i / Nat.max 1 (delivSize b i))
      else
        let x : Xfer := {
          no := e.q.nextNo, off := e.q.bytes, len := len, addr := 0, n := rows * rb, pos := e.q.pos, elem := e.elem i, row := rows, zero := false,
          slot := 0, data := [] }
        s.tryIssue h i e x (e.lastSlot i len) 0 (ceilDiv (rows * rb) (2 ^ rsXferLog2 b i)) (fun q =>
          { q with pos := q.pos + rows * rb, ended := last })
    else
      let a := spanAt spans e.q.pos
      let x := 2 ^ rsXferLog2 b i
      let n := Nat.min a.2 (x - a.1 % x)
      let coil := rsCoil b i
      let len := if coil then 0 else n
      if !coil && decide (rsBytes b i < e.q.bytes + len) then
        s.streamFault h i e errStrmOverflow (rsBytes b i / Nat.max 1 (delivSize b i))
      else
        let xf : Xfer := { no := e.q.nextNo, off := if coil then e.q.pos else e.q.bytes, len := len, addr := a.1, n := n, pos := e.q.pos, elem := e.elem i,
                           row := 0, zero := false, slot := 0, data := [] }
        s.tryIssue h i e xf (e.lastSlot i len) 0 1 (fun q =>
          { q with pos := q.pos + n, ended := !coil && decide (total ≤ q.pos + n) })

/-- The next transfer of an input stream. -/
def State.issueIn (s : State) (h i : Nat) (e : StreamEnv) : State :=
  let b := e.r.bin
  if e.q.ended then (s.dropQueue h i e).sealEnd h i
  else if rsSpace b i = 3 then s.issuePeer h i e
  else if rsMode b i = 1 then
    match e.q.row with
    | none => s.takeIndex h i e
    | some v =>
      if v = 2 ^ (8 * typeBytes (rsEtype b (rsDriver b i))) - 1 then
        let left := srcTotal b i - e.q.pos
        let n := Nat.min left (2 ^ rsXferLog2 b i)
        s.issueZero h i e n (delivered b i n) (fun q =>
          let q := { q with pos := q.pos + n }
          if srcTotal b i ≤ q.pos then { q with row := none, pos := 0 } else q)
      else s.issueRun h i e v (fun q => { q with row := none, pos := 0 })
  else if rsMode b i = 2 then
    match e.q.desc with
    | none => s.takeDesc h i e
    | some d => s.issueDesc h i e d
  else if srcTotal b i ≤ e.q.pos then
    (if rsCoil b i then s else (s.updStream h i (fun q => { q with ended := true })).sealEnd h i)
  else s.issueRun h i e 0 (fun q => if rsCoil b i then q else { q with ended := true })

/-! ### Output streams -/

/-- Consumers of a tier write: one for each entry of the publication list; one elsewhere. -/
def StreamEnv.copies (e : StreamEnv) (i : Nat) : Nat := if rsSpace e.r.bin i = 4 then rhNConsumer e.r.bin else 1

/-- The class and bytes an output transfer is charged (R211, R373, Table 6-1). -/
def StreamEnv.outCharge (e : StreamEnv) (i addr n : Nat) : BwClass × Nat :=
  if rsSpace e.r.bin i = 0 then (.write, blocksOf addr n) else (.remote, n * e.copies i)

/-- Issue an output transfer of `n` bytes to offset `off` of the buffer (R179). `data` are its bytes. -/
def State.issueOut (s : State) (h i : Nat) (e : StreamEnv) (off slot : Nat) (data : Bytes) (after : StreamRun → StreamRun) : State :=
  let t := handleTenant h
  let n := data.length
  let addr := if rsSpace e.r.bin i = 4 then off else (e.r.streamCtx i).base + off
  let ch := e.outCharge i addr n
  if rsOutstanding e.r.bin i ≤ e.q.inFlight.length then s
  else if !e.r.acc.has ch.1 ch.2 then s.vcount64 t vBwTTokenWait 1
  else
    let x : Xfer := { no := e.q.nextNo, off := e.q.bytes, len := n, addr := addr, n := n, pos := e.q.pos, elem := e.elem i, row := 0, zero := false, slot := slot,
                      data := data }
    let s := (s.chargeRota h ch.1 ch.2).portIssue h i e x ch.1
    let s := (if ch.1 = .write then s.vcount64 t vLayTExtraBytes (ch.2 - n) else s)
    s.updStream h i (fun q => after { q with nextNo := q.nextNo + 1, bytes := q.bytes + n, inFlight := q.inFlight ++ [x] })

/-- The slots an output stream has emptied: all it has taken, but for those a transfer in flight still takes from (R693) and the one whose
frame is still being written. -/
def StreamRun.emptied (q : StreamRun) (coil : Bool) : Nat :=
  q.inFlight.foldl (fun m x => Nat.min m x.slot) (if coil && q.raw.length != 0 then q.slotNo - 1 else q.slotNo)

/-- Release the slots an output stream has emptied. -/
def State.freeOut (s : State) (h i : Nat) : State :=
  match s.streamEnv h i with
  | none => s
  | some e => s.finishSlots h e.r e.k.idx (streamKey i) (e.q.emptied (rsCoil e.r.bin i))

/-- Take bytes from the slot an output stream has acquired and issue them: `n` bytes may go to `off`. -/
def State.takeOut (s : State) (h i : Nat) (e : StreamEnv) (off n : Nat) (after : Nat → StreamRun → StreamRun) : State :=
  match e.k.slot? e.q.slotNo with
  | none => s
  | some x =>
    let m := Nat.min n (x.len - e.q.slotOff)
    if rsBytes e.r.bin i < e.q.bytes + m then s.streamFault h i e errStrmOverflow (rsBytes e.r.bin i / Nat.max 1 (rsSize e.r.bin i))
    else match s.readSlot e.r e.k e.q.slotNo e.q.slotOff m with
      | (s, .error c) => s.streamMemFault h i e c (e.elem i)
      | (s, .ok d) => s.issueOut h i e off e.q.slotNo d (fun q =>
          let q := { q with slotOff := q.slotOff + m }
          after m q)

/-- The next transfer of an output stream that Coil does not encode. -/
def State.issueStore (s : State) (h i : Nat) (e : StreamEnv) : State :=
  let b := e.r.bin
  let s := (if e.q.ended then s.dropQueue h i e else s)
  if e.k.drainedBy e.q.slotNo e.q.slotOff then
    let p := e.k.advance e.q.slotNo e.q.slotOff 0
    (s.updStream h i (fun q => { q with ended := true, slotNo := p.1, slotOff := p.2 })).freeOut h i
  else match e.k.slot? e.q.slotNo with
    | none => s
    | some x =>
      if e.k.acq ≤ e.q.slotNo then s
      else if x.len ≤ e.q.slotOff then (s.updStream h i (fun q => { q with slotNo := q.slotNo + 1, slotOff := 0 })).freeOut h i
      else if rsMode b i = 2 then
        match e.q.desc with
        | none => if e.q.ended then s.streamFault h i e errStrmOverflow e.q.lastElem else s.takeDesc h i e
        | some d =>
          if xdRows d * xdLen d ≤ e.q.pos then s.updStream h i (leaveDesc d)
          else
            let o := e.q.pos % xdLen d
            let off := rsOffset b i + xdAddr d + e.q.pos / xdLen d * xdStride d + o
            let z := 2 ^ rsXferLog2 b i
            s.takeOut h i e off (Nat.min (xdLen d - o) (z - (e.splitBase i + off) % z)) (fun m q =>
              let q := { q with pos := q.pos + m }
              if xdRows d * xdLen d ≤ q.pos then leaveDesc d q else q)
      else if srcTotal b i ≤ e.q.pos then s.streamFault h i e errStrmOverflow (srcTotal b i / Nat.max 1 (rsSize b i))
      else
        let base := if rsSpace b i = 4 then 0 else (e.r.streamCtx i).base
        s.takeOut h i e (srcOff b i 0 e.q.pos).toNat (runLen b i base 0 e.q.pos) (fun m q => { q with pos := q.pos + m })

/-- The next transfer of an output stream that Coil encodes: encoded bytes, contiguous from OFFSET (R338). -/
def State.issueEncoded (s : State) (h i : Nat) (e : StreamEnv) : State :=
  let b := e.r.bin
  if e.q.raw.length = 0 then s
  else
    let off := rsOffset b i + e.q.rawPos
    let base := if rsSpace b i = 4 then 0 else (e.r.streamCtx i).base
    let z := 2 ^ rsXferLog2 b i
    let d := e.q.raw.take (z - (base + off) % z)
    s.issueOut h i e off (e.q.slotNo - 1) d (fun q => { q with raw := q.raw.drop d.length, rawPos := q.rawPos + d.length })

/-- TRANSFER_ISSUE: stream `i` of the course Rota `h` runs issues its next transfer, takes its next index or descriptor, or is held
(R167 to R172, R179, R190, R192). -/
def execTransferIssue (h i : Nat) (s : State) : Host.Outcome State Fault Refusal :=
  match s.streamEnv h i with
  | none => .next s
  | some e =>
    if !rsOut e.r.bin i then .next (s.issueIn h i e)
    else if rsCoil e.r.bin i then .next (s.issueEncoded h i e)
    else .next (s.issueStore h i e)

/-! ### Completing -/

/-- The scales of the elements of a run, one read per block (R375). -/
def State.readScales (s : State) (h i : Nat) (e : StreamEnv) (row : Nat) (last : Option (Nat × FV)) :
    List Nat → State × Except Nat (List FV)
  | [] => (s, .ok [])
  | k :: t =>
    if scType e.r.bin i = 3 then
      match s.readScales h i e row last t with
      | (s, .error c) => (s, .error c)
      | (s, .ok l) => (s, .ok (.fin false 1 0 :: l))
    else
      let o := scaleAt e.r.bin i row k
      match last with
      | some (a, g) =>
        if a = o then
          match s.readScales h i e row last t with
          | (s, .error c) => (s, .error c)
          | (s, .ok l) => (s, .ok (g :: l))
        else
          match s.readXfer h i e (e.addrOf i o) (scBytes e.r.bin i) with
          | (s, .error c) => (s, .error c)
          | (s, .ok d) =>
            match s.readScales h i e row (some (o, scaleValue e.r.bin i d)) t with
            | (s, .error c) => (s, .error c)
            | (s, .ok l) => (s, .ok (scaleValue e.r.bin i d :: l))
      | none =>
        match s.readXfer h i e (e.addrOf i o) (scBytes e.r.bin i) with
        | (s, .error c) => (s, .error c)
        | (s, .ok d) =>
          match s.readScales h i e row (some (o, scaleValue e.r.bin i d)) t with
          | (s, .error c) => (s, .error c)
          | (s, .ok l) => (s, .ok (scaleValue e.r.bin i d :: l))

/-- The element number of the first element of a run within its tensor or row. -/
def firstElem (b : Bytes) (i pos : Nat) : Nat :=
  if loneElem b i then 0 else if rsPacked b i then pos * 8 / Nat.max 1 (rsBits b i) else pos / Nat.max 1 (rsSize b i)

/-- The bytes a completed run delivers: as read, or unpacked with their scales (R376). -/
def State.shapeRun (s : State) (h i : Nat) (e : StreamEnv) (x : Xfer) (data : Bytes) : State × Except Nat Bytes :=
  let b := e.r.bin
  if !rsSubbyte b i then (s, .ok data)
  else
    let codes := codesOf b i x.row data
    let k0 := firstElem b i x.pos
    match s.readScales h i e x.row none ((List.range codes.length).map (fun k => k0 + k)) with
    | (s, .error c) => (s, .error c)
    | (s, .ok gs) =>
      let u := unpackAll b i (codes.zip gs)
      let t := handleTenant h
      ((s.vcount64 t vLayTUnpacked codes.length).vcount t vLayTNanCnt u.2, .ok u.1)

/-- The wrapped batch of a peer stream's slot (R484). -/
def wrapBatch (rb rowBase rows : Nat) (data : Bytes) : Bytes :=
  buildBatch 4 0x06 rowBase 0 (List.replicate rows true) ((List.range (rows + 1)).map (fun k => k * rb)) data

/-- Bytes of a Coil stream's region arrive, in any order; those that continue what is there are ready to decode. -/
def absorb : Nat → StreamRun → StreamRun
  | 0, q => q
  | n + 1, q =>
    match q.late.find? (fun p => p.1 == q.rawPos + q.raw.length) with
    | none => q
    | some p => absorb n { q with raw := q.raw ++ p.2, late := q.late.filter (fun y => y.1 != p.1) }

/-- How many bytes of a transfer lie before the first one that cannot be read; none for what comes from the staging of a peer stream. -/
def State.unreadable (s : State) (h i : Nat) (e : StreamEnv) (x : Xfer) : Nat :=
  if x.zero || rsSpace e.r.bin i = 3 then 0
  else ((List.range x.n).find? (fun j => match (s.readXfer h i e (x.addr + j) 1).2 with | .ok _ => false | .error _ => true)).getD 0

/-- An input transfer completes (R181): its bytes are read and land in their slots. -/
def State.finishIn (s : State) (h i : Nat) (e : StreamEnv) (x : Xfer) : State :=
  let b := e.r.bin
  let t := handleTenant h
  let elem := x.elem + s.unreadable h i e x * (if rsPacked b i then 8 else 1) / Nat.max 1 (if rsPacked b i then rsBits b i else rsSize b i)
  let drop := fun (s : State) => s.updStream h i (fun q => { q with inFlight := q.inFlight.filter (fun y => y.no != x.no) })
  let land := fun (s : State) (d : Bytes) =>
    match (drop s).deliverBytes h i x.off d with
    | (s, some c) => s.streamMemFault h i e c elem
    | (s, none) => s
  if x.zero then land s (List.replicate x.len 0)
  else
    let peer := if rsSpace b i = 3 then e.r.peerOf i else none
    let got := match peer with
      | some (d, p) => s.readSpans t e.r.strict (spanPieces (e.r.peerSpans d p e.x) x.pos x.n)
      | none => s.readXfer h i e x.addr x.n
    match got with
    | (s, .error c) => (drop s).streamMemFault h i e c elem
    | (s, .ok d) =>
      let s := s.vcount64 t vStrmTRdBytes x.n
      if rsCoil b i then
        drop (s.updStream h i (fun q => absorb (q.late.length + 1) { q with late := q.late ++ [(x.off, d)] }))
      else match peer with
        | some (pd, _) =>
          if piRows pd then
            let w := wrapBatch (piRowBytes pd) (x.pos / Nat.max 1 (piRowBytes pd)) x.row d
            -- a full slot is committed full, whatever its batch needs of it
            match s.writeSlot e.r e.k (x.off / Nat.max 1 (rpSlotBytes b e.k.idx)) 0 w with
            | (s, some c) => s.streamMemFault h i e c elem
            | (s, none) => (drop s).updHoop h e.k.idx (fun k => k.updSlot (x.off / Nat.max 1 (rpSlotBytes b k.idx)) (fun y =>
                { y with len := x.len, complete := true }))
          else land s d
        | none => match s.shapeRun h i e x d with
          | (s, .error c) => (drop s).streamMemFault h i e c elem
          | (s, .ok d) => land s d

/-- One tier write to every consumer of the publication list (R476, R513); a consumer it cannot be issued to makes the tier late. -/
def State.writeTier (s : State) (h i : Nat) (e : StreamEnv) (x : Xfer) : State :=
  let t := handleTenant h
  let tier := rsTier e.r.bin i
  (List.range (rhNConsumer e.r.bin)).foldl (fun s k =>
    let bt := e.x.binding
    let addr := btTierAddr bt k tier + x.addr
    let lose := fun (s : State) => s.updTask t e.c.seq (fun y => { y with lost := setInsert y.lost tier })
    if btPath bt k = 0 then
      (if s.host.dlUp then s.hostWrite t addr x.data (.tier h e.c.seq tier i x.addr) else lose s)
    else
      let w := s.peerSend t (btQp bt k)
        { handle := h, task := e.c.seq, tier := some tier, send := false, rkey := btRkey bt k, addr := addr, data := x.data, seq := none,
          psn := 0, packets := 0, sent := false }
      (if w.2 then w.1 else lose w.1)) s

/-- An output transfer completes (R181, R189, R693): its bytes are written, and the slots it emptied are released. -/
def State.finishOut (s : State) (h i : Nat) (e : StreamEnv) (x : Xfer) : State :=
  let t := handleTenant h
  let b := e.r.bin
  let drop := fun (s : State) => s.updStream h i (fun q => { q with inFlight := q.inFlight.filter (fun y => y.no != x.no) })
  let w := if rsSpace b i = 0 then s.writeMem t .hbm x.addr x.data
    else if rsSpace b i = 4 then (s.writeTier h i e x, none)
    else ((if s.host.dlUp then s.hostWrite t x.addr x.data (.output h e.c.seq i x.off) else s), none)
  match w with
  | (s, some c) =>
    let bad := ((List.range x.n).find? (fun j => (s.writeMem t .hbm (x.addr + j) [nth x.data j 0]).2.isSome)).getD 0
    (drop s).streamMemFault h i e c (x.elem + bad / Nat.max 1 (rsSize b i))
  | (s, none) =>
    let s := (if rsCoil b i then s.vcount64 t vCoilTEncBytes x.n else s)
    (drop (s.vcount64 t vStrmTWrBytes x.n)).freeOut h i

/-- Transfer `no` of stream `i` completes (R181). One that is not in flight changes nothing. -/
def State.finishXfer (s : State) (h i no : Nat) : State :=
  match s.streamEnv h i with
  | none => s
  | some e => match e.q.inFlight.find? (fun x => x.no == no) with
    | none => s
    | some x => if rsOut e.r.bin i then s.finishOut h i e x else s.finishIn h i e x

/-- A task has an abort latched. -/
def State.aborted? (s : State) (t seq : Nat) : Bool := match s.task? t seq with | some x => x.abort.isSome | none => false

/-- The internal checks of a unit of the running course fail (R635). LODGE_UNIT_INTERNAL has the lowest of the fault codes, so it is the
one reported where the completion itself faults in the same cycle (R622). A unit the course does not use is none of the task's. -/
def State.checkFails (s after : State) (h : Nat) (k : UnitCheck) : State :=
  match s.running h with
  | none => after
  | some (r, c) =>
    if !((nth (nth r.place c.course { first := 0, count := 0, insts := [] }).insts k.cls []).contains k.inst) then after
    else
      let t := handleTenant h
      let co := after.aborted? t c.seq
      let s := (if co then s else after).count rLodgeInternalCnt 1
      let s := s.setN rLodgeInternalLast (k.inst % 256 + k.cls % 256 * 256 + 2 ^ 31)
      s.abortWith co t c.seq errLodgeUnitInternal k.inst k.ctx k.elem k.cls

/-- TRANSFER_COMPLETE: transfer `no` of stream `i` completes (R181); `check` names the unit whose internal checks fail in that cycle, if
one's do (R635). -/
def execTransferComplete (h i no : Nat) (check : Option UnitCheck) (s : State) : Host.Outcome State Fault Refusal :=
  match check with
  | none => .next (s.finishXfer h i no)
  | some k => .next (s.checkFails (s.finishXfer h i no) h k)

end Sys2Proof.Machine
end

