-- ==== Sys2Proof/Machine/Coil.lean ====
section
/-! DEFINITION. The Coil codec (spec/11): frames, prefix codes, decoding (R350), encoding (R353 to R355), and the saving and restoring of
contexts (R356 to R364). -/

namespace Sys2Proof.Machine

/-! ### Prefix codes (R347 to R349) -/

/-- The code lengths of the static tables, symbols 0 to 48 (Table 11-4). -/
def staticLens : List (List Nat) := [
  -- 0: general
  [8, 3, 4, 4, 5, 5, 6, 7, 8, 9, 10, 11, 12, 13, 14, 15, 15, 15, 4, 4, 4, 5, 5, 5, 6, 6, 7, 8, 9, 10, 11, 12, 13, 14, 14, 5, 5, 5, 6, 6, 6, 7, 7, 8, 8, 9, 9, 10, 10],
  -- 1: dense values, long literals
  [7, 4, 4, 4, 4, 4, 4, 4, 4, 5, 5, 6, 6, 7, 8, 9, 10, 10, 6, 6, 6, 6, 7, 7, 7, 7, 8, 8, 8, 8, 9, 9, 10, 10, 10, 7, 7, 7, 7, 7, 7, 7, 7, 7, 7, 7, 7, 7, 7],
  -- 2: low cardinality, short runs
  [8, 4, 5, 5, 6, 6, 7, 7, 8, 8, 9, 9, 10, 10, 11, 11, 12, 12, 3, 3, 3, 3, 4, 4, 5, 5, 6, 7, 8, 9, 10, 11, 12, 13, 13, 7, 7, 7, 7, 8, 8, 8, 8, 9, 9, 9, 9, 9, 9],
  -- 3: sparse, long runs
  [6, 3, 4, 5, 6, 7, 8, 9, 10, 11, 12, 12, 12, 12, 12, 12, 12, 12, 6, 6, 6, 6, 5, 5, 5, 5, 4, 4, 4, 4, 4, 4, 5, 5, 5, 8, 8, 8, 8, 8, 8, 8, 8, 8, 8, 8, 8, 8, 8],
  -- 4: repeating patterns
  [8, 4, 5, 5, 6, 6, 7, 7, 8, 9, 10, 11, 12, 13, 14, 15, 15, 15, 5, 5, 5, 6, 6, 6, 7, 7, 8, 9, 10, 11, 12, 13, 14, 15, 15, 3, 3, 4, 4, 4, 4, 5, 5, 6, 6, 7, 7, 8, 8],
  -- 5: short literals mixed with runs
  [7, 2, 4, 5, 6, 7, 8, 9, 10, 11, 12, 13, 14, 15, 15, 15, 15, 15, 4, 4, 5, 5, 6, 6, 7, 7, 8, 8, 9, 9, 10, 10, 11, 12, 12, 4, 4, 5, 5, 6, 6, 7, 7, 8, 8, 9, 9, 10, 10],
  -- 6: bitmaps and flag bytes
  [6, 3, 4, 5, 5, 6, 6, 7, 8, 9, 10, 10, 10, 10, 10, 10, 10, 10, 4, 4, 4, 4, 4, 5, 5, 5, 5, 6, 6, 7, 7, 8, 8, 9, 9, 6, 6, 8, 8, 8, 8, 8, 8, 8, 8, 8, 8, 8, 8],
  -- 7: flat
  [6, 6, 6, 6, 6, 6, 6, 6, 6, 6, 6, 6, 6, 6, 6, 6, 6, 6, 6, 6, 6, 6, 6, 6, 6, 6, 6, 6, 6, 6, 6, 6, 6, 6, 6, 6, 6, 6, 6, 6, 6, 6, 6, 6, 6, 6, 6, 6, 6]]

/-- How many symbols have a code of `l` bits. -/
def lenCount (lens : List Nat) (l : Nat) : Nat := (lens.filter (fun x => x == l && x != 0)).length

/-- The first code of `l` bits. -/
def firstCode (lens : List Nat) : Nat → Nat
  | 0 => 0
  | l + 1 => (firstCode lens l + lenCount lens l) * 2

/-- The code of symbol `s`; codes of one length go to symbols in order. -/
def codeOf (lens : List Nat) (s : Nat) : Nat :=
  let l := nth lens s 0
  firstCode lens l + ((lens.take s).filter (fun x => x == l)).length

/-- The symbol whose code is the `l`-bit number `c`. -/
def symbolOf (lens : List Nat) (l c : Nat) : Option Nat :=
  (List.range lens.length).find? (fun s => nth lens s 0 == l && l != 0 && codeOf lens s == c)

/-- A dynamic table is valid: END has a code, and the lengths leave no overlap (R349). -/
def lensOk (lens : List Nat) : Bool :=
  nth lens 0 0 != 0 && decide (sumList ((lens.filter (fun l => l != 0)).map (fun l => 2 ^ (15 - l))) ≤ 32768)

/-! ### Reading bits (R341) -/

/-- Why reading stops: the bits have not arrived, or a fault of Table 11-8. -/
inductive CoilStop where
  | more
  | fault (code : Nat)
  deriving DecidableEq, Repr

/-- The bits of bytes, bit 0 of each byte first. -/
def bitsOfBytes (b : Bytes) : List Bool := b.flatMap (fun x => (List.range 8).map (fun i => x.getLsbD i))

/-- What it means to run out of bits: all of the frame's token bytes are here, or not yet. -/
def dry (whole : Bool) : CoilStop := if whole then .fault errCoilLengthOverrun else .more

/-- Read an `n`-bit field, least significant bit first. -/
def readField (whole : Bool) : Nat → List Bool → Except CoilStop (Nat × List Bool)
  | 0, l => .ok (0, l)
  | _ + 1, [] => .error (dry whole)
  | n + 1, x :: l => match readField whole n l with
    | .error e => .error e
    | .ok (v, r) => .ok (ofBool x + 2 * v, r)

/-- Read a prefix code, most significant bit first; `c` holds the `l` bits read so far. -/
def readCode (whole : Bool) (lens : List Nat) : Nat → Nat → Nat → List Bool → Except CoilStop (Nat × List Bool)
  | 0, _, _, _ => .error (.fault errCoilIllegalCode)
  | _ + 1, _, _, [] => .error (dry whole)
  | n + 1, l, c, x :: r =>
    match symbolOf lens (l + 1) (2 * c + ofBool x) with
    | some s => .ok (s, r)
    | none => readCode whole lens n (l + 1) (2 * c + ofBool x) r

/-- Read the extra bits of class `j`: the length or distance (R342). -/
def readClass (whole : Bool) (j : Nat) (l : List Bool) : Except CoilStop (Nat × List Bool) :=
  if j = 0 then .ok (1, l)
  else match readField whole (j - 1) l with
    | .error e => .error e
    | .ok (v, r) => .ok (2 ^ (j - 1) + v + 1, r)

/-- Read `n` elements of `w` bytes. -/
def readElems (whole : Bool) (w : Nat) : Nat → List Bool → Except CoilStop (List Nat × List Bool)
  | 0, l => .ok ([], l)
  | n + 1, l => match readField whole (8 * w) l with
    | .error e => .error e
    | .ok (v, r) => match readElems whole w n r with
      | .error e => .error e
      | .ok (vs, r2) => .ok (v :: vs, r2)

/-- Read the code lengths of a dynamic table. -/
def readLens (whole : Bool) : Nat → List Bool → Except CoilStop (List Nat × List Bool)
  | 0, l => .ok ([], l)
  | n + 1, l => match readField whole 4 l with
    | .error e => .error e
    | .ok (v, r) => match readLens whole n r with
      | .error e => .error e
      | .ok (vs, r2) => .ok (v :: vs, r2)

/-! ### History (R343 to R346; Table 11-3) -/

def liveCap (w : Nat) : Nat := if w = 1 then 4096 else if w = 2 then 3072 else if w = 4 then 2048 else 1024
def baseCap (w : Nat) : Nat := if w = 1 then 1024 else if w = 2 then 768 else if w = 4 then 512 else 256

/-- Push a run onto the live history. -/
def pushRun (w : Nat) (h : List (Nat × Nat)) (r : Nat × Nat) : List (Nat × Nat) := (r :: h).take (liveCap w)

/-- Resolve a distance (R345). -/
def resolveRef (w : Nat) (baseRef : Bool) (hist base : List (Nat × Nat)) (d : Nat) : Option (Nat × Nat) :=
  if 1 ≤ d ∧ d ≤ hist.length then hist[d - 1]?
  else if baseRef && decide (liveCap w < d) then base[d - liveCap w - 1]?
  else none

/-! ### The frame header (Table 11-1) -/

def fhFlags (b : Bytes) : Nat := fieldAt b 3 1
def fhWidth (b : Bytes) : Nat := 2 ^ bits (fhFlags b) 1 0
def fhDyn (b : Bytes) : Bool := bit (fhFlags b) 2
def fhReset (b : Bytes) : Bool := bit (fhFlags b) 3
def fhBaseRef (b : Bytes) : Bool := bit (fhFlags b) 4
def fhBaseDef (b : Bytes) : Bool := bit (fhFlags b) 5
def fhLast (b : Bytes) : Bool := bit (fhFlags b) 6
def fhTable (b : Bytes) : Nat := fieldAt b 4 1
def fhOut (b : Bytes) : Nat := fieldAt b 8 4
def fhToken (b : Bytes) : Nat := fieldAt b 0xC 4
def fhFrameId (b : Bytes) : Nat := fieldAt b 0x10 8
def fhBaseId (b : Bytes) : Nat := fieldAt b 0x18 8

/-- A header keeps every value and rule of Table 11-1. -/
def headerOk (b : Bytes) : Bool :=
  fieldAt b 0 2 == 0x4F43 && fieldAt b 2 1 == 1 && !bit (fhFlags b) 7 && decide (fhTable b ≤ 7) && (!fhDyn b || fhTable b == 0)
    && allZero (slice b 5 3) && decide (fhOut b ≤ 1048576) && fhOut b % fhWidth b == 0
    && decide (1 ≤ fhToken b ∧ fhToken b ≤ 3145728)
    && ((fhFrameId b != 0) == fhBaseDef b) && ((fhBaseId b != 0) == fhBaseRef b)

/-! ### Decoding a frame (R350) -/

/-- What decoding a frame has come to: the bytes emitted, and whether it waits for bytes, has a fault, or is done with its context and length.
`early` says that the fault lies at the header, the table or the trailer (R366). -/
structure Decoded where
  out : Bytes
  stop : Option CoilStop
  early : Bool
  coil : Coil
  used : Nat
  deriving DecidableEq, Repr

/-- The token loop; `fuel` bounds the tokens by the bits. The result is the bytes out, the history, and the bits left or why it stopped. -/
def tokenLoop (whole : Bool) (lens : List Nat) (w outBytes : Nat) (baseRef : Bool) (base : List (Nat × Nat)) :
    Nat → Bytes → List (Nat × Nat) → List Bool → Bytes × List (Nat × Nat) × Except CoilStop (List Bool)
  | 0, out, hist, _ => (out, hist, .error (dry whole))
  | n + 1, out, hist, l =>
    match readCode whole lens 15 0 0 l with
    | .error e => (out, hist, .error e)
    | .ok (sym, r) =>
      if sym = 0 then (out, hist, .ok r)
      else if sym ≤ 17 then
        match readClass whole (sym - 1) r with
        | .error e => (out, hist, .error e)
        | .ok (k, r) =>
          if outBytes < out.length + k * w then (out, hist, .error (.fault errCoilLengthOverrun))
          else match readElems whole w k r with
            | .error e => (out, hist, .error e)
            | .ok (vs, r) => tokenLoop whole lens w outBytes baseRef base n (out ++ (vs.map (leBytes w)).flatten) hist r
      else if sym ≤ 34 then
        match readClass whole (sym - 18) r with
        | .error e => (out, hist, .error e)
        | .ok (k, r) =>
          if outBytes < out.length + k * w then (out, hist, .error (.fault errCoilLengthOverrun))
          else match readField whole (8 * w) r with
            | .error e => (out, hist, .error e)
            | .ok (v, r) =>
              tokenLoop whole lens w outBytes baseRef base n (out ++ (List.replicate k (leBytes w v)).flatten) (pushRun w hist (v, k)) r
      else
        match readClass whole (sym - 35) r with
        | .error e => (out, hist, .error e)
        | .ok (d, r) => match resolveRef w baseRef hist base d with
          | none => (out, hist, .error (.fault errCoilDistanceBeyondHistory))
          | some (v, k) =>
            if outBytes < out.length + k * w then (out, hist, .error (.fault errCoilLengthOverrun))
            else tokenLoop whole lens w outBytes baseRef base n (out ++ (List.replicate k (leBytes w v)).flatten) (pushRun w hist (v, k)) r

/-- Decode the frame at the start of `raw`, of which `left` bytes of the region remain in all. -/
def decodeFrame (c : Coil) (raw : Bytes) (left : Nat) : Decoded :=
  let stopAt := fun (e : CoilStop) => ({ out := [], stop := some e, early := true, coil := c, used := 0 } : Decoded)
  if left < 32 then stopAt (.fault errCoilTruncated)
  else if raw.length < 32 then stopAt .more
  else if !headerOk raw then stopAt (.fault errCoilHeaderInvalid)
  else if left < 32 + fhToken raw + 4 then stopAt (.fault errCoilTruncated)
  else
    let w := fhWidth raw
    let hist := if fhReset raw || c.width != w then [] else c.hist
    if fhBaseRef raw && (c.baseId != some (fhBaseId raw) || c.baseWidth != w) then stopAt (.fault errCoilMissingReference)
    else
      let tok := (raw.drop 32).take (fhToken raw)
      let whole := decide (tok.length = fhToken raw)
      let bs := bitsOfBytes tok
      let table := if fhDyn raw then readLens whole 49 bs else .ok (nth staticLens (fhTable raw) [], bs)
      match table with
      | .error e => stopAt e
      | .ok (lens, bs) =>
        if fhDyn raw && !lensOk lens then stopAt (.fault errCoilTableInvalid)
        else
          let t := tokenLoop whole lens w (fhOut raw) (fhBaseRef raw) c.base (bs.length + 1) [] hist bs
          let out := t.1
          let at_ := fun (e : CoilStop) (early : Bool) => ({ out := out, stop := some e, early := early, coil := c, used := 0 } : Decoded)
          match t.2.2 with
          | .error e => at_ e false
          | .ok rest =>
            if out.length ≠ fhOut raw then at_ (.fault errCoilLengthOverrun) false
            else if !whole then at_ .more false
            else if decide (8 ≤ rest.length) || rest.any id then at_ (.fault errCoilLengthOverrun) false
            else if raw.length < 32 + fhToken raw + 4 then at_ .more false
            else if fieldAt raw (32 + fhToken raw) 4 ≠ (crc32c out).toNat then at_ (.fault errCoilCheckMismatch) true
            else
              let c := { c with hist := t.2.1, width := w, frames := c.frames + 1 }
              let c := (if fhBaseDef raw then
                  { c with base := t.2.1.take (baseCap w), baseId := some (fhFrameId raw), baseWidth := w }
                else c)
              { out := out, stop := none, early := false, coil := c, used := 32 + fhToken raw + 4 }

/-! ### COIL_FRAME_DECODE -/

/-- Bytes of the encoded region of a stream: EXTENT[0], or what the staged sources hold. -/
def StreamEnv.regionBytes (e : StreamEnv) (i : Nat) : Nat :=
  if rsSpace e.r.bin i = 3 then
    match e.r.peerOf i with
    | some (d, p) => sumList ((e.r.peerSpans d p e.x).map (·.2))
    | none => 0
  else rsExtent e.r.bin i 0

/-- A Coil fault on a stream (R366): `pos` is the offset of the frame's first header byte. -/
def State.coilFault (s : State) (h i : Nat) (e : StreamEnv) (code elem pos : Nat) : State :=
  (s.vset64 (handleTenant h) vCoilTLastPos pos).courseFault h code (e.group i) (e.r.ctxOf i) elem 5

/-- Change the Coil context of stream `i`. -/
def State.setCoil (s : State) (h i : Nat) (c : Coil) : State :=
  s.updRota h (fun r => { r with streams := modifyAt r.streams i (fun x => { x with coil := c }) })

/-- The context of a stream during a course. -/
def StreamEnv.coil (e : StreamEnv) (i : Nat) : Coil := (e.r.streamCtx i).coil

/-- The bytes a decoded frame has ready beyond those in the hoop, as far as the hoop has room for them. -/
def StreamEnv.room (e : StreamEnv) (i : Nat) : Nat :=
  (e.k.head + rpSlots e.r.bin (rsHoop e.r.bin i)) * rpSlotBytes e.r.bin (rsHoop e.r.bin i) - e.q.bytes

/-- A frame that has decoded to its end and lies in the hoop: the context moves on, and LAST ends the stream (R352). -/
def State.endFrame (s : State) (h i : Nat) (e : StreamEnv) (d : Decoded) : State :=
  let t := handleTenant h
  let s := (s.setCoil h i d.coil).vcount64 t vCoilTDecFrames 1
  let s := (if fhDyn e.q.raw then s.vcount t vCoilTDynCnt 1 else s)
  let s := s.updStream h i (fun q =>
    { q with raw := q.raw.drop d.used, rawPos := q.rawPos + d.used, frameOut := 0, ended := fhLast e.q.raw })
  s.sealEnd h i

/-- Decode what has arrived of the frame at hand. -/
def State.decodeStep (s : State) (h i : Nat) (e : StreamEnv) : State :=
  let t := handleTenant h
  let b := e.r.bin
  let d := decodeFrame (e.coil i) e.q.raw (e.regionBytes i - e.q.rawPos)
  let before := e.q.bytes - e.q.frameOut
  let fresh := d.out.drop e.q.frameOut
  let now := fresh.take (e.room i)
  let bad := decide (rsBytes b i < e.q.bytes + now.length)
  if bad then s.streamFault h i e errStrmOverflow (rsBytes b i / Nat.max 1 (rsSize b i))
  else
    let size := Nat.max 1 (rpSlotBytes b e.k.idx)
    let put := fun (s : State) =>
      if now.length = 0 then (s, none)
      else
        let last := (e.q.bytes + now.length - 1) / size
        let s := s.updHoop h e.k.idx (fun k => k.reserveTo last (rpSlots b e.k.idx))
        let s := s.updStream h i (fun q => { q with bytes := q.bytes + now.length, frameOut := q.frameOut + now.length })
        (s.vcount64 t vCoilTDecBytes now.length).deliverBytes h i e.q.bytes now
    match put s with
    | (s, some c) => s.streamMemFault h i e c (e.q.bytes / Nat.max 1 (rsSize b i))
    | (s, none) =>
      if now.length < fresh.length then s
      else match d.stop with
        | none => s.endFrame h i e d
        | some .more => s
        | some (.fault c) => s.coilFault h i e c (if d.early then before else before + d.out.length) e.q.rawPos

/-- COIL_FRAME_DECODE: the decode side works on the frame at hand of Coil input stream `i` (R350, R352, R699). -/
def execCoilFrameDecode (h i : Nat) (s : State) : Host.Outcome State Fault Refusal :=
  match s.streamEnv h i with
  | none => .next s
  | some e =>
    if rsOut e.r.bin i || !rsCoil e.r.bin i then .next s
    else if e.q.ended then .next (s.sealEnd h i)
    else .next (s.decodeStep h i e)

/-- The Coil fault of the frame being decoded, when it has delivered a byte to the hoop: the rest of the frame is decoded first, its bytes
read where they lie (R361). -/
def State.pendingCoilFault (s : State) (h i : Nat) : Option (Nat × Nat × Nat) :=
  match s.streamEnv h i with
  | none => none
  | some e =>
    if !rsCoil e.r.bin i || rsOut e.r.bin i || e.q.frameOut = 0 then none
    else
      let left := e.regionBytes i - e.q.rawPos
      let have_ := e.q.raw.length
      let need := Nat.min left (32 + fhToken e.q.raw + 4) - have_
      let tail := match (if rsSpace e.r.bin i = 3 then
          (match e.r.peerOf i with
           | some (d, p) => s.readSpans (handleTenant h) e.r.strict (spanPieces (e.r.peerSpans d p e.x) (e.q.rawPos + have_) need)
           | none => (s, .ok []))
        else s.readXfer h i e (e.addrOf i (rsOffset e.r.bin i + e.q.rawPos + have_)) need) with
        | (_, .ok t) => t
        | (_, .error _) => []
      let d := decodeFrame (e.coil i) (e.q.raw ++ tail) left
      match d.stop with
      | some (.fault c) => some (c, e.q.bytes - e.q.frameOut + (if d.early then 0 else d.out.length), e.q.rawPos)
      | _ => none

/-! ### Encoding a frame (R353 to R355) -/

/-- A token: a literal, a run or a reference. -/
inductive Token where
  | lit (vs : List Nat)
  | run (v n : Nat)
  | ref (d : Nat)
  deriving DecidableEq, Repr

/-- How many elements at the front equal `v`, at most `n`. -/
def runCount (v : Nat) : Nat → List Nat → Nat
  | 0, _ => 0
  | _, [] => 0
  | n + 1, x :: l => if x = v then 1 + runCount v n l else 0

/-- How many elements of a literal follow its first, up to the start of a run or 65,536 in all. -/
def litCount : Nat → List Nat → Nat
  | 0, _ => 0
  | _, [] => 0
  | n + 1, x :: l => match l with
    | [] => 1
    | y :: _ => if x = y then 0 else 1 + litCount n l

/-- The place of a run in the live history, from 1. -/
def histFind (r : Nat × Nat) : Nat → List (Nat × Nat) → Option Nat
  | _, [] => none
  | k, x :: l => if x = r then some k else histFind r (k + 1) l

/-- Choose the tokens of a list of elements (R354); `fuel` is their number. -/
def chooseTokens (w : Nat) : Nat → List Nat → List (Nat × Nat) → List Token × List (Nat × Nat)
  | 0, _, hist => ([], hist)
  | _, [], hist => ([], hist)
  | n + 1, v :: l, hist =>
    let r := 1 + runCount v 65535 l
    if 2 ≤ r then
      let tok := match histFind (v, r) 1 hist with | some d => Token.ref d | none => Token.run v r
      let rest := chooseTokens w n (l.drop (r - 1)) (pushRun w hist (v, r))
      (tok :: rest.1, rest.2)
    else
      let k := 1 + litCount 65535 l
      let rest := chooseTokens w n (l.drop (k - 1)) hist
      (Token.lit ((v :: l).take k) :: rest.1, rest.2)

/-- The class of a length or distance `n` (R342). -/
def classOf (n : Nat) : Nat := if n ≤ 1 then 0 else Nat.log2 (n - 1) + 1

/-- `n` bits of a number, least significant first. -/
def lsbBits : Nat → Nat → List Bool
  | 0, _ => []
  | n + 1, v => bit v 0 :: lsbBits n (v / 2)

/-- The extra bits of a length or distance. -/
def extraBits (n : Nat) : List Bool := let j := classOf n; if j ≤ 1 then [] else lsbBits (j - 1) (n - 1 - 2 ^ (j - 1))

/-- The symbol of a token. -/
def Token.symbol : Token → Nat
  | .lit vs => 1 + classOf vs.length
  | .run _ n => 18 + classOf n
  | .ref d => 35 + classOf d

/-- The bits of a symbol's code, most significant first. -/
def codeBits (lens : List Nat) (s : Nat) : List Bool := (lsbBits (nth lens s 0) (codeOf lens s)).reverse

/-- The bits of a token. -/
def Token.bitsOf (lens : List Nat) (w : Nat) (t : Token) : List Bool :=
  codeBits lens t.symbol ++ (match t with
    | .lit vs => extraBits vs.length ++ vs.flatMap (lsbBits (8 * w))
    | .run v n => extraBits n ++ lsbBits (8 * w) v
    | .ref d => extraBits d)

/-- The length of a dynamic code for a count (R355). -/
def dynLen (c tt : Nat) : Nat → Nat → Nat
  | 0, l => l
  | n + 1, l => if c * 2 ^ l < tt then dynLen c tt n (l + 1) else l

/-- The lengths of a dynamic table from the counts of the frame before (R355). -/
def dynLens (cnt : List Nat) : List Nat :=
  let t := sumList cnt
  let q := t / 16384 + 1
  let tt := t + 49 * q
  (List.range 49).map (fun s => dynLen (nth cnt s 0 + q) tt 15 1)

/-- A frame of a slot's bytes, and the context after it. -/
def encodeFrame (c : Coil) (enc esize : Nat) (last : Bool) (data : Bytes) : Bytes × Coil × Bool :=
  let w := if data.length % Nat.max 1 esize = 0 then Nat.max 1 esize else 1
  let hist := if c.width = w then c.hist else []
  let elems := readNums w (data.length / w) data
  let tk := chooseTokens w (elems.length + 1) elems hist
  let dyn := bit enc 3 && c.countsValid
  let lens := if dyn then dynLens c.counts else nth staticLens (bits enc 2 0) []
  let body := (if dyn then lens.flatMap (lsbBits 4) else []) ++ tk.1.flatMap (Token.bitsOf lens w) ++ codeBits lens 0
  let tok := bitmap body
  let syms := tk.1.map Token.symbol
  let cnt := (List.range 49).map (fun s => (syms.filter (· == s)).length + (if s = 0 then 1 else 0))
  let hdr := leBytes 2 0x4F43 ++ leBytes 1 1 ++ leBytes 1 (Nat.log2 w + 4 * ofBool dyn + 64 * ofBool last)
    ++ leBytes 1 (if dyn then 0 else bits enc 2 0) ++ leBytes 3 0 ++ leBytes 4 data.length ++ leBytes 4 tok.length ++ leBytes 8 0 ++ leBytes 8 0
  (hdr ++ tok ++ leBytes 4 (crc32c data).toNat,
   { c with hist := tk.2, width := w, counts := cnt, countsValid := true, frames := c.frames + 1 }, dyn)

/-- COIL_FRAME_ENCODE: the encode side makes one frame of the slot the store path holds (R353). It works on one frame at a time (R336), and
waits for a slot. -/
def execCoilFrameEncode (h i : Nat) (s : State) : Host.Outcome State Fault Refusal :=
  match s.streamEnv h i with
  | none => .next s
  | some e =>
    let b := e.r.bin
    if !rsOut b i || !rsCoil b i || e.q.ended || e.q.raw.length != 0 || decide (e.k.acq ≤ e.q.slotNo) then .next s
    else match e.k.slot? e.q.slotNo with
      | none => .next s
      | some x =>
        if rsBytes b i < e.q.pos + x.len then .next (s.streamFault h i e errStrmOverflow (rsBytes b i / Nat.max 1 (rsSize b i)))
        else match s.readSlot e.r e.k x.no 0 x.len with
          | (s, .error c) => .next (s.streamMemFault h i e c (e.q.pos / Nat.max 1 (rsSize b i)))
          | (s, .ok d) =>
            let f := encodeFrame (e.coil i) (rsCoilEnc b i) (rsSize b i) x.fin d
            if rsExtent b i 0 * rsSize b i < e.q.rawPos + f.1.length then
              .next (s.coilFault h i e errCoilOutputFull e.q.pos e.q.rawPos)
            else
              let t := handleTenant h
              let s := (s.setCoil h i f.2.1).vcount64 t vCoilTEncFrames 1
              let s := (if f.2.2 then s.vcount t vCoilTDynCnt 1 else s)
              .next (s.updStream h i (fun q =>
                { q with raw := f.1, pos := q.pos + x.len, slotNo := q.slotNo + 1, slotOff := 0, ended := x.fin }))

/-! ### Saving and restoring contexts (R357 to R359, Table 11-5) -/

/-- An area of `cap` slots of `w`-byte values followed by lengths, padded to `n` bytes. -/
def runArea (w cap n : Nat) (l : List (Nat × Nat)) : Bytes :=
  let vals := ((List.range cap).map (fun k => leBytes w (match l[k]? with | some p => p.1 | none => 0))).flatten
  let lens := ((List.range cap).map (fun k => leBytes 2 (match l[k]? with | some p => p.2 - 1 | none => 0))).flatten
  ((vals ++ lens) ++ List.replicate n 0).take n

/-- The record of a context, RECORD_CRC given. -/
def coilRecordWith (c : Coil) (encode : Bool) (crc : Nat) : Bytes :=
  leBytes 4 0x4C494F43 ++ leBytes 2 1 ++ leBytes 1 (ofBool encode) ++ leBytes 1 c.width ++ leBytes 2 c.hist.length ++ leBytes 2 c.base.length
    ++ leBytes 1 c.baseWidth ++ leBytes 1 (ofBool c.countsValid) ++ leBytes 2 0 ++ leBytes 8 (c.baseId.getD 0) ++ leBytes 8 c.frames
    ++ leBytes 4 crc ++ List.replicate 28 0
    ++ ((List.range 49).map (fun k => leBytes 4 (nth c.counts k 0))).flatten ++ List.replicate 252 0
    ++ (if c.width = 0 then List.replicate 12288 0 else runArea c.width (liveCap c.width) 12288 c.hist)
    ++ (if c.baseWidth = 0 then List.replicate 3072 0 else runArea c.baseWidth (baseCap c.baseWidth) 3072 c.base)
    ++ List.replicate 512 0

/-- The record of a context (R357). -/
def coilRecord (c : Coil) (encode : Bool) : Bytes := coilRecordWith c encode (crc32c (coilRecordWith c encode 0)).toNat

/-- The runs of an area. -/
def readRuns (w cap cnt : Nat) (b : Bytes) : List (Nat × Nat) :=
  (List.range cnt).map (fun k => (fieldAt b (k * w) w, fieldAt b (cap * w + 2 * k) 2 + 1))

/-- A width of Table 11-5. -/
def widthOk (w : Nat) : Bool := w == 0 || w == 1 || w == 2 || w == 4 || w == 8

/-- The context a record holds, when it keeps every value and rule of Table 11-5 (R359). -/
def coilOfRecord (b : Bytes) (encode : Bool) : Option Coil :=
  let w := fieldAt b 7 1
  let lc := fieldAt b 8 2
  let bc := fieldAt b 0xA 2
  let bw := fieldAt b 0xC 1
  let cv := fieldAt b 0xD 1
  let id := fieldAt b 0x10 8
  let c : Coil := {
    hist := if w = 0 then [] else readRuns w (liveCap w) lc (slice b 0x200 12288), width := w,
    base := if bw = 0 then [] else readRuns bw (baseCap bw) bc (slice b 0x3200 3072),
    baseId := if bw = 0 then none else some id, baseWidth := bw,
    counts := readNums 4 49 (b.drop 0x40), countsValid := cv == 1, frames := fieldAt b 0x18 8 }
  let ok := decide (b.length = 16384) && fieldAt b 0 4 == 0x4C494F43 && fieldAt b 4 2 == 1 && fieldAt b 6 1 == ofBool encode
    && widthOk w && widthOk bw && decide (lc ≤ (if w = 0 then 0 else liveCap w)) && decide (bc ≤ (if bw = 0 then 0 else baseCap bw))
    && decide (cv ≤ 1) && (encode || cv == 0) && ((id == 0) == (bw == 0))
  -- equal contexts give equal records, so the reserved and unused bytes and the CRC are right exactly when the record is the context's own
  if ok && coilRecord c encode == b then some c else none

/-- Set RESULT and DONE of COIL_T_CTX_STATUS. -/
def State.coilDone (s : State) (t code : Nat) : State := (s.vsetF t vCoilTCtxStatus 31 16 code).vsetF t vCoilTCtxStatus 1 1 1

/-- The newest pending request of a tenant. -/
def State.coilReq? (s : State) (t : Nat) : Option CoilReq := s.coilReqs.find? (fun x => x.tenant == t)

/-- A write of COIL_T_CTX_GO with one bit set (R358, R363). -/
def State.coilRequest (s : State) (t : Nat) (restore : Bool) : State :=
  if !s.exists? t then s
  else
    let h := s.vgetN t vCoilTCtxHandle
    let i := bits (s.vgetN t vCoilTCtxStream) 15 0
    let a := s.vget64 t vCoilTCtxAddr
    let bad := match s.rota? h with
      | none => true
      | some r => decide (handleTenant h ≠ t) || r.retiring || decide (rhNStream r.bin ≤ i) || !rsCoil r.bin i || !rsPersistent r.bin i
        || a % 64 != 0 || decide (runsLen (s.extents t .hbm) * 0x400000 < a + 16384)
    if bad then s.coilDone t errCoilContextInvalid
    else
      let s := s.vsetF t vCoilTCtxStatus 0 0 1
      { s with coilReqs := s.coilReqs.filter (fun x => x.tenant != t) ++ [{ tenant := t, handle := h, stream := i, addr := a, restore := restore }] }

/-- COIL_CTX_SAVE: a write of COIL_T_CTX_GO on VF `t` + 1 with SAVE alone set. -/
def execCoilCtxSave (t : Nat) (s : State) : Host.Outcome State Fault Refusal := .next (s.coilRequest t false)

/-- COIL_CTX_RESTORE: a write of COIL_T_CTX_GO on VF `t` + 1 with RESTORE alone set. -/
def execCoilCtxRestore (t : Nat) (s : State) : Host.Outcome State Fault Refusal := .next (s.coilRequest t true)

/-- COIL_CTX_PERFORM: in a guard band in which no course of the owning Rota runs, the pending request of tenant `t` is performed (R359). -/
def execCoilCtxPerform (t : Nat) (s : State) : Host.Outcome State Fault Refusal :=
  match s.coilReq? t with
  | none => .next s
  | some q => match s.rota? q.handle with
    | none => .next s
    | some r =>
      if r.course.isSome then .next s
      else
        let enc := rsOut r.bin q.stream
        let s := ({ s with coilReqs := s.coilReqs.filter (fun x => x.tenant != t) }).vsetF t vCoilTCtxStatus 0 0 0
        if q.restore then
          match s.readMem t .hbm false q.addr 16384 with
          | (s, .error _) => .next (s.coilDone t errCoilContextInvalid)
          | (s, .ok d) => match coilOfRecord d enc with
            | none => .next (s.coilDone t errCoilContextInvalid)
            | some c => .next ((s.setCoil q.handle q.stream c).coilDone t 0)
        else
          let w := s.writeMem t .hbm q.addr (coilRecord (r.streamCtx q.stream).coil enc)
          .next (w.1.coilDone t 0)

end Sys2Proof.Machine
end

