-- ==== Sys2Proof/Machine/Units.lean ====
section
/-! DEFINITION. How the units of a Weave group, the Select, Arbour and Trellis units and the network ports run the operations of a course:
one event takes one batch from each input hoop, runs the operation on it, and puts what it made into the output hoops (spec/07, R237 to R243
and R268; the same frame in spec/08, 09, 10, 13, 14 and 16). -/

namespace Sys2Proof.Machine

/-- An operation of the running course with everything it works with. -/
structure OpEnv where
  h : Nat
  l : OpList
  i : Nat
  r : Rota
  c : CourseRun
  o : OpRun
  x : Task
  d : Bytes
  deriving Repr

/-- Find it: operation `i` of list `l` in the course Rota `h` runs. -/
def State.opEnv (s : State) (h : Nat) (l : OpList) (i : Nat) : Option OpEnv :=
  match s.running h with
  | none => none
  | some (r, c) => match c.op? (opKey l i), s.task? (handleTenant h) c.seq with
    | some o, some x => some { h := h, l := l, i := i, r := r, c := c, o := o, x := x, d := opRec r.bin l i }
    | _, _ => none

def OpEnv.t (e : OpEnv) : Nat := handleTenant e.h

/-- The agent that runs an operation: its class of Table 1-6, its unit byte, its physical instance, and the low byte of its requester index
(Table 6-3). -/
structure Agent where
  cls : Nat
  inst : Nat
  req : Nat
  deriving DecidableEq, Repr

/-- A fault an operation found: its code, the element offset, and the input hoop it lies in. A memory fault names the requester (Table 21-3). -/
structure OpFault where
  code : Nat
  elem : Nat
  hoop : Nat
  deriving DecidableEq, Repr

/-- What running an operation on a batch gives: the state with its counters, the operation's own state, what it made, and the fault that
stopped it. -/
structure KernOut where
  s : State
  o : OpRun
  out : List OutBatch
  fault : Option OpFault

/-- The operation went through. -/
def KernOut.ok (s : State) (o : OpRun) (out : List OutBatch) : KernOut := { s := s, o := o, out := out, fault := none }

/-- The operation found a fault. -/
def KernOut.bad (s : State) (o : OpRun) (code elem hoop : Nat) : KernOut :=
  { s := s, o := o, out := [], fault := some { code := code, elem := elem, hoop := hoop } }

/-- The batch at the front of a hoop for one reader. -/
inductive Front where
  | wait | ended | got (k : Hoop) (x : Slot)

/-- What lies at the front of hoop `i` for the reader of key `key`. -/
def CourseRun.front (c : CourseRun) (i key : Nat) : Front :=
  match c.hoop? i with
  | none => .ended
  | some k =>
    let n := sparseGet 0 k.done key
    if n < k.acq then match k.slot? n with
      | some x => .got k x
      | none => .wait
    else if k.ended && k.acq == k.tail then .ended
    else .wait

/-- All the inputs an operation takes together. -/
inductive Inputs where
  | wait | ended | got (l : List (Hoop × Slot))

/-- An END slot of length 0 carries no batch: it only ends the input (notes/assumptions/50.md). -/
def Slot.bare (x : Slot) : Bool := x.fin && x.len == 0

/-- One batch of every input, when all have one; an input that has ended ends the operation's input once all have. -/
def CourseRun.inputs (c : CourseRun) (key : Nat) : List Nat → Inputs
  | [] => .got []
  | [i] => match c.front i key with
    | .wait => .wait
    | .ended => .ended
    | .got k x => .got [(k, x)]
  | i :: t => match c.front i key, c.inputs key t with
    | .got k x, .got l => if x.bare != l.all (fun p => p.2.bare) then .wait else .got ((k, x) :: l)
    | .ended, .ended => .ended
    | _, _ => .wait

/-- A fault of an operation aborts the task (R268): a pending fault of a Coil stream that fed the hoop is reported in its place (R361). -/
def State.opFault (s : State) (e : OpEnv) (a : Agent) (f : OpFault) : State :=
  let feeder := hoopFeeder e.r.bin f.hoop
  let coil := match feeder with
    | some i => match s.pendingCoilFault e.h i, s.streamEnv e.h i with
      | some p, some q => some (i, p, q)
      | _, _ => none
    | none => none
  match coil with
  | some (i, p, q) => s.coilFault e.h i q p.1 p.2.1 p.2.2
  | none =>
    let ctx := match feeder with | some i => e.r.ctxOf i | none => 0xFFFF
    s.courseFault e.h f.code (if f.code / 256 = 4 then a.req else a.inst) ctx f.elem a.cls

/-- What waits to be output goes into the output hoops as far as they have room, in order (R175). -/
def State.flushOuts (s : State) (e : OpEnv) (a : Agent) : Nat → State
  | 0 => s
  | n + 1 =>
    match s.opEnv e.h e.l e.i with
    | none => s
    | some e => match e.o.outQ with
      | [] => s
      | b :: rest => match e.c.hoop? b.hoop with
        | none => (s.updOp e.h e.o.key (fun o => { o with outQ := rest })).flushOuts e a n
        | some k => match s.placeBatch e.h e.r k b.data b.fin with
          | none => s
          | some (s, some c) => s.opFault e a { code := c, elem := 0, hoop := 0xFFFF }
          | some (s, none) => (s.updOp e.h e.o.key (fun o => { o with outQ := rest })).flushOuts e a n

/-- Output all that waits. -/
def State.flushAll (s : State) (e : OpEnv) (a : Agent) : State :=
  match s.opEnv e.h e.l e.i with
  | none => s
  | some e => s.flushOuts e a e.o.outQ.length

/-- Read the whole slots of a list of inputs. -/
def State.readInputs (s : State) (r : Rota) : List (Hoop × Slot) → State × Except (Nat × Nat) (List Bytes)
  | [] => (s, .ok [])
  | (k, x) :: t =>
    match s.readSlot r k x.no 0 x.len with
    | (s, .error c) => (s, .error (c, k.idx))
    | (s, .ok d) => match s.readInputs r t with
      | (s, .error c) => (s, .error c)
      | (s, .ok l) => (s, .ok (d :: l))

/-- Finish with the front slots of a list of inputs (R176). -/
def State.finishInputs (s : State) (e : OpEnv) (l : List (Hoop × Slot)) : State :=
  l.foldl (fun s p => s.finishSlots e.h e.r p.1.idx e.o.key (p.2.no + 1)) s

/-- What running an operation on a batch of every input makes; the Bool says that the batch is the last. -/
abbrev Kern := State → OpEnv → List Bytes → Bool → KernOut

/-- What the end of the input makes of an operation; the Bool says that END came on a slot of its own, without a batch. -/
abbrev Fin := State → OpEnv → Bool → KernOut

/-- Take the result of a run: a fault aborts the task and commits nothing of the batch (R268); otherwise the operation's state moves on, its
input slots are released, and its outputs go out. -/
def KernOut.settle (k : KernOut) (e : OpEnv) (a : Agent) (l : List (Hoop × Slot)) (stage : Nat) : State :=
  match k.fault with
  | some f => k.s.opFault e a f
  | none =>
    let out := k.out.filter (fun b => b.hoop != 0xFFFF)
    ((k.s.updOp e.h e.o.key (fun _ => { k.o with stage := stage, outQ := out })).finishInputs e l).flushAll e a

/-- One event of an operation: what waits for output goes first; else the next batch of every input runs; else, at the end of the input, the
operation's end work, once. -/
def State.runOp (s : State) (e : OpEnv) (a : Agent) (ins : List Nat) (kern : Kern) (fin : Fin) : State :=
  if e.o.outQ.length ≠ 0 then s.flushAll e a
  else if 2 ≤ e.o.stage then s
  else match e.c.inputs e.o.key (ins.filter (fun i => i != 0xFFFF)) with
    | .wait => s
    | .ended => (fin s e true).settle e a [] 2
    | .got l =>
      if l.all (fun p => p.2.bare) then (fin s e true).settle e a l 2
      else match s.readInputs e.r l with
        | (s, .error c) => s.opFault e a { code := c.1, elem := 0, hoop := c.2 }
        | (s, .ok bs) =>
          let last := l.any (fun p => p.2.fin)
          let k := kern s e bs last
          if k.fault.isSome || !last then k.settle e a l 1
          else
            -- the end work follows the last batch
            let f := fin k.s { e with o := { k.o with stage := 1 } } false
            ({ f with out := k.out ++ f.out } : KernOut).settle e a l 2

/-- The end work of an operation that emits one batch per input batch: an END that came alone goes out alone (R176). -/
def endAlone (hoops : List Nat) : Fin := fun s e bare =>
  KernOut.ok s e.o (if bare then hoops.map (fun i => { hoop := i, data := [], fin := true }) else [])

/-- Count the registers a list of rows names, one each. -/
def State.tally (s : State) (t : Nat) (regs l : List Nat) : State :=
  regs.foldl (fun s r => s.vcount t r (l.filter (fun x => x == r)).length) s

end Sys2Proof.Machine
end

