-- ==== Sys2Proof/Machine/Columns.lean ====
section
/-! DEFINITION. Column operations (spec/07): the values of a column, comparisons and NaNs (R244 to R246), Varzitik Hash 64 (R249, R250), the
sums of R260, and the operations of Table 7-3. -/

namespace Sys2Proof.Machine

/-! ### Operation descriptors (Tables 7-2 and 7-4) -/

def odEngine (d : Bytes) : Nat := fieldAt d 3 1
def odOpcode (d : Bytes) : Nat := fieldAt d 4 1
def odCmp (d : Bytes) : Nat := fieldAt d 5 1
def odIn (d : Bytes) : Nat := fieldAt d 6 2
def odIn2 (d : Bytes) : Nat := fieldAt d 8 2
def odOut (d : Bytes) : Nat := fieldAt d 0xA 2
def odInType (d : Bytes) : Nat := fieldAt d 0xC 1
def odOutType (d : Bytes) : Nat := fieldAt d 0xD 1
def odTable (d : Bytes) : Nat := fieldAt d 0xE 2
def odColumn (d : Bytes) : Nat := fieldAt d 0x10 4
def odN (d : Bytes) : Nat := fieldAt d 0x14 4
def odImm0 (d : Bytes) : Nat := fieldAt d 0x18 8
def odImm1 (d : Bytes) : Nat := fieldAt d 0x20 8
def odSeed (d : Bytes) : Nat := fieldAt d 0x28 8
def odSpecial (d : Bytes) : Nat := fieldAt d 0x30 4
def odExpert (d : Bytes) : Nat := fieldAt d 0x34 4

/-- CMP_ORDER, NAN_OUT and NAN_BUCKET: without an extension 0, 0 and 0xFFFF_FFFF. -/
def OpEnv.totalOrder (e : OpEnv) : Bool := fieldAt (expertExt e.r.bin (odExpert e.d) 32) 0 1 == 1
def OpEnv.nanOut (e : OpEnv) : Bool := fieldAt (expertExt e.r.bin (odExpert e.d) 32) 1 1 == 1
def OpEnv.nanBucket (e : OpEnv) : Nat := if odExpert e.d = 0 then 0xFFFFFFFF else fieldAt (expertExt e.r.bin (odExpert e.d) 32) 4 4

/-- The Weave engine that runs an operation (Table 6-3). -/
def OpEnv.weave (e : OpEnv) : Agent :=
  let g := e.r.phys e.c.course 1 (odEngine e.d)
  { cls := 1, inst := g, req := g }

/-! ### NaNs (R245) and conversions -/

/-- The sign, mantissa and mantissa width of a NaN of a float type. -/
def nanOf (t v : Nat) : Option (Bool × Nat × Nat) :=
  if (typeValue t v).isNan && isFloat t then
    let w := typeBits t
    let m := if t = 0x0A then 10 else if t = 0x0B then 7 else if t = 0x0C then 23 else if t = 0x0D then 52 else if t = 0x0E then 3 else 2
    some (bit v (w - 1), v % 2 ^ m, m)
  else none

/-- A NaN in a format: the sign and the high bits of the payload that fit; `quiet` sets the quiet bit (R245). -/
def Fmt.nanBits (f : Fmt) (quiet : Bool) (n : Bool × Nat × Nat) : Nat :=
  let m := if n.2.2 ≤ f.m then n.2.1 * 2 ^ (f.m - n.2.2) else n.2.1 / 2 ^ (n.2.2 - f.m)
  f.infBits n.1 + (if quiet then m ||| 2 ^ (f.m - 1) else m)

/-- A numeric value of a type as an f64 pattern: exact for floats (R244), rounded to nearest for i64 and u64 (R253). -/
def f64Of (t v : Nat) : Nat :=
  match nanOf t v with
  | some n => f64.nanBits false n
  | none => f64.round (typeValue t v)

/-- A numeric value of a type as an f32 pattern, rounded to nearest. -/
def f32Of (t v : Nat) : Nat :=
  match nanOf t v with
  | some n => f32.nanBits (t == 0x0D) n
  | none => f32.round (typeValue t v)

/-- An f32 pattern in f32, bf16 or f16 (R245). -/
def fromF32 (t v : Nat) : Nat :=
  if t = 0x0C then v
  else
    let f := if t = 0x0B then bf16 else f16
    match nanOf 0x0C v with
    | some n => f.nanBits true n
    | none => f.round (f32.decode v)

/-- The first NaN of two f32 operands, quieted (R245). -/
def nan2 (a b : Nat) : Option Nat :=
  match nanOf 0x0C a with
  | some n => some (f32.nanBits true n)
  | none => match nanOf 0x0C b with
    | some n => some (f32.nanBits true n)
    | none => none

/-- f32 subtraction and multiplication with the NaNs of R245. -/
def sub32 (a b : Nat) : Nat := (nan2 a b).getD (f32.sub a b)
def mul32 (a b : Nat) : Nat := (nan2 a b).getD (f32.mul a b)

/-! ### Values of a column -/

/-- A row's value: an integer or a bool, a float as its f64 pattern, or bytes. -/
inductive CVal where
  | int (v : Int)
  | flt (v : Nat)
  | bytes (b : Bytes)
  deriving DecidableEq, Repr

/-- The value of a fixed-width pattern. -/
def colVal (t v : Nat) : CVal :=
  if isFloat t then .flt (f64Of t v) else if isSigned t then .int (toSigned (typeBits t) v) else .int (v : Int)

def CVal.isNan : CVal → Bool
  | .flt v => (f64.decode v).isNan
  | _ => false

/-- The totalOrder key of an f64 pattern. -/
def orderKey (v : Nat) : Int := if bit v 63 then -((v % 2 ^ 63 : Nat) : Int) - 1 else ((v % 2 ^ 63 : Nat) : Int)

/-- Compare two f64 patterns by R244: none when unordered. -/
def cmp64 (total : Bool) (a b : Nat) : Option Ordering :=
  if total then some (compare (orderKey a) (orderKey b))
  else
    let x := f64.decode a
    let y := f64.decode b
    if x.isNan || y.isNan then none else some (x.compare y)

/-- Compare a value with an immediate or a boundary read as an integer or as an f64 (R244). -/
def CVal.rel (total : Bool) (x : CVal) (imm : Nat) (signed : Bool) : Option Ordering :=
  match x with
  | .int v => some (compare v (if signed then toSigned 64 imm else (imm : Int)))
  | .flt v => cmp64 total v imm
  | .bytes _ => none

/-- A column as an operation takes it: its batch, the dictionary its indices name, and its rows up to the first fault. A null row is none. -/
structure Col where
  b : Batch
  dict : Option Batch
  vals : List (Option CVal)
  bad : Option (Nat × Nat)
  deriving Repr

/-- The index of row `i` of a dictionary batch. -/
def Batch.index (x : Batch) (i : Nat) : Nat := fieldAt x.values (4 * i) 4

/-- Row `i` of a column. -/
def rowVal (b : Batch) (dict : Option Batch) (i : Nat) : Option CVal :=
  if !nth b.valid i false then none
  else if b.layout = 0 then some (colVal b.etype (b.elem i))
  else if b.layout = 3 then match dict with
    | some d => if nth d.valid (b.index i) false then some (.bytes (d.span (b.index i))) else none
    | none => none
  else some (.bytes (b.span i))

/-- The first row that faults: an offset (R698), or a dictionary index (Table 7-10). -/
def firstBad (b : Batch) (dict : Option Batch) : Option (Nat × Nat) :=
  if b.layout = 1 ∨ b.layout = 2 ∨ b.layout = 4 then match b.badOffset with
    | some i => some (errWeaveOffsetsInvalid, i)
    | none => none
  else if b.layout = 3 then
    match (List.range b.rows).find? (fun i => nth b.valid i false && decide ((match dict with | some d => d.rows | none => 0) ≤ b.index i)) with
    | some i => some (errWeaveDictRange, i)
    | none => none
  else none

/-- A column of a batch with its dictionary. -/
def mkCol (b : Batch) (dict : Option Batch) : Col :=
  let bad := firstBad b dict
  let n := match bad with | some p => p.2 | none => b.rows
  { b := b, dict := dict, vals := (List.range n).map (rowVal b dict), bad := bad }

/-- The table record of a TABLE number that a course uses. -/
def OpEnv.table? (e : OpEnv) (n : Nat) : Option Nat :=
  (courseTables e.r.bin e.c.course).find? (fun i => roTable e.r.bin i == n)

/-- Read `n` bytes at `o` of table `t` of the course. -/
def State.opTable (s : State) (e : OpEnv) (t o n : Nat) : State × Except Nat Bytes :=
  match e.table? t with
  | none => (s, .error errMemOutOfRange)
  | some i => s.readTable e.r e.c.course i o n

/-- A dictionary (R241): a well-formed LAYOUT 1 batch of the index batch's type in a table the course uses. The outer none is
WEAVE_BATCH_INVALID. -/
def State.readDict (s : State) (e : OpEnv) (b : Batch) : State × Except Nat Batch :=
  match e.table? b.dict with
  | none => (s, .error errWeaveBatchInvalid)
  | some i => match s.readTable e.r e.c.course i 0 (roBytes e.r.bin i) with
    | (s, .error c) => (s, .error c)
    | (s, .ok d) => match parseBatch d with
      | none => (s, .error errWeaveBatchInvalid)
      | some x =>
        if x.layout ≠ 1 || x.etype ≠ b.etype || x.badOffset.isSome || x.nullsBad then (s, .error errWeaveBatchInvalid) else (s, .ok x)

/-- Acquire a batch of a hoop as a column of type `et` in one of the layouts given (Table 7-10). -/
def State.getCol (s : State) (e : OpEnv) (d : Bytes) (et : Nat) (layouts : List Nat) : State × Except Nat Col :=
  match parseBatch d with
  | none => (s, .error errWeaveBatchInvalid)
  | some b =>
    if b.etype ≠ et || !layouts.contains b.layout then (s, .error errWeaveBatchInvalid)
    else if b.layout = 3 then match s.readDict e b with
      | (s, .error c) => (s, .error c)
      | (s, .ok x) => (s, .ok (mkCol b (some x)))
    else (s, .ok (mkCol b none))

/-- The layouts a type comes in, but for lists (Table 7-6). -/
def flatLayouts (t : Nat) : List Nat := if isVar t then [1, 2, 3] else [0]

/-! ### Varzitik Hash 64 (R249, R250) -/

def vhK1 : BitVec 64 := 0x8F1B6C3D2A57E049
def vhK2 : BitVec 64 := 0xC4A291E75D3B07F1
def vhK3 : BitVec 64 := 0xB5E34A19D82C6F3B
def vhK4 : BitVec 64 := 0x9D27E8F513C6A481

def vhAbsorb (h w : BitVec 64) : BitVec 64 := (h ^^^ ((w * vhK2).rotateLeft 29 * vhK3)).rotateLeft 27 * vhK1 + vhK4

/-- Eight bytes at a time, the tail zero-extended; `fuel` counts words. -/
def vhWords : Nat → BitVec 64 → Bytes → BitVec 64
  | 0, h, _ => h
  | _ + 1, h, [] => h
  | n + 1, h, p => vhWords n (vhAbsorb h (BitVec.ofNat 64 (leNat (p.take 8)))) (p.drop 8)

/-- Varzitik Hash 64 of a byte string. -/
def vh64 (seed : Nat) (p : Bytes) : Nat :=
  let h := vhWords (ceilDiv p.length 8) (BitVec.ofNat 64 seed ^^^ (BitVec.ofNat 64 p.length * vhK1)) p
  let h := (h ^^^ (h >>> 31)) * vhK2
  let h := (h ^^^ (h >>> 29)) * vhK3
  (h ^^^ (h >>> 32)).toNat

/-- The hash input of a value (R250). -/
def CVal.hashInput : CVal → Bytes
  | .int v => leBytes 8 (ofSigned 64 v)
  | .flt v =>
    let x := f64.decode v
    leBytes 8 (if x.isNan then 0x7FF8000000000000 else if x.isZero then 0 else v)
  | .bytes b => b

/-! ### The frame of a column operation -/

/-- The rows an operation reaches before a fault, and the fault: the lowest row, the first input before the second. -/
def rowLimit (cols : List (Col × Nat)) : Nat × Option (Nat × Nat × Nat) :=
  cols.foldl (fun (a : Nat × Option (Nat × Nat × Nat)) p => match p.1.bad with
    | some q => if q.2 < a.1 then (q.2, some (q.1, p.1.b.rowBase + q.2, p.2)) else a
    | none => a) ((match cols with | (c, _) :: _ => c.b.rows | [] => 0), none)

/-- A column operation of one input. `f` sees the column and its first rows, and gives the state with what they counted, the operation's own
state and its output; a row fault or a wrong NULLS then discards the output (R268). -/
def colKern1 (et : Nat) (layouts : List Nat)
    (f : State → OpEnv → Col → Bool → State × OpRun × List OutBatch) : Kern := fun s e ins last =>
  let h := odIn e.d
  let raw := ins.headD []
  match s.getCol e raw et layouts with
  | (s, .error c) => KernOut.bad s e.o c (hdrRowBase raw) h
  | (s, .ok c) =>
    let r := f s e c last
    match c.bad with
    | some p => KernOut.bad r.1 e.o p.1 (c.b.rowBase + p.2) h
    | none => if c.b.nullsBad then KernOut.bad r.1 e.o errWeaveNullCountMismatch c.b.rowBase h else KernOut.ok r.1 r.2.1 r.2.2

/-- A column operation of two inputs (R243). -/
def colKern2 (et : Nat) (layouts : List Nat) (et2 : Nat) (layouts2 : List Nat)
    (f : State → OpEnv → Col → Col → Bool → State × OpRun × List OutBatch) : Kern := fun s e ins last =>
  let h := odIn e.d
  let h2 := odIn2 e.d
  let raw := ins.headD []
  let raw2 := nth ins 1 []
  match s.getCol e raw et layouts with
  | (s, .error c) => KernOut.bad s e.o c (hdrRowBase raw) h
  | (s, .ok c) => match s.getCol e raw2 et2 layouts2 with
    | (s, .error k) => KernOut.bad s e.o k (hdrRowBase raw2) h2
    | (s, .ok c2) =>
      if c.b.rows ≠ c2.b.rows || c.b.rowBase ≠ c2.b.rowBase then KernOut.bad s e.o errWeaveBatchMismatch c2.b.rowBase h2
      else
        let r := f s e c c2 last
        match (rowLimit [(c, h), (c2, h2)]).2 with
        | some p => KernOut.bad r.1 e.o p.1 p.2.1 p.2.2
        | none =>
          if c.b.nullsBad then KernOut.bad r.1 e.o errWeaveNullCountMismatch c.b.rowBase h
          else if c2.b.nullsBad then KernOut.bad r.1 e.o errWeaveNullCountMismatch c2.b.rowBase h2
          else KernOut.ok r.1 r.2.1 r.2.2

/-- One output batch of a fixed-width type for an input batch (R242). -/
def emitRows (e : OpEnv) (et rowBase : Nat) (rows : List (Option Nat)) (last : Bool) : List OutBatch :=
  [{ hoop := odOut e.d, data := fixedBatch et rowBase rows, fin := last }]

/-- A column operation whose rows stand alone: `f` gives a row's output and the registers it counts in. -/
def rowKern (et outType : Nat) (regs : List Nat) (f : OpEnv → Option CVal → Option Nat × List Nat) : Kern :=
  colKern1 et (flatLayouts et) (fun s e c last =>
    let rs := c.vals.map (f e)
    (s.tally e.t regs (rs.flatMap (·.2)), e.o, emitRows e outType c.b.rowBase (rs.map (·.1)) last))

/-- The event of a column operation: operation `i` of the running course, when its opcode is the one meant. -/
def colEvent (opcode : Nat) (kern : OpEnv → Kern) (fin : OpEnv → Fin) (h i : Nat) (s : State) : State :=
  match s.opEnv h .weave i with
  | none => s
  | some e => if odOpcode e.d = opcode then s.runOp e e.weave [odIn e.d, odIn2 e.d] (kern e) (fin e) else s

/-! ### Predicates, masks and filters -/

/-- The predicate of Table 7-7 on a row. -/
def predicate (e : OpEnv) (x : Option CVal) : Option Nat :=
  let cmp := odCmp e.d
  if cmp = 6 then some (ofBool x.isNone)
  else if cmp = 7 then some (ofBool x.isSome)
  else match x with
    | none => none
    | some v =>
      let signed := isSigned (odInType e.d)
      let a := v.rel e.totalOrder (odImm0 e.d) signed
      let b := v.rel e.totalOrder (odImm1 e.d) signed
      let ok := if cmp = 0 then a == some .eq
        else if cmp = 1 then a != some .eq
        else if cmp = 2 then a == some .lt
        else if cmp = 3 then a == some .lt || a == some .eq
        else if cmp = 4 then a == some .gt
        else if cmp = 5 then a == some .gt || a == some .eq
        else (a == some .gt || a == some .eq) && b == some .lt
      some (ofBool ok)

/-- FILTER_CMP (R244, Table 7-7). -/
def execFilterCmp (h i : Nat) (s : State) : Host.Outcome State Fault Refusal :=
  .next (colEvent 0x01 (fun e => rowKern (odInType e.d) 0x01 [] (fun e x => (predicate e x, []))) (fun e => endAlone [odOut e.d]) h i s)

/-- A mask's row: none is null. -/
def maskRow (x : Option CVal) : Option Bool :=
  match x with
  | some (.int v) => some (v == 1)
  | _ => none

/-- MASK_AND of two rows (R247). -/
def andRow (a b : Option Bool) : Option Bool :=
  if a == some false || b == some false then some false else if a.isNone || b.isNone then none else some true

/-- MASK_OR of two rows (R247). -/
def orRow (a b : Option Bool) : Option Bool :=
  if a == some true || b == some true then some true else if a.isNone || b.isNone then none else some false

/-- A mask operation of two inputs. -/
def maskKern (f : Option Bool → Option Bool → Option Bool) : Kern :=
  colKern2 0x01 [0] 0x01 [0] (fun s e c c2 last =>
    (s, e.o, emitRows e 0x01 c.b.rowBase ((c.vals.zip c2.vals).map (fun p => (f (maskRow p.1) (maskRow p.2)).map ofBool)) last))

/-- MASK_AND (R247). -/
def execMaskAnd (h i : Nat) (s : State) : Host.Outcome State Fault Refusal :=
  .next (colEvent 0x02 (fun _ => maskKern andRow) (fun e => endAlone [odOut e.d]) h i s)

/-- MASK_OR (R247). -/
def execMaskOr (h i : Nat) (s : State) : Host.Outcome State Fault Refusal :=
  .next (colEvent 0x03 (fun _ => maskKern orRow) (fun e => endAlone [odOut e.d]) h i s)

/-- MASK_NOT (R247). -/
def execMaskNot (h i : Nat) (s : State) : Host.Outcome State Fault Refusal :=
  .next (colEvent 0x04 (fun _ => rowKern 0x01 0x01 [] (fun _ x => ((maskRow x).map (fun b => ofBool (!b)), [])))
    (fun e => endAlone [odOut e.d]) h i s)

/-- The rows of a batch that a filter keeps, in the batch's own layout (R248, R242). -/
def keepRows (b : Batch) (rowBase : Nat) (keep : List Nat) : Bytes :=
  let valid := keep.map (fun i => nth b.valid i false)
  if b.layout = 0 then fixedBatch b.etype rowBase (keep.map (fun i => if nth b.valid i false then some (b.elem i) else none))
  else if b.layout = 3 then
    buildBatch 3 b.etype rowBase b.dict valid [] ((keep.map (fun i => leBytes 4 (if nth b.valid i false then b.index i else 0))).flatten)
  else if b.layout = 4 then
    listBatch b.etype rowBase (keep.map (fun i => (nth b.valid i false, b.list i)))
  else
    let vals := keep.map (fun i => if nth b.valid i false then b.span i else [])
    buildBatch b.layout b.etype rowBase 0 valid (offsFrom 0 (vals.map List.length)) vals.flatten

/-- FILTER_MASK on a batch (R248): `nums` holds the rows emitted before. -/
def filterKern (e0 : OpEnv) : Kern :=
  let t := odInType e0.d
  colKern2 t (if isVar t then [1, 2, 3] else if t = 0x01 then [0] else [0, 4]) 0x01 [0] (fun s e c m last =>
    let keep := (List.range c.vals.length).filter (fun i => maskRow (nth m.vals i none) == some true)
    let base := nth e.o.nums 0 0
    (s.vcount64 e.t vWeaveTRowsDropped (c.vals.length - keep.length), { e.o with nums := [base + keep.length] },
      [{ hoop := odOut e.d, data := keepRows c.b base keep, fin := last }]))

/-- FILTER_MASK (R248). -/
def execFilterMask (h i : Nat) (s : State) : Host.Outcome State Fault Refusal :=
  .next (colEvent 0x05 filterKern (fun e => endAlone [odOut e.d]) h i s)

/-! ### Hashing and bucketing -/

/-- A row's hash under a seed, null where either is (R251). -/
def hashRow (x : Option CVal) (seed : Option Nat) : Option Nat :=
  match x, seed with
  | some v, some q => some (vh64 q v.hashInput)
  | _, _ => none

/-- A prior hash as a seed. -/
def seedRow (x : Option CVal) : Option Nat := match x with | some (.int v) => some v.toNat | _ => none

/-- HASH on a batch, chained on a prior hash when IN2_HOOP names one (R251). -/
def hashKern (e0 : OpEnv) : Kern :=
  let t := odInType e0.d
  if odIn2 e0.d = 0xFFFF then rowKern t 0x09 [] (fun e x => (hashRow x (some (odSeed e.d)), []))
  else colKern2 t (flatLayouts t) 0x09 [0] (fun s e c p last =>
    (s, e.o, emitRows e 0x09 c.b.rowBase ((c.vals.zip p.vals).map (fun q => hashRow q.1 (seedRow q.2))) last))

/-- HASH (R251). -/
def execHash (h i : Nat) (s : State) : Host.Outcome State Fault Refusal :=
  .next (colEvent 0x06 hashKern (fun e => endAlone [odOut e.d]) h i s)

/-- The bucket of a null or NaN row (R255). -/
def specialRow (e : OpEnv) (nan : Bool) : Option Nat × List Nat :=
  let b := if nan && e.nanBucket != 0xFFFFFFFF then e.nanBucket else odSpecial e.d
  let c := if nan then [vWeaveTNanInCnt] else []
  if b = 0xFFFFFFFF then (none, c) else (some b, vWeaveTSpecialCnt :: c)

/-- HASH_BUCKET of a row (R252, R255). -/
def hashBucketRow (e : OpEnv) (x : Option CVal) : Option Nat × List Nat :=
  match x with
  | none => specialRow e false
  | some v => (some (vh64 (odSeed e.d) v.hashInput % odN e.d), if v.isNan then [vWeaveTNanInCnt] else [])

/-- HASH_BUCKET (R252). -/
def execHashBucket (h i : Nat) (s : State) : Host.Outcome State Fault Refusal :=
  .next (colEvent 0x07 (fun e => rowKern (odInType e.d) 0x08 [vWeaveTNanInCnt, vWeaveTSpecialCnt] hashBucketRow)
    (fun e => endAlone [odOut e.d]) h i s)

/-- f64(x) of a value (R253). -/
def CVal.toF64 : CVal → Nat
  | .int v => f64.round (fvInt v)
  | .flt v => v
  | .bytes _ => 0

/-- WIDTH_BUCKET of a row (R253). -/
def widthRow (e : OpEnv) (x : Option CVal) : Option Nat × List Nat :=
  match x with
  | none => specialRow e false
  | some v =>
    if v.isNan then specialRow e true
    else
      let q := f64.decode (f64.mul (f64.sub v.toF64 (odImm0 e.d)) (odImm1 e.d))
      let n := odN e.d
      if !(FV.fin false 0 0).le q then (some 0, [])
      else if (fvInt n).le q then (some (n - 1), [])
      else (some q.floor.trunc.toNat, [])

/-- WIDTH_BUCKET (R253). -/
def execWidthBucket (h i : Nat) (s : State) : Host.Outcome State Fault Refusal :=
  .next (colEvent 0x08 (fun e => rowKern (odInType e.d) 0x08 [vWeaveTNanInCnt, vWeaveTSpecialCnt] widthRow)
    (fun e => endAlone [odOut e.d]) h i s)

/-- The boundaries keep their order (R254): strictly ascending, no NaN. -/
def boundsOk (total isF : Bool) : List Nat → Bool
  | [] => true
  | [a] => !isF || !(f64.decode a).isNan
  | a :: b :: t =>
    (if isF then !(f64.decode a).isNan && cmp64 total a b == some .lt else decide (toSigned 64 a < toSigned 64 b)) && boundsOk total isF (b :: t)

/-- The bucket of a row (R254, R267). -/
def boundRow (bs : List Nat) (e : OpEnv) (x : Option CVal) : Option Nat × List Nat :=
  match x with
  | none => specialRow e false
  | some v =>
    if v.isNan then specialRow e true
    else
      let le := fun b => match v.rel e.totalOrder b true with
        | some .lt => false
        | some _ => true
        | none => false
      (some (bs.filter le).length, [])

/-- BOUND_BUCKET on a batch: the entry is read and checked at the first batch of the course, and kept in `nums` (R239, R254). -/
def boundKern (e0 : OpEnv) : Kern := fun s e ins last =>
  let n := odN e.d
  let run := fun (s : State) (e : OpEnv) =>
    rowKern (odInType e0.d) 0x08 [vWeaveTNanInCnt, vWeaveTSpecialCnt] (boundRow e.o.nums) s e ins last
  if e.o.stage ≠ 0 then run s e
  else
    let raw := ins.headD []
    match s.getCol e raw (odInType e.d) [0] with
    | (s, .error c) => KernOut.bad s e.o c (hdrRowBase raw) (odIn e.d)
    | (_, .ok _) => match s.opTable e (odTable e.d) (odColumn e.d * (8 * n)) (8 * n) with
      | (s, .error c) => KernOut.bad s e.o c (hdrRowBase raw) (odIn e.d)
      | (s, .ok d) =>
        let bs := readNums 8 n d
        if !boundsOk e.totalOrder (isFloat (odInType e.d)) bs then KernOut.bad s e.o errWeaveBoundsUnsorted (hdrRowBase raw) (odIn e.d)
        else run s { e with o := { e.o with nums := bs } }

/-- BOUND_BUCKET (R254). -/
def execBoundBucket (h i : Nat) (s : State) : Host.Outcome State Fault Refusal :=
  .next (colEvent 0x09 boundKern (fun e => endAlone [odOut e.d]) h i s)

/-! ### Normalisation -/

/-- Normalise a row: `f` maps an f32 to an f32 and the registers it counts in; a NaN input is counted, a NaN output may become null (R259). -/
def normRow (f : Nat → Nat × List Nat) (e : OpEnv) (x : Option Nat) : Option Nat × List Nat :=
  match x with
  | none => (none, [])
  | some v =>
    let y := f v
    let c := if (f32.decode v).isNan then vWeaveTNanInCnt :: y.2 else y.2
    if e.nanOut && (f32.decode y.1).isNan then (none, c) else (some (fromF32 (odOutType e.d) y.1), c)

/-- The rows of a fixed-width column as f32 patterns. -/
def Col.f32s (c : Col) : List (Option Nat) :=
  (List.range c.vals.length).map (fun i => if nth c.b.valid i false then some (f32Of c.b.etype (c.b.elem i)) else none)

/-- A normalisation operation. -/
def normKern (f : OpEnv → Nat → Nat × List Nat) (e0 : OpEnv) : Kern :=
  colKern1 (odInType e0.d) [0] (fun s e c last =>
    let rs := c.f32s.map (normRow (f e) e)
    (s.tally e.t [vWeaveTNanInCnt, vWeaveTClipCnt, vWeaveTDomainCnt] (rs.flatMap (·.2)), e.o,
      emitRows e (odOutType e.d) c.b.rowBase (rs.map (·.1)) last))

/-- An f32 NaN quieted. -/
def quiet32 (v : Nat) : Nat := match nanOf 0x0C v with | some n => f32.nanBits true n | none => v

/-- CLIP of an f32 (R256). -/
def clip32 (lo hi x : Nat) : Nat × List Nat :=
  let v := f32.decode x
  if v.isNan then (quiet32 x, [])
  else if v.lt (f32.decode lo) then (lo, [vWeaveTClipCnt])
  else if (f32.decode hi).lt v then (hi, [vWeaveTClipCnt])
  else (x, [])

/-- CLIP (R256). -/
def execClip (h i : Nat) (s : State) : Host.Outcome State Fault Refusal :=
  .next (colEvent 0x0A (normKern (fun e => clip32 (odImm0 e.d % 2 ^ 32) (odImm1 e.d % 2 ^ 32))) (fun e => endAlone [odOut e.d]) h i s)

/-- The series z + z^3/3 + z^5/5 + … in units of 2^-p, for a term `t` = z^k, `z2` = z^2. -/
def atanhSeries (p z2 : Nat) : Nat → Nat → Nat → Nat
  | 0, _, _ => 0
  | n + 1, k, t => t / k + atanhSeries p z2 n (k + 2) (t * z2 / 2 ^ p)

/-- ln(a / b) for b ≤ a < 2 b, in units of 2^-p, some units below the value. -/
def lnRatio (p a b : Nat) : Nat :=
  let z := (a - b) * 2 ^ p / (a + b)
  2 * atanhSeries p (z * z / 2 ^ p) (p / 3 + 4) 1 z

/-- ln(m * 2^e) in units of 2^-p, within 2^24 units, for m above 0. -/
def lnValue (p m : Nat) (e : Int) : Int :=
  let k := Nat.log2 m
  ((e + (k : Int)) * (lnRatio p 2 1 : Int)) + (lnRatio p m (2 ^ k) : Int)

/-- Round ln(m * 2^e) to f32: the precision rises until both ends of the enclosure round alike. -/
def ln32 (m : Nat) (e : Int) : Nat → Nat → Nat
  | 0, _ => 0
  | n + 1, p =>
    let v := lnValue p m e
    let lo := f32.round (fvOfInt (v - 2 ^ 24) (-(p : Int)))
    let hi := f32.round (fvOfInt (v + 2 ^ 24) (-(p : Int)))
    if lo = hi then lo else ln32 m e n (2 * p)

/-- LOG1P of an f32 (R257). -/
def log1p32 (x : Nat) : Nat × List Nat :=
  match f32.decode x with
  | .nan => (quiet32 x, [])
  | .inf true => (f32.qnan, [vWeaveTDomainCnt])
  | .inf false => (x, [])
  | .fin n m e =>
    if m = 0 then (x, [])
    else match (FV.fin n m e).add (.fin false 1 0) with
      | .fin n2 m2 e2 =>
        if n2 && m2 != 0 then (f32.qnan, [vWeaveTDomainCnt])
        else if m2 = 0 then (f32.infBits true, [])
        else (ln32 m2 e2 8 320, [])
      | _ => (x, [])

/-- LOG1P (R257). -/
def execLog1p (h i : Nat) (s : State) : Host.Outcome State Fault Refusal :=
  .next (colEvent 0x0B (normKern (fun _ => log1p32)) (fun e => endAlone [odOut e.d]) h i s)

/-- SLOG1P of an f32 (R257). -/
def slog1p32 (x : Nat) : Nat × List Nat := ((log1p32 (x % 2 ^ 31)).1 % 2 ^ 31 + x / 2 ^ 31 * 2 ^ 31, [])

/-- SLOG1P (R257). -/
def execSlog1p (h i : Nat) (s : State) : Host.Outcome State Fault Refusal :=
  .next (colEvent 0x0C (normKern (fun _ => slog1p32)) (fun e => endAlone [odOut e.d]) h i s)

/-- MINMAX and ZSCORE on a batch: the entry is read at the first batch of the course and kept in `nums` (R239, R258). -/
def paramKern (e0 : OpEnv) : Kern := fun s e ins last =>
  let run := fun (s : State) (e : OpEnv) =>
    normKern (fun e x => (mul32 (sub32 x (nth e.o.nums 0 0)) (nth e.o.nums 1 0), [])) e0 s e ins last
  if e.o.stage ≠ 0 then run s e
  else
    let raw := ins.headD []
    match s.getCol e raw (odInType e.d) [0] with
    | (s, .error c) => KernOut.bad s e.o c (hdrRowBase raw) (odIn e.d)
    | (_, .ok _) => match s.opTable e (odTable e.d) (odColumn e.d * 8) 8 with
      | (s, .error c) => KernOut.bad s e.o c (hdrRowBase raw) (odIn e.d)
      | (s, .ok d) => run s { e with o := { e.o with nums := readNums 4 2 d } }

/-- MINMAX (R258). -/
def execMinmax (h i : Nat) (s : State) : Host.Outcome State Fault Refusal :=
  .next (colEvent 0x0D paramKern (fun e => endAlone [odOut e.d]) h i s)

/-- ZSCORE (R258). -/
def execZscore (h i : Nat) (s : State) : Host.Outcome State Fault Refusal :=
  .next (colEvent 0x0E paramKern (fun e => endAlone [odOut e.d]) h i s)

/-! ### Statistics (R260 to R263) -/

/-- A compensated sum: s and c as f64 patterns. -/
structure Acc where
  s : Nat
  c : Nat
  deriving DecidableEq, Repr

def Acc.zero : Acc := { s := 0, c := 0 }

/-- step of R260. -/
def Acc.step (a : Acc) (v : Nat) : Acc :=
  let t := f64.add a.s v
  let big := (f64.decode v).abs.le (f64.decode a.s).abs
  { s := t, c := f64.add a.c (if big then f64.add (f64.sub a.s t) v else f64.add (f64.sub v t) a.s) }

/-- merge of R260. -/
def Acc.merge (a b : Acc) : Acc :=
  let x := a.step b.s
  { x with c := f64.add x.c b.c }

/-- A lane's two sums over its rows in ascending number. -/
def laneSums (rows : List (Nat × Nat)) : Acc × Acc :=
  rows.foldl (fun a p => (a.1.step p.2, a.2.step (f64.mul p.2 p.2))) (Acc.zero, Acc.zero)

/-- The rows of a lane, ascending (R260). -/
def laneRows (pairs : List (Nat × Nat)) (lane : Nat) : List (Nat × Nat) :=
  (pairs.filter (fun p => p.1 % 64 == lane)).foldl (fun l p => insertBy (·.1) p l) []

/-- The totals of an instance: lanes 1 to 63 merged into lane 0 in turn. -/
def instSums (pairs : List (Nat × Nat)) : Acc × Acc :=
  ((List.range 64).drop 1).foldl (fun a k =>
    let b := laneSums (laneRows pairs k)
    (a.1.merge b.1, a.2.merge b.2)) (laneSums (laneRows pairs 0))

/-- What a STATS operation has gathered: `nums` holds COUNT, nulls, NaNs, the infinity flags, and MIN and MAX as 64-bit patterns. -/
structure StatsPart where
  count : Nat
  nulls : Nat
  nans : Nat
  pos : Nat
  neg : Nat
  min : Nat
  max : Nat
  deriving DecidableEq, Repr

def StatsPart.ofNums (l : List Nat) : StatsPart :=
  { count := nth l 0 0, nulls := nth l 1 0, nans := nth l 2 0, pos := nth l 3 0, neg := nth l 4 0, min := nth l 5 0, max := nth l 6 0 }

def StatsPart.nums (p : StatsPart) : List Nat := [p.count, p.nulls, p.nans, p.pos, p.neg, p.min, p.max]

/-- The order of MIN and MAX (R262): -0.0 before +0.0; integers in their own signedness. -/
def statKey (t v : Nat) : Int := if isFloat t then orderKey v else if isSigned t then toSigned 64 v else (v : Int)

/-- Take a 64-bit pattern into MIN and MAX; the first of equals is kept. -/
def StatsPart.bound (p : StatsPart) (t v : Nat) : StatsPart :=
  { p with count := p.count + 1, min := if p.count = 0 ∨ statKey t v < statKey t p.min then v else p.min,
           max := if p.count = 0 ∨ statKey t p.max < statKey t v then v else p.max }

/-- A row's 64-bit pattern in the record. -/
def CVal.pattern : CVal → Nat
  | .int v => ofSigned 64 v
  | .flt v => v
  | .bytes _ => 0

/-- Take a row. -/
def StatsPart.row (t : Nat) (p : StatsPart) (x : Option CVal) : StatsPart :=
  match x with
  | none => { p with nulls := p.nulls + 1 }
  | some v =>
    if v.isNan then { p with nans := p.nans + 1 }
    else
      let p := p.bound t v.pattern
      match v with
      | .flt w => match f64.decode w with
        | .inf false => { p with pos := 1 }
        | .inf true => { p with neg := 1 }
        | _ => p
      | _ => p

/-- The finite value a row adds to the sums. -/
def addend (x : Option CVal) : Option Nat :=
  match x with
  | some v => if (f64.decode v.toF64).isFinite then some v.toF64 else none
  | none => none

/-- STATS on a batch (R260): its rows join their lanes. -/
def statsKern (e0 : OpEnv) : Kern :=
  let t := odInType e0.d
  colKern1 t [0] (fun s e c _ =>
    let p := c.vals.foldl (StatsPart.row t) (StatsPart.ofNums e.o.nums)
    let rows := (List.range c.vals.length).filterMap (fun i => match addend (nth c.vals i none) with
      | some v => some (c.b.rowBase + i, v)
      | none => none)
    let nan := (c.vals.filter (fun x => match x with | some v => v.isNan | none => false)).length
    (s.vcount e.t vWeaveTNanInCnt nan, { e.o with nums := p.nums, pairs := e.o.pairs ++ rows }, []))

/-- The members of the group of a STATS operation (R261), in ascending logical engine. -/
def OpEnv.group (e : OpEnv) : List Nat :=
  ((courseOps e.r.bin .weave e.c.course).filter (fun i =>
    let d := opRec e.r.bin .weave i
    odOpcode d == 0x0F && odColumn d == odColumn e.d)).foldl (fun l i => insertBy (fun k => odEngine (opRec e.r.bin .weave k)) i l) []

/-- STATS (R260). The output of every member of a group but the lowest is a stream of no bytes (R176, R261). -/
def execStats (h i : Nat) (s : State) : Host.Outcome State Fault Refusal :=
  .next (colEvent 0x0F statsKern (fun _ s e _ =>
    KernOut.ok s e.o (if e.group.head? = some e.i then [] else [{ hoop := odOut e.d, data := [], fin := true }])) h i s)


/-- Merge a member's part into a group's: its counts, flags and bounds. -/
def StatsPart.merge (t : Nat) (a b : StatsPart) : StatsPart :=
  { count := a.count + b.count, nulls := a.nulls + b.nulls, nans := a.nans + b.nans, pos := Nat.max a.pos b.pos, neg := Nat.max a.neg b.neg,
    min := if b.count = 0 then a.min else if a.count = 0 ∨ statKey t b.min < statKey t a.min then b.min else a.min,
    max := if b.count = 0 then a.max else if a.count = 0 ∨ statKey t a.max < statKey t b.max then b.max else a.max }

/-- The record of Table 7-8 (R262, R263). -/
def statsRecord (column t epoch beat seq : Nat) (p : StatsPart) (sum sq : Acc) (gens : List (Nat × Nat)) : Bytes :=
  let sumV := if p.pos = 1 ∧ p.neg = 1 then f64.qnan else if p.pos = 1 then f64.infBits false else if p.neg = 1 then f64.infBits true
    else f64.add sum.s sum.c
  let inf := decide (p.pos = 1 ∨ p.neg = 1)
  let sqV := if inf then f64.infBits false else f64.add sq.s sq.c
  let flags := p.pos + 2 * p.neg + 4 * ofBool (p.count != 0) + 8 * ofBool (!inf && !(f64.decode sumV).isFinite)
    + 16 * ofBool (isInt t) + 32 * ofBool (isUnsigned t)
  let g := gens.take 6
  leBytes 4 column ++ leBytes 1 g.length ++ leBytes 1 flags ++ leBytes 2 epoch ++ leBytes 8 beat ++ leBytes 4 seq ++ leBytes 4 0
    ++ leBytes 8 p.count ++ leBytes 8 p.nulls ++ leBytes 8 p.nans ++ leBytes 8 (if p.count = 0 then 0 else p.min)
    ++ leBytes 8 (if p.count = 0 then 0 else p.max) ++ leBytes 8 sumV ++ leBytes 8 sqV
    ++ (g.map (fun q => leBytes 2 q.1 ++ leBytes 2 0 ++ leBytes 4 q.2)).flatten
    ++ (List.replicate (6 - g.length) (leBytes 2 0xFFFF ++ leBytes 6 0)).flatten

/-- The record of a group whose members have all passed END: the totals merged in ascending logical engine into the lowest member's. -/
def OpEnv.groupRecord (e : OpEnv) (s : State) : Bytes :=
  let t := odInType e.d
  let runs := e.group.filterMap (fun i => e.c.op? (opKey .weave i))
  match runs with
  | [] => []
  | o :: rest =>
    let sums := rest.foldl (fun (a : Acc × Acc) q => let b := instSums q.pairs; (a.1.merge b.1, a.2.merge b.2)) (instSums o.pairs)
    let part := rest.foldl (fun a q => StatsPart.merge t a (StatsPart.ofNums q.nums)) (StatsPart.ofNums o.nums)
    statsRecord (odColumn e.d) t (s.epochOf e.t) e.c.beat e.c.seq part sums.1 sums.2 e.c.gens

/-- STATS_RECORD_EMIT: once every member of the group of operation `i`, its lowest logical engine, has passed END, the group emits one record
(R261, R263). -/
def execStatsRecordEmit (h i : Nat) (s : State) : Host.Outcome State Fault Refusal :=
  match s.opEnv h .weave i with
  | none => .next s
  | some e =>
    if e.o.outQ.length ≠ 0 then .next (s.flushAll e e.weave)
    else if odOpcode e.d ≠ 0x0F || e.group.head? ≠ some i || e.o.stage ≠ 2
        || e.group.any (fun k => match e.c.op? (opKey .weave k) with | some o => decide (o.stage < 2) | none => true) then .next s
    else
      let out := [{ hoop := odOut e.d, data := e.groupRecord s, fin := true }]
      .next ((s.updOp h e.o.key (fun o => { o with stage := 3, outQ := out })).flushAll e e.weave)

end Sys2Proof.Machine
end

