-- ==== Sys2Proof/Machine/Arbour.lean ====
section
/-! DEFINITION. Tree ensembles in the Arbour unit (spec/13): the ensemble table (R388, R389, R392), traversal (R391), summation and links (R393
to R395), and leaf-index output (R396). -/

namespace Sys2Proof.Machine

/-! ### Descriptor (Tables 13-1 and 13-2) -/

def adInst (d : Bytes) : Nat := fieldAt d 3 1
def adMode (d : Bytes) : Nat := fieldAt d 4 1
def adType (d : Bytes) : Nat := fieldAt d 5 1
def adLink (d : Bytes) : Nat := fieldAt d 6 1
def adDepthCap (d : Bytes) : Nat := fieldAt d 7 1
def adIn (d : Bytes) : Nat := fieldAt d 8 2
def adOut (d : Bytes) : Nat := fieldAt d 0xA 2
def adTable (d : Bytes) : Nat := fieldAt d 0xC 2
def adNClass (d : Bytes) : Nat := fieldAt d 0xE 2
def adNFeat (d : Bytes) : Nat := fieldAt d 0x10 4
def adTreeCap (d : Bytes) : Nat := fieldAt d 0x14 4
def adExpert (d : Bytes) : Nat := fieldAt d 0x18 4

/-- MISSING_MODE 0, and RAW_HOOP. -/
def OpEnv.missingOn (e : OpEnv) : Bool := fieldAt (expertExt e.r.bin (adExpert e.d) 16) 0 1 == 0
def OpEnv.rawHoop (e : OpEnv) : Nat := if adExpert e.d = 0 then 0xFFFF else fieldAt (expertExt e.r.bin (adExpert e.d) 16) 2 2

/-- The Arbour unit that runs an operation (Table 6-3). -/
def OpEnv.arbour (e : OpEnv) : Agent :=
  let u := e.r.phys e.c.course 6 (adInst e.d)
  { cls := 6, inst := u, req := 0x88 + u }

/-! ### The ensemble header (Table 13-3, R388, R398) -/

def ehNTree (h : Bytes) : Nat := fieldAt h 8 4
def ehNNode (h : Bytes) : Nat := fieldAt h 0xC 4
def ehMaxDepth (h : Bytes) : Nat := fieldAt h 7 1
def ehBase (h : Bytes) : Nat := fieldAt h 0x18 4
def ehRoot (h : Bytes) : Nat := fieldAt h 0x1C 4
def ehNode (h : Bytes) : Nat := fieldAt h 0x20 4
def ehBitmap (h : Bytes) : Nat := fieldAt h 0x24 4
def ehBitmapBytes (h : Bytes) : Nat := fieldAt h 0x28 4

/-- The header keeps Table 13-3 and R388 for a table of `bytes`, and agrees with the descriptor (R398). -/
def ensembleOk (d h : Bytes) (bytes : Nat) : Bool :=
  let nc := fieldAt h 0x10 2
  let nf := fieldAt h 0x14 4
  fieldAt h 0 4 == 0x52425241 && fieldAt h 4 2 == 1 && fieldAt h 6 1 == adType d && decide (1 ≤ ehMaxDepth h ∧ ehMaxDepth h ≤ 32)
    && decide (1 ≤ ehNTree h ∧ ehNTree h ≤ 65535) && decide (1 ≤ ehNNode h ∧ ehNNode h ≤ 16777216) && nc == adNClass d
    && fieldAt h 0x12 2 == 0 && nf == adNFeat d && allZero (slice h 0x2C 20) && decide (ehBitmapBytes h ≤ 16777216)
    && ehBitmapBytes h % 8 == 0 && ehBase h % 64 == 0 && ehRoot h % 64 == 0 && ehNode h % 64 == 0 && ehBitmap h % 64 == 0
    && decide (64 ≤ ehBase h ∧ ehBase h + 4 * nc ≤ ehRoot h ∧ ehRoot h + 4 * ehNTree h ≤ ehNode h
        ∧ ehNode h + 16 * ehNNode h ≤ ehBitmap h ∧ ehBitmap h + ehBitmapBytes h ≤ bytes)
    && decide (ehNTree h ≤ adTreeCap d) && decide (ehMaxDepth h ≤ adDepthCap d)

/-! ### Nodes (Table 13-4, R392) -/

def nodeLeaf (n : Bytes) : Bool := bit (fieldAt n 2 1) 0
def nodeMissLeft (n : Bytes) : Bool := bit (fieldAt n 2 1) 1
def nodeCat (n : Bytes) : Bool := bit (fieldAt n 2 1) 2
def nodeValue (n : Bytes) : Nat := fieldAt n 4 4
def nodeLeft (n : Bytes) : Nat := fieldAt n 8 3
def nodeRight (n : Bytes) : Nat := fieldAt n 0xB 3
def nodeWords (n : Bytes) : Nat := fieldAt n 0xE 2

/-- A node keeps its layout and its limits (R392). -/
def nodeOk (d h n : Bytes) : Bool :=
  fieldAt n 3 1 == 0 &&
  (if nodeLeaf n then fieldAt n 0 2 == 0 && fieldAt n 2 1 == 1 && nodeRight n == 0 && nodeWords n == 0
   else decide (fieldAt n 2 1 < 8) && decide (fieldAt n 0 2 < adNFeat d)
    && (if nodeCat n then decide (1 ≤ nodeWords n ∧ nodeWords n ≤ 1024) && decide (8 * nodeValue n + 8 * nodeWords n ≤ ehBitmapBytes h)
        else nodeWords n == 0))

/-- The category a feature value is (R391): an integer from 0 on. -/
def category (d : Bytes) (v : Nat) : Option Nat :=
  if adType d = 1 then (let x := toSigned 32 v; if 0 ≤ x then some x.toNat else none)
  else match f32.decode v with
    | .fin n m e =>
      let x := FV.fin n m e
      if x.isZero then some 0 else if n || !(x.floor.eqv x) then none else some x.trunc.toNat
    | _ => none

/-- A feature is missing (R390). -/
def OpEnv.missing (e : OpEnv) (v : Nat) : Bool :=
  e.missingOn && (if adType e.d = 1 then v == 0x80000000 else (f32.decode v).isNan)

/-- v < threshold (R391). -/
def belowThreshold (d : Bytes) (v t : Nat) : Bool :=
  if adType d = 1 then decide (toSigned 32 v < toSigned 32 t) else (f32.decode v).lt (f32.decode t)

/-- Where a traversal ends: at a leaf, or with a fault at a node. -/
inductive Leaf where
  | leaf (n : Bytes)
  | bad (code node : Nat)

/-- Traverse from `node` at `depth` (R391). -/
def State.traverse (s : State) (e : OpEnv) (h : Bytes) (row : List Nat) : Nat → Nat → Nat → State × Leaf
  | 0, node, _ => (s, .bad errArbNodeInvalid node)
  | fuel + 1, node, depth =>
    if ehNNode h ≤ node then (s, .bad errArbNodeInvalid node)
    else match s.opTable e (adTable e.d) (ehNode h + 16 * node) 16 with
      | (s, .error c) => (s, .bad c node)
      | (s, .ok n) =>
        if !nodeOk e.d h n then (s, .bad errArbNodeInvalid node)
        else if nodeLeaf n then (s, .leaf n)
        else if depth = ehMaxDepth h then (s, .bad errArbNodeInvalid node)
        else
          let v := nth row (fieldAt n 0 2) 0
          let go := fun (s : State) (left : Bool) =>
            let next := if left then nodeLeft n else nodeRight n
            if next ≤ node ∨ ehNNode h ≤ next then (s, .bad errArbNodeInvalid node)
            else s.traverse e h row fuel next (depth + 1)
          if e.missing v then go (s.vcount e.t vArbTMissingCnt 1) (nodeMissLeft n)
          else if nodeCat n then match category e.d v with
            | none => go s false
            | some c =>
              if 64 * nodeWords n ≤ c then go s false
              else match s.opTable e (adTable e.d) (ehBitmap h + 8 * nodeValue n + 8 * (c / 64)) 8 with
                | (s, .error k) => (s, .bad k node)
                | (s, .ok w) => go s (bit (leNat w) (c % 64))
          else go s (belowThreshold e.d v (nodeValue n))

/-- Traverse every tree of a row from tree `t` on, in ascending tree. -/
def State.trees (s : State) (e : OpEnv) (h : Bytes) (row : List Nat) : Nat → List Nat → State × Except (Nat × Nat × Nat) (List Bytes)
  | _, [] => (s, .ok [])
  | t, r :: rest =>
    match s.traverse e h row 34 r 0 with
    | (s, .bad c n) => (s, .error (c, t, n))
    | (s, .leaf n) => match s.trees e h row (t + 1) rest with
      | (s, .error c) => (s, .error c)
      | (s, .ok l) => (s, .ok (n :: l))

/-! ### Links (R394) -/

/-- e^(x / 2^p) as a mantissa in units of 2^(k - p), within 2^24 units, and k. -/
def expFixed (p : Nat) (x : Int) : Nat × Int :=
  let l : Int := lnRatio p 2 1
  let k := x / l
  let r := (x - k * l).toNat
  (series r (p / 3 + 12) 1 (2 ^ p), k)
where
  series (r : Nat) : Nat → Nat → Nat → Nat
    | 0, _, t => t
    | n + 1, i, t => t + series r n (i + 1) (t * r / 2 ^ p / i)

/-- A finite f32 in units of 2^-p. -/
def fixedOf (p : Nat) (m : Nat) (e : Int) (neg : Bool) : Int :=
  let v : Int := if 0 ≤ e + (p : Int) then ((m * 2 ^ (e + (p : Int)).toNat : Nat) : Int) else ((m / 2 ^ (-(e + (p : Int))).toNat : Nat) : Int)
  if neg then -v else v

/-- Two ends of an enclosure of e^v. -/
def expEnds (p m : Nat) (e : Int) (neg : Bool) : FV × FV :=
  let r := expFixed p (fixedOf p m e neg)
  (.fin false (r.1 - 2 ^ 24) (r.2 - (p : Int)), .fin false (r.1 + 2 ^ 24) (r.2 - (p : Int)))

/-- Round a function of an enclosure to f32: the precision rises until both ends round alike. -/
def roundEnds (f : FV → FV) (ends : Nat → FV × FV) : Nat → Nat → Nat
  | 0, _ => 0
  | n + 1, p =>
    let r := ends p
    let a := f32.round (f r.1)
    let b := f32.round (f r.2)
    if a = b then a else roundEnds f ends n (2 * p)

/-- e^v, correctly rounded. -/
def exp32 (v : Nat) : Nat :=
  match f32.decode v with
  | .nan => f32.qnan
  | .inf n => if n then 0 else f32.infBits false
  | .fin n m e =>
    if m = 0 then f32.round (fvInt 1)
    else if (fvInt 104).lt (FV.fin false m e) then (if n then 0 else f32.infBits false)
    else roundEnds id (fun p => expEnds p m e n) 6 320

/-- 1 / (1 + e^-v), correctly rounded. -/
def logistic32 (v : Nat) : Nat :=
  match f32.decode v with
  | .nan => f32.qnan
  | .inf n => if n then 0 else f32.round (fvInt 1)
  | .fin n m e =>
    if m = 0 then f32.round (FV.fin false 1 (-1))
    else if (fvInt 104).lt (FV.fin false m e) then (if n then 0 else f32.round (fvInt 1))
    else roundEnds (fun x => FV.div 320 (fvInt 1) ((fvInt 1).add x)) (fun p => expEnds p m e (!n)) 6 320

/-- Softmax over the classes of a row. -/
def softmax (acc : List Nat) : List Nat :=
  if acc.any (fun v => (f32.decode v).isNan) then acc.map (fun _ => f32.qnan)
  else match acc with
    | [] => []
    | a :: t =>
      let m := t.foldl (fun m x => if (f32.decode m).lt (f32.decode x) then x else m) a
      let d := acc.map (fun x => exp32 (f32.sub x m))
      let s := d.foldl f32.add 0
      d.map (fun x => f32.div x s)

/-- LINK applied to raw scores. -/
def linkScores (link : Nat) (acc : List Nat) : List Nat :=
  if link = 0 then acc else if link = 1 then acc.map logistic32 else if link = 2 then acc.map exp32 else softmax acc

/-- A NaN output is the canonical one (R395). -/
def canon32 (v : Nat) : Nat := if (f32.decode v).isNan then f32.qnan else v

/-- The raw scores of a row (R393). -/
def rawScores (base : List Nat) (leaves : List Bytes) : List Nat :=
  (leaves.foldl (fun (a : List Nat × Nat) n =>
    (modifyAt a.1 (a.2 % Nat.max 1 base.length) (fun v => f32.add v (nodeValue n)), a.2 + 1)) (base, 0)).1

/-! ### A batch -/

/-- Score the rows of a batch in order: each gives its leaves, or the batch's fault (R401). -/
def State.scoreRows (s : State) (e : OpEnv) (h : Bytes) (b : Batch) (roots : List Nat) :
    Nat → Nat → State × Except OpFault (List (Option (List Bytes)))
  | _, 0 => (s, .ok [])
  | i, n + 1 =>
    let next := fun (s : State) (x : Option (List Bytes)) =>
      match s.scoreRows e h b roots (i + 1) n with
      | (s, .error f) => (s, .error f)
      | (s, .ok l) => (s, .ok (x :: l))
    if !nth b.valid i false then next s none
    else
      let o := nth b.offs i 0
      if nth b.offs (i + 1) 0 ≠ o + adNFeat e.d ∨ b.values.length < nth b.offs (i + 1) 0 * b.unit then
        (s, .error { code := errArbShapeMismatch, elem := b.rowBase + i, hoop := adIn e.d })
      else match s.trees e h (b.list i) 0 roots with
        | (s, .error (c, t, node)) =>
          let s := if c = errArbNodeInvalid then (s.vsetN e.t vArbTLastNode node).vsetN e.t vArbTLastTree t else s
          (s, .error { code := c, elem := b.rowBase + i, hoop := adIn e.d })
        | (s, .ok l) => next (s.vcount64 e.t vArbTRows 1) (some l)

/-- Rows of f32 scores as a batch, NaNs made canonical, and how many there were. -/
def scoreBatch (b : Batch) (n : Nat) (rows : List (Option (List Nat))) : Bytes × Nat :=
  let all := rows.map (fun r => match r with | some l => (true, l.map canon32) | none => (false, List.replicate n 0))
  (listBatch 0x0C b.rowBase all, sumList (all.map (fun r => (r.2.filter (fun v => (f32.decode v).isNan)).length)))

/-- Read the header, and check it at the first batch of the course (R398). -/
def State.readEnsemble (s : State) (e : OpEnv) : State × Except Nat Bytes :=
  match s.opTable e (adTable e.d) 0 64 with
  | (s, .error c) => (s, .error c)
  | (s, .ok h) =>
    let bytes := match e.table? (adTable e.d) with | some i => roBytes e.r.bin i | none => 0
    if e.o.stage = 0 && !ensembleOk e.d h bytes then (s, .error errArbEnsembleMismatch) else (s, .ok h)

/-- An Arbour operation on a batch. -/
def arbourKern : Kern := fun s e ins last =>
  let d := e.d
  let raw := ins.headD []
  let h := adIn d
  match parseBatch raw with
  | none => KernOut.bad s e.o errArbBatchInvalid (hdrRowBase raw) h
  | some b =>
    if b.layout ≠ 4 || b.etype ≠ (if adType d = 1 then 0x04 else 0x0C) then KernOut.bad s e.o errArbBatchInvalid b.rowBase h
    else match s.readEnsemble e with
      | (s, .error c) => KernOut.bad s e.o c b.rowBase h
      | (s, .ok hd) =>
        let nc := adNClass d
        match s.opTable e (adTable d) (ehBase hd) (4 * nc) with
        | (s, .error c) => KernOut.bad s e.o c b.rowBase h
        | (s, .ok base) => match s.opTable e (adTable d) (ehRoot hd) (4 * ehNTree hd) with
          | (s, .error c) => KernOut.bad s e.o c b.rowBase h
          | (s, .ok roots) => match s.scoreRows e hd b (readNums 4 (ehNTree hd) roots) 0 b.rows with
            | (s, .error f) => { s := s, o := e.o, out := [], fault := some f }
            | (s, .ok rows) =>
              if adMode d = 1 then
                let out := rows.map (fun r => match r with
                  | some l => (true, l.map nodeLeft ++ List.replicate (adTreeCap d - l.length) 0xFFFFFFFF)
                  | none => (false, List.replicate (adTreeCap d) 0))
                KernOut.ok s e.o [{ hoop := adOut d, data := listBatch 0x08 b.rowBase out, fin := last }]
              else
                let acc := rows.map (fun r => r.map (rawScores (readNums 4 nc base)))
                let main := scoreBatch b nc (acc.map (fun r => r.map (linkScores (adLink d))))
                let rawB := scoreBatch b nc acc
                let two := e.rawHoop != 0xFFFF
                KernOut.ok (s.vcount e.t vArbTNanOutCnt (main.2 + if two then rawB.2 else 0)) e.o
                  ([{ hoop := adOut d, data := main.1, fin := last }] ++
                    (if two then [{ hoop := e.rawHoop, data := rawB.1, fin := last }] else []))

/-- The event of an Arbour operation in a mode. -/
def arbourEvent (mode h i : Nat) (s : State) : Host.Outcome State Fault Refusal :=
  match s.opEnv h .arbour i with
  | none => .next s
  | some e => if adMode e.d = mode then .next (s.runOp e e.arbour [adIn e.d] arbourKern (endAlone [adOut e.d, e.rawHoop])) else .next s

/-- ARBOUR_SCORE (R393 to R396). -/
def execArbourScore (h i : Nat) (s : State) : Host.Outcome State Fault Refusal := arbourEvent 0 h i s

/-- ARBOUR_LEAF_INDEX (R396). -/
def execArbourLeafIndex (h i : Nat) (s : State) : Host.Outcome State Fault Refusal := arbourEvent 1 h i s

end Sys2Proof.Machine
end

