-- ==== Sys2Proof/Machine/Joins.lean ====
section
/-! DEFINITION. Joins, grouping and sequences (spec/08, R270 to R285, R294 to R301): the device-built tables, JOIN_BUILD with its spill,
JOIN_PROBE, GROUP_KEY, GROUP_AGG and SEQ_GATHER. -/

namespace Sys2Proof.Machine

/-! ### Running one step after another -/

/-- Go on with a result, unless it is an error. -/
def andThen {ε α β : Type} (m : State × Except ε α) (f : State → α → State × Except ε β) : State × Except ε β :=
  match m with
  | (s, .error c) => (s, .error c)
  | (s, .ok a) => f s a

/-- A write's outcome as a result. -/
def wrote (m : State × Option Nat) : State × Except Nat Unit :=
  match m with
  | (s, some c) => (s, .error c)
  | (s, none) => (s, .ok ())

/-! ### The table of a join or of groups (Tables 8-2 and 8-3) -/

/-- A device-built table as an operation uses it: its record, DIR_LOG2, ENTRY_CAP and SEED. -/
structure JTab where
  rec_ : Nat
  log2 : Nat
  cap : Nat
  seed : Nat
  deriving DecidableEq, Repr

def JTab.entAt (j : JTab) (i : Nat) : Nat := 128 + 8 * 2 ^ j.log2 + 32 * i
def JTab.heapAt (j : JTab) : Nat := 128 + 8 * 2 ^ j.log2 + 32 * j.cap
def JTab.bucketAt (j : JTab) (h : Nat) : Nat := 128 + 8 * (h / 2 ^ (64 - j.log2))

/-- The bytes of key heap a key needs (R275). -/
def heapNeed (key : Bytes) : Nat := if 8 < key.length then roundUp key.length 8 else 0

/-- Read a number from a table. -/
def State.tget (s : State) (e : OpEnv) (j o n : Nat) : State × Except Nat Nat :=
  andThen (s.readTable e.r e.c.course j o n) (fun s d => (s, .ok (leNat d)))

/-- Write bytes of a table. -/
def State.tput (s : State) (e : OpEnv) (j o : Nat) (d : Bytes) : State × Except Nat Unit :=
  wrote (s.writeMem e.t .ory (e.r.tableAt e.c.course j o) d)

/-- The header and the empty directory (R275). -/
def State.initTab (s : State) (e : OpEnv) (j : JTab) (map : Nat) : State × Except Nat Unit :=
  let hdr := leBytes 4 0 ++ leBytes 4 j.cap ++ leBytes 1 j.log2 ++ leBytes 1 (if map = 0 then 0 else 1) ++ leBytes 2 0 ++ leBytes 4 0
    ++ leBytes 8 j.seed ++ leBytes 8 map ++ leBytes 4 0xFFFFFFFF ++ leBytes 4 0xFFFFFFFF ++ List.replicate 88 0
  s.tput e j.rec_ 0 (hdr ++ List.replicate (8 * 2 ^ j.log2) 0xFF)

/-- An entry of Table 8-3. -/
def entryBytes (h row keyLen keyOff : Nat) (key : Bytes) : Bytes :=
  leBytes 8 h ++ leBytes 4 row ++ leBytes 4 0xFFFFFFFF ++ leBytes 2 keyLen ++ leBytes 2 0 ++ leBytes 4 keyOff
    ++ (if key.length ≤ 8 then key ++ List.replicate (8 - key.length) 0 else List.replicate 8 0)

/-- Link entry `n` at the end of its bucket's chain. -/
def State.linkEntry (s : State) (e : OpEnv) (j : JTab) (h n : Nat) : State × Except Nat Unit :=
  andThen (s.tget e j.rec_ (j.bucketAt h) 8) (fun s b =>
    let head := b % 2 ^ 32
    let tail := b / 2 ^ 32
    if head = 0xFFFFFFFF then s.tput e j.rec_ (j.bucketAt h) (leBytes 4 n ++ leBytes 4 n)
    else andThen (s.tput e j.rec_ (j.entAt tail + 0x0C) (leBytes 4 n)) (fun s _ => s.tput e j.rec_ (j.bucketAt h + 4) (leBytes 4 n)))

/-- Insert a key with its row (R275): the entry's index, or none when it does not fit. -/
def State.insertKey (s : State) (e : OpEnv) (j : JTab) (row : Nat) (key : Bytes) : State × Except Nat (Option Nat) :=
  andThen (s.tget e j.rec_ 0 4) (fun s n => andThen (s.tget e j.rec_ 0xC 4) (fun s used =>
    let need := heapNeed key
    let h := vh64 j.seed key
    if j.cap ≤ n || decide (roBytes e.r.bin j.rec_ - j.heapAt < used + need) then (s, .ok none)
    else
      andThen (s.tput e j.rec_ 0 (leBytes 4 (n + 1))) (fun s _ =>
      andThen (s.tput e j.rec_ 0xC (leBytes 4 (used + need))) (fun s _ =>
      andThen (s.tput e j.rec_ (j.entAt n) (entryBytes h row key.length (if need = 0 then 0 else used) key)) (fun s _ =>
      andThen (if need = 0 then (s, .ok ()) else s.tput e j.rec_ (j.heapAt + used) (key ++ List.replicate (need - key.length) 0)) (fun s _ =>
      andThen (s.linkEntry e j h n) (fun s _ => (s, .ok (some n)))))))))

/-- The key of an entry. -/
def State.entryKey (s : State) (e : OpEnv) (j : JTab) (ent : Bytes) : State × Except Nat Bytes :=
  let n := fieldAt ent 0x10 2
  if n ≤ 8 then (s, .ok (slice ent 0x18 n)) else s.readTable e.r e.c.course j.rec_ (j.heapAt + fieldAt ent 0x14 4) n

/-- The rows and indices of the entries of a chain that match a key, in chain order (R276); `first` stops at the first match. -/
def State.chain (s : State) (e : OpEnv) (j : JTab) (h : Nat) (key : Bytes) (first : Bool) :
    Nat → Nat → State × Except Nat (List (Nat × Nat))
  | 0, _ => (s, .ok [])
  | fuel + 1, at_ =>
    if at_ = 0xFFFFFFFF then (s, .ok [])
    else andThen (s.readTable e.r e.c.course j.rec_ (j.entAt at_) 32) (fun s ent =>
      let next := fieldAt ent 0xC 4
      if fieldAt ent 0 8 ≠ h || fieldAt ent 0x10 2 ≠ key.length then s.chain e j h key first fuel next
      else andThen (s.entryKey e j ent) (fun s k =>
        if k ≠ key then s.chain e j h key first fuel next
        else if first then (s, .ok [(fieldAt ent 8 4, at_)])
        else andThen (s.chain e j h key first fuel next) (fun s l => (s, .ok ((fieldAt ent 8 4, at_) :: l)))))

/-- The matches of a key. -/
def State.matches (s : State) (e : OpEnv) (j : JTab) (key : Bytes) (first : Bool) : State × Except Nat (List (Nat × Nat)) :=
  let h := vh64 j.seed key
  andThen (s.tget e j.rec_ (j.bucketAt h) 4) (fun s head => s.chain e j h key first (j.cap + 1) head)

/-! ### Rows of a key column -/

/-- What a key row is (R272). -/
inductive KeyRow where
  | null | nan | key (b : Bytes)

def keyRow (x : Option CVal) : KeyRow :=
  match x with
  | none => .null
  | some v => if v.isNan then .nan else .key v.hashInput

/-- Run over the rows of a key column in ascending number: each row gives the state, the operation's state, or a fault code. A row number that
reaches 0xFFFF_FFFF (R295) and a variable key above 256 B (R271) fault first. The result is the row that faulted, with its code. -/
def keyRows (f : State → OpRun → Nat → KeyRow → State × Except Nat OpRun) :
    State → OpRun → Nat → List (Option CVal) → State × OpRun × Option (Nat × Nat)
  | s, o, _, [] => (s, o, none)
  | s, o, row, x :: t =>
    if 0xFFFFFFFF ≤ row then (s, o, some (errWeaveRowLimit, row))
    else if (match x with | some (.bytes b) => decide (256 < b.length) | _ => false) then (s, o, some (errWeaveKeyTooLong, row))
    else match f s o row (keyRow x) with
      | (s, .error c) => (s, o, some (c, row))
      | (s, .ok o) => keyRows f s o (row + 1) t

/-- A batch of a key column: `pre` prepares the operation, each row runs, and `post` gives what it outputs. -/
def keyKern (et : Nat) (pre : State → OpEnv → State × Except Nat OpRun)
    (f : OpEnv → State → OpRun → Nat → KeyRow → State × Except Nat OpRun) (post : OpEnv → Batch → OpRun → OpRun × List OutBatch) : Kern :=
  fun s e ins _ =>
    let h := odIn e.d
    let raw := ins.headD []
    match s.getCol e raw et (flatLayouts et) with
    | (s, .error c) => KernOut.bad s e.o c (hdrRowBase raw) h
    | (s, .ok c) => match pre s e with
      | (s, .error k) => KernOut.bad s e.o k c.b.rowBase h
      | (s, .ok o) => match keyRows (f e) s o c.b.rowBase c.vals with
        | (s, o, some p) => KernOut.bad s o p.1 p.2 h
        | (s, o, none) => match c.bad with
          | some p => KernOut.bad s o p.1 (c.b.rowBase + p.2) h
          | none =>
            if c.b.nullsBad then KernOut.bad s o errWeaveNullCountMismatch c.b.rowBase h
            else let r := post e c.b o; KernOut.ok s r.1 r.2

/-! ### Packing output rows (R277) -/

/-- Cut rows into batches of `n`; the last batch waits until the end, which takes what is left. -/
def cutRows {α : Type} (n : Nat) : Nat → Nat → List α → Bool → List (Nat × List α × Bool) × Nat × List α
  | 0, base, l, _ => ([], base, l)
  | fuel + 1, base, l, atEnd =>
    if n < l.length then
      let r := cutRows n fuel (base + n) (l.drop n) atEnd
      ((base, l.take n, false) :: r.1, r.2.1, r.2.2)
    else if atEnd && (l.length != 0 || base == 0) then ([(base, l, true)], base + l.length, [])
    else ([], base, l)

/-- Cut a whole list. -/
def packRows {α : Type} (n base : Nat) (l : List α) (atEnd : Bool) : List (Nat × List α × Bool) × Nat × List α :=
  cutRows n (l.length / Nat.max 1 n + 2) base l atEnd

/-- u32 batches of packed rows for a hoop. -/
def u32Outs (hoop : Nat) (l : List (Nat × List Nat × Bool)) : List OutBatch :=
  l.map (fun p => { hoop := hoop, data := u32Batch p.1 p.2.1, fin := p.2.2 })

def odRowsOut (d : Bytes) : Nat := Nat.max 1 (odImm0 d / 2 ^ 32)

/-! ### JOIN_BUILD -/

/-- The table record of an operation, 0 where the Rota names none. -/
def OpEnv.tabRec (e : OpEnv) : Nat := (e.table? (odTable e.d)).getD 0

/-- The partitioned-spill extension (Table 8-4): PART_LOG2, SPILL_OFFSET and PART_BYTES. -/
structure SpillExt where
  log2 : Nat
  off : Nat
  bytes : Nat
  deriving DecidableEq, Repr

/-- The extension of a descriptor whose course carries SPILL (bit 1 of FLAGS, Table 3-2). -/
def spillExt (b d : Bytes) : Option SpillExt :=
  if bit (rcFlags b (opCourse d)) 1 && odExpert d != 0 then
    let x := expertExt b (odExpert d) 32
    some { log2 := fieldAt x 0 1, off := fieldAt x 8 8, bytes := fieldAt x 0x10 8 }
  else none

/-- The descriptor of the JOIN_BUILD that writes a table. -/
def builderOf (b : Bytes) (table : Nat) : Option Bytes :=
  match (List.range (listN b .weave)).find? (fun i =>
      let d := opRec b .weave i
      odOpcode d == 0x10 && odTable d == table) with
  | some i => some (opRec b .weave i)
  | none => none

/-- The partition of a hash (R279). -/
def SpillExt.part (x : SpillExt) (h : Nat) : Nat := h / 2 ^ (64 - x.log2)

/-- Bytes a spilled build row takes (R280; notes/assumptions/51.md). -/
def spillBytes (key : Bytes) : Nat := 32 + (if 8 < key.length then roundUp key.length 32 else 0)

/-- Bytes a deferred probe row takes (R281). -/
def deferBytes (key : Bytes) : Nat := 16 + roundUp key.length 16


/-- What a region of a Rota's spill holds. -/
def Rota.spill (r : Rota) (table part : Nat) : Spill :=
  match r.spills.find? (fun p => p.table == table && p.part == part) with
  | some p => p
  | none => { table := table, part := part, rows := [], used := 0 }

def Rota.setSpill (r : Rota) (p : Spill) : Rota :=
  { r with spills := r.spills.filter (fun q => !(q.table == p.table && q.part == p.part)) ++ [p] }

/-- Put a record of `n` bytes into the region of a partition: its bytes are of the device's choosing (R282), and are charged. -/
def State.spillPut (s : State) (e : OpEnv) (x : SpillExt) (part n : Nat) (f : Spill → Spill) : State × Except Nat Unit :=
  match s.rota? e.h with
  | none => (s, .ok ())
  | some r =>
    let p := r.spill (odTable e.d) part
    if x.bytes < p.used + n then (s, .error errJoinBuildOverflow)
    else
      let d := s.freeBytes n
      andThen (wrote (d.1.writeMem e.t .hbm (r.hbmBase + x.off + part * x.bytes + p.used) d.2)) (fun s _ =>
        ((s.chargeRota e.h .write n).updRota e.h (fun r => r.setSpill { f p with used := p.used + n }), .ok ()))

/-- Spill a build row. -/
def State.spillRow (s : State) (e : OpEnv) (x : SpillExt) (part row : Nat) (key : Bytes) : State × Except Nat Unit :=
  s.spillPut e x part (spillBytes key) (fun p => { p with rows := p.rows ++ [(row, key)] })

/-- The rows and keys of the first `n` entries, in order. -/
def State.entries (s : State) (e : OpEnv) (j : JTab) : Nat → Nat → State × Except Nat (List (Nat × Bytes))
  | 0, _ => (s, .ok [])
  | n + 1, i =>
    andThen (s.readTable e.r e.c.course j.rec_ (j.entAt i) 32) (fun s ent =>
    andThen (s.entryKey e j ent) (fun s k =>
    andThen (s.entries e j n (i + 1)) (fun s l => (s, .ok ((fieldAt ent 8 4, k) :: l)))))

/-- Insert rows that are known to fit. -/
def State.insertAll (s : State) (e : OpEnv) (j : JTab) : List (Nat × Bytes) → State × Except Nat (Option Nat)
  | [] => (s, .ok none)
  | (row, key) :: t => andThen (s.insertKey e j row key) (fun s r =>
      match r with
      | some _ => s.insertAll e j t
      | none => (s, .ok (some row)))

/-- Spill the rows of a list, in order. -/
def State.spillRows (s : State) (e : OpEnv) (x : SpillExt) (part : Nat) : List (Nat × Bytes) → State × Except Nat Unit
  | [] => (s, .ok ())
  | (row, key) :: t => andThen (s.spillRow e x part row key) (fun s _ => s.spillRows e x part t)

/-- Spill partition `p` (R280): its entries move to its region in insertion order, and their space is reclaimed. -/
def State.spillPart (s : State) (e : OpEnv) (j : JTab) (x : SpillExt) (map p : Nat) : State × Except Nat Unit :=
  andThen (s.tget e j.rec_ 0 4) (fun s n => andThen (s.entries e j n 0) (fun s l =>
    let mine := fun (q : Nat × Bytes) => x.part (vh64 j.seed q.2) == p
    andThen (s.spillRows e x p (l.filter mine)) (fun s _ =>
    andThen (s.initTab e j (map + 2 ^ p)) (fun s _ =>
    andThen (s.insertAll e j (l.filter (fun q => !mine q))) (fun s _ =>
      (s.vcount e.t vWeaveTSpillPartCnt 1, .ok ()))))))

/-- The highest-numbered partition not yet spilled. -/
def topUnspilled (x : SpillExt) (map : Nat) : Option Nat :=
  ((List.range (2 ^ x.log2)).reverse).find? (fun p => !bit map p)

/-- Place a build row under spill (R280). -/
def State.placeRow (s : State) (e : OpEnv) (j : JTab) (x : SpillExt) (row : Nat) (key : Bytes) : Nat → State × Except Nat Unit
  | 0 => (s, .error errJoinBuildOverflow)
  | fuel + 1 =>
    let p := x.part (vh64 j.seed key)
    andThen (s.tget e j.rec_ 0x18 8) (fun s map =>
      if bit map p then s.spillRow e x p row key
      else andThen (s.insertKey e j row key) (fun s r => match r with
        | some _ => (s, .ok ())
        | none => match topUnspilled x map with
          | none => (s, .error errJoinBuildOverflow)
          | some q => andThen (s.spillPart e j x map q) (fun s _ => s.placeRow e j x row key fuel)))

/-- The table of a descriptor that builds one. -/
def OpEnv.jtab (e : OpEnv) : JTab := { rec_ := e.tabRec, log2 := odImm0 e.d % 256, cap := odN e.d, seed := odSeed e.d }

/-- Prepare a table at the first batch of the task. -/
def initOnce (s : State) (e : OpEnv) : State × Except Nat OpRun :=
  if e.o.stage ≠ 0 then (s, .ok e.o)
  else
    let s := s.updRota e.h (fun r => { r with spills := r.spills.filter (fun p => p.table != odTable e.d) })
    andThen (s.initTab e e.jtab 0) (fun s _ => (s, .ok { e.o with stage := 1 }))

/-- One build row (R272, R275, R278, R280). -/
def buildRow (e : OpEnv) (s : State) (o : OpRun) (row : Nat) (k : KeyRow) : State × Except Nat OpRun :=
  match k with
  | .key key =>
    match spillExt e.r.bin e.d with
    | some x => andThen (s.placeRow e e.jtab x row key (2 ^ x.log2 + 2)) (fun s _ => (s, .ok o))
    | none => andThen (s.insertKey e e.jtab row key) (fun s r => match r with
      | some _ => (s, .ok o)
      | none => (s, .error errJoinBuildOverflow))
  | _ => (s.vcount e.t vWeaveTJoinNullKeyCnt 1, .ok o)

/-- At the end of an input without a batch the table is prepared all the same (R275). -/
def buildFin : Fin := fun s e _ =>
  match initOnce s e with
  | (s, .ok o) => KernOut.ok s o []
  | (s, .error c) => KernOut.bad s e.o c 0 (odIn e.d)

/-- JOIN_BUILD (R275 to R280). -/
def execJoinBuild (h i : Nat) (s : State) : Host.Outcome State Fault Refusal :=
  .next (colEvent 0x10 (fun e0 => keyKern (odInType e0.d) initOnce buildRow (fun _ _ o => (o, []))) (fun _ => buildFin) h i s)

/-! ### JOIN_PROBE -/

/-- The table a probe reads, with its builder's figures. -/
def OpEnv.probeTab (e : OpEnv) : JTab :=
  match builderOf e.r.bin (odTable e.d) with
  | some d => { rec_ := e.tabRec, log2 := odImm0 d % 256, cap := odN d, seed := odSeed e.d }
  | none => { rec_ := e.tabRec, log2 := 4, cap := 0, seed := odSeed e.d }

/-- The spill of a probe's table. -/
def OpEnv.probeSpill (e : OpEnv) : Option SpillExt :=
  match builderOf e.r.bin (odTable e.d) with
  | some d => spillExt e.r.bin d
  | none => none

/-- The output rows of a probe row (R276). -/
def probeOut (kind row : Nat) (m : List (Nat × Nat)) : List (Nat × Nat) :=
  match kind with
  | 0 => m.map (fun p => (row, p.1))
  | 1 => if m.length = 0 then [(row, 0xFFFFFFFF)] else m.map (fun p => (row, p.1))
  | 2 => (m.take 1).map (fun p => (row, p.1))
  | _ => if m.length = 0 then [(row, 0xFFFFFFFF)] else []

/-- Output rows join those that wait, and matches are counted. -/
def State.addProbe (s : State) (e : OpEnv) (o : OpRun) (rows : List (Nat × Nat)) : State × OpRun :=
  (s.vcount64 e.t vWeaveTJoinMatch (rows.filter (fun p => p.2 != 0xFFFFFFFF)).length, { o with pairs := o.pairs ++ rows })

def OpEnv.kind (e : OpEnv) : Nat := odImm0 e.d % 4

/-- One probe row (R272, R276, R281). A deferred row waits in the operation's table under its partition. -/
def probeRow (e : OpEnv) (s : State) (o : OpRun) (row : Nat) (k : KeyRow) : State × Except Nat OpRun :=
  match k with
  | .key key =>
    let look := fun (s : State) =>
      andThen (s.matches e e.probeTab key (e.kind == 2)) (fun s m =>
        let r := s.addProbe e o (probeOut e.kind row m)
        (r.1, Except.ok r.2))
    match e.probeSpill with
    | none => look s
    | some x =>
      let p := x.part (vh64 (odSeed e.d) key)
      andThen (s.tget e e.probeTab.rec_ 0x18 8) (fun s map =>
        if bit map p then
          andThen (s.spillPut e x p (deferBytes key) id) (fun s _ =>
            (s, .ok { o with table := o.table ++ [(p, row :: key.map (·.toNat))] }))
        else look s)
  | _ =>
    let r := (s.vcount e.t vWeaveTJoinNullKeyCnt 1).addProbe e o (probeOut e.kind row [])
    (r.1, .ok r.2)

/-- The two u32 columns of packed pairs. -/
def probeOuts (e : OpEnv) (l : List (Nat × List (Nat × Nat) × Bool)) : List OutBatch :=
  l.flatMap (fun p => u32Outs (odOut e.d) [(p.1, p.2.1.map (·.2), p.2.2)] ++ u32Outs (odImm1 e.d % 2 ^ 16) [(p.1, p.2.1.map (·.1), p.2.2)])

/-- Pack what waits. -/
def probePack (e : OpEnv) (o : OpRun) (atEnd : Bool) : OpRun × List OutBatch :=
  let r := packRows (odRowsOut e.d) (nth o.nums 0 0) o.pairs atEnd
  ({ o with nums := [r.2.1], pairs := r.2.2 }, probeOuts e r.1)

/-- Probe the deferred rows of a partition, in probe order. -/
def State.probeDeferred (s : State) (e : OpEnv) (o : OpRun) : List (List Nat) → State × Except (Nat × Nat) OpRun
  | [] => (s, .ok o)
  | l :: t =>
    let row := l.headD 0
    let key := l.tail.map (BitVec.ofNat 8)
    match s.matches e e.probeTab key (e.kind == 2) with
    | (s, .error c) => (s, .error (c, row))
    | (s, .ok m) =>
      let r := s.addProbe e o (probeOut e.kind row m)
      r.1.probeDeferred e r.2 t

/-- The spilled partitions in turn (R281): the table is emptied, the partition's build rows are inserted again, and its deferred rows
probed. -/
def State.probeParts (s : State) (e : OpEnv) (x : SpillExt) (map : Nat) (o : OpRun) : List Nat → State × Except (Nat × Nat) OpRun
  | [] => (s, .ok o)
  | p :: t =>
    let rows := e.r.spill (odTable e.d) p
    let s := s.chargeRota e.h .read rows.used
    match s.initTab e e.probeTab map with
    | (s, .error c) => (s, .error (c, 0))
    | (s, .ok _) => match s.insertAll e e.probeTab rows.rows with
      | (s, .error c) => (s, .error (c, 0))
      | (s, .ok (some row)) => (s, .error (errJoinBuildOverflow, row))
      | (s, .ok none) => match s.probeDeferred e o ((o.table.filter (fun q => q.1 == p)).map (·.2)) with
        | (s, .error c) => (s, .error c)
        | (s, .ok o) => s.probeParts e x map o t

/-- The end of a probe: the spilled partitions, then the last batches. -/
def probeFin : Fin := fun s e _ =>
  let done := fun (s : State) (o : OpRun) =>
    let r := probePack e o true
    KernOut.ok s r.1 r.2
  match e.probeSpill with
  | none => done s e.o
  | some x => match s.tget e e.probeTab.rec_ 0x18 8 with
    | (s, .error c) => KernOut.bad s e.o c 0 (odIn e.d)
    | (s, .ok map) =>
      match s.probeParts e x map e.o ((List.range (2 ^ x.log2)).filter (bit map)) with
      | (s, .error c) => KernOut.bad s e.o c.1 c.2 (odIn e.d)
      | (s, .ok o) => done s o

/-- JOIN_PROBE (R276, R277, R281). -/
def execJoinProbe (h i : Nat) (s : State) : Host.Outcome State Fault Refusal :=
  .next (colEvent 0x11 (fun e0 => keyKern (odInType e0.d) (fun s e => (s, .ok e.o)) probeRow (fun e _ o => probePack e o false))
    (fun _ => probeFin) h i s)

/-! ### GROUP_KEY (R283) -/

/-- Take an entry for the null or the NaN group. -/
def State.groupSpecial (s : State) (e : OpEnv) (row field len : Nat) : State × Except Nat Nat :=
  let j := e.jtab
  andThen (s.tget e j.rec_ field 4) (fun s at_ =>
    if at_ ≠ 0xFFFFFFFF then (s, .ok at_)
    else andThen (s.tget e j.rec_ 0 4) (fun s n =>
      if j.cap ≤ n then (s, .error errWeaveGroupOverflow)
      else
        andThen (s.tput e j.rec_ 0 (leBytes 4 (n + 1))) (fun s _ =>
        andThen (s.tput e j.rec_ (j.entAt n) (entryBytes 0 row len 0 [])) (fun s _ =>
        andThen (s.tput e j.rec_ field (leBytes 4 n)) (fun s _ => (s, .ok n))))))

/-- The group of a key: its entry's index, a new one when no equal key is present. -/
def State.groupOf (s : State) (e : OpEnv) (row : Nat) (key : Bytes) : State × Except Nat Nat :=
  let j := e.jtab
  andThen (s.matches e j key true) (fun s m => match m with
    | (_, g) :: _ => (s, .ok g)
    | [] => andThen (s.tget e j.rec_ 0 4) (fun s n =>
      if j.cap ≤ n then (s, .error errWeaveGroupOverflow)
      else andThen (s.insertKey e j row key) (fun s r => match r with
        | some g => (s, .ok g)
        | none => (s, .error errJoinBuildOverflow))))

/-- One row: its group id waits after the count of emitted rows in `nums`. -/
def groupRow (e : OpEnv) (s : State) (o : OpRun) (row : Nat) (k : KeyRow) : State × Except Nat OpRun :=
  andThen (match k with
    | .null => s.groupSpecial e row 0x20 0xFFFF
    | .nan => s.groupSpecial e row 0x24 0xFFFE
    | .key key => s.groupOf e row key) (fun s g => (s, .ok { o with nums := o.nums ++ [g] }))

/-- The rows that wait are packed. -/
def groupPack (e : OpEnv) (o : OpRun) (atEnd : Bool) : OpRun × List OutBatch :=
  let r := packRows (odRowsOut e.d) (nth o.nums 0 0) (o.nums.drop 1) atEnd
  ({ o with nums := r.2.1 :: r.2.2 }, u32Outs (odOut e.d) r.1)

/-- A batch's ids are kept for the GROUP_AGG and SEQ_GATHER operations that name this one: its ROW_BASE with its ids. -/
def groupPost (e : OpEnv) (b : Batch) (o : OpRun) : OpRun × List OutBatch :=
  let ids := o.nums.drop (o.nums.length - b.rows)
  groupPack e { o with table := o.table ++ [(b.rowBase, ids)] } false

/-- A group table starts with no row emitted. -/
def groupInit (s : State) (e : OpEnv) : State × Except Nat OpRun :=
  if e.o.stage ≠ 0 then (s, .ok e.o) else andThen (initOnce s e) (fun s o => (s, .ok { o with nums := [0] }))

/-- The end: the last group ids, and the first row of every group (R283). -/
def groupFin : Fin := fun s e _ =>
  match groupInit s e with
  | (s, .error c) => KernOut.bad s e.o c 0 (odIn e.d)
  | (s, .ok o) => match andThen (s.tget e e.tabRec 0 4) (fun s n => s.entries e e.jtab n 0) with
    | (s, .error c) => KernOut.bad s e.o c 0 (odIn e.d)
    | (s, .ok l) =>
      let r := groupPack e o true
      let f := packRows (odRowsOut e.d) 0 (l.map (·.1)) true
      KernOut.ok s r.1 (r.2 ++ u32Outs (odImm1 e.d % 2 ^ 16) f.1)

/-- GROUP_KEY (R283). -/
def execGroupKey (h i : Nat) (s : State) : Host.Outcome State Fault Refusal :=
  .next (colEvent 0x12 (fun e0 => keyKern (odInType e0.d) groupInit groupRow groupPost) (fun _ => groupFin) h i s)

/-! ### GROUP_AGG and SEQ_GATHER -/

/-- The GROUP_KEY that KEY_OP names. -/
def OpEnv.keyOp (e : OpEnv) : Option OpRun := e.c.op? (opKey .weave (odImm1 e.d % 2 ^ 16))

/-- Its batch of number `n` has its ids; the last batch of the values also needs every group known. -/
def OpEnv.idsReady (e : OpEnv) : Bool :=
  match e.keyOp with
  | none => false
  | some k => match e.c.front (odIn e.d) e.o.key with
    | .wait => true
    | .ended => decide (2 ≤ k.stage)
    | .got _ x => (x.bare || decide (x.no < k.table.length)) && (!x.fin || decide (2 ≤ k.stage))

/-- The groups of the task so far: ids run from 0 in order of first appearance. -/
def groupCount (k : OpRun) : Nat := (k.table.flatMap (·.2)).foldl (fun m g => Nat.max m (g + 1)) 0

/-- The bytes of the operation's own table are of the device's choosing (notes/assumptions/52.md). -/
def State.scribble (s : State) (e : OpEnv) : State :=
  let d := s.freeBytes (roBytes e.r.bin e.tabRec)
  (d.1.tput e e.tabRec 0 d.2).1

/-- A batch of values with the ids of its rows: the batch of the GROUP_KEY with the same place must pair with it (R243, R284). -/
def valueKern (et : Nat) (f : OpEnv → State → OpRun → Nat → Nat → Option Nat → State × Except Nat OpRun) : Kern := fun s e ins _ =>
  let h := odIn e.d
  let raw := ins.headD []
  let no := match e.c.front h e.o.key with | .got _ x => x.no | _ => 0
  match s.getCol e raw et [0] with
  | (s, .error c) => KernOut.bad s e.o c (hdrRowBase raw) h
  | (s, .ok c) =>
    let k := match e.keyOp with | some k => nth k.table no (0, []) | none => (0, [])
    if k.1 ≠ c.b.rowBase || k.2.length ≠ c.b.rows then KernOut.bad s e.o errWeaveBatchMismatch c.b.rowBase h
    else
      let rows := (List.range c.b.rows).map (fun i => (nth k.2 i 0, if nth c.b.valid i false then some (c.b.elem i) else none))
      let rec go (s : State) (o : OpRun) (row : Nat) : List (Nat × Option Nat) → State × OpRun × Option (Nat × Nat)
        | [] => (s, o, none)
        | (g, v) :: t => match f e s o row g v with
          | (s, .error c) => (s, o, some (c, row))
          | (s, .ok o) => go s o (row + 1) t
      match go s e.o c.b.rowBase rows with
      | (s, o, some p) => KernOut.bad s o p.1 p.2 h
      | (s, o, none) =>
        if c.b.nullsBad then KernOut.bad s o errWeaveNullCountMismatch c.b.rowBase h else KernOut.ok (s.scribble e) o []

/-- The numbers an operation keeps for group `g`. -/
def OpRun.of (o : OpRun) (g : Nat) : List Nat := sparseGet [] o.table g

def OpRun.put (o : OpRun) (g : Nat) (v : List Nat) : OpRun := { o with table := sparseSet [] o.table g v }

def aggFunc (d : Bytes) : Nat := odImm0 d % 8

/-- The type a function gives (Table 8-5). -/
def aggType (func et : Nat) : Nat :=
  if func = 0 then 0x09
  else if func = 1 then (if isFloat et then 0x0D else if isSigned et then 0x05 else 0x09)
  else if func = 4 then 0x0D
  else et

/-- An integer sum passes the ends of its type (R284). -/
def sumWraps (et a v : Nat) : Bool :=
  if isSigned et then
    let t := toSigned 64 a + toSigned 64 v
    decide (t < -(2 ^ 63 : Nat) ∨ ((2 ^ 63 : Nat) : Int) ≤ t)
  else decide (2 ^ 64 ≤ a + v)

/-- A value row of a group: its accumulator holds how many rows it used, s, c, the infinity flags, and the extreme's pattern. -/
def aggRow (e : OpEnv) (s : State) (o : OpRun) (_row g : Nat) (v : Option Nat) : State × Except Nat OpRun :=
  let et := odInType e.d
  match v with
  | none => (s, .ok o)
  | some p =>
    let x := colVal et p
    if x.isNan then (s, .ok o)
    else
      let a := o.of g
      let n := nth a 0 0
      let func := aggFunc e.d
      let w := x.pattern
      if func = 1 ∧ isInt et = true then
        let t := nth a 1 0
        (if sumWraps et t w then s.vcount e.t vWeaveTAggWrapCnt 1 else s, .ok (o.put g [n + 1, (t + w) % 2 ^ 64]))
      else if func = 1 ∨ func = 4 then
        let acc : Acc := { s := nth a 1 0, c := nth a 2 0 }
        match f64.decode x.toF64 with
        | .inf neg => (s, .ok (o.put g [n + 1, acc.s, acc.c, if neg then nth a 3 0 else 1, if neg then 1 else nth a 4 0]))
        | _ =>
          let b := acc.step x.toF64
          (s, .ok (o.put g [n + 1, b.s, b.c, nth a 3 0, nth a 4 0]))
      else
        let key := fun q => statKey et (colVal et q).pattern
        let old := nth a 5 0
        let better := n == 0 || (if func = 2 then decide (key p < key old) else func == 3 && decide (key old < key p))
        (s, .ok (o.put g [n + 1, 0, 0, 0, 0, if better then p else old]))

/-- The value of a group (Table 8-5). -/
def aggOut (func et : Nat) (a : List Nat) : Option Nat :=
  let n := nth a 0 0
  let sum := if nth a 3 0 = 1 ∧ nth a 4 0 = 1 then f64.qnan else if nth a 3 0 = 1 then f64.infBits false
    else if nth a 4 0 = 1 then f64.infBits true else f64.add (nth a 1 0) (nth a 2 0)
  if func = 0 then some n
  else if func = 1 then some (if isInt et then nth a 1 0 else sum)
  else if n = 0 then none
  else if func = 4 then some (f64.div sum (f64.round (fvInt n)))
  else some (nth a 5 0)

/-- The end: one row per group, in group id order (R284). -/
def aggFin : Fin := fun s e _ =>
  let groups := match e.keyOp with | some k => groupCount k | none => 0
  let et := odInType e.d
  let rows := (List.range groups).map (fun g => aggOut (aggFunc e.d) et (e.o.of g))
  let r := packRows (odRowsOut e.d) 0 rows true
  KernOut.ok s e.o (r.1.map (fun p => { hoop := odOut e.d, data := fixedBatch (aggType (aggFunc e.d) et) p.1 p.2.1, fin := p.2.2 }))

/-- An event of an operation that takes its group ids from a GROUP_KEY; it waits until they are there. -/
def idEvent (opcode : Nat) (kern : OpEnv → Kern) (fin : Fin) (h i : Nat) (s : State) : State :=
  match s.opEnv h .weave i with
  | none => s
  | some e => if e.o.outQ.length = 0 && !e.idsReady then s else colEvent opcode kern (fun _ => fin) h i s

/-- GROUP_AGG (R284). -/
def execGroupAgg (h i : Nat) (s : State) : Host.Outcome State Fault Refusal :=
  .next (idEvent 0x13 (fun e0 => valueKern (odInType e0.d) aggRow) aggFin h i s)

def seqKeepLast (d : Bytes) : Bool := bit (odImm0 d) 0
def seqMaxLen (d : Bytes) : Nat := odImm1 d / 2 ^ 32

/-- A value of a group's sequence: 0 for null, else the pattern and 1 (R285). `nums` holds how many values are kept. -/
def seqRow (e : OpEnv) (s : State) (o : OpRun) (_row g : Nat) (v : Option Nat) : State × Except Nat OpRun :=
  let code := match v with | some p => p + 1 | none => 0
  let l := o.of g
  let kept := nth o.nums 0 0
  if l.length < seqMaxLen e.d then
    if odN e.d ≤ kept then (s, .error errWeaveSeqOverflow)
    else (s, .ok { (o.put g (l ++ [code])) with nums := [kept + 1] })
  else
    let s := s.vcount e.t vWeaveTSeqTruncCnt 1
    (s, .ok (if seqKeepLast e.d then o.put g (l.drop 1 ++ [code]) else o))

/-- The end: every kept value, and one length per group (R285). -/
def seqFin : Fin := fun s e _ =>
  let groups := match e.keyOp with | some k => groupCount k | none => 0
  let seqs := (List.range groups).map (fun g => e.o.of g)
  let vals := (seqs.flatten).map (fun c => if c = 0 then none else some (c - 1))
  let r := packRows (odRowsOut e.d) 0 vals true
  let n := packRows (odRowsOut e.d) 0 (seqs.map List.length) true
  KernOut.ok s e.o (r.1.map (fun p => { hoop := odOut e.d, data := fixedBatch (odInType e.d) p.1 p.2.1, fin := p.2.2 })
    ++ u32Outs (odImm1 e.d / 2 ^ 16 % 2 ^ 16) n.1)

/-- SEQ_GATHER (R285). -/
def execSeqGather (h i : Nat) (s : State) : Host.Outcome State Fault Refusal :=
  .next (idEvent 0x14 (fun e0 => valueKern (odInType e0.d) seqRow) seqFin h i s)

end Sys2Proof.Machine
end

