-- ==== Sys2Proof/Machine/Quotient.lean ====
section
/-! DEFINITION. The Quotient unit (spec/09): element functions with forwarding (R303 to R308), small SPD solves (R309, R310) and parameter
entries from statistics records (R311). -/

namespace Sys2Proof.Machine

/-! ### Descriptors (Tables 9-1 and 9-3) -/

def qdInst (d : Bytes) : Nat := fieldAt d 3 1
def qdFunc (d : Bytes) : Nat := fieldAt d 4 1
def qdF64 (d : Bytes) : Bool := fieldAt d 5 1 == 1
def qdSrcA (d : Bytes) : Nat := fieldAt d 6 1
def qdSrcB (d : Bytes) : Nat := fieldAt d 7 1
def qdIn (d : Bytes) : Nat := fieldAt d 8 2
def qdIn2 (d : Bytes) : Nat := fieldAt d 0xA 2
def qdOut (d : Bytes) : Nat := fieldAt d 0xC 2
def qdFwdA (d : Bytes) : Nat := fieldAt d 0xE 2
def qdFwdB (d : Bytes) : Nat := fieldAt d 0x10 2
def qdN (d : Bytes) : Nat := fieldAt d 0x12 1
def qdRhs (d : Bytes) : Nat := fieldAt d 0x13 1
def qdExpert (d : Bytes) : Nat := fieldAt d 0x14 4
def qdImmA (d : Bytes) : Nat := fieldAt d 0x18 8
def qdImmB (d : Bytes) : Nat := fieldAt d 0x20 8

/-- The format of FORMAT, its element type, and its element size. -/
def qdFmt (d : Bytes) : Fmt := if qdF64 d then f64 else f32
def qdType (d : Bytes) : Nat := if qdF64 d then 0x0D else 0x0C

/-- The Quotient unit that runs an operation (Table 6-3). -/
def OpEnv.quotient (e : OpEnv) : Agent :=
  let g := e.r.phys e.c.course 3 (qdInst e.d)
  { cls := 3, inst := g, req := 0x70 + g }

/-- The operation's first input, which every fault names (R316). -/
def qdFirst (d : Bytes) : Nat := if qdIn d ≠ 0xFFFF then qdIn d else qdIn2 d

/-! ### Cause NaNs (R306, Table 9-4) -/

/-- The cause NaN of cause `c` and detail `d`. -/
def causeNan (f64fmt : Bool) (c d : Nat) : Nat := if f64fmt then 0x7FFEA00000000000 + c * 2 ^ 37 + d * 2 ^ 29 else 0x7FF50000 + c * 2 ^ 8 + d

/-- A Quotient NaN. -/
def isQuo (f64fmt : Bool) (v : Nat) : Bool := if f64fmt then v / 2 ^ 45 == 0x7FFEA00000000000 / 2 ^ 45 else v / 2 ^ 16 == 0x7FF5

/-- The counter of a cause (Table 9-8). -/
def causeReg (c : Nat) : Nat := vQuoTNanInputCnt + 4 * (c - 1)

/-- The counters element functions and solves add to. -/
def quoRegs : List Nat := [vQuoTNanInputCnt, vQuoTZeroVarCnt, vQuoTPivotCnt, vQuoTNegSqrtCnt, vQuoTInvalidCnt, vQuoTEmptyCnt, vQuoTNonfiniteCnt,
  vQuoTDivzeroCnt, vQuoTSolveCnt]

/-! ### Element functions (R304, R307, R314) -/

/-- 1/√x to more than `p` bits with a sticky bit: ±0 gives ±∞, +∞ gives +0. -/
def FV.rsqrt (p : Nat) : FV → FV
  | .nan => .nan
  | .inf n => if n then .nan else .fin false 0 0
  | .fin n m e =>
    if m = 0 then .inf n
    else if n then .nan
    else
      let m := if e % 2 = 0 then m else 2 * m
      let e := if e % 2 = 0 then e else e - 1
      let k := p + 3 + Nat.log2 m
      let r := isqrt (2 ^ (2 * k) / m)
      .fin false (2 * r + (if r * r * m = 2 ^ (2 * k) then 0 else 1)) (-(e / 2) - (k : Int) - 1)

/-- A value below -0. -/
def FV.belowZero (v : FV) : Bool := v.sign && !v.isZero && !v.isNan

/-- The IEEE 754 result of a function on operands that are not NaN, with the registers it counts in. -/
def quoIeee (wide : Bool) (func a b : Nat) : Nat × List Nat :=
  let f := if wide then f64 else f32
  let x := f.decode a
  let y := f.decode b
  let num := if func = 2 then FV.fin false 1 0 else x
  let den := if func = 2 then x else y
  if func = 1 ∨ func = 2 then
    if (num.isZero && den.isZero) || (!num.isFinite && !den.isFinite) then (causeNan wide 5 0, [causeReg 5])
    else (f.round (FV.div (f.m + 1) num den), if den.isZero && num.isFinite then [vQuoTDivzeroCnt] else [])
  else if x.belowZero then (causeNan wide 4 0, [causeReg 4])
  else if func = 3 then (f.round (FV.sqrt (f.m + 1) x), [])
  else (f.round (FV.rsqrt (f.m + 1) x), [])

/-- A function on its operands: a Quotient NaN passes, any other NaN gives NAN_INPUT (R307). `b` is none for a function of one operand. -/
def quoFn (wide : Bool) (func a : Nat) (b : Option Nat) : Nat × List Nat :=
  let f := if wide then f64 else f32
  let ops := a :: b.toList
  match ops.find? (isQuo wide) with
  | some v => (v, [])
  | none => if ops.any (fun v => (f.decode v).isNan) then (causeNan wide 1 0, [causeReg 1]) else quoIeee wide func a (b.getD 0)

/-! ### Batches of element functions (R303) -/

/-- A value of an input type in FORMAT, exactly. -/
def quoIn (wide : Bool) (t v : Nat) : Nat := if wide then f64Of t v else f32Of t v

/-- A batch an element function takes: its header is right, LAYOUT 0, and its type allowed (Table 9-7). -/
def quoBatch (wide : Bool) (raw : Bytes) : Option Batch :=
  match parseBatch raw with
  | none => none
  | some b =>
    if b.layout = 0 && (b.etype == 0x0A || b.etype == 0x0B || b.etype == 0x0C || (wide && b.etype == 0x0D)) then some b else none

/-- The rows of an operand: ROW_BASE and the values, null as none. -/
structure Operand where
  rowBase : Nat
  rows : List (Option Nat)
  deriving DecidableEq, Repr

def Batch.operand (b : Batch) (wide : Bool) : Operand :=
  { rowBase := b.rowBase, rows := (List.range b.rows).map (fun i => if nth b.valid i false then some (quoIn wide b.etype (b.elem i)) else none) }

/-- What a producer holds for those it forwards to: the batch's number, its ROW_BASE, whether it is the last, whether it carries rows at all,
and its rows. -/
def packFwd (o : Operand) (last bare : Bool) : List Nat :=
  o.rowBase :: ofBool last :: ofBool bare :: o.rows.map (fun v => match v with | some x => x + 1 | none => 0)

def unpackFwd (l : List Nat) : Operand := { rowBase := nth l 0 0, rows := (l.drop 3).map (fun v => if v = 0 then none else some (v - 1)) }

/-- The forwarded batch of number `k` of operation `q`. -/
def CourseRun.fwd? (c : CourseRun) (q k : Nat) : Option (List Nat) :=
  match c.op? (opKey .quotient q) with
  | none => none
  | some o => match o.table.find? (fun p => p.1 == k) with
    | some p => some p.2
    | none => none

/-- The operations that take the result of operation `i` by forwarding. -/
def OpEnv.takers (e : OpEnv) : List Nat :=
  (courseOps e.r.bin .quotient e.c.course).filter (fun q =>
    let d := opRec e.r.bin .quotient q
    (qdSrcA d == 1 && qdFwdA d == e.i) || (qdSrcB d == 1 && qdFwdB d == e.i))

/-- The batches an operation has taken. -/
def OpRun.taken (o : OpRun) : Nat := nth o.nums 0 0

/-- Every taker has taken the batches before: forwarding holds no element beyond the pipeline (R305). -/
def OpEnv.takersReady (e : OpEnv) : Bool :=
  e.takers.all (fun q => match e.c.op? (opKey .quotient q) with | some o => decide (e.o.taken ≤ o.taken) | none => true)

/-- The operations forwarded from. -/
def qdFwds (d : Bytes) : List Nat := (if qdSrcA d = 1 then [qdFwdA d] else []) ++ (if qdSrcB d = 1 then [qdFwdB d] else [])

/-- The input hoops. -/
def qdHoops (d : Bytes) : List Nat := (if qdSrcA d = 0 then [qdIn d] else []) ++ (if qdSrcB d = 0 then [qdIn2 d] else [])

/-- An operand of a batch: from the hoop batches in order, forwarded, or the immediate repeated. -/
def quoOperand (src imm : Nat) (hoop fwd : Option Operand) (rows : Nat) : Option Operand :=
  if src = 0 then hoop else if src = 1 then fwd else if src = 2 then some { rowBase := 0, rows := List.replicate rows (some imm) } else none

/-- Compute an output batch. -/
def quoRows (wide : Bool) (func : Nat) (a b : Option Operand) : List (Option Nat × List Nat) :=
  let n := match a with | some x => x.rows.length | none => 0
  (List.range n).map (fun i =>
    let x := match a with | some o => nth o.rows i none | none => none
    match x, b with
    | none, _ => (none, [])
    | some v, none => let r := quoFn wide func v none; (some r.1, r.2)
    | some v, some o => match nth o.rows i none with
      | none => (none, [])
      | some w => let r := quoFn wide func v (some w); (some r.1, r.2))

/-- One event of an element function. -/
def State.quoElement (s : State) (e : OpEnv) : State :=
  let a := e.quotient
  let d := e.d
  let wide := qdF64 d
  let k := e.o.taken
  let fwds := (qdFwds d).map (fun q => e.c.fwd? q k)
  if e.o.outQ.length ≠ 0 then s.flushAll e a
  else if 2 ≤ e.o.stage || !e.takersReady || fwds.any Option.isNone then s
  else
    let fs := fwds.filterMap id
    let bareF := fs.any (fun l => nth l 2 0 == 1)
    let lastF := fs.any (fun l => nth l 1 0 == 1)
    let finish := fun (s : State) (l : List (Hoop × Slot)) (o : Operand) (last bare : Bool) =>
      let out := if qdOut d = 0xFFFF then []
        else [{ hoop := qdOut d, data := if bare then [] else fixedBatch (qdType d) o.rowBase o.rows, fin := last : OutBatch }]
      (KernOut.ok s { e.o with nums := [k + 1], table := [(k, packFwd o last bare)] } out).settle e a l (if last then 2 else 1)
    match e.c.inputs e.o.key (qdHoops d) with
    | .wait => s
    | .ended => s
    | .got l =>
      if (l.length ≠ 0 && l.all (fun p => p.2.bare)) || bareF || (l.length = 0 && fs.length = 0) then
        finish s l { rowBase := 0, rows := [] } true true
      else match s.readInputs e.r l with
        | (s, .error c) => s.opFault e a { code := c.1, elem := 0, hoop := c.2 }
        | (s, .ok bs) =>
          let hs := bs.map (quoBatch wide)
          let bad := fun (code : Nat) (elem : Nat) => s.opFault e a { code := code, elem := elem, hoop := qdFirst d }
          match (List.range bs.length).find? (fun i => (nth hs i none).isNone) with
          | some i => bad errQuoBatchInvalid (hdrRowBase (nth bs i []))
          | none =>
            let ops := hs.filterMap (fun b => b.map (fun x => x.operand wide))
            let fops := fs.map unpackFwd
            let hA := if qdSrcA d = 0 then ops[0]? else none
            let hB := if qdSrcB d = 0 then (if qdSrcA d = 0 then ops[1]? else ops[0]?) else none
            let fA := if qdSrcA d = 1 then fops[0]? else none
            let fB := if qdSrcB d = 1 then (if qdSrcA d = 1 then fops[1]? else fops[0]?) else none
            let all := ops ++ fops
            let base := match all with | o :: _ => o.rowBase | [] => 0
            let n := match all with | o :: _ => o.rows.length | [] => 0
            if all.any (fun o => decide (o.rows.length ≠ n) || decide (o.rowBase ≠ base)) then
              bad errQuoBatchMismatch (match all with | _ :: o :: _ => o.rowBase | _ => base)
            else
              let rs := quoRows wide (qdFunc d) (quoOperand (qdSrcA d) (qdImmA d) hA fA n) (quoOperand (qdSrcB d) (qdImmB d) hB fB n)
              finish (s.tally e.t quoRegs (rs.flatMap (·.2))) l { rowBase := base, rows := rs.map (·.1) }
                (l.any (fun p => p.2.fin) || lastF) false

/-- The event of an element function. -/
def quoEvent (func : Nat) (h i : Nat) (s : State) : Host.Outcome State Fault Refusal :=
  match s.opEnv h .quotient i with
  | none => .next s
  | some e => if qdFunc e.d = func then .next (s.quoElement e) else .next s

/-- DIV (R304). -/
def execDiv (h i : Nat) (s : State) : Host.Outcome State Fault Refusal := quoEvent 0x01 h i s

/-- RECIP (R304). -/
def execRecip (h i : Nat) (s : State) : Host.Outcome State Fault Refusal := quoEvent 0x02 h i s

/-- SQRT (R304). -/
def execSqrt (h i : Nat) (s : State) : Host.Outcome State Fault Refusal := quoEvent 0x03 h i s

/-- RSQRT (R304). -/
def execRsqrt (h i : Nat) (s : State) : Host.Outcome State Fault Refusal := quoEvent 0x04 h i s

/-! ### SOLVE_SPD (R309, R310) -/

/-- s minus the products of two lists, each operation rounded. -/
def subProds (f : Fmt) (s : Nat) (a b : List Nat) : Nat := (a.zip b).foldl (fun s p => f.sub s (f.mul p.1 p.2)) s

/-- Element (i, k) of a lower triangle held row by row. -/
def triAt (l : List Nat) (i k : Nat) : Nat := nth l (i * (i + 1) / 2 + k) 0

/-- The first `n` elements of row `i` of the factor, held as rows. -/
def rowOf (l : List (List Nat)) (i n : Nat) : List Nat := (nth l i []).take n

/-- Column `j` of the factor below its pivot: row `i`'s element. -/
def factorCol (f : Fmt) (a : List Nat) (l : List (List Nat)) (j piv i : Nat) : Nat :=
  f.div (subProds f (triAt a i j) (rowOf l i j) (rowOf l j j)) piv

/-- The factor of R310, column by column: the rows so far, or the column whose pivot fails. -/
def factor (f : Fmt) (a : List Nat) (n : Nat) : Nat → Nat → List (List Nat) → Except Nat (List (List Nat))
  | 0, _, l => .ok l
  | fuel + 1, j, l =>
    let s := subProds f (triAt a j j) (rowOf l j j) (rowOf l j j)
    if !(FV.fin false 0 0).lt (f.decode s) then .error j
    else
      let piv := f.sqrt s
      factor f a n fuel (j + 1) ((List.range n).map (fun i =>
        if i < j then nth l i [] else if i = j then nth l i [] ++ [piv] else nth l i [] ++ [factorCol f a l j piv i]))

/-- Forward substitution: y in ascending i. -/
def forwardSub (f : Fmt) (l : List (List Nat)) (b : List Nat) : List Nat :=
  (List.range b.length).foldl (fun y i => y ++ [f.div (subProds f (nth b i 0) (rowOf l i i) y) (nth (nth l i []) i 0)]) []

/-- Backward substitution: x[i] for i from `k` - 1 down; `x` holds those from `k` on. -/
def backSub (f : Fmt) (l : List (List Nat)) (n : Nat) (y : List Nat) : Nat → List Nat → List Nat
  | 0, x => x
  | k + 1, x =>
    let col := ((List.range n).drop (k + 1)).map (fun i => nth (nth l i []) k 0)
    backSub f l n y k (f.div (subProds f (nth y k 0) col x) (nth (nth l k []) k 0) :: x)

/-- Solve a row (R310): the output list and the registers it counts in. -/
def solveRow (wide : Bool) (n m : Nat) (v : List Nat) : List Nat × List Nat :=
  let f := if wide then f64 else f32
  let all := fun x => List.replicate (n * m) x
  match v.find? (isQuo wide) with
  | some x => (all x, [])
  | none =>
    if v.any (fun x => (f.decode x).isNan) then (all (causeNan wide 1 0), [causeReg 1])
    else if v.any (fun x => !(f.decode x).isFinite) then (all (causeNan wide 7 0), [causeReg 7])
    else
      let tri := n * (n + 1) / 2
      match factor f (v.take tri) n n 0 (List.replicate n []) with
      | .error j => (all (causeNan wide 3 j), [causeReg 3])
      | .ok l => ((List.range m).flatMap (fun r =>
          let b := slice' (v.drop tri) (r * n) n
          backSub f l n (forwardSub f l b) n []), [vQuoTSolveCnt])
where
  slice' (l : List Nat) (o k : Nat) : List Nat := (l.drop o).take k

/-- SOLVE_SPD on a batch. -/
def solveKern : Kern := fun s e ins last =>
  let wide := qdF64 e.d
  let n := qdN e.d
  let m := qdRhs e.d
  let raw := ins.headD []
  let h := qdFirst e.d
  match parseBatch raw with
  | none => KernOut.bad s e.o errQuoBatchInvalid (hdrRowBase raw) h
  | some b =>
    if b.layout ≠ 4 || b.etype ≠ qdType e.d then KernOut.bad s e.o errQuoBatchInvalid b.rowBase h
    else
      let badRow := (List.range b.rows).find? (fun i => nth b.valid i false &&
        (decide (nth b.offs (i + 1) 0 ≠ nth b.offs i 0 + (n * (n + 1) / 2 + n * m)) || decide (b.values.length < nth b.offs (i + 1) 0 * b.unit)))
      let rows := (List.range (badRow.getD b.rows)).map (fun i =>
        if nth b.valid i false then let r := solveRow wide n m (b.list i); ((true, r.1), r.2) else ((false, List.replicate (n * m) 0), []))
      let s := s.tally e.t quoRegs (rows.flatMap (·.2))
      match badRow with
      | some i => KernOut.bad s e.o errQuoShapeMismatch (b.rowBase + i) h
      | none => KernOut.ok s e.o [{ hoop := qdOut e.d, data := listBatch (qdType e.d) b.rowBase (rows.map (·.1)), fin := last }]

/-- SOLVE_SPD (R309, R310). -/
def execSolveSpd (h i : Nat) (s : State) : Host.Outcome State Fault Refusal :=
  match s.opEnv h .quotient i with
  | none => .next s
  | some e => if qdFunc e.d = 5 then .next (s.runOp e e.quotient [qdIn e.d] solveKern (endAlone [qdOut e.d])) else .next s

/-! ### ZPARAM and MMPARAM (R311) -/

/-- f32() of an f64: rounded, NaNs narrowed by R245, Quotient NaNs kept (R306). -/
def narrow32 (v : Nat) : Nat := match nanOf 0x0D v with | some n => f32.nanBits true n | none => f32.round (f64.decode v)

/-- A bound of a record as an f64. -/
def boundF64 (flags v : Nat) : Nat :=
  if bit flags 4 then f64.round (fvInt (if bit flags 5 then (v : Int) else toSigned 64 v)) else v

/-- The entry of a record: a, b and the registers it counts in. -/
def paramEntry (zparam : Bool) (zv : Option Nat) (r : Bytes) : Nat × Nat × List Nat :=
  let flags := fieldAt r 5 1
  let count := fieldAt r 0x18 8
  let sub := match zv with | some v => v | none => causeNan false 2 0
  if count = 0 then (causeNan false 6 0, causeNan false 6 0, [causeReg 6])
  else if bit flags 0 || bit flags 1 || bit flags 3 then (causeNan false 7 0, causeNan false 7 0, [causeReg 7])
  else if zparam then
    let n := f64.round (fvInt count)
    let mean := f64.div (fieldAt r 0x40 8) n
    let var := f64.sub (f64.div (fieldAt r 0x48 8) n) (f64.mul mean mean)
    if (FV.fin false 0 0).lt (f64.decode var) then
      (narrow32 mean, narrow32 (f64.round (FV.rsqrt 53 (f64.decode var))), [])
    else (narrow32 mean, sub, [causeReg 2])
  else
    let lo := boundF64 flags (fieldAt r 0x30 8)
    let d := f64.sub (boundF64 flags (fieldAt r 0x38 8)) lo
    if (FV.fin false 0 0).lt (f64.decode d) then (narrow32 lo, narrow32 (f64.div (f64.round (fvInt 1)) d), [])
    else (narrow32 lo, sub, [causeReg 2])

/-- `n` records of 128 B. -/
def records (z : Nat) : Nat → Bytes → List Bytes
  | 0, _ => []
  | n + 1, b => b.take z :: records z n (b.drop z)

/-- ZPARAM or MMPARAM on a slot of records; `nums` counts the records of the task. -/
def entriesKern (zparam : Bool) : Kern := fun s e ins last =>
  let raw := ins.headD []
  let n0 := nth e.o.nums 0 0
  if raw.length % 128 ≠ 0 then KernOut.bad s e.o errQuoBatchInvalid n0 (qdFirst e.d)
  else
    let x := expertExt e.r.bin (qdExpert e.d) 16
    let zv := if fieldAt x 0 1 = 1 then some (fieldAt x 4 4) else none
    let rs := (records 128 (raw.length / 128) raw).map (paramEntry zparam zv)
    KernOut.ok (s.tally e.t quoRegs (rs.flatMap (·.2.2))) { e.o with nums := [n0 + rs.length] }
      [{ hoop := qdOut e.d, data := (rs.map (fun r => leBytes 4 r.1 ++ leBytes 4 r.2.1)).flatten, fin := last }]

/-- The event of ZPARAM or MMPARAM. -/
def entriesEvent (func : Nat) (h i : Nat) (s : State) : Host.Outcome State Fault Refusal :=
  match s.opEnv h .quotient i with
  | none => .next s
  | some e => if qdFunc e.d = func then .next (s.runOp e e.quotient [qdIn e.d] (entriesKern (func == 6)) (endAlone [qdOut e.d])) else .next s

/-- ZPARAM (R311). -/
def execZparam (h i : Nat) (s : State) : Host.Outcome State Fault Refusal := entriesEvent 6 h i s

/-- MMPARAM (R311). -/
def execMmparam (h i : Nat) (s : State) : Host.Outcome State Fault Refusal := entriesEvent 7 h i s

end Sys2Proof.Machine
end

