-- ==== Sys2Proof/Machine/Select.lean ====
section
/-! DEFINITION. Selection and top-k (spec/10): rows cut from the value sequence (R319, R320), ranking (R321), selection (R322 to R324), sums
(R325) and result records (R326, R327). -/

namespace Sys2Proof.Machine

/-! ### Descriptor (Tables 10-1 and 10-3) -/

def sdInst (d : Bytes) : Nat := fieldAt d 3 1
def sdMode (d : Bytes) : Nat := fieldAt d 4 1
def sdOrder (d : Bytes) : Nat := fieldAt d 5 1
def sdType (d : Bytes) : Nat := fieldAt d 7 1
def sdIn (d : Bytes) : Nat := fieldAt d 8 2
def sdLen (d : Bytes) : Nat := fieldAt d 0xA 2
def sdOut (d : Bytes) : Nat := fieldAt d 0xC 2
def sdK (d : Bytes) : Nat := fieldAt d 0x10 4
def sdRowLen (d : Bytes) : Nat := fieldAt d 0x14 4
def sdRowMax (d : Bytes) : Nat := fieldAt d 0x18 4
def sdExpert (d : Bytes) : Nat := fieldAt d 0x1C 4
def sdFill (d : Bytes) : Nat := fieldAt d 0x20 8
def sdBufOff (d : Bytes) : Nat := fieldAt d 0x28 8

def OpEnv.nanKeep (e : OpEnv) : Bool := fieldAt (expertExt e.r.bin (sdExpert e.d) 16) 0 1 == 1

/-- The Select unit that runs an operation (Table 6-3). -/
def OpEnv.select (e : OpEnv) : Agent :=
  let u := e.r.phys e.c.course 4 (sdInst e.d)
  { cls := 4, inst := u, req := 0x80 + u }

/-! ### Rank (R321) -/

/-- An element that takes part: its index in the row, its bits and its value. -/
structure Cand where
  i : Nat
  bits : Nat
  v : CVal
  deriving DecidableEq, Repr

/-- How two values compare; a NaN is below every number under both orders, and two NaNs are equal. -/
def better (order : Nat) (a b : CVal) : Bool :=
  match a, b with
  | .int x, .int y => if order = 0 then decide (y < x) else decide (x < y)
  | .flt x, .flt y =>
    let p := f64.decode x
    let q := f64.decode y
    if p.isNan then false else if q.isNan then true
    else if order = 0 then q.lt p else p.lt q
  | _, _ => false

def before (order : Nat) (a b : Cand) : Bool :=
  better order a.v b.v || (!better order b.v a.v && decide (a.i < b.i))

/-- Insert at its rank. -/
def rankInsert (order : Nat) (x : Cand) : List Cand → List Cand
  | [] => [x]
  | a :: t => if before order x a then x :: a :: t else a :: rankInsert order x t

/-- The selected entries (R322). -/
def selectTop (order k : Nat) (l : List Cand) : List Cand := l.foldl (fun sel x => (rankInsert order x sel).take k) []

/-! ### The record of a row (R323 to R326) -/

/-- The elements of a row that take part, before NaNs are dropped: (valid, bits) pairs with their indices. -/
def candidates (t : Nat) (row : List (Nat × Nat)) : List Cand :=
  (List.range row.length).filterMap (fun i => let p := nth row i (0, 0); if p.1 = 0 then none else some { i := i, bits := p.2, v := colVal t p.2 })

def CVal.infSign (v : CVal) : Option Bool :=
  match v with
  | .flt x => match f64.decode x with
    | .inf n => some n
    | _ => none
  | _ => none

/-- Elements that are +∞ (`neg` false) or -∞. -/
def countInf (neg : Bool) (l : List Cand) : Nat := (l.filter (fun x => x.v.infSign == some neg)).length

/-- finish of R325. -/
def Acc.finish (a : Acc) (p q : Bool) : Nat :=
  if p && q then f64.qnan else if p then f64.infBits false else if q then f64.infBits true else f64.add a.s a.c

/-- The sign of an f64 flipped. -/
def neg64 (v : Nat) : Nat := (v + 2 ^ 63) % 2 ^ 64

/-- The finite elements of a list. -/
def finite (l : List Cand) : List Cand := l.filter (fun x => !x.v.isNan && x.v.infSign.isNone)

/-- An array padded with zeros to a multiple of 64 B. -/
def recArray (b : Bytes) : Bytes := pad64 b

/-- REC_BYTES of a descriptor. -/
def recBytes (d : Bytes) : Nat := 64 + roundUp (sdK d * typeBytes (sdType d)) 64 + roundUp (4 * sdK d) 64

/-- The result record of row `no`, whether TIE_AT_K is set, and COUNT. -/
def selectRecord (d : Bytes) (keep : Bool) (no : Nat) (row : List (Nat × Nat)) : Bytes × Bool × Nat :=
  let t := sdType d
  let k := sdK d
  let z := typeBytes t
  let cs := candidates t row
  let nums := cs.filter (fun x => !x.v.isNan)
  let nan := cs.length - nums.length
  let part := if keep then cs else nums
  let sel := selectTop (sdOrder d) k part
  let count := sel.length
  let ties := if count = k then match sel.getLast? with
      | some x => (part.filter (fun y => !better (sdOrder d) x.v y.v && !better (sdOrder d) y.v x.v && sel.all (fun w => w.i != y.i))).length
      | none => 0
    else 0
  let all := (finite cs).foldl (fun a x => a.step x.v.toF64) Acc.zero
  let two := (finite sel).foldl (fun (a : Acc × Acc) x => (a.1.step x.v.toF64, a.2.step (neg64 x.v.toF64))) (Acc.zero, all)
  let ps := countInf false sel
  let ns := countInf true sel
  let po := countInf false cs - ps
  let no_ := countInf true cs - ns
  let flags := ofBool (ties != 0) + 2 * ofBool (ps != 0) + 4 * ofBool (ns != 0) + 8 * ofBool (po != 0) + 16 * ofBool (no_ != 0)
    + 32 * ofBool (sel.any (fun x => x.v.isNan))
  let vals := sel.map (·.bits) ++ List.replicate (k - count) (sdFill d)
  let idx := sel.map (·.i) ++ List.replicate (k - count) 0xFFFFFFFF
  let rec_ := leBytes 8 no ++ leBytes 4 row.length ++ leBytes 4 k ++ leBytes 4 count ++ leBytes 4 ties ++ leBytes 4 nan
    ++ leBytes 4 (row.filter (fun p => p.1 == 0)).length ++ leBytes 8 (two.1.finish (ps != 0) (ns != 0))
    ++ leBytes 8 (two.2.finish (po != 0) (no_ != 0)) ++ leBytes 4 (recBytes d) ++ leBytes 2 flags ++ leBytes 1 t ++ leBytes 1 (sdOrder d)
    ++ leBytes 4 64 ++ leBytes 4 (64 + roundUp (k * z) 64)
    ++ recArray ((vals.map (leBytes z)).flatten) ++ recArray ((idx.map (leBytes 4)).flatten)
  (rec_, ties != 0, count)

/-! ### Running a selection -/

/-- What a selection keeps: `nums` is the row number, the flat position of the row's first value, and the lengths read and not yet used;
`pairs` the values taken and not yet used, as (valid, bits); `rows` the records of the slot being filled. -/
def OpRun.rowNo (o : OpRun) : Nat := nth o.nums 0 0
def OpRun.flat (o : OpRun) : Nat := nth o.nums 1 0
def OpRun.lens (o : OpRun) : List Nat := o.nums.drop 2

/-- A fault of a selection names IN_HOOP (R334). -/
def State.selFault (s : State) (e : OpEnv) (code elem : Nat) : State :=
  s.opFault e e.select { code := code, elem := elem, hoop := sdIn e.d }

/-- The task's last record has been written: what waits in the slot goes out with END (R327). -/
def State.selEnd (s : State) (e : OpEnv) : State :=
  (KernOut.ok s { e.o with rows := [] } [{ hoop := sdOut e.d, data := e.o.rows.flatten, fin := true }]).settle e e.select [] 2

/-- A row of `n` elements is complete: its record joins the slot, or starts the next one (R326, R327). -/
def State.selRow (s : State) (e : OpEnv) (n : Nat) : State :=
  let d := e.d
  let row := e.o.pairs.take n
  let z := typeBytes (sdType d)
  -- MODE 3 stores the row in its buffer in the work area
  match (if sdMode d = 3 && row.length != 0 then
      s.writeRing e.r (e.r.workOff e.c.course + sdBufOff d) ((row.map (fun p => leBytes z p.2)).flatten)
    else (s, none)) with
  | (s, some c) => s.selFault e c e.o.flat
  | (s, none) =>
    let r := selectRecord d e.nanKeep e.o.rowNo row
    let s := s.vcount64 e.t vSelTRows 1
    let s := s.vcount e.t vSelTNanCnt (row.filter (fun p => p.1 != 0 && (colVal (sdType d) p.2).isNan)).length
    let s := s.vcount e.t vSelTNullCnt (row.filter (fun p => p.1 == 0)).length
    let s := s.vcount e.t vSelTTieCnt (ofBool r.2.1)
    let s := s.vcount e.t vSelTShortCnt (ofBool (decide (r.2.2 < sdK d)))
    let o := { e.o with nums := (e.o.rowNo + 1) :: (e.o.flat + row.length) :: (e.o.lens.drop 1), pairs := e.o.pairs.drop n }
    if rpSlotBytes e.r.bin (sdOut d) < (e.o.rows.length + 1) * recBytes d then
      (KernOut.ok s { o with rows := [r.1] } [{ hoop := sdOut d, data := e.o.rows.flatten, fin := false }]).settle e e.select [] 1
    else (KernOut.ok s { o with rows := e.o.rows ++ [r.1] } []).settle e e.select [] 1

/-- Take the next batch of a hoop. -/
def State.selTake (s : State) (e : OpEnv) (k : Hoop) (x : Slot) (f : Bytes → Option OpRun) : State :=
  if x.bare then (KernOut.ok s e.o []).settle e e.select [(k, x)] 1
  else match s.readInputs e.r [(k, x)] with
    | (s, .error c) => s.selFault e c.1 (e.o.flat + e.o.pairs.length)
    | (s, .ok bs) => match f (bs.headD []) with
      | none => s.selFault e errSelBatchInvalid (e.o.flat + e.o.pairs.length)
      | some o => (KernOut.ok s o []).settle e e.select [(k, x)] 1

/-- A length batch: u32 with NO_VALIDITY. -/
def lenBatch (o : OpRun) (raw : Bytes) : Option OpRun :=
  match parseBatch raw with
  | none => none
  | some b =>
    if b.layout = 0 && b.etype == 0x08 && b.noValid then
      some { o with nums := o.rowNo :: o.flat :: (o.lens ++ (List.range b.rows).map b.elem) }
    else none

/-- A value batch of the descriptor's type. -/
def valBatch (t : Nat) (o : OpRun) (raw : Bytes) : Option OpRun :=
  match parseBatch raw with
  | none => none
  | some b =>
    if b.layout = 0 && b.etype == t then
      some { o with pairs := o.pairs ++ (List.range b.rows).map (fun i => (ofBool (nth b.valid i false), b.elem i)) }
    else none

/-- One event of a selection: complete the row at hand when its values are there, else take the next batch of lengths or values. -/
def State.selStep (s : State) (e : OpEnv) : State :=
  let d := e.d
  let takeVal := fun (s : State) (k : Hoop) (x : Slot) => s.selTake e k x (valBatch (sdType d) e.o)
  if sdRowLen d ≠ 0 then
    if sdRowLen d ≤ e.o.pairs.length then s.selRow e (sdRowLen d)
    else match e.c.front (sdIn d) e.o.key with
      | .wait => s
      | .got k x => takeVal s k x
      | .ended => if e.o.pairs.length = 0 then s.selEnd e else s.selRow e e.o.pairs.length
  else match e.o.lens with
    | n :: _ =>
      if 16777216 < n || (sdMode d == 3 && decide (sdRowMax d < n)) then s.selFault e errSelRowTooLong e.o.flat
      else if n ≤ e.o.pairs.length then s.selRow e n
      else match e.c.front (sdIn d) e.o.key with
        | .wait => s
        | .got k x => takeVal s k x
        | .ended => s.selFault e errSelLengthMismatch (e.o.flat + e.o.pairs.length)
    | [] => match e.c.front (sdLen d) e.o.key with
      | .wait => s
      | .got k x => s.selTake e k x (lenBatch e.o)
      | .ended =>
        if e.o.pairs.length ≠ 0 then s.selFault e errSelLengthMismatch e.o.flat
        else match e.c.front (sdIn d) e.o.key with
          | .wait => s
          | .got k x => takeVal s k x
          | .ended => s.selEnd e

/-- SELECT_ROW (R319 to R327): operation `i` of the Select list works on its row. -/
def execSelectRow (h i : Nat) (s : State) : Host.Outcome State Fault Refusal :=
  match s.opEnv h .select i with
  | none => .next s
  | some e =>
    if e.o.outQ.length ≠ 0 then .next (s.flushAll e e.select)
    else if 2 ≤ e.o.stage then .next s
    else .next (s.selStep e)

end Sys2Proof.Machine
end

