-- ==== Sys2Proof/Machine/Beat.lean ====
section
/-! DEFINITION. The beat (spec/02): sources and their qualification (R38 to R40), number and phase (R41 to R45), measured periods (R47, R67),
and loss (R71). Times are operands: Lodge monotonic ns (`now`) and the reading of the local PTP clock in ns (`ptp`), to which the model adds the steps
it has taken (R466). -/

namespace Sys2Proof.Machine

/-! ### Time -/

/-- The local PTP time when its clock reads `ptp`. -/
def State.ptpAt (s : State) (ptp : Nat) : Nat := ((ptp : Int) + s.ptp.adj).toNat

/-- The device knows its local PTP time. -/
def State.notePtp (s : State) (ptp : Nat) : State := { s with ptp := { s.ptp with clock := s.ptpAt ptp } }

/-- The device knows both times. -/
def State.noteTimes (s : State) (now ptp : Nat) : State := { s.notePtp ptp with beat := { s.beat with now := now } }

/-! ### Values in force -/

def State.period (s : State) : Nat := s.get64 rBeatPeriodNs

/-- BEAT_MAX_PERIOD_NS, or the period when it is 0. -/
def State.maxPeriodReg (s : State) : Nat := if s.get64 rBeatMaxPeriodNs = 0 then s.period else s.get64 rBeatMaxPeriodNs

/-- The epoch as PTP ns. -/
def State.epochNs (s : State) : Nat := (s.getN rBeatEpochSec + 2 ^ 32 * (s.getN (rBeatEpochSec + 4) % 0x10000)) * 1000000000 + s.getN rBeatEpochNs

/-- A source code of Table 2-1. -/
def srcOfCode (n : Nat) : Option BeatSrc := if n = 1 then some .ptp else if n = 2 then some .beatIn else if n = 3 then some .doorbell else none

def BeatSrc.code : BeatSrc → Nat
  | .none => 0 | .ptp => 1 | .beatIn => 2 | .doorbell => 3

/-- The precedence list: a slot holding 0 ends it (R38). -/
def State.srcOrder (s : State) : List BeatSrc :=
  let w := s.getN rBeatSrcOrder
  (([bits w 3 0, bits w 7 4, bits w 11 8]).takeWhile (fun n => n != 0)).filterMap srcOfCode

/-- The declared maximum period of a source (R46). -/
def State.maxPeriod (s : State) (src : BeatSrc) : Nat := if src = .ptp then s.period else s.maxPeriodReg

/-- The source that decides the loss threshold: the active one, or the first of the list while none is (notes/assumptions/31.md). -/
def State.thresholdSrc (s : State) : BeatSrc := if s.beat.src = .none then (s.srcOrder.head?).getD .ptp else s.beat.src

/-- 1.5 times the declared maximum period (Table 2-5), the first whole ns at or past it. -/
def State.lossThreshold (s : State) : Nat := ceilDiv (3 * s.maxPeriod s.thresholdSrc) 2

/-- The host doorbell may be a source: the list names it and DOORBELL_EN is 1 (R40). -/
def State.doorbellAllowed (s : State) : Bool := s.srcOrder.contains .doorbell && bit (s.getN rBeatCtrl) 0

/-- A source is qualified at the times the device last knew (Table 2-1). Pulses arrive on BEAT_IN when the last came within the loss threshold; the
doorbell's writes come over the host link, so it is qualified only with the link up (R79; notes/assumptions/32.md). -/
def State.qualified (s : State) (src : BeatSrc) : Bool :=
  match src with
  | .none => false
  | .ptp => s.beat.ptpQual && decide (s.epochNs ≤ s.ptp.clock) && s.period != 0
  | .beatIn => s.beat.inEpoch && (match s.beat.lastPulse with
      | some p => decide (s.beat.now < p + ceilDiv (3 * s.maxPeriodReg) 2)
      | none => false)
  | .doorbell => s.beat.dbEpoch && s.doorbellAllowed && s.host.dlUp

/-- The first source of the list that is qualified (R39). -/
def State.chooseSrc (s : State) : BeatSrc := (s.srcOrder.find? s.qualified).getD .none

/-! ### Number and phase -/

/-- Beat number and phase from PTP time (R41); the time is at or after the epoch. -/
def ptpBeat (d p : Nat) : Nat × Nat := if p = 0 then (0, 0) else (d / p, d % p * 65536 / p)

/-- The phase of R44. -/
def pulsePhase (elapsed ref : Nat) : Nat := if ref = 0 then 65535 else Nat.min (elapsed * 65536 / ref) 65535

/-- BEAT_PHASE at the times the device last knew: 0 before the first boundary (R78), 65,535 while the beat is lost (R72), the value of R41 or R44
otherwise, held through a backward step (R70) and when the formula's number is not the beat taken. -/
def State.phaseNow (s : State) : Nat :=
  if !s.beat.started then 0
  else if s.beat.lost then 65535
  else if s.beat.src = .ptp then
    if s.beat.hold then s.beat.phase
    else
      let r := ptpBeat (s.ptp.clock - s.epochNs) s.period
      if r.1 = s.beat.number then r.2 else 65535
  else pulsePhase (s.beat.now - s.beat.lastBoundary) (s.beat.refInterval.getD s.period)

/-- The times a command brings, and BEAT_PHASE at them. -/
def State.tickTo (s : State) (now ptp : Nat) : State :=
  let s := s.noteTimes now ptp
  { s with beat := { s.beat with phase := s.phaseNow } }

/-! ### Events -/

/-- Set bits of BEAT_EVENT; PF0 vector 2 when a bit becomes set (Table 17-5). -/
def State.beatEvent (s : State) (b : Nat) : State :=
  let was := bit (s.getN rBeatEvent) b
  let s := s.raise rBeatEvent (2 ^ b)
  if was then s else s.msg 0 2

/-- BEAT_TOO_SHORT at the boundary that ends a beat shorter than the shortest admitted minimum less the tolerance (R67). -/
def State.checkShort (s : State) (meas : Nat) : State :=
  if s.rotas.isEmpty || decide (s.minAdmitted ≤ meas + s.getN rBeatShortTolNs) then s
  else ((s.beatEvent 0).count rBeatShortCnt 1).logEvent errBeatTooShort noTenant 0 s.beat.number meas

/-- The last 64 boundaries with their PTP times, newest first (spec/14, capture beats). -/
def noteBoundary (l : List (Nat × Nat)) (m ptp : Nat) : List (Nat × Nat) := ((m, ptp) :: l).take 64

/-- The beat number of the next boundary replaces the last one: `k` numbers between them are skipped, added to BEAT_SKIP_CNT and to the
publication beats of unpublished batches (R69, R74). -/
def State.skip (s : State) (k : Nat) : State := (s.count rBeatSkipCnt k).shift k

/-- A Rota's resources are freed (R108). -/
def State.freeRota (s : State) (r : Rota) : State :=
  { (s.clearStakes r.pairs) with rotas := (s.clearStakes r.pairs).rotas.filter (fun x => x.handle != r.handle) }

/-- At a boundary, a retiring Rota with no task left and no Coil request is freed (R108). -/
def State.freesAt (s : State) : State :=
  s.rotas.foldl (fun s r =>
    if r.retiring && r.course.isNone && (s.tasks.all (fun x => x.handle != r.handle))
      && s.coilReqs.all (fun q => q.handle != r.handle) then s.freeRota r else s) s

end Sys2Proof.Machine
end

