-- ==== Sys2Proof/Machine/Samples.lean ====
section
/-! DEFINITION. Samples (spec/14): sample records (R408, R412), SAMPLE_SPLIT and SAMPLE_MERGE (R409 to R413), and augmentation draws (R420 to
R422). -/

namespace Sys2Proof.Machine

/-! ### Descriptors (Tables 14-1 to 14-3) -/

def mdKind (d : Bytes) : Nat := fieldAt d 3 1
def mdInst (d : Bytes) : Nat := fieldAt d 4 1
def mdLanes (d : Bytes) : Nat := fieldAt d 5 1
def mdIn (d : Bytes) : Nat := fieldAt d 6 2
def mdOut (d : Bytes) : Nat := fieldAt d 8 2
def mdTable (d : Bytes) : Nat := fieldAt d 0xA 2
def mdExpert (d : Bytes) : Nat := fieldAt d 0xC 4
def mdLane (d : Bytes) (i : Nat) : Nat := fieldAt d (0x10 + 2 * i) 2

/-- OPTION of the expert extension. -/
def mdOption (b d : Bytes) : Nat := fieldAt (expertExt b (mdExpert d) 16) 0 1

/-- The Weave engine of a split, a merge or a draw. -/
def OpEnv.sampleWeave (e : OpEnv) : Agent :=
  let g := e.r.phys e.c.course 1 (mdInst e.d)
  { cls := 1, inst := g, req := g }

/-! ### Sample records (Table 14-4) -/

def srSample (r : Bytes) : Nat := fieldAt r 0 8
def srIndex (r : Bytes) : Nat := fieldAt r 8 8
def srBytes (r : Bytes) : Nat := fieldAt r 0x10 4
def srStatus (r : Bytes) : Nat := fieldAt r 0x14 2
def srCause (r : Bytes) : Nat := fieldAt r 0x16 2
def srRasters (r : Bytes) : Nat := fieldAt r 0x18 2
def srAborted (r : Bytes) : Bool := bit (srStatus r) 0
def srLast (r : Bytes) : Bool := bit (srStatus r) 1

/-- A header. -/
def sampleHeader (sample index bytes status cause rasters : Nat) : Bytes :=
  leBytes 8 sample ++ leBytes 8 index ++ leBytes 4 bytes ++ leBytes 2 status ++ leBytes 2 cause ++ leBytes 2 rasters ++ List.replicate 6 0

/-- The causes an aborted record may carry: the tenant's own, and the device's (R412; notes/assumptions/54.md). -/
def causeOk (c : Nat) : Bool := decide (0x0E80 ≤ c ∧ c ≤ 0x0EFF) || c == errNetSensorAbsent || c == errTrlJobTooLarge

/-- A record at the start of `b` keeps Table 14-4 and R412, and lies within `b`. -/
def recordOk (b : Bytes) : Bool :=
  decide (32 ≤ b.length) && decide (32 ≤ srBytes b) && srBytes b % 32 == 0 && decide (srBytes b ≤ b.length) && decide (srStatus b < 4)
    && allZero (slice b 0x1A 6) && decide (32 + 64 * srRasters b ≤ srBytes b)
    && (if srAborted b then srBytes b == 32 && srRasters b == 0 && causeOk (srCause b) else srCause b == 0)

/-- The records of a slot: those up to the first that is not well-formed, and whether one is not. -/
def splitRecords : Nat → Bytes → List Bytes × Bool
  | 0, b => ([], !b.isEmpty)
  | n + 1, b =>
    if b.isEmpty then ([], false)
    else if !recordOk b then ([], true)
    else
      let r := splitRecords n (b.drop (srBytes b))
      (b.take (srBytes b) :: r.1, r.2)

/-- All the records of a slot. -/
def recordsOf (b : Bytes) : List Bytes × Bool := splitRecords (b.length / 32 + 1) b

/-- Records packed into slots of `size` in order, each whole within one slot (R408, R413). -/
def packRecords (size : Nat) : List Bytes → Bytes → List Bytes
  | [], cur => if cur.isEmpty then [] else [cur]
  | r :: t, cur => if size < cur.length + r.length ∧ !cur.isEmpty then cur :: packRecords size t r else packRecords size t (cur ++ r)

/-- Output slots of records for a hoop; with `last` the final one carries END, alone when there is no record. -/
def recordOuts (b : Bytes) (hoop : Nat) (rs : List Bytes) (last : Bool) : List OutBatch :=
  let slots := packRecords (rpSlotBytes b hoop) rs []
  let slots := if last && slots.isEmpty then [[]] else slots
  (List.range slots.length).map (fun i => { hoop := hoop, data := nth slots i [], fin := last && i + 1 == slots.length })

/-- The record of sample `n` keeps the numbering (R410). -/
def inOrder (base n : Nat) (r : Bytes) : Bool := srSample r == n && srIndex r == (base + n) % 2 ^ 64

/-! ### SAMPLE_SPLIT (R410) -/

/-- The first record out of order, counting from `n`. -/
def firstOut (base : Nat) : Nat → List Bytes → Option Nat
  | _, [] => none
  | n, r :: t => if inOrder base n r then firstOut base (n + 1) t else some n

/-- SAMPLE_SPLIT on a slot: `nums` counts the records taken before. -/
def splitKern : Kern := fun s e ins last =>
  let n0 := nth e.o.nums 0 0
  let rs := recordsOf (ins.headD [])
  let h := mdIn e.d
  match firstOut e.x.sampleBase n0 rs.1 with
  | some n => KernOut.bad s e.o errWeaveSampleOrder n h
  | none =>
    if rs.2 then KernOut.bad s e.o errWeaveSampleInvalid (n0 + rs.1.length) h
    else
      let lanes := Nat.max 1 (mdLanes e.d)
      let out := (List.range lanes).flatMap (fun k =>
        recordOuts e.r.bin (mdLane e.d k) (rs.1.filter (fun r => srSample r % lanes == k)) last)
      KernOut.ok s { e.o with nums := [n0 + rs.1.length] } out

/-- The event of an operation of the sample list that takes whole slots. -/
def sampleEvent (kind : Nat) (kern : Kern) (outs : Bytes → List Nat) (h i : Nat) (s : State) : Host.Outcome State Fault Refusal :=
  match s.opEnv h .sample i with
  | none => .next s
  | some e => if mdKind e.d = kind then .next (s.runOp e e.sampleWeave [mdIn e.d] kern (endAlone (outs e.d))) else .next s

/-- SAMPLE_SPLIT (R410). -/
def execSampleSplit (h i : Nat) (s : State) : Host.Outcome State Fault Refusal :=
  sampleEvent 1 splitKern (fun d => (List.range (mdLanes d)).map (mdLane d)) h i s

/-! ### SAMPLE_MERGE (R411) -/

/-- What a merge keeps: the number of the next sample, whether LAST is released, and how far each lane's front slot is taken. -/
def OpRun.nextSample (o : OpRun) : Nat := nth o.nums 0 0
def OpRun.lastSeen (o : OpRun) : Bool := nth o.nums 1 0 == 1
def OpRun.laneOff (o : OpRun) (lane : Nat) : Nat := nth (o.nums.drop 2) lane 0

def mergeNums (next : Nat) (last : Bool) (offs : List Nat) : List Nat := next :: ofBool last :: offs

/-- What a release attempt finds in the lane of the next sample. -/
inductive Release where
  | wait | ended | bad (code : Nat) | memBad (code : Nat) | got (rec_ : Bytes)

/-- Take the next sample's record from its lane, if it is there. -/
def State.release (s : State) (e : OpEnv) : State × Release :=
  let lanes := Nat.max 1 (mdLanes e.d)
  let lane := e.o.nextSample % lanes
  let hoop := mdLane e.d lane
  match e.c.front hoop e.o.key with
  | .wait => (s, .wait)
  | .ended => (s, .ended)
  | .got k x =>
    if x.bare then (s, .ended)
    else
      let off := e.o.laneOff lane
      match s.readSlot e.r k x.no off (x.len - off) with
      | (s, .error c) => (s, .memBad c)
      | (s, .ok b) =>
        if !recordOk b then (s, .bad errWeaveSampleInvalid)
        else
          let r := b.take (srBytes b)
          if !inOrder e.x.sampleBase e.o.nextSample r then (s, .bad errWeaveSampleOrder)
          else
            let done := decide (x.len ≤ off + r.length)
            let offs := (List.range lanes).map (fun i => if i = lane then (if done then 0 else off + r.length) else e.o.laneOff i)
            let o := { e.o with nums := mergeNums (e.o.nextSample + 1) (srLast r) offs }
            let s := s.updOp e.h e.o.key (fun _ => o)
            ((if done then s.finishSlots e.h e.r hoop e.o.key (x.no + 1) else s), .got r)

/-- Release every sample that is ready, in order (R411): the records, and what stopped it. -/
def State.releaseAll (s : State) (e : OpEnv) : Nat → State × List Bytes × Option (Nat × Nat)
  | 0 => (s, [], none)
  | n + 1 =>
    match s.opEnv e.h e.l e.i with
    | none => (s, [], none)
    | some e =>
      if e.o.lastSeen then (s, [], none)
      else match s.release e with
        | (s, .wait) => (s, [], none)
        | (s, .bad c) => (s, [], some (c, e.o.nextSample))
        | (s, .memBad c) => (s, [], some (c, e.o.nextSample))
        | (s, .ended) =>
          -- no sample at all is no fault
          if e.o.nextSample = 0 then (s, [], none) else (s, [], some (errWeaveSampleOrder, e.o.nextSample))
        | (s, .got r) =>
          let t := s.releaseAll e n
          (t.1, r :: t.2.1, t.2.2)

/-- The lanes of a merge. -/
def OpEnv.lanes (e : OpEnv) : List Nat := (List.range (Nat.max 1 (mdLanes e.d))).map (mdLane e.d)

/-- A lane has passed END. -/
def OpEnv.laneEnded (e : OpEnv) (hoop : Nat) : Bool :=
  match e.c.front hoop e.o.key with
  | .ended => true
  | .got _ x => x.bare
  | .wait => false

/-- A lane that holds a further record. -/
def OpEnv.laneMore (e : OpEnv) (hoop : Nat) : Bool :=
  match e.c.front hoop e.o.key with
  | .got _ x => !x.bare
  | _ => false

/-- Finish the END slots that carry no record. -/
def State.finishEnds (s : State) (e : OpEnv) : State :=
  e.lanes.foldl (fun s hoop => match e.c.front hoop e.o.key with
    | .got _ x => if x.bare then s.finishSlots e.h e.r hoop e.o.key (x.no + 1) else s
    | _ => s) s

/-- After LAST: every lane must pass END with no further record. -/
def State.mergeTail (s : State) (e : OpEnv) : State :=
  match e.lanes.find? e.laneMore with
  | some hoop => s.opFault e e.sampleWeave { code := errWeaveSampleOrder, elem := e.o.nextSample, hoop := hoop }
  | none => if e.lanes.all e.laneEnded then (s.finishEnds e).updOp e.h e.o.key (fun o => { o with stage := 2 }) else s

/-- At most how many records the lanes of a merge hold: one takes 32 B at least. -/
def OpEnv.laneRecords (e : OpEnv) : Nat :=
  sumList (e.lanes.map (fun i => match e.c.hoop? i with | some k => sumList (k.slots.map (fun x => x.len / 32)) | none => 0))

/-- One event of a merge. -/
def State.mergeStep (s : State) (e : OpEnv) : State :=
  if e.o.outQ.length ≠ 0 then s.flushAll e e.sampleWeave
  else if 2 ≤ e.o.stage then s
  else if e.o.lastSeen then s.mergeTail e
  else
    let r := s.releaseAll e (e.laneRecords + 1)
    match r.2.2 with
    | some f => r.1.opFault e e.sampleWeave { code := f.1, elem := f.2, hoop := mdLane e.d (f.2 % Nat.max 1 (mdLanes e.d)) }
    | none =>
      let last := r.2.1.any srLast
      let s := r.1.vcount64 e.t vWeaveTSample r.2.1.length
      let s := s.vcount e.t vWeaveTSampleAbortCnt (r.2.1.filter srAborted).length
      if r.2.1.isEmpty && e.o.nextSample == 0 && e.lanes.all e.laneEnded then
        -- a task with no sample (R409)
        ((s.finishEnds e).updOp e.h e.o.key (fun o => { o with stage := 2, outQ := [{ hoop := mdOut e.d, data := [], fin := true }] })).flushAll
          e e.sampleWeave
      else if r.2.1.isEmpty && e.o.nextSample == 0 && e.laneEnded (mdLane e.d 0) && e.lanes.any e.laneMore then
        s.opFault e e.sampleWeave { code := errWeaveSampleOrder, elem := 0, hoop := mdLane e.d 0 }
      else
        (s.updOp e.h e.o.key (fun o => { o with stage := 1, outQ := recordOuts e.r.bin (mdOut e.d) r.2.1 last })).flushAll e e.sampleWeave

/-- SAMPLE_MERGE (R411, R413). -/
def execSampleMerge (h i : Nat) (s : State) : Host.Outcome State Fault Refusal :=
  match s.opEnv h .sample i with
  | none => .next s
  | some e => if mdKind e.d = 2 then .next (s.mergeStep e) else .next s

/-! ### Draws (R420, R421) -/

/-- The quarter round on four words of a block. -/
def chaQuarter (s : List Word) (a b c d : Nat) : List Word :=
  let x := fun i => nth s i 0
  let a1 := x a + x b
  let d1 := (x d ^^^ a1).rotateLeft 16
  let c1 := x c + d1
  let b1 := (x b ^^^ c1).rotateLeft 12
  let a2 := a1 + b1
  let d2 := (d1 ^^^ a2).rotateLeft 8
  let c2 := c1 + d2
  let b2 := (b1 ^^^ c2).rotateLeft 7
  modifyAt (modifyAt (modifyAt (modifyAt s a (fun _ => a2)) b (fun _ => b2)) c (fun _ => c2)) d (fun _ => d2)

/-- Two rounds: four columns, then four diagonals. -/
def chaDouble (s : List Word) : List Word :=
  [(0, 4, 8, 12), (1, 5, 9, 13), (2, 6, 10, 14), (3, 7, 11, 15), (0, 5, 10, 15), (1, 6, 11, 12), (2, 7, 8, 13), (3, 4, 9, 14)].foldl
    (fun s q => chaQuarter s q.1 q.2.1 q.2.2.1 q.2.2.2) s

/-- A ChaCha8 block. -/
def chacha8 (key : List Nat) (ctr nonce : Nat) : List Word :=
  let w := fun v => BitVec.ofNat 32 v
  let x : List Word := [0x61707865#32, 0x3320646E#32, 0x79622D32#32, 0x6B206574#32] ++ (key.take 8).map w ++
    [w ctr, w (ctr / 2 ^ 32), w nonce, w (nonce / 2 ^ 32)]
  let s := chaDouble (chaDouble (chaDouble (chaDouble x)))
  (s.zip x).map (fun p => p.1 + p.2)

/-- Draw `d` of the sample of index `i` in a stream (R421). -/
def drawWord (seed : List Nat) (stream i d : Nat) : Nat :=
  (nth (chacha8 (seed.take 4 ++ [stream, 0, 0, 0]) i (d / 16)) (d % 16) 0).toNat

/-- A draw in a format: 0 raw, 1 unit f32, 2 range. -/
def drawFmt (fmt n w : Nat) : Nat :=
  if fmt = 1 then f32.round (.fin false (w / 256) (-24)) else if fmt = 2 then w * n / 2 ^ 32 else w

/-! ### AUG_DRAW (R422) -/

def mdStreamId (d : Bytes) : Nat := fieldAt d 0x20 4
def mdDraws (d : Bytes) : Nat := fieldAt d 0x24 2
def mdFmt (d : Bytes) : Nat := fieldAt d 0x26 1
def mdRange (d : Bytes) : Nat := fieldAt d 0x28 4

/-- The draws of a record: a null row for an aborted one. -/
def drawRow (seed : List Nat) (d r : Bytes) : Bool × List Nat :=
  if srAborted r then (false, List.replicate (mdDraws d) 0)
  else (true, (List.range (mdDraws d)).map (fun k => drawFmt (mdFmt d) (mdRange d) (drawWord seed (mdStreamId d) (srIndex r) k)))

/-- AUG_DRAW on a slot: one batch with a row per record. -/
def drawKern : Kern := fun s e ins last =>
  let n0 := nth e.o.nums 0 0
  let rs := recordsOf (ins.headD [])
  if rs.2 then KernOut.bad s e.o errWeaveSampleInvalid (n0 + rs.1.length) (mdIn e.d)
  else
    let base := match rs.1 with | r :: _ => srSample r | [] => n0
    let data := listBatch (if mdFmt e.d = 1 then 0x0C else 0x08) base (rs.1.map (drawRow e.c.seed e.d))
    KernOut.ok s { e.o with nums := [n0 + rs.1.length] } [{ hoop := mdOut e.d, fin := last, data := data }]

/-- AUG_DRAW (R422). -/
def execAugDraw (h i : Nat) (s : State) : Host.Outcome State Fault Refusal := sampleEvent 3 drawKern (fun d => [mdOut d]) h i s

end Sys2Proof.Machine
end

