-- ==== Sys2Proof/Machine/Trellis.lean ====
section
/-! DEFINITION. Trellis remap (spec/14, R423 to R426): jobs and their checks, the map of a destination pixel to the source, and sampling. -/

namespace Sys2Proof.Machine

/-- The Trellis unit that runs an operation (Table 6-3). -/
def OpEnv.trellis (e : OpEnv) : Agent :=
  let u := e.r.phys e.c.course 7 (mdInst e.d)
  { cls := 7, inst := u, req := 0x8C + u }

/-! ### Pixel formats (Table 14-7) -/

/-- Bytes of a pixel, and of a channel. -/
def pixBytes (f : Nat) : Nat := nth [0, 1, 2, 3, 4, 2, 8] f 0
def chanBytes (f : Nat) : Nat := if f = 2 ∨ f = 5 ∨ f = 6 then 2 else 1
def pixFloat (f : Nat) : Bool := f == 5 || f == 6

/-- The channels of a pixel as f32 patterns. -/
def channels (f : Nat) (p : Bytes) : List Nat :=
  (readNums (chanBytes f) (pixBytes f / chanBytes f) p).map (fun v => if pixFloat f then f32.round (f16.decode v) else f32.round (fvInt v))

/-! ### f32 as the unit computes it -/

def cst (v : Int) (e : Int) : Nat := f32.round (fvOfInt v e)
def ofNat32 (n : Nat) : Nat := f32.round (fvInt n)
def add32 (a b : Nat) : Nat := f32.add a b
def mul (a b : Nat) : Nat := f32.mul a b
def sub (a b : Nat) : Nat := f32.sub a b
def div32 (a b : Nat) : Nat := f32.div a b
def one32 : Nat := cst 1 0

/-- a * (1 - t) + b * t. -/
def lerp (a b t : Nat) : Nat := add32 (mul a (sub one32 t)) (mul b t)

/-! ### Raster references (Table 14-5) -/

def rrAddr (r : Bytes) : Nat := fieldAt r 0 8
def rrSpace (r : Bytes) : Nat := fieldAt r 8 1
def rrFormat (r : Bytes) : Nat := fieldAt r 9 1
def rrWidth (r : Bytes) : Nat := fieldAt r 0xC 4
def rrHeight (r : Bytes) : Nat := fieldAt r 0x10 4
def rrStride (r : Bytes) : Nat := fieldAt r 0x14 4

def rrSp (r : Bytes) : Space := if rrSpace r = 0 then .hbm else .ory

/-- A reference of a job keeps R426 for a tenant. -/
def State.rasterOk (s : State) (t : Nat) (r : Bytes) : Bool :=
  let w := rrWidth r
  let h := rrHeight r
  let px := pixBytes (rrFormat r)
  fieldAt r 0xA 2 == 0 && allZero (slice r 0x2C 20) && fieldAt r 0x1E 2 == 0 && decide (1 ≤ rrFormat r ∧ rrFormat r ≤ 6)
    && decide (1 ≤ w ∧ w ≤ 8192) && decide (1 ≤ h ∧ h ≤ 8192) && decide (w * px ≤ rrStride r) && decide (rrSpace r ≤ 1)
    && decide (rrAddr r + (h - 1) * rrStride r + w * px ≤ runsLen (s.extents t (rrSp r)) * 0x400000)

/-! ### Jobs (Tables 14-8 and 14-9) -/

def jobSrc (j : Bytes) : Bytes := slice j 0 64
def jobDst (j : Bytes) : Bytes := slice j 0x40 64
def jobEntry (j : Bytes) : Nat := fieldAt j 0x80 4
def jobLens (j : Bytes) : Bool := bit (fieldAt j 0x84 1) 0
def jobHomog (j : Bytes) : Bool := bit (fieldAt j 0x84 1) 1
def jobMesh (j : Bytes) : Bool := bit (fieldAt j 0x84 1) 2
def jobSampler (j : Bytes) : Nat := fieldAt j 0x85 1
def jobEdge (j : Bytes) : Nat := fieldAt j 0x86 1
def jobBorder (j : Bytes) : Bytes := slice j 0x88 8
def jobH (j : Bytes) (i : Nat) : Nat := fieldAt j (0x90 + 4 * i) 4

/-- Word `i` of a parameter entry, as an f32. -/
def entF (p : Bytes) (i : Nat) : Nat := fieldAt p (4 * i) 4
def entGw (p : Bytes) : Nat := fieldAt p 0x24 1
def entGh (p : Bytes) : Nat := fieldAt p 0x25 1
/-- Coordinate `c` (0 DX, 1 DY) of mesh point (i, j). -/
def entMesh (p : Bytes) (i j c : Nat) : Nat := fieldAt p (0x40 + 8 * (j * entGw p + i) + 4 * c) 4

/-- The checks of R426 on a job that its own bytes decide. -/
def State.jobOk (s : State) (e : OpEnv) (j : Bytes) : Bool :=
  let bytes := match e.table? (mdTable e.d) with | some i => roBytes e.r.bin i | none => 0
  s.rasterOk e.t (jobSrc j) && s.rasterOk e.t (jobDst j) && rrFormat (jobSrc j) == rrFormat (jobDst j)
    && decide (fieldAt j 0x84 1 < 8) && decide (jobSampler j ≤ 1) && decide (jobEdge j ≤ 1) && fieldAt j 0x87 1 == 0
    && allZero (slice j 0xB4 12) && allZero (slice (jobDst j) 0x18 20) && decide ((jobEntry j + 1) * 33920 ≤ bytes)

/-- The mesh of the entry keeps Table 14-8 where the job uses it. -/
def meshOk (j p : Bytes) : Bool := !jobMesh j || decide (2 ≤ entGw p ∧ entGw p ≤ 65 ∧ 2 ≤ entGh p ∧ entGh p ≤ 65)

/-! ### The map (R424) -/

/-- The mesh displacement of (x, y). -/
def meshMove (p : Bytes) (wd hd x y : Nat) : Nat × Nat :=
  let mx := if 1 < wd then div32 (ofNat32 (entGw p - 1)) (ofNat32 (wd - 1)) else 0
  let my := if 1 < hd then div32 (ofNat32 (entGh p - 1)) (ofNat32 (hd - 1)) else 0
  let gx := mul x mx
  let gy := mul y my
  let i := Nat.min (f32.decode gx).floor.trunc.toNat (entGw p - 2)
  let j := Nat.min (f32.decode gy).floor.trunc.toNat (entGh p - 2)
  let tx := sub gx (ofNat32 i)
  let ty := sub gy (ofNat32 j)
  let o := fun c => lerp (lerp (entMesh p i j c) (entMesh p (i + 1) j c) tx) (lerp (entMesh p i (j + 1) c) (entMesh p (i + 1) (j + 1) c) tx) ty
  (add32 x (o 0), add32 y (o 1))

/-- The homography. -/
def homogMove (j : Bytes) (x y : Nat) : Nat × Nat :=
  let row := fun i => add32 (add32 (mul (jobH j i) x) (mul (jobH j (i + 1)) y)) (jobH j (i + 2))
  let hw := row 6
  (div32 (row 0) hw, div32 (row 3) hw)

/-- The lens distortion. -/
def lensMove (p : Bytes) (x y : Nat) : Nat × Nat :=
  let fx := entF p 0; let fy := entF p 1; let cx := entF p 2; let cy := entF p 3
  let k1 := entF p 4; let k2 := entF p 5; let k3 := entF p 6; let p1 := entF p 7; let p2 := entF p 8
  let two := cst 2 0
  let xn := div32 (sub x cx) fx
  let yn := div32 (sub y cy) fy
  let r2 := add32 (mul xn xn) (mul yn yn)
  let rad := add32 one32 (mul r2 (add32 k1 (mul r2 (add32 k2 (mul r2 k3)))))
  let xd := add32 (mul xn rad) (add32 (mul (mul (mul two p1) xn) yn) (mul p2 (add32 r2 (mul (mul two xn) xn))))
  let yd := add32 (mul yn rad) (add32 (mul p1 (add32 r2 (mul (mul two yn) yn))) (mul (mul (mul two p2) xn) yn))
  (add32 (mul xd fx) cx, add32 (mul yd fy) cy)

/-- The source position of destination pixel (u, v). -/
def mapPixel (origin : Bool) (j p : Bytes) (u v : Nat) : Nat × Nat :=
  let half := cst 1 (-1)
  let q := (ofNat32 u, ofNat32 v)
  let q := if origin then (add32 q.1 half, add32 q.2 half) else q
  let q := if jobMesh j then meshMove p (rrWidth (jobDst j)) (rrHeight (jobDst j)) q.1 q.2 else q
  let q := if jobHomog j then homogMove j q.1 q.2 else q
  let q := if jobLens j then lensMove p q.1 q.2 else q
  if origin then (sub q.1 half, sub q.2 half) else q

/-! ### Sampling (R425) -/

/-- A clamp to a range, both ends finite. -/
def clamp32 (lo hi v : Nat) : Nat :=
  let x := f32.decode v
  if x.lt (f32.decode lo) then lo else if (f32.decode hi).lt x then hi else v

/-- A coordinate clamped to a row or column. -/
def clampIdx (n : Nat) (i : Int) : Nat := if i < 0 then 0 else Nat.min i.toNat (n - 1)

/-- The tap at (xi, yi): the channels of the source pixel or of the border. -/
def State.tap (s : State) (e : OpEnv) (j : Bytes) (xi yi : Int) : State × Except Nat (List Nat) :=
  let r := jobSrc j
  let f := rrFormat r
  let w := rrWidth r
  let h := rrHeight r
  let outside := xi < 0 ∨ (w : Int) ≤ xi ∨ yi < 0 ∨ (h : Int) ≤ yi
  if jobEdge j = 0 ∧ outside then (s, .ok (channels f ((jobBorder j).take (pixBytes f))))
  else
    match s.readMem e.t (rrSp r) e.r.strict (rrAddr r + clampIdx h yi * rrStride r + clampIdx w xi * pixBytes f) (pixBytes f) with
    | (s, .error c) => (s, .error c)
    | (s, .ok d) => (s, .ok (channels f d))

/-- Several taps. -/
def State.taps (s : State) (e : OpEnv) (j : Bytes) : List (Int × Int) → State × Except Nat (List (List Nat))
  | [] => (s, .ok [])
  | (x, y) :: t => match s.tap e j x y with
    | (s, .error c) => (s, .error c)
    | (s, .ok a) => match s.taps e j t with
      | (s, .error c) => (s, .error c)
      | (s, .ok l) => (s, .ok (a :: l))

/-- The cubic weights of t. -/
def cubic (t : Nat) : List Nat :=
  let h := fun v e => cst v e
  [mul (sub (mul (add32 (mul (h (-1) (-1)) t) one32) t) (h 1 (-1))) t,
   add32 (mul (mul (sub (mul (h 3 (-1)) t) (h 5 (-1))) t) t) one32,
   mul (add32 (mul (add32 (mul (h (-3) (-1)) t) (h 2 0)) t) (h 1 (-1))) t,
   mul (mul (sub (mul (h 1 (-1)) t) (h 1 (-1))) t) t]

/-- A sum of four weighted values, in order. -/
def weigh (g v : List Nat) : Nat :=
  let m := fun i => mul (nth g i 0) (nth v i 0)
  add32 (add32 (add32 (m 0) (m 1)) (m 2)) (m 3)

/-- The interpolated value of one channel from its taps, row by row. -/
def interpolate (sampler ax ay : Nat) (v : List Nat) : Nat :=
  if sampler = 0 then lerp (lerp (nth v 0 0) (nth v 1 0) ax) (lerp (nth v 2 0) (nth v 3 0) ax) ay
  else weigh (cubic ay) ((List.range 4).map (fun r => weigh (cubic ax) ((v.drop (4 * r)).take 4)))

/-- A channel's value in the destination format. -/
def chanOut (f v : Nat) : Bytes :=
  if pixFloat f then leBytes 2 (f16.round (f32.decode v))
  else
    let top := if f = 2 then 65535 else 255
    match f32.decode (clamp32 0 (ofNat32 top) v) with
    | .fin n m e => leBytes (chanBytes f) (if n then 0 else roundAt m e 0)
    | _ => leBytes (chanBytes f) 0

/-- One destination pixel: its bytes, and whether its source position was not finite. -/
def State.pixel (s : State) (e : OpEnv) (origin : Bool) (j p : Bytes) (u v : Nat) : State × Except Nat (Bytes × Bool) :=
  let f := rrFormat (jobSrc j)
  let q := mapPixel origin j p u v
  if !(f32.decode q.1).isFinite || !(f32.decode q.2).isFinite then (s, .ok ((jobBorder j).take (pixBytes f), true))
  else
    let x := clamp32 (cst (-8) 0) (ofNat32 (rrWidth (jobSrc j) + 8)) q.1
    let y := clamp32 (cst (-8) 0) (ofNat32 (rrHeight (jobSrc j) + 8)) q.2
    let x0 := (f32.decode x).floor.trunc
    let y0 := (f32.decode y).floor.trunc
    let ax := sub x (f32.round (fvInt x0))
    let ay := sub y (f32.round (fvInt y0))
    let offs : List Int := if jobSampler j = 0 then [0, 1] else [-1, 0, 1, 2]
    match s.taps e j (offs.flatMap (fun dy => offs.map (fun dx => (x0 + dx, y0 + dy)))) with
    | (s, .error c) => (s, .error c)
    | (s, .ok ts) =>
      let n := pixBytes f / chanBytes f
      (s, .ok (((List.range n).map (fun k => chanOut f (interpolate (jobSampler j) ax ay (ts.map (fun t => nth t k 0))))).flatten, false))

/-- Write the pixels of the destination, `n` from number `k` on, in rows. -/
def State.pixels (s : State) (e : OpEnv) (origin : Bool) (j p : Bytes) : Nat → Nat → State × Option Nat
  | _, 0 => (s, none)
  | k, n + 1 =>
    let dst := jobDst j
    let u := k % rrWidth dst
    let v := k / rrWidth dst
    match s.pixel e origin j p u v with
    | (s, .error c) => (s, some c)
    | (s, .ok (b, nonfinite)) =>
      let s := (if nonfinite then s.vcount e.t vTrlTNonfiniteCnt 1 else s)
      match s.writeMem e.t (rrSp dst) (rrAddr dst + v * rrStride dst + u * pixBytes (rrFormat dst)) b with
      | (s, some c) => (s, some c)
      | (s, none) => (s.vcount64 e.t vTrlTPixels 1).pixels e origin j p (k + 1) n

/-! ### The event -/

/-- What a unit makes of a record: its output record, or a fault's code. -/
def State.trellisRecord (s : State) (e : OpEnv) (r : Bytes) : State × Except Nat Bytes :=
  if srAborted r then (s, .ok r)
  else
    let j := r.drop 32
    if srBytes r ≠ 224 ∨ srRasters r ≠ 0 ∨ s.jobOk e j = false then (s, .error errTrlJobInvalid)
    else match s.opTable e (mdTable e.d) (33920 * jobEntry j) 33920 with
      | (s, .error c) => (s, .error c)
      | (s, .ok p) =>
        let src := jobSrc j
        let dst := jobDst j
        if !meshOk j p then (s, .error errTrlJobInvalid)
        else if fieldAt e.d 0x20 4 < rrWidth dst * rrHeight dst || fieldAt e.d 0x28 8 < rrHeight src * rrStride src then
          (s.vcount e.t vTrlTTooLargeCnt 1, .ok (sampleHeader (srSample r) (srIndex r) 32 (1 + 2 * ofBool (srLast r)) errTrlJobTooLarge 0))
        else match s.pixels e (mdOption e.r.bin e.d == 1) j p 0 (rrWidth dst * rrHeight dst) with
          | (s, some c) => (s, .error c)
          | (s, none) =>
            -- how often a source byte is read is the unit's own: at most 2 * MAX_SRC_BYTES in all (R427; notes/assumptions/55.md)
            let d := s.free 64
            let reads := d.1.toNat % (2 * fieldAt e.d 0x28 8 + 1)
            let s := (if rrSpace src = 0 then d.2.chargeRota e.h .read reads else d.2)
            let s := (if rrSpace dst = 0 then s.chargeRota e.h .write (rrHeight dst * rrWidth dst * pixBytes (rrFormat dst)) else s)
            (s, .ok (sampleHeader (srSample r) (srIndex r) 96 (2 * ofBool (srLast r)) 0 1
              ++ slice dst 0 0x18 ++ slice src 0x18 0x14 ++ slice dst 0x2C 20))

/-- One event of a Trellis operation: one record; `nums` holds how far the front slot is taken and how many records were. -/
def State.trellisStep (s : State) (e : OpEnv) : State :=
  let a := e.trellis
  let bad := fun (s : State) (code elem : Nat) => s.opFault e a { code := code, elem := elem, hoop := mdIn e.d }
  if e.o.outQ.length ≠ 0 then s.flushAll e a
  else if 2 ≤ e.o.stage then s
  else match e.c.front (mdIn e.d) e.o.key with
    | .wait => s
    | .ended => (endAlone [mdOut e.d] s e true).settle e a [] 2
    | .got k x =>
      if x.bare then (endAlone [mdOut e.d] s e true).settle e a [(k, x)] 2
      else
        let off := nth e.o.nums 0 0
        let n := nth e.o.nums 1 0
        match s.readSlot e.r k x.no off (x.len - off) with
        | (s, .error c) => bad s c n
        | (s, .ok b) =>
          if !recordOk b then bad s errWeaveSampleInvalid n
          else
            let r := b.take (srBytes b)
            match s.trellisRecord e r with
            | (s, .error c) => bad s c (srSample r)
            | (s, .ok out) =>
              let done := decide (x.len ≤ off + r.length)
              let fin := done && x.fin
              (KernOut.ok s { e.o with nums := [if done then 0 else off + r.length, n + 1] } [{ hoop := mdOut e.d, data := out, fin := fin }]).settle
                e a (if done then [(k, x)] else []) (if fin then 2 else 1)

/-- TRELLIS_JOB (R423 to R426). -/
def execTrellisJob (h i : Nat) (s : State) : Host.Outcome State Fault Refusal :=
  match s.opEnv h .sample i with
  | none => .next s
  | some e => if mdKind e.d = 5 then .next (s.trellisStep e) else .next s

end Sys2Proof.Machine
end

