-- ==== Sys2Proof/Machine/Sensors.lean ====
section
/-! DEFINITION. Live sensors (spec/14, R414 to R419, R430): the receive buffers of the ports (spec/16, R464), reassembly, the judgement of a
complete frame, and the records a SENSOR_IN delivers. -/

namespace Sys2Proof.Machine

/-! ### Receive buffers (R464, R474) -/

/-- Bytes held in a receive buffer, and those of one tenant. -/
def NetPort.held (p : NetPort) : Nat := sumList (p.rx.map (·.bytes))
def NetPort.heldOf (p : NetPort) (t : Nat) : Nat := sumList ((p.rx.filter (fun x => x.tenant == t)).map (·.bytes))

/-- PFC_EN of a port. -/
def State.pfcOn (s : State) (p : Nat) : Bool := bit (s.getN (rNetPortCtrl + 0x100 * p)) 0

/-- Pause is sent once the buffer holds 6 MiB, and released below 4 MiB (R464). -/
def State.settlePause (s : State) (p : Nat) : State :=
  let k := s.port p
  if s.pfcOn p && !k.pausing && decide (0x600000 ≤ k.held) then (s.updPort p (fun k => { k with pausing := true })).emit (.pause p true)
  else if k.pausing && decide (k.held < 0x400000) then (s.updPort p (fun k => { k with pausing := false })).emit (.pause p false)
  else s

/-- Hold a packet in the receive buffer; false when it would exceed the buffer or the tenant's part, and is dropped and counted (R464). -/
def State.holdRx (s : State) (p : Nat) (x : RxItem) : State × Bool :=
  let k := s.port p
  if k.held + x.bytes ≤ 0x800000 ∧ k.heldOf x.tenant + x.bytes ≤ 0x80000 then
    ((s.updPort p (fun k => { k with rx := k.rx ++ [x] })).settlePause p, true)
  else (s.count (rNetPortRxFullCnt + 0x100 * p) 1, false)

/-! ### Channels -/

def sdUdp (d : Bytes) : Nat := fieldAt d 0x20 2
def sdN (d : Bytes) : Nat := fieldAt d 0x22 1
def sdLag (d : Bytes) : Nat := fieldAt d 0x23 1
def sdDepth (d : Bytes) : Nat := fieldAt d 0x24 1
def sdMark (d : Bytes) : Bool := bit (fieldAt d 0x25 1) 0
def sdFormat (d : Bytes) : Nat := fieldAt d 0x26 1
def sdBase (d : Bytes) : Nat := fieldAt d 0x28 4
def sdMax (d : Bytes) : Nat := fieldAt d 0x2C 4
def sdOffset (d : Bytes) : Nat := fieldAt d 0x30 8

/-- A channel: its Rota, its state and its descriptor. -/
structure Chan where
  r : Rota
  sn : Sensor
  d : Bytes
  deriving Repr

/-- The channels of the admitted Rotas. -/
def State.chans (s : State) : List Chan :=
  s.rotas.flatMap (fun r => r.sensors.map (fun sn => { r := r, sn := sn, d := opRec r.bin .sample sn.smp }))

/-- The physical port a channel listens on: the one that produces OUT_HOOP (R414). -/
def Chan.port (c : Chan) : Nat := c.r.phys (opCourse c.d) 8 (rpProdInst c.r.bin (mdOut c.d))

/-- The channel is at a port and UDP port. -/
def Chan.at (c : Chan) (p udp : Nat) : Bool := c.port == p && sdUdp c.d == udp

def State.updSensor (s : State) (h smp : Nat) (f : Sensor → Sensor) : State :=
  s.updRota h (fun r => { r with sensors := updWhere r.sensors (fun x => x.smp == smp) f })

/-! ### The sensor header (Table 14-6) -/

def shFormat (b : Bytes) : Nat := fieldAt b 5 1
def shSensor (b : Bytes) : Nat := fieldAt b 8 4
def shSeq (b : Bytes) : Nat := fieldAt b 0xC 4
def shSec (b : Bytes) : Nat := fieldAt b 0x10 8
def shNs (b : Bytes) : Nat := fieldAt b 0x18 4
def shBytes (b : Bytes) : Nat := fieldAt b 0x1C 4
def shWidth (b : Bytes) : Nat := fieldAt b 0x20 4
def shHeight (b : Bytes) : Nat := fieldAt b 0x24 4
def shStride (b : Bytes) : Nat := fieldAt b 0x28 4
def shOff (b : Bytes) : Nat := fieldAt b 0x2C 4
def shLen (b : Bytes) : Nat := fieldAt b 0x30 4
def shCrc (b : Bytes) : Nat := fieldAt b 0x34 4

/-- The capture time in PTP ns. -/
def captureOf (b : Bytes) : Nat := shSec b * 1000000000 + shNs b

/-- A datagram keeps Table 14-6. -/
def sensorOk (b : Bytes) : Bool :=
  decide (64 ≤ b.length) && fieldAt b 0 4 == 0x52534E53 && fieldAt b 4 1 == 1 && decide (shFormat b ≤ 6) && fieldAt b 6 2 == 0
    && decide (shSec b < 2 ^ 48) && decide (shNs b ≤ 999999999) && decide (1 ≤ shBytes b) && shBytes b == shHeight b * shStride b
    && decide (shWidth b * (if shFormat b = 0 then 1 else pixBytes (shFormat b)) ≤ shStride b) && decide (1 ≤ shLen b)
    && decide (shOff b + shLen b ≤ shBytes b) && allZero (slice b 0x38 8) && decide (b.length = 64 + shLen b)

/-- Two datagrams carry fragments of one frame (R414). -/
def sameFrame (a b : Bytes) : Bool := shSensor a == shSensor b && shSeq a == shSeq b && shSec a == shSec b && shNs a == shNs b

/-- A fragment's header has the fields of the first's: all of the header but FRAG_OFFSET and FRAG_BYTES. -/
def sameFields (a b : Bytes) : Bool := a.take 0x2C == b.take 0x2C && shCrc a == shCrc b

/-- Bytes `o` to `o` + `n` - 1 meet a fragment already received. -/
def overlaps (frags : List (Nat × Bytes)) (o n : Nat) : Bool := frags.any (fun f => decide (o < f.1 + f.2.length ∧ f.1 < o + n))

/-- The bytes of a frame from its fragments. -/
def assemble (frags : List (Nat × Bytes)) : Bytes := (frags.foldl (fun l f => insertBy (·.1) f l) []).flatMap (·.2)

/-! ### Judging a complete frame (R415 to R417, R430) -/

/-- The staleness limit of a tenant in ns, bounded (R415). -/
def State.staleNs (s : State) (t : Nat) : Nat := Nat.min 60000000 (Nat.max 1 (s.getN (rNetTenSensorStaleUs + 4 * t))) * 1000

/-- The capture beat of a capture time; none when it is before the epoch or the oldest recorded boundary (R416). -/
def State.captureBeat (s : State) (cap : Nat) : Option Nat :=
  if s.beat.src = .ptp then (if cap < s.epochNs then none else some (ptpBeat (cap - s.epochNs) s.period).1)
  else match s.beat.recent.find? (fun p => decide (p.2 ≤ cap)) with
    | some p => some p.1
    | none => none

/-- What becomes of a complete frame. -/
inductive Verdict where
  | bad | stale | late | duplicate | overrun
  | place (beat : Nat)
  deriving DecidableEq, Repr

/-- A new frame takes the slot of one of the same capture beat (R417). -/
def takesSlot (latest : Bool) (new old : Bytes) : Bool :=
  if captureOf new = captureOf old then decide (shSeq new < shSeq old)
  else if latest then decide (captureOf old < captureOf new) else decide (captureOf new < captureOf old)

/-- The entry of a capture beat still serves a course that has not drained (R417). -/
def Chan.serving (c : Chan) (beat : Nat) : Bool :=
  match c.r.course, c.sn.served with
  | some k, some b => k.course == opCourse c.d && k.beat == b && (b - sdLag c.d) % Nat.max 1 (sdDepth c.d) == beat % Nat.max 1 (sdDepth c.d)
  | _, _ => false

/-- The judgement of R430, in its order, for a complete frame that R414 has not found bad. -/
def State.judge (s : State) (c : Chan) (hdr : Bytes) (ptp : Nat) : Verdict :=
  let cap := captureOf hdr
  let t := handleTenant c.r.handle
  match s.captureBeat cap with
  | none => .stale
  | some b =>
    if s.beat.number + 1 < b then .bad
    else if s.staleNs t < ptp - cap then .stale
    else if b + sdLag c.d < s.beat.number ∨ (b + sdLag c.d = s.beat.number ∧ c.sn.served = some s.beat.number) then .late
    else match c.sn.frames.find? (fun f => f.pos == shSensor hdr - sdBase c.d && f.beat == b) with
      | some f => if takesSlot (mdOption c.r.bin c.d == 1) hdr f.hdr then .place b else .duplicate
      | none => if c.serving b then .overrun else .place b

/-- Where a frame lies in tenant HBM (R417). -/
def Chan.slotAt (c : Chan) (beat pos : Nat) : Nat :=
  c.r.hbmBase + sdOffset c.d + (beat % Nat.max 1 (sdDepth c.d) * sdN c.d + pos) * sdMax c.d

/-- A frame is placed in its slot; one it displaces is a duplicate (R417). -/
def State.placeFrame (s : State) (c : Chan) (hdr data : Bytes) (beat : Nat) : State :=
  let t := handleTenant c.r.handle
  let pos := shSensor hdr - sdBase c.d
  let old := c.sn.frames.any (fun f => f.pos == pos && f.beat == beat)
  let s := (s.writeMem t .hbm (c.slotAt beat pos) data).1
  let s := s.updSensor c.r.handle c.sn.smp (fun x => { x with
    frames := x.frames.filter (fun f => !(f.pos == pos && f.beat == beat)) ++ [{ pos := pos, beat := beat, hdr := hdr }] })
  (if old then s.vcount t vNetTSensorDupCnt 1 else s).vcount t vNetTSensorFrameCnt 1

/-- A frame leaves reassembly. -/
def State.dropPart (s : State) (c : Chan) (hdr : Bytes) : State :=
  s.updSensor c.r.handle c.sn.smp (fun x => { x with parts := x.parts.filter (fun p => !sameFrame p.hdr hdr) })

/-- A frame is judged and counted, and no later fragment of it counts again. -/
def State.tombstone (s : State) (c : Chan) (hdr : Bytes) (reg : Nat) : State :=
  let s := (s.dropPart c hdr).vcount (handleTenant c.r.handle) reg 1
  s.updSensor c.r.handle c.sn.smp (fun x => { x with parts := x.parts ++ [{ hdr := hdr, frags := [], bad := true }] })

/-- A complete frame meets its judgement. -/
def State.completeFrame (s : State) (c : Chan) (hdr data : Bytes) (ptp : Nat) : State :=
  let t := handleTenant c.r.handle
  let s := s.dropPart c hdr
  if (crc32c data).toNat ≠ shCrc hdr then s.vcount t vNetTSensorBadCnt 1
  else match s.judge c hdr ptp with
    | .bad => s.vcount t vNetTSensorBadCnt 1
    | .stale => s.vcount t vNetTSensorStaleCnt 1
    | .late =>
      let s := s.vcount t vNetTSensorLateCnt 1
      match s.captureBeat (captureOf hdr) with
      | some b => s.countLate c.r (b + sdLag c.d + rhSpan c.r.bin - rcBeatOff c.r.bin (opCourse c.d)) (opCourse c.d)
      | none => s
    | .duplicate => s.vcount t vNetTSensorDupCnt 1
    | .overrun => s.vcount t vNetTSensorOverrunCnt 1
    | .place b => s.placeFrame c hdr data b

/-- A channel takes a datagram whose tokens are there: its fragment joins its frame (R414). -/
def State.takeFragment (s : State) (c : Chan) (d : Bytes) (ptp : Nat) : State :=
  match c.sn.parts.find? (fun p => sameFrame p.hdr d) with
  | some p =>
    if p.bad then s
    else if !sensorOk d || !sameFields p.hdr d || overlaps p.frags (shOff d) (shLen d) then s.tombstone c d vNetTSensorBadCnt
    else
      let frags := p.frags ++ [(shOff d, d.drop 64)]
      if sumList (frags.map (·.2.length)) = shBytes d then s.completeFrame c p.hdr (assemble frags) ptp
      else s.updSensor c.r.handle c.sn.smp (fun x => { x with
        parts := updWhere x.parts (fun q => sameFrame q.hdr d) (fun q => { q with frags := frags }) })
  | none =>
    if !sensorOk d || decide (sdMax c.d < shBytes d) || (sdFormat c.d != 0 && shFormat d != sdFormat c.d) then s.tombstone c d vNetTSensorBadCnt
    else if shLen d = shBytes d then s.completeFrame c d (d.drop 64) ptp
    else s.updSensor c.r.handle c.sn.smp (fun x => { x with
      parts := x.parts ++ [{ hdr := d.take 64, frags := [(shOff d, d.drop 64)], bad := false }] })

/-- The channel a datagram is for. -/
def State.chanFor (s : State) (p udp : Nat) (d : Bytes) : Option Chan :=
  s.chans.find? (fun c => c.at p udp && decide (sdBase c.d ≤ shSensor d ∧ shSensor d < sdBase c.d + sdN c.d))

/-- Tokens for a datagram's staging bytes are in the Rota's remote account (R419). -/
def State.sensorTokens (s : State) (c : Chan) (d : Bytes) : Bool :=
  match s.rota? c.r.handle with
  | some r => decide ((d.length - 64) * 65536 ≤ r.acc.remote)
  | none => false

/-- Take the tokens and the datagram. -/
def State.sensorTake (s : State) (c : Chan) (d : Bytes) (ptp : Nat) : State :=
  let n := d.length - 64
  let s := s.updRota c.r.handle (fun r => { r with acc := { r.acc with remote := r.acc.remote - n * 65536 } })
  (s.vcount64 (handleTenant c.r.handle) vBwTRemoteBytes n).takeFragment c d ptp

/-- SENSOR_DATAGRAM: a datagram for a sensor channel arrives on port `p` (R414). One that no channel's UDP port names is dropped and counted
(R463); one whose tokens are not there waits in the receive buffer, beyond which its frame is an overrun (R417). -/
def execSensorDatagram (p udp : Nat) (d : Bytes) (ptp : Nat) (s : State) : Host.Outcome State Fault Refusal :=
  let s := s.notePtp ptp
  let ptp := s.ptp.clock
  if !s.chans.any (fun c => c.at p udp) then .next (s.count (rNetPortDropCnt + 0x100 * p) 1)
  else match s.chanFor p udp d with
    | none => .next s
    | some c =>
      let t := handleTenant c.r.handle
      if (s.port p).rx.any (fun x => x.tenant == t) || !s.sensorTokens c d then
        match s.holdRx p { tenant := t, bytes := d.length, what := .sensor udp d } with
        | (s, true) => .next s
        | (s, false) =>
          if c.sn.parts.any (fun q => sameFrame q.hdr d && q.bad) then .next s else .next (s.tombstone c d vNetTSensorOverrunCnt)
      else .next (s.sensorTake c d ptp)

/-- SENSOR_FRAME_STALE: at local PTP time `ptp`, every incomplete frame of channel `i` of Rota `h` whose age exceeds the limit is dropped
(R415). -/
def execSensorFrameStale (h i ptp : Nat) (s : State) : Host.Outcome State Fault Refusal :=
  let s := s.notePtp ptp
  let ptp := s.ptp.clock
  match s.chans.find? (fun c => c.r.handle == h && c.sn.smp == i) with
  | none => .next s
  | some c =>
    let t := handleTenant h
    let old := fun (p : SensorPart) => decide (s.staleNs t < ptp - captureOf p.hdr)
    let n := (c.sn.parts.filter (fun p => old p && !p.bad)).length
    .next ((s.updSensor h i (fun x => { x with parts := x.parts.filter (fun p => !old p) })).vcount t vNetTSensorStaleCnt n)

/-! ### The records of a course (R418) -/

/-- The raster reference of a frame (Table 14-5): for FORMAT 0 one row of its bytes. -/
def Chan.raster (c : Chan) (f : SensorFrame) : Bytes :=
  let raw := shFormat f.hdr == 0
  leBytes 8 (c.slotAt f.beat f.pos) ++ leBytes 1 0 ++ leBytes 1 (shFormat f.hdr) ++ leBytes 2 0
    ++ leBytes 4 (if raw then shBytes f.hdr else shWidth f.hdr) ++ leBytes 4 (if raw then 1 else shHeight f.hdr)
    ++ leBytes 4 (if raw then shBytes f.hdr else shStride f.hdr) ++ leBytes 8 (shSec f.hdr) ++ leBytes 4 (shNs f.hdr)
    ++ leBytes 4 (shSensor f.hdr) ++ leBytes 4 (shSeq f.hdr) ++ List.replicate 20 0

/-- The frame a position holds for the course that runs in beat `b`. -/
def Chan.frame? (c : Chan) (b pos : Nat) : Option SensorFrame :=
  c.sn.frames.find? (fun f => f.pos == pos && f.beat + sdLag c.d == b)

/-- The record of a position. -/
def Chan.record (c : Chan) (b base pos : Nat) : Bytes :=
  let last := if pos + 1 = sdN c.d then 2 else 0
  match c.frame? b pos with
  | some f => sampleHeader pos ((base + pos) % 2 ^ 64) 96 last 0 1 ++ c.raster f
  | none => sampleHeader pos ((base + pos) % 2 ^ 64) 32 (last + 1) errNetSensorAbsent 0

/-- Every position holds a frame: the channel is staged for the beat (R187, R418). -/
def Chan.staged (c : Chan) (b : Nat) : Bool := (List.range (sdN c.d)).all (fun p => (c.frame? b p).isSome)

/-- The entries whose consuming course would have run before beat `b`: their frames are discarded and counted (R419). -/
def State.discardFrames (s : State) (b : Nat) : State :=
  s.chans.foldl (fun s c =>
    let old := fun (f : SensorFrame) => decide (f.beat + sdLag c.d < b)
    let n := (c.sn.frames.filter old).length
    (s.updSensor c.r.handle c.sn.smp (fun x => { x with frames := x.frames.filter (fun f => !old f) })).vcount
      (handleTenant c.r.handle) vNetTSensorUnusedCnt n) s

/-- The network port that delivers a SENSOR_IN's records. -/
def OpEnv.sensorPort (e : OpEnv) : Agent :=
  let p := e.r.phys e.c.course 8 (rpProdInst e.r.bin (mdOut e.d))
  { cls := 8, inst := p, req := 0x90 + p }

/-- What a SENSOR_IN has made and not yet delivered into hoop `i` of Rota `h` goes there as it has room (R418). -/
def State.flushSensor (s : State) (h i : Nat) : State :=
  match s.rota? h with
  | none => s
  | some r => match r.sensors.find? (fun x => mdOut (opRec r.bin .sample x.smp) == i) with
    | none => s
    | some x => match s.opEnv h .sample x.smp with
      | none => s
      | some e => s.flushAll e e.sensorPort

/-- SLOT_COMMIT: a complete slot commits once every earlier slot has (R176, R193). Without one nothing changes. -/
def execSlotCommit (h i : Nat) (s : State) : Host.Outcome State Fault Refusal := .next ((s.flushSensor h i).commitSlot h i)

end Sys2Proof.Machine
end

