-- ==== Sys2Proof/Machine/Tiles.lean ====
section
/-! DEFINITION. The tile array (spec/08, R286 to R292): TILE_MATMUL, EMBED_BAG, CROSS and ONEHOT_MM over rows held as lists. -/

namespace Sys2Proof.Machine

/-- An element of a type as an f32 pattern; every NaN is the canonical one, since the tile array carries no payload (R289). -/
def tileF32 (t v : Nat) : Nat := f32.round (typeValue t v)

/-- The format of an output type. -/
def outFmt (t : Nat) : Fmt := if t = 0x0C then f32 else if t = 0x0B then bf16 else f16

/-- An f32 result in the output type, and whether it is a NaN. -/
def tileOut (t acc : Nat) : Nat × Bool :=
  let v := f32.decode acc
  ((outFmt t).round v, v.isNan)

/-- The results of a row, counting NaNs. -/
def tileRow (t : Nat) (l : List Nat) : List Nat × Nat :=
  let r := l.map (tileOut t)
  (r.map (·.1), (r.filter (·.2)).length)

/-- What a row of an operation gives: nothing for a null row, an output row with the registers it counts in, or a fault. -/
inductive RowOut where
  | null
  | row (l : List Nat) (nans : Nat) (regs : List Nat)
  | bad (code : Nat)

/-- Run over rows; the fault's row is counted from `k`. -/
def tileRows (f : State → Nat → State × RowOut) : State → Nat → Nat → State × List (Option (List Nat)) × Nat × List Nat × Option (Nat × Nat)
  | s, _, 0 => (s, [], 0, [], none)
  | s, k, n + 1 =>
    match f s k with
    | (s, .bad c) => (s, [], 0, [], some (c, k))
    | (s, .null) => let r := tileRows f s (k + 1) n; (r.1, none :: r.2.1, r.2.2.1, r.2.2.2.1, r.2.2.2.2)
    | (s, .row l a g) => let r := tileRows f s (k + 1) n; (r.1, some l :: r.2.1, a + r.2.2.1, g ++ r.2.2.2.1, r.2.2.2.2)

/-- Finish a batch of rows: counters, faults in the order of their rows, and the output of lists of `len` (R286). -/
def tileFinish (e : OpEnv) (cols : List (Col × Nat)) (len : Nat) (last : Bool) (f : State → Nat → State × RowOut) (s : State) : KernOut :=
  let lim := rowLimit cols
  let base := match cols with | (c, _) :: _ => c.b.rowBase | [] => 0
  let r := tileRows f s 0 lim.1
  let s := (r.1.vcount e.t vWeaveTTileNanCnt r.2.2.1).tally e.t [vWeaveTBagEmptyCnt, vWeaveTBagNullIdxCnt] r.2.2.2.1
  match r.2.2.2.2 with
  | some p => KernOut.bad s e.o p.1 (base + p.2) (odIn e.d)
  | none => match lim.2 with
    | some p => KernOut.bad s e.o p.1 p.2.1 p.2.2
    | none => match cols.find? (fun q => q.1.b.nullsBad) with
      | some q => KernOut.bad s e.o errWeaveNullCountMismatch q.1.b.rowBase q.2
      | none => KernOut.ok s e.o [{
          hoop := odOut e.d, fin := last,
          data := listBatch (odOutType e.d) base (r.2.1.map (fun x => match x with
            | some l => (true, l)
            | none => (false, List.replicate len 0))) }]

/-- Row `i` of a column is null. -/
def Col.nullAt (c : Col) (i : Nat) : Bool := !nth c.b.valid i false

/-- Acquire the list columns of an operation. -/
def State.getLists (s : State) (e : OpEnv) (ins : List Bytes) (t1 : Nat) (l1 : List Nat) (t2 : Option Nat)
    (f : State → List (Col × Nat) → KernOut) : KernOut :=
  let raw := ins.headD []
  match s.getCol e raw t1 l1 with
  | (s, .error c) => KernOut.bad s e.o c (hdrRowBase raw) (odIn e.d)
  | (s, .ok c) => match t2 with
    | none => f s [(c, odIn e.d)]
    | some t =>
      let raw2 := nth ins 1 []
      match s.getCol e raw2 t [4] with
      | (s, .error k) => KernOut.bad s e.o k (hdrRowBase raw2) (odIn2 e.d)
      | (s, .ok c2) =>
        if c.b.rows ≠ c2.b.rows || c.b.rowBase ≠ c2.b.rowBase then KernOut.bad s e.o errWeaveBatchMismatch c2.b.rowBase (odIn2 e.d)
        else f s [(c, odIn e.d), (c2, odIn2 e.d)]

/-- W_TYPE of IMM0. -/
def odWType (d : Bytes) : Nat := odImm0 d / 2 ^ 32 % 256

/-- `n` elements of the matrix from element `k` on (R287). -/
def State.matrix (s : State) (e : OpEnv) (k n : Nat) : State × Except Nat (List Nat) :=
  let z := typeBytes (odWType e.d)
  match s.opTable e (odTable e.d) (odColumn e.d * 64 + k * z) (n * z) with
  | (s, .error c) => (s, .error c)
  | (s, .ok d) => (s, .ok (readNums z n d))

/-! ### TILE_MATMUL -/

/-- The sum of R288 over float operands. -/
def dotF32 (a w : List Nat) : Nat := (a.zip w).foldl (fun acc p => f32.add acc (f32.mul p.1 p.2)) 0

/-- The sum of R288 over i8 operands. -/
def dotI8 (a w : List Nat) : Int := (a.zip w).foldl (fun acc p => acc + toSigned 8 p.1 * toSigned 8 p.2) 0

/-- Column `j` of a row-major matrix of `n` columns and `k` rows. -/
def matCol (m : List Nat) (n k j : Nat) : List Nat := (List.range k).map (fun i => nth m (i * n + j) 0)

/-- One output row: the elements and how many are NaN. -/
def matRow (d : Bytes) (m a : List Nat) : List Nat × Nat :=
  let k := odImm0 d % 2 ^ 16
  let n := odImm0 d / 2 ^ 16 % 2 ^ 16
  let it := odInType d
  if it = 0x02 then
    let sums := (List.range n).map (fun j => dotI8 a (matCol m n k j))
    if odOutType d = 0x04 then (sums.map (ofSigned 32), 0)
    else tileRow (odOutType d) (sums.map (fun v => f32.mul (f32.round (fvInt v)) (odImm1 d % 2 ^ 32)))
  else
    let wt := odWType d
    let mf := m.map (tileF32 wt)
    let af := a.map (tileF32 it)
    tileRow (odOutType d) ((List.range n).map (fun j => dotF32 af (matCol mf n k j)))

/-- TILE_MATMUL on a batch (R286 to R289). The matrix is read once for it. -/
def matmulKern : Kern := fun s e ins last =>
  let k := odImm0 e.d % 2 ^ 16
  let n := odImm0 e.d / 2 ^ 16 % 2 ^ 16
  s.getLists e ins (odInType e.d) [4] none (fun s cols =>
    match cols with
    | [] => KernOut.ok s e.o []
    | (c, _) :: _ => match (if c.b.rows = 0 then (s, .ok []) else s.matrix e 0 (k * n)) with
      | (s, .error code) => KernOut.bad s e.o code c.b.rowBase (odIn e.d)
      | (s, .ok m) => tileFinish e cols n last (fun s i =>
          if c.nullAt i then (s, .null)
          else
            let a := c.b.list i
            if a.length ≠ k then (s, .bad errWeaveShapeMismatch)
            else let r := matRow e.d m a; (s, .row r.1 r.2 [])) s)

/-- TILE_MATMUL (R288). -/
def execTileMatmul (h i : Nat) (s : State) : Host.Outcome State Fault Refusal :=
  .next (colEvent 0x20 (fun _ => matmulKern) (fun e => endAlone [odOut e.d]) h i s)

/-! ### EMBED_BAG -/

/-- Read the matrix rows a bag names. -/
def State.bagRows (s : State) (e : OpEnv) (d : Nat) : List Nat → State × Except Nat (List (List Nat))
  | [] => (s, .ok [])
  | i :: t => match s.matrix e (i * d) d with
    | (s, .error c) => (s, .error c)
    | (s, .ok r) => match s.bagRows e d t with
      | (s, .error c) => (s, .error c)
      | (s, .ok l) => (s, .ok (r.map (tileF32 (odWType e.d)) :: l))

/-- Reduce one element over the bag (R290): 0 sum, 1 mean, 2 max. -/
def reduce (mode : Nat) (l : List Nat) : Nat :=
  match mode, l with
  | 2, a :: t => t.foldl (fun m x => if (f32.decode m).lt (f32.decode x) then x else m) a
  | 1, _ => f32.div (l.foldl f32.add 0) (f32.round (fvInt l.length))
  | _, _ => l.foldl f32.add 0

/-- One bag: its indices with their weights. -/
def bagRow (s : State) (e : OpEnv) (idx : List Nat) (weights : Option (List Nat)) : State × RowOut :=
  let d := odImm0 e.d % 2 ^ 16
  let mode := odImm0 e.d / 2 ^ 40 % 4
  let pairs := idx.zip (match weights with | some w => w.map some | none => idx.map (fun _ => none))
  let used := pairs.filter (fun p => p.1 != 0xFFFFFFFF)
  if used.any (fun p => decide (odN e.d ≤ p.1)) then (s, .bad errWeaveIndexRange)
  else
    let nulls := List.replicate (pairs.length - used.length) vWeaveTBagNullIdxCnt
    if used.length = 0 then (s, .row (List.replicate d 0) 0 (vWeaveTBagEmptyCnt :: nulls))
    else match s.bagRows e d (used.map (·.1)) with
      | (s, .error c) => (s, .bad c)
      | (s, .ok rows) =>
        let vals := (rows.zip (used.map (·.2))).map (fun p => match p.2 with
          | some w => p.1.map (f32.mul w)
          | none => p.1)
        let r := tileRow (odOutType e.d) ((List.range d).map (fun j => reduce mode (vals.map (fun v => nth v j 0))))
        (s, .row r.1 r.2 nulls)

/-- EMBED_BAG on a batch (R286, R290). -/
def bagKern : Kern := fun s e ins last =>
  let weighted := odIn2 e.d != 0xFFFF
  s.getLists e ins 0x08 [4] (if weighted then some 0x0C else none) (fun s cols =>
    match cols with
    | [] => KernOut.ok s e.o []
    | (c, _) :: rest => tileFinish e cols (odImm0 e.d % 2 ^ 16) last (fun s i =>
        let w := rest.head?
        if c.nullAt i || (match w with | some q => q.1.nullAt i | none => false) then (s, .null)
        else match w with
          | some q =>
            if nth q.1.b.offs i 0 ≠ nth c.b.offs i 0 || nth q.1.b.offs (i + 1) 0 ≠ nth c.b.offs (i + 1) 0 then
              (s, .bad errWeaveShapeMismatch)
            else bagRow s e (c.b.list i) (some (q.1.b.list i))
          | none => bagRow s e (c.b.list i) none) s)

/-- EMBED_BAG (R290). -/
def execEmbedBag (h i : Nat) (s : State) : Host.Outcome State Fault Refusal :=
  .next (colEvent 0x21 (fun _ => bagKern) (fun e => endAlone [odOut e.d]) h i s)

/-! ### CROSS -/

/-- The type of CROSS's second operand: the one its batches carry. -/
def crossKern : Kern := fun s e ins last =>
  let dx := odImm0 e.d % 2 ^ 16
  let dy := odImm0 e.d / 2 ^ 16 % 2 ^ 16
  let t := odInType e.d
  -- the second operand is of the class of the first; its own type is the one its batches carry (notes/assumptions/53.md)
  let t2 := fieldAt (nth ins 1 []) 9 1
  let t2 := if isFloat t2 && t2 != 0x0D then t2 else t
  s.getLists e ins t [4] (some t2) (fun s cols =>
    match cols with
    | (c, _) :: (c2, _) :: _ => tileFinish e cols (dx * dy) last (fun s i =>
        if c.nullAt i || c2.nullAt i then (s, .null)
        else
          let x := c.b.list i
          let y := c2.b.list i
          if x.length ≠ dx || y.length ≠ dy then (s, .bad errWeaveShapeMismatch)
          else
            let r := tileRow (odOutType e.d) (x.flatMap (fun a => y.map (fun b => f32.mul (tileF32 t a) (tileF32 t2 b))))
            (s, .row r.1 r.2 [])) s
    | _ => KernOut.ok s e.o [])

/-- CROSS (R291). -/
def execCross (h i : Nat) (s : State) : Host.Outcome State Fault Refusal :=
  .next (colEvent 0x22 (fun _ => crossKern) (fun e => endAlone [odOut e.d]) h i s)

/-! ### ONEHOT_MM -/

/-- ONEHOT_MM on a batch (R292). -/
def onehotKern : Kern := fun s e ins last =>
  let d := odImm0 e.d % 2 ^ 16
  s.getLists e ins 0x08 [0] none (fun s cols =>
    match cols with
    | [] => KernOut.ok s e.o []
    | (c, _) :: _ => tileFinish e cols d last (fun s i =>
        let b := c.b.elem i
        if c.nullAt i || b == 0xFFFFFFFF then (s, .null)
        else if odN e.d ≤ b then (s, .bad errWeaveIndexRange)
        else match s.matrix e (b * d) d with
          | (s, .error code) => (s, .bad code)
          | (s, .ok r) =>
            let r := tileRow (odOutType e.d) (r.map (fun v =>
              let x := tileF32 (odWType e.d) v
              if (f32.decode x).isZero then 0 else x))
            (s, .row r.1 r.2 [])) s)

/-- ONEHOT_MM (R292). -/
def execOnehotMm (h i : Nat) (s : State) : Host.Outcome State Fault Refusal :=
  .next (colEvent 0x23 (fun _ => onehotKern) (fun e => endAlone [odOut e.d]) h i s)

end Sys2Proof.Machine
end

