-- ==== Sys2Proof/Machine/Course.lean ====
section
/-! DEFINITION. Courses (spec/05, R183 to R187; spec/16, R488; spec/03, R110; spec/15, R446): when one starts, what its first cycle sets up,
when it has finished, and its overrun. -/

namespace Sys2Proof.Machine

/-! ### Strand packages (Tables 15-3 and 15-4) -/

def spN (b : Bytes) : Nat := if rhStrandOff b = 0 then 0 else fieldAt b (rhStrandOff b + 6) 2
def spRec (b : Bytes) (i : Nat) : Bytes := slice b (rhStrandOff b + fieldAt b (rhStrandOff b + 0xC) 4 + 32 * i) 32
def srCourse (d : Bytes) : Nat := fieldAt d 2 1
def srCore (d : Bytes) : Nat := fieldAt d 3 1
def srEntry (d : Bytes) : Nat := fieldAt d 4 4
def srCodeOff (d : Bytes) : Nat := fieldAt d 8 4
def srCodeBytes (d : Bytes) : Nat := fieldAt d 0xC 4
def srDataOff (d : Bytes) : Nat := fieldAt d 0x10 4
def srDataBytes (d : Bytes) : Nat := fieldAt d 0x14 4
def srArg (d : Bytes) : Nat := fieldAt d 0x18 8

/-- The routines of a course. -/
def courseRoutines (b : Bytes) (c : Nat) : List Bytes := ((List.range (spN b)).map (spRec b)).filter (fun d => srCourse d == c)

/-- Bytes as cells from an address, zeros left out. -/
def cellsFrom (a : Nat) : Bytes → List Host.Cell
  | [] => []
  | x :: t => if x = 0 then cellsFrom (a + 1) t else (a, x) :: cellsFrom (a + 1) t

/-- Bytes of the code region: CODE_BYTES rounded up to 64 B (R446). -/
def codeRegion (d : Bytes) : Nat := roundUp (srCodeBytes d) 64

/-- The x registers at routine entry (Table 15-5): ra, sp, a0, a1, a2. -/
def entryRegs (d : Bytes) (c : Nat) : List (BitVec 64) :=
  (List.range 32).map (fun i =>
    if i = 1 ∨ i = 2 then 0x1C000#64
    else if i = 10 then BitVec.ofNat 64 (srArg d)
    else if i = 11 then BitVec.ofNat 64 (srCore d)
    else if i = 12 then BitVec.ofNat 64 c
    else 0)

/-- A core at routine entry, its local SRAM holding the routine's code and data (R446, Table 15-5). -/
def coreAtEntry (r : Rota) (c : Nat) (d code data : Bytes) : Core :=
  { core := r.phys c 2 (srCore d), inst := srCore d, pc := srEntry d, x := entryRegs d c, f := List.replicate 32 0, fcsr := 0, cycle := 0,
    instret := 0, code := codeRegion d, sram := cellsFrom 0 code ++ cellsFrom (codeRegion d) data, stores := [], resv := none,
    stakeSel := 0, hoopSel := 0, drawStream := 0, drawIndex := 0, load := none, ended := false }

/-- Load the routines of a course from the Strand image (R444, R446). -/
def State.loadCores (s : State) (r : Rota) (c : Nat) : List Bytes → State × Except (Nat × Nat) (List Core)
  | [] => (s, .ok [])
  | d :: rest =>
    let t := handleTenant r.handle
    match s.readMem t .ory r.strict (r.strandAt + srCodeOff d) (srCodeBytes d) with
    | (s, .error e) => (s, .error (e, r.phys c 2 (srCore d)))
    | (s, .ok code) => match s.readMem t .ory r.strict (r.strandAt + srDataOff d) (srDataBytes d) with
      | (s, .error e) => (s, .error (e, r.phys c 2 (srCore d)))
      | (s, .ok data) => match s.loadCores r c rest with
        | (s, .error e) => (s, .error e)
        | (s, .ok l) => (s, .ok (coreAtEntry r c d code data :: l))

/-! ### When a course may start (R488) -/

/-- A task's course `k` is still to finish and will: the task is unpublished and unaborted, or it runs `k` now. -/
def Task.owes (x : Task) (k : Nat) : Bool :=
  if x.decided || x.abort.isSome then x.busy && x.nextCourse == k else decide (x.nextCourse ≤ k)

/-- The oldest unpublished, unaborted task of the Rota for which course `c` has not run. -/
def State.oldestFor (s : State) (h c : Nat) : Option Task :=
  (s.tasksOf (handleTenant h)).find? (fun x => x.handle == h && !x.decided && x.abort.isNone && decide (x.nextCourse ≤ c))

/-- An older task has an unfinished course with `c`'s BEAT_OFF. -/
def State.olderOwes (s : State) (r : Rota) (x : Task) (c : Nat) : Bool :=
  (s.tasksOf (handleTenant r.handle)).any (fun y => y.handle == r.handle && decide (y.seq < x.seq)
    && (List.range (rhNCourse r.bin)).any (fun k => rcBeatOff r.bin k == rcBeatOff r.bin c && y.owes k))

/-- The SENSOR_IN operations of a course. -/
def courseSensors (b : Bytes) (c : Nat) : List Nat := (courseOps b .sample c).filter (fun i => mdKind (opRec b .sample i) == 4)

/-- A channel of a Rota. -/
def Rota.chan? (r : Rota) (smp : Nat) : Option Chan :=
  match r.sensors.find? (fun x => x.smp == smp) with
  | some x => some { r := r, sn := x, d := opRec r.bin .sample smp }
  | none => none

/-- Every external input stream of the course is staged for a task in beat `b` (R187). -/
def Rota.stagedFor (r : Rota) (x : Task) (c b : Nat) : Bool :=
  (courseStreams r.bin c).all (fun i =>
    if rsOut r.bin i then true
    else if rsSpace r.bin i = 1 then decide (stageTotal r.bin i ≤ sparseGet 0 x.staged i)
    else if rsSpace r.bin i = 3 then
      match r.peerOf i with
      | none => false
      | some (d, p) => decide (piSrc d ≤ (nth p.marks (x.pub % Nat.max 1 (piDepth d)) []).length)
    else true)
  && (courseSensors r.bin c).all (fun i => match r.chan? i with
      | some k => sdMark k.d || k.staged b
      | none => true)

/-! ### The first cycle -/

/-- A stream context at its course's first cycle: PERSISTENT streams re-arm (R184), others start cleared (R185). -/
def armStream (b bind : Bytes) (i : Nat) (x : StreamCtx) : StreamCtx :=
  let x := if rsPersistent b i then x else { x with armed := false, coil := Coil.empty }
  match btFind bind i with
  | some e => { x with armed := true, host := btHost bind e, base := btBase bind e, size := btBytes bind e }
  | none => x

def newStream (i : Nat) : StreamRun :=
  { idx := i, pos := 0, bytes := 0, nextNo := 0, inFlight := [], row := none, desc := none, nDesc := 0, lastElem := 0, slotNo := 0,
    slotOff := 0, drvNo := 0, drvOff := 0, raw := [], rawPos := 0, late := [], frameOut := 0, ended := false }

/-- The hoops of a course, their slots one after another in the work area in record order (R173; notes/assumptions/15.md). -/
def newHoops (b : Bytes) (off : Nat) : List Nat → List Hoop
  | [] => []
  | i :: t => { idx := i, start := off, rsv := 0, tail := 0, head := 0, acq := 0, ended := false, done := [], slots := [] }
      :: newHoops b (off + rpSlots b i * rpSlotBytes b i) t

/-- What a SENSOR_IN has to deliver for beat `b` (R418). -/
def Rota.sensorOut (r : Rota) (x : Task) (i b : Nat) : List OutBatch :=
  match r.chan? i with
  | some k => recordOuts r.bin (mdOut k.d) ((List.range (sdN k.d)).map (k.record b x.sampleBase)) true
  | none => []

/-- The operations of a course. A PEER_IN has nothing to run, and a SENSOR_IN only to deliver what it holds. -/
def Rota.newOps (r : Rota) (x : Task) (c b : Nat) : List OpRun :=
  [OpList.weave, .quotient, .select, .arbour, .sample, .network].flatMap (fun l => (courseOps r.bin l c).map (fun i =>
    let d := opRec r.bin l i
    let sensor := l == .sample && mdKind d == 4
    let peer := l == .network && fieldAt d 3 1 == 1
    { key := opKey l i, stage := if sensor || peer then 2 else 0, nums := [], rows := [], pairs := [], table := [],
      outQ := if sensor then r.sensorOut x i b else [] }))

/-- The four words of TEN_SEED in force (R421). -/
def State.seedOf (s : State) (t : Nat) : List Nat := (List.range 4).map (fun k => fileN s.pf0 (tenKey t (rTenSeed + 4 * k)))

/-- The generation of each PARAM table a course uses, in ascending TABLE (R59). -/
def Rota.gensOf (r : Rota) (c : Nat) : List (Nat × Nat) :=
  (tablesByNumber r.bin ((courseTables r.bin c).filter (roParam r.bin))).map (fun i =>
    (roTable r.bin i, match r.region? i with | some g => g.gen | none => 0))

/-- The frames a course takes leave their channels, which serve beat `b` until it has drained; absent positions are counted (R417, R418). -/
def State.takeFrames (s : State) (r : Rota) (c b : Nat) : State :=
  (courseSensors r.bin c).foldl (fun s i => match r.chan? i with
    | none => s
    | some k =>
      let n := ((List.range (sdN k.d)).filter (fun p => (k.frame? b p).isNone)).length
      (s.updSensor r.handle i (fun q => { q with
        served := some b, frames := q.frames.filter (fun f => decide (f.beat + sdLag k.d ≠ b)) })).vcount
          (handleTenant r.handle) vNetTSensorAbsentCnt n) s

/-- The table area holds course `c`'s tables; they are fetched now when the standby fetch was for another course, which happens after an abort
(R134, R614). -/
def State.ensureTables (s : State) (r : Rota) (x : Task) (c : Nat) : State :=
  if r.standby = some c then s else s.fetchLoose r c r.ring x.binding false

/-- The first cycle of course `c` of Rota `r` for task `x` in beat `b`: tables, init tags (R130), accounts (R213), stakes (R222), streams (R184,
R185), hoops, operations, routines (R446), and the standby fetch of the next course (R134). -/
def State.startCourse (s : State) (r : Rota) (x : Task) (c b : Nat) : State :=
  let h := r.handle
  let t := handleTenant h
  let s := s.ensureTables r x c
  let s := s.updRota h (fun q => { q with standby := some c, acc := { read := 0, write := 0, remote := 0 } })
  let n := roundUp (rcOryWork r.bin c) 128
  let size := ringSpan r.bin
  let first := if size = 0 then n else Nat.min n (size - r.workOff c % size)
  let s := (s.clearTags t (r.ringAt (r.workOff c)) first).clearTags t (r.ringAt 0) (n - first)
  let s := (if rcReuse r.bin c then s.clearStakes r.pairs else s)
  let rearmed := ((courseStreams r.bin c).filter (rsPersistent r.bin)).length
  let s := s.vcount t vStrmTRearmCnt rearmed
  let s := s.updRota h (fun q => { q with streams := (List.range q.streams.length).map (fun i =>
    if (courseStreams r.bin c).contains i then armStream r.bin x.binding i (q.streamCtx i) else q.streamCtx i) })
  match s.loadCores r c (courseRoutines r.bin c) with
  | (s, .error _) => s
  | (s, .ok cores) =>
    let run : CourseRun := {
      seq := x.seq, course := c, beat := b, cycles := 0, hoops := newHoops r.bin (r.workOff c) (courseHoops r.bin c),
      streams := (courseStreams r.bin c).map newStream, ops := r.newOps x c b, cores := cores, gens := r.gensOf c, seed := s.seedOf t }
    let s := s.updRota h (fun q => { q with course := some run })
    let s := s.updTask t x.seq (fun y => { y with busy := true })
    let s := s.takeFrames r c b
    let s := (courseSensors r.bin c).foldl (fun s i => match s.opEnv h .sample i with
      | some e => s.flushAll e e.sensorPort
      | none => s) s
    s.fetchLoose r (rotaNext r.bin c) (r.standbyOff c) x.binding (rotaNext r.bin c == 0)

/-- A routine that cannot be loaded, because a word of its image is beyond correction, faults its course at the start (R613). -/
def State.loadFault (s : State) (r : Rota) (x : Task) (c : Nat) : State :=
  match s.loadCores r c (courseRoutines r.bin c) with
  | (s, .error e) => s.abortTask (handleTenant r.handle) x.seq e.1 (0x30 + e.2) 0xFFFF 0 2
  | (_, .ok _) => s

/-- The course a tenant may start now: the task, and whether its inputs are staged. -/
def State.startable (s : State) (h c : Nat) : Option (Rota × Task × Bool) :=
  match s.rota? h with
  | none => none
  | some r =>
    let resetting := match s.tenant? (handleTenant h) with | some x => x.phase != .active | none => true
    if s.beat.lost || !s.beat.started || resetting || r.course.isSome || r.standby.isNone || decide (rhNCourse r.bin ≤ c) then none
    else match s.oldestFor h c with
      | none => none
      | some x =>
        if x.nextCourse = c ∧ x.busy = false ∧ x.assigned + rcBeatOff r.bin c ≤ s.beat.number + rhSpan r.bin ∧ s.olderOwes r x c = false then
          some (r, x, r.stagedFor x c s.beat.number)
        else none

/-- COURSE_START: at the first cycle of course `c`'s first window in the current beat, the device starts it for the oldest eligible task, or
gates it when only staging fails (R87, R488). -/
def execCourseStart (h c : Nat) (s : State) : Host.Outcome State Fault Refusal :=
  match s.startable h c with
  | none => .next s
  | some (_, _, false) =>
    .next ((s.vcount (handleTenant h) vStrmTGateWaitCnt 1).logOpen errStrmGateWait (handleTenant h) 0)
  | some (r, x, true) =>
    match s.loadCores r c (courseRoutines r.bin c) with
    | (_, .error _) => .next (s.loadFault r x c)
    | (_, .ok _) => .next (s.startCourse r x c s.beat.number)

/-! ### The end of a course (R183) -/

/-- A hoop is empty and its stream or unit has passed END. -/
def Hoop.over (k : Hoop) : Bool := k.ended && k.head == k.tail && k.rsv == k.tail

/-- An operation has done its end work, and all it made has gone out; the first member of a STATS group has emitted its record (R261). -/
def CourseRun.opOver (c : CourseRun) (b : Bytes) (o : OpRun) : Bool :=
  let weave := decide (0x10000 ≤ o.key ∧ o.key < 0x20000)
  let d := opRec b .weave (o.key - 0x10000)
  let first := c.ops.all (fun k =>
    let f := opRec b .weave (k.key - 0x10000)
    !(decide (0x10000 ≤ k.key ∧ k.key < 0x20000) && odOpcode f == 0x0F && odColumn f == odColumn d && decide (odEngine f < odEngine d)))
  decide (2 ≤ o.stage) && o.outQ.isEmpty && (!(weave && odOpcode d == 0x0F && first) || decide (3 ≤ o.stage))

/-- Every stream has passed its END slot, every hoop is empty, the last drain is over, and every routine has ended. -/
def CourseRun.over (c : CourseRun) (b : Bytes) : Bool :=
  c.streams.all (fun q => q.ended && q.inFlight.isEmpty && (q.raw.isEmpty || !rsOut b q.idx || rsMode b q.idx == 2)) && c.hoops.all (·.over)
    && c.ops.all (c.opOver b) && c.cores.all (·.ended)

/-- The tiers that become ready when course `c` has finished: those of its own streams that no discard has lost (R49, R478). -/
def tiersOf (b : Bytes) (c : Nat) (lost : List Nat) (ready : List Bool) : List Bool :=
  (List.range 8).map (fun k => nth ready k false
    || (!lost.contains k && (List.range (rhNTier b)).any (fun i => rtTier b i == k && rtCourse b i == c)))

/-- The course of a task has finished. -/
def Task.finished (x : Task) (b : Bytes) (c : Nat) : Task :=
  { x with nextCourse := x.nextCourse + 1, busy := false, done := decide (rhNCourse b ≤ x.nextCourse + 1),
           ready := tiersOf b c x.lost x.ready }

/-- COURSE_FINISH: the course Rota `h` runs finishes once it is over (R183); its work area is freed, its tiers are ready, and a task already
published is forgotten. -/
def execCourseFinish (h : Nat) (s : State) : Host.Outcome State Fault Refusal :=
  match s.running h with
  | none => .next s
  | some (r, c) =>
    if !c.over r.bin then .next s
    else
      let t := handleTenant h
      let s := (s.updRota h Rota.dropCourse).updTask t c.seq (fun x => x.finished r.bin c.course)
      let s := { s with tasks := s.tasks.filter (fun x => !(x.tenant == t && x.seq == c.seq && x.decided)) }
      .next (s.settleOwners h)

/-- ROTA_COURSE_OVERRUN: a course that has run W_cyc × n cycles without finishing is stopped, and its task aborted (R110). -/
def execRotaCourseOverrun (h : Nat) (s : State) : Host.Outcome State Fault Refusal :=
  match s.running h with
  | none => .next s
  | some (r, c) =>
    let t := handleTenant h
    let n := (nth r.place c.course { first := 0, count := 0, insts := [] }).count
    let s := s.updCourse h (fun c => { c with cycles := s.admEnv.wCyc r.bin * n })
    let s := s.vcount t vRotaTOverrunCnt 1
    .next (s.abortTask t c.seq errRotaCourseOverrun c.course 0xFFFF 0 0)

/-! ### Waits on stakes (R226) -/

/-- A wait is satisfied (R216). -/
def State.satisfied (s : State) (w : StakeWait) : Bool := reached ((s.stake w.pair).count w.full) w.target

/-- The first eight satisfied waits on a pair, in ascending requester index. -/
def State.toRelease (s : State) (p : Nat) : List StakeWait :=
  (((s.waits.filter (fun w => w.pair == p && s.satisfied w)).foldl (fun l w => insertBy (·.requester) w l) []).take 8)

end Sys2Proof.Machine
end

