-- ==== Sys2Proof/Machine/RvFloat.lean ====
section
/-! DEFINITION. The floating point of a Strand core (spec/15, R438, Table 15-1): the F and D extensions of the RISC-V unprivileged
specification, with their five rounding modes and accrued exceptions. What that specification says beyond Table 15-1 is PRESUMED
(notes/assumptions/60.md). -/

namespace Sys2Proof.Machine

/-! ### Rounding modes and flags: NX 1, UF 2, OF 4, DZ 8, NV 16 -/

/-- The rounding modes of the F extension. -/
inductive Rm where
  | rne | rtz | rdn | rup | rmm
  deriving DecidableEq, Repr

/-- A result and the exceptions it accrues. -/
abbrev FpOut := Nat × Nat

def rmOf (n : Nat) : Option Rm :=
  if n = 0 then some .rne else if n = 1 then some .rtz else if n = 2 then some .rdn else if n = 3 then some .rup
  else if n = 4 then some .rmm else none

/-- A magnitude in units of 2^t, rounded in a mode, and whether it was inexact. -/
def roundRm (rm : Rm) (neg : Bool) (man : Nat) (exp t : Int) : Nat × Bool :=
  if t ≤ exp then (man * 2 ^ (exp - t).toNat, false)
  else
    let sh := (t - exp).toNat
    let q := man / 2 ^ sh
    let r := man % 2 ^ sh
    let up := match rm with
      | .rne => decide (2 ^ sh < 2 * r) || (decide (2 * r = 2 ^ sh) && q % 2 == 1)
      | .rtz => false
      | .rdn => neg
      | .rup => !neg
      | .rmm => decide (2 ^ sh ≤ 2 * r)
    (if decide (r ≠ 0) && up then q + 1 else q, decide (r ≠ 0))

/-- Overflow of a rounding goes to infinity rather than to the largest finite number. -/
def Rm.toInf (rm : Rm) (neg : Bool) : Bool :=
  match rm with
  | .rne => true | .rmm => true | .rtz => false | .rdn => neg | .rup => !neg

/-- Round a value to a format in a mode, with overflow, underflow (tininess after rounding) and inexact. -/
def Fmt.roundRm (f : Fmt) (rm : Rm) : FV → FpOut
  | .nan => (f.qnan, 0)
  | .inf neg => (f.infBits neg, 0)
  | .fin neg man exp =>
    let sign := ofBool neg * 2 ^ (f.e + f.m)
    if man = 0 then (sign, 0)
    else
      let top : Int := exp + (Nat.log2 man : Int) - (f.m : Int)
      let t := if top < f.emin then f.emin else top
      let q := Sys2Proof.Machine.roundRm rm neg man exp t
      let b := (t - f.emin).toNat * 2 ^ f.m + q.1
      let inf := (2 ^ f.e - 1) * 2 ^ f.m
      if inf ≤ b then (if rm.toInf neg then inf + sign else inf - 1 + sign, 5)
      else
        let wide := Sys2Proof.Machine.roundRm rm neg man exp top
        let tiny := decide (top < f.emin) && !(wide.1 == 2 ^ (f.m + 1) && decide (top + 1 = f.emin))
        (b + sign, if q.2 then (if tiny then 3 else 1) else 0)

/-! ### Arithmetic -/

/-- A signalling NaN. -/
def Fmt.snan (f : Fmt) (b : Nat) : Bool :=
  bits b (f.e + f.m - 1) f.m == 2 ^ f.e - 1 && b % 2 ^ f.m != 0 && !bit b (f.m - 1)

def FV.invalid : FV → Bool
  | .nan => true
  | _ => false

/-- An exact sum whose zero has the sign its rounding mode gives it. -/
def sumRm (rm : Rm) (a b : FV) : FV :=
  match a.add b with
  | .fin _ 0 e => if a.sign = b.sign then .fin a.sign 0 e else .fin (rm == .rdn) 0 e
  | v => v

/-- NV when an operand is signalling, or when a NaN comes from operands that are not. -/
def Fmt.nv (f : Fmt) (ops : List Nat) (v : FV) : Nat :=
  if ops.any f.snan || (v.isNan && ops.all (fun b => !(f.decode b).isNan)) then 16 else 0

def Fmt.addRm (f : Fmt) (rm : Rm) (a b : Nat) : FpOut :=
  let v := sumRm rm (f.decode a) (f.decode b)
  let r := f.roundRm rm v
  (r.1, r.2 ||| f.nv [a, b] v)

/-- The pattern with its sign inverted. -/
def Fmt.flip (f : Fmt) (b : Nat) : Nat := b ^^^ 2 ^ (f.e + f.m)

def Fmt.subRm (f : Fmt) (rm : Rm) (a b : Nat) : FpOut := f.addRm rm a (f.flip b)

def Fmt.mulRm (f : Fmt) (rm : Rm) (a b : Nat) : FpOut :=
  let v := (f.decode a).mul (f.decode b)
  let r := f.roundRm rm v
  (r.1, r.2 ||| f.nv [a, b] v)

def Fmt.divRm (f : Fmt) (rm : Rm) (a b : Nat) : FpOut :=
  let x := f.decode a
  let y := f.decode b
  let v := FV.div (f.m + 1) x y
  let r := f.roundRm rm v
  let dz := if x.isFinite && !x.isZero && y.isZero then 8 else 0
  (r.1, r.2 ||| f.nv [a, b] v ||| dz)

def Fmt.sqrtRm (f : Fmt) (rm : Rm) (a : Nat) : FpOut :=
  let v := FV.sqrt (f.m + 1) (f.decode a)
  let r := f.roundRm rm v
  (r.1, r.2 ||| f.nv [a] v)

/-- a × b + c, rounded once; an infinity times zero is invalid whatever c is. -/
def Fmt.fmaRm (f : Fmt) (rm : Rm) (a b c : Nat) : FpOut :=
  let p := (f.decode a).mul (f.decode b)
  let v := sumRm rm p (f.decode c)
  let r := f.roundRm rm v
  (r.1, r.2 ||| f.nv [a, b, c] v ||| f.nv [a, b] p)

/-- FMIN and FMAX: one NaN gives the other operand, two give the canonical NaN; -0 is below +0. -/
def Fmt.minmax (f : Fmt) (max : Bool) (a b : Nat) : FpOut :=
  let x := f.decode a
  let y := f.decode b
  let nv := if f.snan a || f.snan b then 16 else 0
  let pick := fun (l : Bool) => if l then a else b
  (if x.isNan && y.isNan then f.qnan else if x.isNan then b else if y.isNan then a
   else
    let below := if x.compare y = .eq then x.sign && !y.sign else x.compare y == .lt
    pick (below != max), nv)

/-- FLE 0, FLT 1, FEQ 2. -/
def Fmt.cmp (f : Fmt) (k a b : Nat) : FpOut :=
  let x := f.decode a
  let y := f.decode b
  let nan := x.isNan || y.isNan
  let nv := if k = 2 then f.snan a || f.snan b else nan
  (ofBool (if k = 0 then x.le y else if k = 1 then x.lt y else x.eqv y), if nv then 16 else 0)

/-- FCLASS. -/
def Fmt.classify (f : Fmt) (b : Nat) : Nat :=
  match f.decode b with
  | .nan => if f.snan b then 2 ^ 8 else 2 ^ 9
  | .inf n => if n then 1 else 2 ^ 7
  | .fin n m _ =>
    if m = 0 then (if n then 2 ^ 3 else 2 ^ 4)
    else if m < 2 ^ f.m then (if n then 2 ^ 2 else 2 ^ 5)
    else (if n then 2 ^ 1 else 2 ^ 6)

/-- A value rounded to an integer in a mode. -/
def FV.toIntRm (rm : Rm) : FV → Int × Bool
  | .fin n m e =>
    let q := roundRm rm n m e 0
    (if n then -(q.1 : Int) else (q.1 : Int), q.2)
  | _ => (0, false)

/-- Conversion to a `w`-bit integer, signed or not: out of range and NaN saturate and are invalid. -/
def FV.toWord (rm : Rm) (w : Nat) (signed : Bool) (v : FV) : FpOut :=
  let lo : Int := if signed then -((2 ^ (w - 1) : Nat) : Int) else 0
  let hi : Int := if signed then ((2 ^ (w - 1) : Nat) : Int) - 1 else ((2 ^ w : Nat) : Int) - 1
  match v with
  | .nan => (ofSigned w hi, 16)
  | .inf n => (ofSigned w (if n then lo else hi), 16)
  | .fin _ _ _ =>
    let r := v.toIntRm rm
    if r.1 < lo then (ofSigned w lo, 16) else if hi < r.1 then (ofSigned w hi, 16) else (ofSigned w r.1, ofBool r.2)

/-- Conversion between formats. -/
def Fmt.convert (f g : Fmt) (rm : Rm) (b : Nat) : FpOut :=
  let r := g.roundRm rm (f.decode b)
  (r.1, r.2 ||| (if f.snan b then 16 else 0))

end Sys2Proof.Machine
end

