-- ==== Sys2Proof/Machine/Rv.lean ====
section
/-! DEFINITION. The instructions of a Strand core (spec/15, R438, Table 15-1): RV64I, M, A, F, D, C, Zicsr, Zifencei, Zba and Zbb, as the
RISC-V unprivileged specification gives them (PRESUMED where spec/15 does not repeat it: notes/assumptions/60.md). What an instruction asks of
the device is its action; `Strands` performs it. -/

namespace Sys2Proof.Machine

/-- What an instruction does, beyond the registers it has set. -/
inductive Act where
  /-- It retires; the core is as it leaves it. -/
  | done (c : Core)
  /-- It raises an exception: a code of Table 15-9 and its trap value. -/
  | trap (code tval : Nat)
  | load (rd : Nat) (float : Bool) (addr n : Nat) (signed : Bool)
  | store (addr n v : Nat)
  | lr (rd addr n : Nat)
  | sc (rd addr n v : Nat)
  | amo (rd addr n op v : Nat)
  | fence
  | ecall
  /-- A CSR instruction on a CSR of Table 15-6: op 1 swap, 2 set, 3 clear; `src` its operand, `none` when rs1 is x0 or the immediate is 0. -/
  | csr (rd num op : Nat) (src : Option (BitVec 64))
  deriving Repr

/-! ### Registers -/

/-- An x register; x0 reads 0. -/
def Core.reg (c : Core) (i : Nat) : BitVec 64 := if i = 0 then 0 else nth c.x i 0

/-- Write an x register; a write to x0 is discarded. -/
def Core.setReg (c : Core) (i : Nat) (v : BitVec 64) : Core := if i = 0 then c else { c with x := modifyAt c.x i (fun _ => v) }

def Core.freg (c : Core) (i : Nat) : BitVec 64 := nth c.f i 0
def Core.setFreg (c : Core) (i : Nat) (v : BitVec 64) : Core := { c with f := modifyAt c.f i (fun _ => v) }

/-- A single held in an f register: NaN-boxed, or the canonical NaN. -/
def Core.single (c : Core) (i : Nat) : Nat :=
  let v := (c.freg i).toNat
  if v / 2 ^ 32 = 0xFFFFFFFF then v % 2 ^ 32 else f32.qnan

/-- A single as an f register holds it. -/
def boxed (v : Nat) : BitVec 64 := BitVec.ofNat 64 (0xFFFFFFFF * 2 ^ 32 + v % 2 ^ 32)

/-- Accrue floating-point exceptions. -/
def Core.accrue (c : Core) (flags : Nat) : Core := { c with fcsr := c.fcsr ||| flags % 32 }

/-- The instruction ends and the next one follows `len` bytes on. -/
def Core.on (c : Core) (len : Nat) : Core := { c with pc := (c.pc + len) % 2 ^ 64 }

/-! ### Fields -/

def iOp (w : Nat) : Nat := bits w 6 0
def iRd (w : Nat) : Nat := bits w 11 7
def iF3 (w : Nat) : Nat := bits w 14 12
def iRs1 (w : Nat) : Nat := bits w 19 15
def iRs2 (w : Nat) : Nat := bits w 24 20
def iF7 (w : Nat) : Nat := bits w 31 25
def iRs3 (w : Nat) : Nat := bits w 31 27

def sx (w v : Nat) : BitVec 64 := BitVec.ofInt 64 (toSigned w v)

def immI (w : Nat) : BitVec 64 := sx 12 (bits w 31 20)
def immS (w : Nat) : BitVec 64 := sx 12 (bits w 31 25 * 32 + bits w 11 7)
def immB (w : Nat) : BitVec 64 := sx 13 (bits w 31 31 * 4096 + bits w 7 7 * 2048 + bits w 30 25 * 32 + bits w 11 8 * 2)
def immU (w : Nat) : BitVec 64 := sx 32 (bits w 31 12 * 4096)
def immJ (w : Nat) : BitVec 64 := sx 21 (bits w 31 31 * 2 ^ 20 + bits w 19 12 * 4096 + bits w 20 20 * 2048 + bits w 30 21 * 2)

/-- The low word sign-extended. -/
def sextW (v : BitVec 64) : BitVec 64 := (v.setWidth 32).signExtend 64

/-! ### Integer operations -/

def boolW (b : Bool) : BitVec 64 := if b then 1 else 0

/-- Count of leading zeros of the low `n` bits. -/
def clzFrom (v : Nat) : Nat → Nat
  | 0 => 0
  | k + 1 => if bit v k then 0 else 1 + clzFrom v k

/-- Count of trailing zeros of `n` bits. -/
def ctzOf (v n : Nat) : Nat := match (List.range n).find? (bit v) with | some i => i | none => n

def popOf (v n : Nat) : Nat := ((List.range n).filter (bit v)).length

def rolBits (n v k : Nat) : Nat := (v * 2 ^ (k % n) + v / 2 ^ (n - k % n)) % 2 ^ n

/-- Bytes of a number, with a function on each. -/
def mapBytes (f : Nat → Nat) (v : Nat) : Nat := leNat ((List.range 8).map (fun i => BitVec.ofNat 8 (f (v / 256 ^ i % 256))))

def revBytes (v : Nat) : Nat := leNat ((leBytes 8 v).reverse)

/-- Signed division as RISC-V gives it: by zero all ones, overflow the dividend. -/
def divS (w : Nat) (a b : Nat) : Nat :=
  let x := toSigned w a
  let y := toSigned w b
  if y = 0 then 2 ^ w - 1 else ofSigned w (x.tdiv y)
def remS (w : Nat) (a b : Nat) : Nat :=
  let x := toSigned w a
  let y := toSigned w b
  if y = 0 then ofSigned w x else ofSigned w (x.tmod y)
def divU (w : Nat) (a b : Nat) : Nat := if b % 2 ^ w = 0 then 2 ^ w - 1 else a % 2 ^ w / (b % 2 ^ w)
def remU (w : Nat) (a b : Nat) : Nat := if b % 2 ^ w = 0 then a % 2 ^ w else a % 2 ^ w % (b % 2 ^ w)

/-- OP: register-register operations of 64 bits, by funct7 and funct3. -/
def opReg (f7 f3 : Nat) (a b : BitVec 64) : Option (BitVec 64) :=
  let sh := b.toNat % 64
  if f7 = 0x00 then
    some (if f3 = 0 then a + b else if f3 = 1 then a <<< sh else if f3 = 2 then boolW (a.slt b) else if f3 = 3 then boolW (a.ult b)
      else if f3 = 4 then a ^^^ b else if f3 = 5 then a >>> sh else if f3 = 6 then a ||| b else a &&& b)
  else if f7 = 0x20 then
    if f3 = 0 then some (a - b) else if f3 = 5 then some (a.sshiftRight sh) else if f3 = 4 then some (~~~(a ^^^ b))
    else if f3 = 6 then some (a ||| ~~~b) else if f3 = 7 then some (a &&& ~~~b) else none
  else if f7 = 0x01 then
    let u := fun (v : Nat) => BitVec.ofNat 64 v
    some (if f3 = 0 then a * b
      else if f3 = 1 then BitVec.ofInt 64 (a.toInt * b.toInt / ((2 ^ 64 : Nat) : Int))
      else if f3 = 2 then BitVec.ofInt 64 (a.toInt * (b.toNat : Int) / ((2 ^ 64 : Nat) : Int))
      else if f3 = 3 then u (a.toNat * b.toNat / 2 ^ 64)
      else if f3 = 4 then u (divS 64 a.toNat b.toNat)
      else if f3 = 5 then u (divU 64 a.toNat b.toNat)
      else if f3 = 6 then u (remS 64 a.toNat b.toNat)
      else u (remU 64 a.toNat b.toNat))
  else if f7 = 0x10 then
    if f3 = 2 then some (b + (a <<< 1)) else if f3 = 4 then some (b + (a <<< 2)) else if f3 = 6 then some (b + (a <<< 3)) else none
  else if f7 = 0x05 then
    if f3 = 4 then some (if a.slt b then a else b) else if f3 = 5 then some (if a.ult b then a else b)
    else if f3 = 6 then some (if a.slt b then b else a) else if f3 = 7 then some (if a.ult b then b else a) else none
  else if f7 = 0x30 then
    if f3 = 1 then some (BitVec.ofNat 64 (rolBits 64 a.toNat sh))
    else if f3 = 5 then some (BitVec.ofNat 64 (rolBits 64 a.toNat (64 - sh))) else none
  else none

/-- OP-32, and the unsigned-word forms of Zba. -/
def opReg32 (f7 f3 rs2 : Nat) (a b : BitVec 64) : Option (BitVec 64) :=
  let x : BitVec 32 := a.setWidth 32
  let y : BitVec 32 := b.setWidth 32
  let sh := b.toNat % 32
  let uw : BitVec 64 := x.setWidth 64
  let s := fun (v : BitVec 32) => some (v.signExtend 64)
  let n := fun (v : Nat) => some ((BitVec.ofNat 32 v).signExtend 64)
  if f7 = 0x00 then if f3 = 0 then s (x + y) else if f3 = 1 then s (x <<< sh) else if f3 = 5 then s (x >>> sh) else none
  else if f7 = 0x20 then if f3 = 0 then s (x - y) else if f3 = 5 then s (x.sshiftRight sh) else none
  else if f7 = 0x01 then
    if f3 = 0 then s (x * y) else if f3 = 4 then n (divS 32 x.toNat y.toNat) else if f3 = 5 then n (divU 32 x.toNat y.toNat)
    else if f3 = 6 then n (remS 32 x.toNat y.toNat) else if f3 = 7 then n (remU 32 x.toNat y.toNat) else none
  else if f7 = 0x04 then
    if f3 = 0 then some (b + uw) else if f3 = 4 ∧ rs2 = 0 then some ((a.setWidth 16).setWidth 64) else none
  else if f7 = 0x10 then
    if f3 = 2 then some (b + (uw <<< 1)) else if f3 = 4 then some (b + (uw <<< 2)) else if f3 = 6 then some (b + (uw <<< 3)) else none
  else if f7 = 0x30 then
    if f3 = 1 then n (rolBits 32 x.toNat sh) else if f3 = 5 then n (rolBits 32 x.toNat (32 - sh)) else none
  else none

/-- OP-IMM. -/
def opImm (w : Nat) (a : BitVec 64) : Option (BitVec 64) :=
  let i := immI w
  let f3 := iF3 w
  let sh := bits w 25 20
  let top := bits w 31 26
  let k := bits w 31 20
  if f3 = 0 then some (a + i) else if f3 = 2 then some (boolW (a.slt i)) else if f3 = 3 then some (boolW (a.ult i))
  else if f3 = 4 then some (a ^^^ i) else if f3 = 6 then some (a ||| i) else if f3 = 7 then some (a &&& i)
  else if f3 = 1 then
    if top = 0 then some (a <<< sh)
    else if k = 0x600 then some (BitVec.ofNat 64 (clzFrom a.toNat 64))
    else if k = 0x601 then some (BitVec.ofNat 64 (ctzOf a.toNat 64))
    else if k = 0x602 then some (BitVec.ofNat 64 (popOf a.toNat 64))
    else if k = 0x604 then some (sx 8 a.toNat)
    else if k = 0x605 then some (sx 16 a.toNat)
    else none
  else if top = 0 then some (a >>> sh)
  else if top = 0x10 then some (a.sshiftRight sh)
  else if top = 0x18 then some (BitVec.ofNat 64 (rolBits 64 a.toNat (64 - sh)))
  else if k = 0x287 then some (BitVec.ofNat 64 (mapBytes (fun v => if v = 0 then 0 else 0xFF) a.toNat))
  else if k = 0x6B8 then some (BitVec.ofNat 64 (revBytes a.toNat))
  else none

/-- OP-IMM-32. -/
def opImm32 (w : Nat) (a : BitVec 64) : Option (BitVec 64) :=
  let x : BitVec 32 := a.setWidth 32
  let f3 := iF3 w
  let f7 := iF7 w
  let sh := iRs2 w
  let s := fun (v : BitVec 32) => some (v.signExtend 64)
  if f3 = 0 then some (sextW (a + immI w))
  else if f3 = 1 then
    if f7 = 0 then s (x <<< sh)
    else if bits w 31 26 = 2 then some ((x.setWidth 64) <<< bits w 25 20)
    else if f7 = 0x30 ∧ sh = 0 then some (BitVec.ofNat 64 (clzFrom x.toNat 32))
    else if f7 = 0x30 ∧ sh = 1 then some (BitVec.ofNat 64 (ctzOf x.toNat 32))
    else if f7 = 0x30 ∧ sh = 2 then some (BitVec.ofNat 64 (popOf x.toNat 32))
    else none
  else if f3 = 5 then
    if f7 = 0 then s (x >>> sh) else if f7 = 0x20 then s (x.sshiftRight sh)
    else if f7 = 0x30 then some ((BitVec.ofNat 32 (rolBits 32 x.toNat (32 - sh))).signExtend 64) else none
  else none

/-- The condition of a branch. -/
def branchTaken (f3 : Nat) (a b : BitVec 64) : Option Bool :=
  if f3 = 0 then some (a == b) else if f3 = 1 then some (a != b) else if f3 = 4 then some (a.slt b) else if f3 = 5 then some (!a.slt b)
  else if f3 = 6 then some (a.ult b) else if f3 = 7 then some (!a.ult b) else none

/-- What an AMO stores, by its funct5, at 8·n bits. -/
def amoValue (n op old v : Nat) : Option Nat :=
  let w := 8 * n
  let lt := decide (toSigned w old < toSigned w v)
  let ltu := decide (old % 2 ^ w < v % 2 ^ w)
  if op = 1 then some (v % 2 ^ w) else if op = 0 then some ((old + v) % 2 ^ w) else if op = 4 then some ((old ^^^ v) % 2 ^ w)
  else if op = 0xC then some ((old &&& v) % 2 ^ w) else if op = 8 then some ((old ||| v) % 2 ^ w)
  else if op = 0x10 then some (if lt then old % 2 ^ w else v % 2 ^ w) else if op = 0x14 then some (if lt then v % 2 ^ w else old % 2 ^ w)
  else if op = 0x18 then some (if ltu then old % 2 ^ w else v % 2 ^ w) else if op = 0x1C then some (if ltu then v % 2 ^ w else old % 2 ^ w)
  else none

/-! ### Compressed instructions, as the 32-bit instruction each stands for -/

def encI (imm rs1 f3 rd op : Nat) : Nat := imm % 4096 * 2 ^ 20 + rs1 * 2 ^ 15 + f3 * 2 ^ 12 + rd * 2 ^ 7 + op
def encR (f7 rs2 rs1 f3 rd op : Nat) : Nat := f7 * 2 ^ 25 + rs2 * 2 ^ 20 + rs1 * 2 ^ 15 + f3 * 2 ^ 12 + rd * 2 ^ 7 + op
def encS (imm rs2 rs1 f3 op : Nat) : Nat := imm / 32 % 128 * 2 ^ 25 + rs2 * 2 ^ 20 + rs1 * 2 ^ 15 + f3 * 2 ^ 12 + imm % 32 * 2 ^ 7 + op
def encB (imm rs2 rs1 f3 : Nat) : Nat :=
  bits imm 12 12 * 2 ^ 31 + bits imm 10 5 * 2 ^ 25 + rs2 * 2 ^ 20 + rs1 * 2 ^ 15 + f3 * 2 ^ 12 + bits imm 4 1 * 2 ^ 8 + bits imm 11 11 * 2 ^ 7 + 0x63
def encJ (imm rd : Nat) : Nat :=
  bits imm 20 20 * 2 ^ 31 + bits imm 10 1 * 2 ^ 21 + bits imm 11 11 * 2 ^ 20 + bits imm 19 12 * 2 ^ 12 + rd * 2 ^ 7 + 0x6F

/-- A signed field of `w` bits as the low bits of a wider immediate. -/
def sxN (w v : Nat) : Nat := ofSigned 32 (toSigned w v)

/-- Quadrant 0. -/
def expand0 (w : Nat) : Option Nat :=
  let rd := 8 + bits w 4 2
  let rs := 8 + bits w 9 7
  let d := bits w 12 10 * 8 + bits w 6 5 * 64
  let k := bits w 12 10 * 8 + bits w 6 6 * 4 + bits w 5 5 * 64
  let f3 := bits w 15 13
  if f3 = 0 then
    let imm := bits w 10 7 * 64 + bits w 12 11 * 16 + bits w 5 5 * 8 + bits w 6 6 * 4
    if imm = 0 then none else some (encI imm 2 0 rd 0x13)
  else if f3 = 1 then some (encI d rs 3 rd 0x07)
  else if f3 = 2 then some (encI k rs 2 rd 0x03)
  else if f3 = 3 then some (encI d rs 3 rd 0x03)
  else if f3 = 5 then some (encS d rd rs 3 0x27)
  else if f3 = 6 then some (encS k rd rs 2 0x23)
  else if f3 = 7 then some (encS d rd rs 3 0x23)
  else none

/-- Quadrant 1. -/
def expand1 (w : Nat) : Option Nat :=
  let rd := bits w 11 7
  let rs := 8 + bits w 9 7
  let r2 := 8 + bits w 4 2
  let imm6 := bits w 12 12 * 32 + bits w 6 2
  let imm := sxN 6 imm6
  let f3 := bits w 15 13
  if f3 = 0 then some (encI imm rd 0 rd 0x13)
  else if f3 = 1 then (if rd = 0 then none else some (encI imm rd 0 rd 0x1B))
  else if f3 = 2 then some (encI imm 0 0 rd 0x13)
  else if f3 = 3 then
    if rd = 2 then
      let i := bits w 12 12 * 512 + bits w 6 6 * 16 + bits w 5 5 * 64 + bits w 4 3 * 128 + bits w 2 2 * 32
      if i = 0 then none else some (encI (sxN 10 i) 2 0 2 0x13)
    else if imm6 = 0 then none else some (imm % 2 ^ 20 * 2 ^ 12 + rd * 2 ^ 7 + 0x37)
  else if f3 = 4 then
    let k := bits w 11 10
    if k = 0 then some (encI imm6 rs 5 rs 0x13)
    else if k = 1 then some (encI (0x400 + imm6) rs 5 rs 0x13)
    else if k = 2 then some (encI imm rs 7 rs 0x13)
    else
      let o := bits w 6 5
      if bit w 12 then (if o = 0 then some (encR 0x20 r2 rs 0 rs 0x3B) else if o = 1 then some (encR 0 r2 rs 0 rs 0x3B) else none)
      else if o = 0 then some (encR 0x20 r2 rs 0 rs 0x33)
      else if o = 1 then some (encR 0 r2 rs 4 rs 0x33)
      else if o = 2 then some (encR 0 r2 rs 6 rs 0x33)
      else some (encR 0 r2 rs 7 rs 0x33)
  else if f3 = 5 then
    let j := bits w 12 12 * 2048 + bits w 11 11 * 16 + bits w 10 9 * 256 + bits w 8 8 * 1024 + bits w 7 7 * 64 + bits w 6 6 * 128
      + bits w 5 3 * 2 + bits w 2 2 * 32
    some (encJ (sxN 12 j) 0)
  else
    let b := bits w 12 12 * 256 + bits w 11 10 * 8 + bits w 6 5 * 64 + bits w 4 3 * 2 + bits w 2 2 * 32
    some (encB (sxN 9 b) 0 rs (if f3 = 6 then 0 else 1))

/-- Quadrant 2. -/
def expand2 (w : Nat) : Option Nat :=
  let rd := bits w 11 7
  let r2 := bits w 6 2
  let d := bits w 12 12 * 32 + bits w 6 5 * 8 + bits w 4 2 * 64
  let sd := bits w 12 10 * 8 + bits w 9 7 * 64
  let f3 := bits w 15 13
  if f3 = 0 then some (encI (bits w 12 12 * 32 + r2) rd 1 rd 0x13)
  else if f3 = 1 then some (encI d 2 3 rd 0x07)
  else if f3 = 2 then (if rd = 0 then none else some (encI (bits w 12 12 * 32 + bits w 6 4 * 4 + bits w 3 2 * 64) 2 2 rd 0x03))
  else if f3 = 3 then (if rd = 0 then none else some (encI d 2 3 rd 0x03))
  else if f3 = 4 then
    if bit w 12 then
      if r2 = 0 then (if rd = 0 then some 0x00100073 else some (encI 0 rd 0 1 0x67)) else some (encR 0 r2 rd 0 rd 0x33)
    else if r2 = 0 then (if rd = 0 then none else some (encI 0 rd 0 0 0x67)) else some (encR 0 r2 0 0 rd 0x33)
  else if f3 = 5 then some (encS sd r2 2 3 0x27)
  else if f3 = 6 then some (encS (bits w 12 9 * 4 + bits w 8 7 * 64) r2 2 2 0x23)
  else some (encS sd r2 2 3 0x23)

/-- The 32-bit instruction a compressed one stands for. -/
def expandC (w : Nat) : Option Nat :=
  if w % 4 = 0 then expand0 w else if w % 4 = 1 then expand1 w else expand2 w

/-! ### Floating point -/

/-- The rounding mode of an instruction: its field, or frm. -/
def Core.rm (c : Core) (w : Nat) : Option Rm := rmOf (if iF3 w = 7 then bits c.fcsr 7 5 else iF3 w)

/-- Put a single or a double in rd and accrue. -/
def Core.putF (c : Core) (dbl : Bool) (rd : Nat) (r : FpOut) : Core :=
  (c.setFreg rd (if dbl then BitVec.ofNat 64 r.1 else boxed r.1)).accrue r.2

/-- An operand in a format. -/
def Core.fop (c : Core) (dbl : Bool) (i : Nat) : Nat := if dbl then (c.freg i).toNat else c.single i

/-- FMADD 0, FMSUB 1, FNMSUB 2, FNMADD 3. -/
def Core.fusedOp (c : Core) (w k : Nat) (dbl : Bool) (rm : Rm) : Core :=
  let f := if dbl then f64 else f32
  let a := c.fop dbl (iRs1 w)
  let b := c.fop dbl (iRs2 w)
  let d := c.fop dbl (iRs3 w)
  let a := if k = 2 ∨ k = 3 then f.flip a else a
  let d := if k = 1 ∨ k = 3 then f.flip d else d
  c.putF dbl (iRd w) (f.fmaRm rm a b d)

/-- An integer result of a floating-point instruction. -/
def Core.putX (c : Core) (rd : Nat) (v : BitVec 64) (flags : Nat) : Core := (c.setReg rd v).accrue flags

/-- OP-FP, by the upper five bits of funct7; none is an illegal instruction. -/
def Core.opFp (c : Core) (w : Nat) : Option Core :=
  let dbl := bits w 26 25 == 1
  if 1 < bits w 26 25 then none
  else
    let f := if dbl then f64 else f32
    let k := bits w 31 27
    let rs2 := iRs2 w
    let f3 := iF3 w
    let a := c.fop dbl (iRs1 w)
    let b := c.fop dbl rs2
    let rd := iRd w
    let round := fun (g : Rm → FpOut) => match c.rm w with
      | some rm => some (c.putF dbl rd (g rm))
      | none => none
    let sign := 2 ^ (f.e + f.m)
    if k = 0 then round (fun rm => f.addRm rm a b)
    else if k = 1 then round (fun rm => f.subRm rm a b)
    else if k = 2 then round (fun rm => f.mulRm rm a b)
    else if k = 3 then round (fun rm => f.divRm rm a b)
    else if k = 0xB then (if rs2 = 0 then round (fun rm => f.sqrtRm rm a) else none)
    else if k = 4 then
      let s := b / sign % 2
      let o := a / sign % 2
      let n := if f3 = 0 then some s else if f3 = 1 then some (1 - s) else if f3 = 2 then some ((s + o) % 2) else none
      n.map (fun n => c.putF dbl rd (a % sign + n * sign, 0))
    else if k = 5 then (if f3 ≤ 1 then some (c.putF dbl rd (f.minmax (f3 == 1) a b)) else none)
    else if k = 0x14 then
      if f3 ≤ 2 then
        let r := f.cmp f3 a b
        some (c.putX rd (BitVec.ofNat 64 r.1) r.2)
      else none
    else if k = 0x1C then
      if rs2 ≠ 0 then none
      else if f3 = 0 then some (c.setReg rd (if dbl then c.freg (iRs1 w) else sextW (c.freg (iRs1 w))))
      else if f3 = 1 then some (c.setReg rd (BitVec.ofNat 64 (f.classify a)))
      else none
    else if k = 0x1E then
      if rs2 ≠ 0 ∨ f3 ≠ 0 then none
      else some (c.setFreg rd (if dbl then c.reg (iRs1 w) else boxed (c.reg (iRs1 w)).toNat))
    else if k = 8 then
      match c.rm w with
      | none => none
      | some rm =>
        if dbl ∧ rs2 = 0 then some (c.putF true rd (f32.convert f64 rm (c.single (iRs1 w))))
        else if !dbl ∧ rs2 = 1 then some (c.putF false rd (f64.convert f32 rm (c.freg (iRs1 w)).toNat))
        else none
    else if k = 0x18 then
      match c.rm w with
      | none => none
      | some rm =>
        if 3 < rs2 then none
        else
          let n := if rs2 < 2 then 32 else 64
          let r := FV.toWord rm n (rs2 % 2 == 0) (f.decode a)
          some (c.putX rd (sx n r.1) r.2)
    else if k = 0x1A then
      match c.rm w with
      | none => none
      | some rm =>
        if 3 < rs2 then none
        else
          let n := if rs2 < 2 then 32 else 64
          let v := (c.reg (iRs1 w)).toNat % 2 ^ n
          let i : Int := if rs2 % 2 = 0 then toSigned n v else (v : Int)
          some (c.putF dbl rd (f.roundRm rm (fvInt i)))
    else none

/-! ### The standard CSRs a routine reaches -/

/-- fflags, frm and fcsr; cycle and instret (Table 15-1). -/
def Core.stdCsr (c : Core) (num : Nat) : Option Nat :=
  if num = 1 then some (c.fcsr % 32) else if num = 2 then some (bits c.fcsr 7 5) else if num = 3 then some (c.fcsr % 256)
  else if num = 0xC00 then some (c.cycle % 2 ^ 64) else if num = 0xC02 then some (c.instret % 2 ^ 64) else none

def Core.setStdCsr (c : Core) (num v : Nat) : Core :=
  if num = 1 then { c with fcsr := c.fcsr / 32 * 32 + v % 32 }
  else if num = 2 then { c with fcsr := c.fcsr % 32 + v % 8 * 32 }
  else { c with fcsr := v % 256 }

/-- A CSR number in a custom range of Table 15-6 (R447). -/
def customCsr (num : Nat) : Bool := decide (0x800 ≤ num ∧ num ≤ 0x8FF) || decide (0xCC0 ≤ num ∧ num ≤ 0xCFF)

/-- SYSTEM with funct3 other than 0. -/
def Core.csrInstr (c : Core) (w len : Nat) : Act :=
  let num := bits w 31 20
  let f3 := iF3 w
  let op := f3 % 4
  let imm := bit f3 2
  let zero := iRs1 w == 0
  let src : BitVec 64 := if imm then BitVec.ofNat 64 (iRs1 w) else c.reg (iRs1 w)
  if op = 0 then .trap errStrIllegalInstr w
  else if customCsr num then .csr (iRd w) num op (if zero && op != 1 then none else some src)
  else match c.stdCsr num with
    | none => .trap errStrIllegalInstr w
    | some old =>
      let writes := op == 1 || !zero
      if writes && decide (0xC00 ≤ num) then .trap errStrIllegalInstr w
      else
        let v := if op = 1 then src.toNat else if op = 2 then old ||| src.toNat else old &&& (2 ^ 64 - 1 - src.toNat)
        let c' := if writes then c.setStdCsr num v else c
        .done ((c'.setReg (iRd w) (BitVec.ofNat 64 old)).on len)

/-! ### One instruction -/

/-- A jump: the target's bit 0 is clear by construction, and every even address is a fetch target. -/
def Core.jump (c : Core) (target : BitVec 64) (rd len : Nat) : Act :=
  .done { (c.setReg rd (BitVec.ofNat 64 (c.pc + len))) with pc := target.toNat }

/-- Execute the instruction word `w`, which takes `len` bytes; `raw` are its own bits, the trap value of an illegal instruction. -/
def Core.execute (c : Core) (w len raw : Nat) : Act :=
  let rd := iRd w
  let a := c.reg (iRs1 w)
  let b := c.reg (iRs2 w)
  let f3 := iF3 w
  let pc := BitVec.ofNat 64 c.pc
  let ill : Act := .trap errStrIllegalInstr raw
  let put := fun (v : Option (BitVec 64)) => match v with
    | some v => Act.done ((c.setReg rd v).on len)
    | none => ill
  let at_ := fun (i : BitVec 64) => (a + i).toNat
  match iOp w with
  | 0x37 => put (some (immU w))
  | 0x17 => put (some (pc + immU w))
  | 0x6F => c.jump (pc + immJ w) rd len
  | 0x67 => if f3 = 0 then c.jump ((a + immI w) &&& ~~~1#64) rd len else ill
  | 0x63 => match branchTaken f3 a b with
    | none => ill
    | some true => .done { c with pc := (pc + immB w).toNat }
    | some false => .done (c.on len)
  | 0x03 => if f3 = 7 then ill else .load rd false (at_ (immI w)) (2 ^ (f3 % 4)) (decide (f3 < 4))
  | 0x23 => if 3 < f3 then ill else .store (at_ (immS w)) (2 ^ f3) (b.toNat % 2 ^ (8 * 2 ^ f3))
  | 0x07 => if f3 = 2 ∨ f3 = 3 then .load rd true (at_ (immI w)) (2 ^ f3) false else ill
  | 0x27 =>
    if f3 = 2 ∨ f3 = 3 then .store (at_ (immS w)) (2 ^ f3) ((c.freg (iRs2 w)).toNat % 2 ^ (8 * 2 ^ f3)) else ill
  | 0x13 => put (opImm w a)
  | 0x1B => put (opImm32 w a)
  | 0x33 => put (opReg (iF7 w) f3 a b)
  | 0x3B => put (opReg32 (iF7 w) f3 (iRs2 w) a b)
  | 0x0F => if f3 = 0 ∨ f3 = 1 then .fence else ill
  | 0x2F =>
    if f3 ≠ 2 ∧ f3 ≠ 3 then ill
    else
      let n := 2 ^ f3
      let op := bits w 31 27
      if op = 2 then (if iRs2 w = 0 then .lr rd a.toNat n else ill)
      else if op = 3 then .sc rd a.toNat n (b.toNat % 2 ^ (8 * n))
      else if (amoValue n op 0 0).isSome then .amo rd a.toNat n op (b.toNat % 2 ^ (8 * n))
      else ill
  | 0x73 =>
    if f3 = 0 then
      (if w = 0x73 then .ecall else if w = 0x00100073 then .trap errStrBreakpoint c.pc else ill)
    else match c.csrInstr w len with
      | .trap e _ => .trap e raw
      | x => x
  | 0x43 | 0x47 | 0x4B | 0x4F =>
    if 1 < bits w 26 25 then ill
    else match c.rm w with
      | none => ill
      | some rm => .done ((c.fusedOp w ((iOp w - 0x43) / 4) (bits w 26 25 == 1) rm).on len)
  | 0x53 => match c.opFp w with
    | some c' => .done (c'.on len)
    | none => ill
  | _ => ill

/-- The most cycles of Table 15-7 for an instruction that touches no memory outside local SRAM. -/
def costOf (w : Nat) : Nat :=
  let op := iOp w
  if op = 0x63 ∨ op = 0x6F ∨ op = 0x67 then 2
  else if (op = 0x33 ∨ op = 0x3B) ∧ iF7 w = 1 then (if iF3 w < 4 then 3 else 66)
  else if op = 0x53 ∧ (bits w 31 27 = 3 ∨ bits w 31 27 = 0xB) then (if bits w 26 25 = 1 then 40 else 24)
  else if op = 0x43 ∨ op = 0x47 ∨ op = 0x4B ∨ op = 0x4F ∨ op = 0x53 then 4
  else if op = 0x73 then 8
  else 1

end Sys2Proof.Machine
end

