-- ==== Sys2Proof/Machine/Strands.lean ====
section
/-! DEFINITION. Strand cores in a course (spec/15): addresses (R439, R440), the store buffer (R438), the CSRs of Table 15-6 (R447), waits (R226),
and the end of a routine (R448, R449, R460). Every event names a Rota and a logical instance; it acts when the instruction at that core's pc is
one of its row. -/

namespace Sys2Proof.Machine

/-! ### Finding a core -/

/-- A Strand core of a running course with everything it works with. -/
structure CoreEnv where
  h : Nat
  k : Nat
  r : Rota
  c : CourseRun
  m : Core
  x : Task
  deriving Repr

def CoreEnv.t (e : CoreEnv) : Nat := handleTenant e.h

/-- The core of logical instance `k` in the course Rota `h` runs, whether or not it waits. -/
def State.coreAny (s : State) (h k : Nat) : Option CoreEnv :=
  match s.running h with
  | none => none
  | some (r, c) => match c.cores.find? (fun m => m.inst == k), s.task? (handleTenant h) c.seq with
    | some m, some x => some { h := h, k := k, r := r, c := c, m := m, x := x }
    | _, _ => none

/-- The same, when its routine runs and waits for nothing. -/
def State.coreEnv (s : State) (h k : Nat) : Option CoreEnv :=
  match s.coreAny h k with
  | none => none
  | some e => if e.m.ended || e.m.load.isSome || s.waits.any (fun w => w.handle == h && w.inst == k) then none else some e

def State.updCore (s : State) (h k : Nat) (f : Core → Core) : State :=
  s.updCourse h (fun c => { c with cores := updWhere c.cores (fun m => m.inst == k) f })

/-! ### Fetching -/

/-- `n` bytes of local SRAM as a number. -/
def Core.sramN (m : Core) (a n : Nat) : Nat := leNat ((List.range n).map (fun i => sparseGet 0 m.sram (a + i)))

/-- What is at a core's pc: the end of the routine (R448), or the action of the instruction there with its length and its bits. -/
inductive AtPc where
  | finish
  | act (a : Act) (w len raw : Nat)

/-- Fetch and execute (R439, R449): a fetch outside the code region is an access fault. -/
def Core.atPc (m : Core) : AtPc :=
  if m.pc = 0x1C000 then .finish
  else if m.pc % 2 = 1 then .act (.trap errStrMisaligned m.pc) 0 0 0
  else if m.code < m.pc + 2 then .act (.trap errStrAccessFault m.pc) 0 0 0
  else
    let lo := m.sramN m.pc 2
    if lo % 4 = 3 then
      if m.code < m.pc + 4 then .act (.trap errStrAccessFault (m.pc + 2)) 0 0 0
      else
        let w := m.sramN m.pc 4
        .act (m.execute w 4 w) w 4 w
    else match expandC lo with
      | none => .act (.trap errStrIllegalInstr lo) lo 2 lo
      | some w => .act (m.execute w 2 lo) w 2 lo

/-! ### Retiring and trapping -/

/-- The cycle counter moves on: at least one cycle, and no more than Table 15-7 bounds. -/
def State.coreTime (s : State) (h k bound : Nat) : State :=
  let d := s.free 64
  d.2.updCore h k (fun m => { m with cycle := (m.cycle + 1 + d.1.toNat % Nat.max 1 bound) % 2 ^ 64 })

/-- An instruction retires: the core as `f` leaves it, instret and STR_T_INSTRET up by one. -/
def State.retire (s : State) (e : CoreEnv) (bound : Nat) (f : Core → Core) : State :=
  let s := s.coreTime e.h e.k bound
  let s := s.updCore e.h e.k (fun m => let m := f m
    { m with instret := (m.instret + 1) % 2 ^ 64 })
  s.vcount64 e.t vStrTInstret 1

/-- The trap value: the informative one the privileged specification gives, or 0, as it allows (notes/assumptions/61.md). -/
def State.tval (s : State) (v : Nat) : Nat × State :=
  let d := s.free 1
  (if d.1 = 1 then v else 0, d.2)

/-- A fault of a Strand core (R460): the registers of its last fault, and the abort. -/
def State.strandFault (s : State) (e : CoreEnv) (code tv : Nat) : State :=
  let d := s.tval tv
  let s := (d.2.vset64 e.t vStrTLastPc e.m.pc).vset64 e.t vStrTLastTval d.1
  s.courseFault e.h code e.m.core 0xFFFF e.m.pc 2

/-- A memory fault of a Strand core (R150, Table 21-3). -/
def State.coreMemFault (s : State) (e : CoreEnv) (code pc : Nat) : State := s.courseFault e.h code (0x30 + e.m.core) 0xFFFF pc 2

/-! ### Addresses (Table 15-2) -/

/-- A space of Table 15-2 with the address in it. -/
inductive CoreSpace where
  | sram (a : Nat)
  | mem (ory : Bool) (a : Nat)
  | host (a : Nat)

/-- The space of `n` bytes at an address; none where Table 15-2 does not permit the access. `atomic` asks for AMO and LR/SC. -/
def Core.decode (m : Core) (addr n : Nat) (write atomic : Bool) : Option CoreSpace :=
  let sp := bits addr 63 60
  let a := addr % 2 ^ 60
  if sp = 0 then
    if atomic || decide (0x1C000 < a + n) || (write && decide (a < m.code)) then none else some (.sram a)
  else if sp = 1 then some (.mem true a)
  else if sp = 2 then some (.mem false a)
  else if sp = 4 then (if atomic || decide (2 ^ 57 < a + n) then none else some (.host a))
  else none

def spaceOf (ory : Bool) : Space := if ory then .ory else .hbm

/-- Aligned 8 B pieces an access touches (R211, R440). -/
def piecesAt (a n : Nat) : Nat := (a + n - 1) / 8 - a / 8 + 1

/-- The host staging areas of a tenant's Rotas: no tenant agent reads or writes them (R510). -/
def State.inStaging (s : State) (t a n : Nat) : Bool :=
  (s.rotasOf t).any (fun r =>
    let lo := r.hbmBase + roundUp (rhHbmBytes r.bin) 0x400000
    decide (a < r.hbmBase + r.hbmLen ∧ lo < a + n))

/-- The Strand images of a tenant's Rotas: no tenant agent writes them (R444). -/
def State.inImage (s : State) (t a n : Nat) : Bool :=
  (s.rotasOf t).any (fun r => decide (a < r.strandAt + strandImage r.bin ∧ r.strandAt < a + n))

/-- An access to tenant memory that no allocation covers. -/
def State.coreOutOfRange (s : State) (e : CoreEnv) (ory : Bool) (a n : Nat) : Bool :=
  (translateAll (s.extents e.t (spaceOf ory)) a n).isNone || (!ory && s.inStaging e.t a n)

/-- The tokens of an access to tenant HBM are there (R211). -/
def State.coreTokens (s : State) (e : CoreEnv) (c : BwClass) (ory : Bool) (a n : Nat) : Bool :=
  ory || e.r.acc.has c (64 * piecesAt a n)

/-- Take them. -/
def State.corePay (s : State) (e : CoreEnv) (c : BwClass) (ory : Bool) (a n : Nat) : State :=
  if ory then s else s.chargeRota e.h c (64 * piecesAt a n)

/-! ### The store buffer (R438) -/

/-- Perform the oldest `n` stores of the buffer; false when one faults, which aborts the task. -/
def State.drain (s : State) (h k : Nat) : Nat → State × Bool
  | 0 => (s, true)
  | n + 1 =>
    match s.coreAny h k with
    | none => (s, false)
    | some e => match e.m.stores with
      | [] => (s, true)
      | st :: rest =>
        let s := s.updCore h k (fun m => { m with stores := rest })
        if st.ory && s.inImage e.t st.addr st.data.length then s.drain h k n
        else match s.writeMem e.t (spaceOf st.ory) st.addr st.data with
          | (s, some c) => (s.coreMemFault e c st.pc, false)
          | (s, none) => s.drain h k n

/-- Perform every store of the buffer. -/
def State.drainAll (s : State) (e : CoreEnv) : State × Bool := s.drain e.h e.k e.m.stores.length

/-- A free number of the oldest stores have been performed by now. -/
def State.drainSome (s : State) (e : CoreEnv) : State × Bool :=
  let d := s.free 4
  d.2.drain e.h e.k (d.1.toNat % (e.m.stores.length + 1))

/-- One byte as the core sees it: the newest of its own buffered stores to it, else memory. -/
def forwardByte (stores : List CoreStore) (ory : Bool) (a : Nat) (b : Byte) : Byte :=
  stores.foldl (fun b st => if st.ory == ory && decide (st.addr ≤ a ∧ a < st.addr + st.data.length) then nth st.data (a - st.addr) 0 else b) b

/-- Bytes of memory with the core's buffered stores over them. -/
def forward (stores : List CoreStore) (ory : Bool) (a : Nat) (d : Bytes) : Bytes :=
  (List.range d.length).map (fun i => forwardByte stores ory (a + i) (nth d i 0))

/-! ### Loads, stores and atomics (R439, R440, R142, R143) -/

/-- A loaded value in its register. -/
def Core.loaded (m : Core) (rd : Nat) (float : Bool) (n : Nat) (signed : Bool) (v : Nat) : Core :=
  if float then m.setFreg rd (if n = 4 then boxed v else BitVec.ofNat 64 v)
  else m.setReg rd (if signed then sx (8 * n) v else BitVec.ofNat 64 v)

/-- A load. -/
def State.coreLoad (s : State) (e : CoreEnv) (len rd : Nat) (float : Bool) (addr n : Nat) (signed : Bool) : State :=
  match e.m.decode addr n false false with
  | none => s.strandFault e errStrAccessFault addr
  | some (.sram a) => s.retire e 2 (fun m => (m.loaded rd float n signed (m.sramN a n)).on len)
  | some (.host a) =>
    if !e.r.acc.has .remote n then s.vcount64 e.t vBwTTokenWait 1
    else
      let no := s.hostNo
      let s := (s.chargeRota e.h .remote n).hostRead e.t a n (.core e.h e.k)
      s.retire e 1 (fun m => { m.on len with load := some { no := no, rd := rd, float := float, bytes := n, signed := signed } })
  | some (.mem ory a) =>
    if s.coreOutOfRange e ory a n then s.coreMemFault e errMemOutOfRange e.m.pc
    else if !s.coreTokens e .read ory a n then s.vcount64 e.t vBwTTokenWait 1
    else
      let s := s.corePay e .read ory a n
      match s.drainSome e with
      | (s, false) => s
      | (s, true) => match s.readMem e.t (spaceOf ory) e.r.strict a n with
        | (s, .error c) => s.coreMemFault e c e.m.pc
        | (s, .ok d) =>
          s.retire e (if ory then 161 else 1921) (fun m => (m.loaded rd float n signed (leNat (forward m.stores ory a d))).on len)

/-- A store to local SRAM. -/
def Core.poke (m : Core) (a : Nat) : Bytes → Core
  | [] => m
  | b :: t => ({ m with sram := sparseSet 0 m.sram a b } : Core).poke (a + 1) t

/-- A store. -/
def State.coreStore (s : State) (e : CoreEnv) (len addr n v : Nat) : State :=
  match e.m.decode addr n true false with
  | none => s.strandFault e errStrAccessFault addr
  | some (.sram a) => s.retire e 1 (fun m => (m.poke a (leBytes n v)).on len)
  | some (.host a) =>
    if !e.r.acc.has .remote n then s.vcount64 e.t vBwTTokenWait 1
    else ((s.chargeRota e.h .remote n).hostWrite e.t a (leBytes n v) (.core e.h e.k)).retire e 1 (fun m => m.on len)
  | some (.mem ory a) =>
    if s.coreOutOfRange e ory a n then s.coreMemFault e errMemOutOfRange e.m.pc
    else if !s.coreTokens e .write ory a n then s.vcount64 e.t vBwTTokenWait 1
    else
      let s := s.corePay e .write ory a n
      match s.drainSome e with
      | (s, false) => s
      | (s, true) =>
        -- a full buffer waits for its oldest entry
        match (match s.coreAny e.h e.k with
          | some q => if 8 ≤ q.m.stores.length then s.drain e.h e.k 1 else (s, true)
          | none => (s, true)) with
        | (s, false) => s
        | (s, true) => s.retire e 1921 (fun m =>
            { m.on len with stores := m.stores ++ [{ pc := e.m.pc, ory := ory, addr := a, data := leBytes n v }] })

/-- What an atomic access asks. -/
inductive Atomic where
  | lr | sc (v : Nat) | amo (op v : Nat)

/-- An AMO, LR or SC: at the memory, indivisibly, after the core's earlier stores. -/
def State.coreAtomic (s : State) (e : CoreEnv) (len rd addr n : Nat) (op : Atomic) : State :=
  match e.m.decode addr n true true with
  | some (.mem ory a) =>
    if addr % n ≠ 0 then s.strandFault e errStrMisaligned addr
    else if s.coreOutOfRange e ory a n then s.coreMemFault e errMemOutOfRange e.m.pc
    else
      let cls := match op with | .lr => BwClass.read | _ => .write
      if !s.coreTokens e cls ory a n then s.vcount64 e.t vBwTTokenWait 1
      else
        let s := s.corePay e cls ory a n
        match s.drainAll e with
        | (s, false) => s
        | (s, true) => match s.readMem e.t (spaceOf ory) e.r.strict a n with
          | (s, .error c) => s.coreMemFault e c e.m.pc
          | (s, .ok d) =>
            let old := leNat d
            let bound := if ory then 161 else 1921
            let write := fun (s : State) (v : Nat) => if ory && s.inImage e.t a n then (s, none) else s.writeMem e.t (spaceOf ory) a (leBytes n v)
            match op with
            | .lr => s.retire e bound (fun m => { (m.setReg rd (sx (8 * n) old)).on len with
                resv := some { ory := ory, addr := a, bytes := n, value := old, stamp := s.mem.writes } })
            | .sc v =>
              let held := match e.m.resv with
                | some q => q.ory == ory && q.addr == a && q.bytes == n && q.value == old
                | none => false
              let quiet := match e.m.resv with | some q => q.stamp == s.mem.writes | none => false
              let f := s.free 1
              let s := f.2
              if held && (quiet || f.1 == 1) then
                match write s v with
                | (s, some c) => s.coreMemFault e c e.m.pc
                | (s, none) => s.retire e bound (fun m => { (m.setReg rd 0).on len with resv := none })
              else s.retire e bound (fun m => { (m.setReg rd 1).on len with resv := none })
            | .amo op v => match amoValue n op old v with
              | none => s
              | some nv => match write s nv with
                | (s, some c) => s.coreMemFault e c e.m.pc
                | (s, none) => s.retire e bound (fun m => (m.setReg rd (sx (8 * n) old)).on len)
  | _ => s.strandFault e errStrAccessFault addr

/-- STRAND_MEMORY_ACCESS: a load, store or atomic of core `k` (R439). -/
def execStrandMemoryAccess (h k : Nat) (s : State) : Host.Outcome State Fault Refusal :=
  match s.coreEnv h k with
  | none => .next s
  | some e => match e.m.atPc with
    | .act (.load rd fl a n sg) _ len _ => .next (s.coreLoad e len rd fl a n sg)
    | .act (.store a n v) _ len _ => .next (s.coreStore e len a n v)
    | .act (.lr rd a n) _ len _ => .next (s.coreAtomic e len rd a n .lr)
    | .act (.sc rd a n v) _ len _ => .next (s.coreAtomic e len rd a n (.sc v))
    | .act (.amo rd a n op v) _ len _ => .next (s.coreAtomic e len rd a n (.amo op v))
    | _ => .next s

/-- STRAND_INSTRUCTION: an instruction of core `k` that stays within it, or a fence, which waits for its stores (R450). -/
def execStrandInstruction (h k : Nat) (s : State) : Host.Outcome State Fault Refusal :=
  match s.coreEnv h k with
  | none => .next s
  | some e => match e.m.atPc with
    | .act (.done m) w _ _ => .next (s.retire e (costOf w) (fun q => { m with cycle := q.cycle }))
    | .act .fence _ len _ => match s.drainAll e with
      | (s, false) => .next s
      | (s, true) => .next (s.retire e 1921 (fun m => m.on len))
    | _ => .next s

/-! ### CSRs (Table 15-6) -/

/-- How a CSR of Table 15-6 may be used (R447). -/
inductive CsrKind where
  | rw | wo | ro | swap | acquire
  deriving DecidableEq, Repr

def csrKind (num : Nat) : Option CsrKind :=
  if num = 0x800 ∨ num = 0x810 ∨ num = 0x820 ∨ num = 0x821 then some .rw
  else if num = 0x801 ∨ num = 0x812 ∨ num = 0x814 ∨ num = 0x830 then some .wo
  else if num = 0x802 ∨ num = 0x822 then some .swap
  else if num = 0x813 then some .acquire
  else if num = 0x811 ∨ num = 0xCC0 ∨ num = 0xCC1 ∨ num = 0xCC2 ∨ num = 0xCC8 ∨ num = 0xCC9 ∨ num = 0xCCA then some .ro
  else none

/-- A CSR instruction that R447 allows. -/
def csrAllowed (num op : Nat) (src : Option (BitVec 64)) : Bool :=
  match csrKind num with
  | none => false
  | some .rw => op == 1 || src.isNone
  | some .wo => op == 1 || src.isNone
  | some .ro => op != 1 && src.isNone
  | some .swap => op == 1
  | some .acquire => if op = 1 then src == some 1 else src.isNone

/-- A CSR instruction of core `k` on the CSR `num`: its core, destination, length, bits and operand; `none` for its operand when it only
reads. -/
structure CsrEnv where
  e : CoreEnv
  rd : Nat
  len : Nat
  raw : Nat
  src : Option (BitVec 64)

/-- The CSR instruction at a core's pc. -/
def csrAt (e : CoreEnv) (num : Nat) : Option CsrEnv :=
  match e.m.atPc with
  | .act (.csr rd n op src) _ len raw =>
    if n = num ∧ csrAllowed num op src then some { e := e, rd := rd, len := len, raw := raw, src := if op = 1 then src else none } else none
  | _ => none

/-- The event of a CSR row. -/
def csrEvent (num : Nat) (f : State → CsrEnv → State) (h k : Nat) (s : State) : Host.Outcome State Fault Refusal :=
  match s.coreEnv h k with
  | none => .next s
  | some e => match csrAt e num with
    | none => .next s
    | some q => .next (f s q)

/-- A CSR instruction retires with a value in rd. -/
def State.csrDone (s : State) (q : CsrEnv) (v : Nat) (f : Core → Core) : State :=
  s.retire q.e 8 (fun m => ((f m).setReg q.rd (BitVec.ofNat 64 v)).on q.len)

/-- A read-write CSR: the old value, and the new one where the instruction writes. -/
def State.csrSwap (s : State) (q : CsrEnv) (old : Nat) (f : Nat → Core → Core) : State :=
  s.csrDone q old (match q.src with | some v => f v.toNat | none => id)

/-- The physical pair the stake selector names, where the Rota has it. -/
def CsrEnv.pair? (q : CsrEnv) : Option Nat :=
  let l := q.e.m.stakeSel % 65536
  if l < rhStakes q.e.r.bin then some (nth q.e.r.pairs l 0) else none

/-- The selector names FULL. -/
def CsrEnv.full (q : CsrEnv) : Bool := !bit q.e.m.stakeSel 16

/-- A stake outside the Rota's STAKES (R231): no pair exists to be named as the instance, so the byte is a free value. -/
def State.stakeRange (s : State) (q : CsrEnv) : State :=
  let d := s.free 8
  d.2.courseFault q.e.h errStakeRange d.1.toNat 0xFFFF 0 2

/-- STR_STAKE_SEL. -/
def execStrStakeSel (h k : Nat) (s : State) : Host.Outcome State Fault Refusal :=
  csrEvent 0x800 (fun s q => s.csrSwap q q.e.m.stakeSel (fun v m => { m with stakeSel := v % 2 ^ 17 })) h k s

/-- STR_SIGNAL: after the store buffer has drained, SIGNAL(counter, n) (R216, R217). -/
def execStrSignal (h k : Nat) (s : State) : Host.Outcome State Fault Refusal :=
  csrEvent 0x801 (fun s q => match q.src with
    | none => s.csrDone q 0 id
    | some v => match s.drainAll q.e with
      | (s, false) => s
      | (s, true) => match q.pair? with
        | none => s.stakeRange q
        | some p =>
          let n := v.toNat % 65536
          if n = 0 then s.courseFault h errStakeSignalInvalid p 0xFFFF 0 2
          else
            let s := (s.csrDone q 0 id).signal p q.full n
            if (s.stake p).overReleased then s.courseFault h errStakeOverRelease p 0xFFFF 0 2 else s) h k s

/-- STR_WAIT: the core waits until the counter has reached the target (R216). -/
def execStrWait (h k : Nat) (s : State) : Host.Outcome State Fault Refusal :=
  csrEvent 0x802 (fun s q => match q.src, q.pair? with
    | some v, some p =>
      let n := (s.stake p).count q.full
      if reached n (v.toNat % 2 ^ 32) then s.csrDone q n id
      else { s with waits := s.waits ++ [{ requester := 0x30 + q.e.m.core, handle := h, inst := k, full := q.full, pair := p,
                                           target := v.toNat % 2 ^ 32 }] }
    | some _, none => s.stakeRange q
    | none, _ => s) h k s

/-- A satisfied wait returns: the instruction retires with the counter's value, after a wait of any length. -/
def State.releaseWait (s : State) (w : StakeWait) : State :=
  let n := (s.stake w.pair).count w.full
  let s := { s with waits := s.waits.filter (fun x => x != w) }
  match s.coreAny w.handle w.inst with
  | none => s
  | some e => match csrAt e 0x802 with
    | none => s
    | some q => (s.coreTime w.handle w.inst (2 ^ 64)).csrDone q n id

/-- STAKE_WAIT_RELEASE: the satisfied waits on pair `p` are released, at most eight, in ascending requester index (R226). -/
def execStakeWaitRelease (p : Nat) (s : State) : Host.Outcome State Fault Refusal :=
  .next ((s.toRelease p).foldl (fun s w => s.releaseWait w) s)

/-- STR_COUNT: the selected counter. -/
def execStrCount (h k : Nat) (s : State) : Host.Outcome State Fault Refusal :=
  csrEvent 0xCC0 (fun s q => match q.pair? with
    | none => s.stakeRange q
    | some p => s.csrDone q ((s.stake p).count q.full) id) h k s

/-- STR_HOOP_SEL. -/
def execStrHoopSel (h k : Nat) (s : State) : Host.Outcome State Fault Refusal :=
  csrEvent 0x810 (fun s q => s.csrSwap q q.e.m.hoopSel (fun v m => { m with hoopSel := v % 2 ^ 16 })) h k s

/-- The selected hoop, where it is of the current course and this core has the asked end of it: producer, consumer, or either. -/
def CsrEnv.hoop? (q : CsrEnv) (prod cons : Bool) : Option Hoop :=
  let b := q.e.r.bin
  let i := q.e.m.hoopSel
  let p := rpProd b i == 2 && rpProdInst b i == q.e.k
  let c := rpCons b i == 2 && rpConsInst b i == q.e.k
  if (prod && p) || (cons && c) then q.e.c.hoop? i else none

/-- A hoop CSR without its hoop (Table 15-9). -/
def State.csrInvalid (s : State) (q : CsrEnv) : State := s.strandFault q.e errStrCsrInvalid q.raw

/-- STRM_HOOP_MISUSE of a Strand core (R197). The spec gives it no element offset: a free value. -/
def State.hoopMisuse (s : State) (q : CsrEnv) : State :=
  let d := s.free 64
  d.2.courseFault q.e.h errStrmHoopMisuse q.e.m.core 0xFFFF d.1.toNat 2

/-- The U-mode address of a slot: tenant Orangery, bits [63:60] 0x1. -/
def CsrEnv.slotAddr (q : CsrEnv) (k : Hoop) (no : Nat) : Nat := 2 ^ 60 + q.e.r.ringAt (slotOff q.e.r.bin k no 0)

/-- STR_HOOP_RESERVE: waits while the hoop is full, then reserves the next slot. -/
def execStrHoopReserve (h k : Nat) (s : State) : Host.Outcome State Fault Refusal :=
  csrEvent 0x811 (fun s q => match q.hoop? true false with
    | none => s.csrInvalid q
    | some p =>
      if p.full (rpSlots q.e.r.bin p.idx) then s
      else (s.updHoop h p.idx Hoop.reserve).csrDone q (q.slotAddr p p.rsv) id) h k s

/-- STR_HOOP_COMMIT: after the store buffer has drained, commits the oldest reserved, uncommitted slot. -/
def execStrHoopCommit (h k : Nat) (s : State) : Host.Outcome State Fault Refusal :=
  csrEvent 0x812 (fun s q => match q.src with
    | none => s.csrDone q 0 id
    | some v => match s.drainAll q.e with
      | (s, false) => s
      | (s, true) => match q.hoop? true false with
        | none => s.csrInvalid q
        | some p =>
          let n := v.toNat % 2 ^ 21
          if p.rsv ≤ p.tail ∨ rpSlotBytes q.e.r.bin p.idx < n then s.hoopMisuse q
          else
            let s := s.csrDone q 0 id
            let s := s.updHoop h p.idx (fun k => k.updSlot k.tail (fun x => { x with len := n, fin := bit v.toNat 31, complete := true }))
            s.commitSlot h p.idx) h k s

/-- STR_HOOP_ACQUIRE: the oldest committed, unacquired slot; a read waits at empty, a CSRRW faults there. -/
def execStrHoopAcquire (h k : Nat) (s : State) : Host.Outcome State Fault Refusal :=
  csrEvent 0x813 (fun s q => match q.hoop? false true with
    | none => s.csrInvalid q
    | some p =>
      if p.acq < p.tail then (s.updHoop h p.idx (fun k => { k with acq := k.acq + 1 })).csrDone q (q.slotAddr p p.acq) id
      else if q.src.isSome then s.hoopMisuse q
      else s) h k s

/-- STR_HOOP_LEN: length and END of the oldest acquired, unreleased slot; with none the value is free. -/
def execStrHoopLen (h k : Nat) (s : State) : Host.Outcome State Fault Refusal :=
  csrEvent 0xCC1 (fun s q => match q.hoop? false true with
    | none => s.csrInvalid q
    | some p => match (if p.head < p.acq then p.slot? p.head else none) with
      | some x => s.csrDone q (x.len + ofBool x.fin * 2 ^ 31) id
      | none =>
        let d := s.free 64
        d.2.csrDone q d.1.toNat id) h k s

/-- STR_HOOP_RELEASE: releases the oldest acquired slot. Every load issued before it has completed. -/
def execStrHoopRelease (h k : Nat) (s : State) : Host.Outcome State Fault Refusal :=
  csrEvent 0x814 (fun s q => match q.src with
    | none => s.csrDone q 0 id
    | some _ => match q.hoop? false true with
      | none => s.csrInvalid q
      | some p =>
        if p.acq ≤ p.head then s.hoopMisuse q
        else (s.csrDone q 0 id).moveHead h q.e.r p.idx (p.head + 1)) h k s

/-- STR_HOOP_STATE: FULL, EMPTY and END of the selected hoop. -/
def execStrHoopState (h k : Nat) (s : State) : Host.Outcome State Fault Refusal :=
  csrEvent 0xCC2 (fun s q => match q.hoop? true true with
    | none => s.csrInvalid q
    | some p => s.csrDone q (ofBool (p.full (rpSlots q.e.r.bin p.idx)) + 2 * ofBool p.empty + 4 * ofBool p.ended) id) h k s

/-- STR_DRAW_STREAM. -/
def execStrDrawStream (h k : Nat) (s : State) : Host.Outcome State Fault Refusal :=
  csrEvent 0x820 (fun s q => s.csrSwap q q.e.m.drawStream (fun v m => { m with drawStream := v % 2 ^ 32 })) h k s

/-- STR_DRAW_INDEX. -/
def execStrDrawIndex (h k : Nat) (s : State) : Host.Outcome State Fault Refusal :=
  csrEvent 0x821 (fun s q => s.csrSwap q q.e.m.drawIndex (fun v m => { m with drawIndex := v })) h k s

/-- STR_DRAW: draw d of the selected stream and index (R421); an index above 2^32 - 1 gives a free value. -/
def execStrDraw (h k : Nat) (s : State) : Host.Outcome State Fault Refusal :=
  csrEvent 0x822 (fun s q => match q.src with
    | none => s
    | some v =>
      if v.toNat < 2 ^ 32 then
        s.retire q.e 24 (fun m => (m.setReg q.rd (BitVec.ofNat 64 (drawWord q.e.c.seed m.drawStream m.drawIndex v.toNat))).on q.len)
      else
        let d := s.free 32
        d.2.retire q.e 24 (fun m => (m.setReg q.rd (d.1.setWidth 64)).on q.len)) h k s

/-- STR_BEAT: the beat at which the course started. -/
def execStrBeat (h k : Nat) (s : State) : Host.Outcome State Fault Refusal :=
  csrEvent 0xCC8 (fun s q => s.csrDone q q.e.c.beat id) h k s

/-- STR_TASK_SEQ: the task's sequence number and the tenant's epoch. -/
def execStrTaskSeq (h k : Nat) (s : State) : Host.Outcome State Fault Refusal :=
  csrEvent 0xCC9 (fun s q => s.csrDone q (q.e.x.seq % 2 ^ 32 + s.epochOf q.e.t % 65536 * 2 ^ 32) id) h k s

/-- STR_SAMPLE_BASE. -/
def execStrSampleBase (h k : Nat) (s : State) : Host.Outcome State Fault Refusal :=
  csrEvent 0xCCA (fun s q => s.csrDone q q.e.x.sampleBase id) h k s

/-- STR_ABORT: aborts the task with a tenant-defined cause; another cause is STR_CSR_INVALID. -/
def execStrAbort (h k : Nat) (s : State) : Host.Outcome State Fault Refusal :=
  csrEvent 0x830 (fun s q => match q.src with
    | none => s.csrDone q 0 id
    | some v =>
      let c := v.toNat % 65536
      if 0x0E80 ≤ c ∧ c ≤ 0x0EFF then s.strandFault q.e c 0 else s.csrInvalid q) h k s

/-! ### The end of a routine -/

/-- A routine ends: the store buffer drains, and the routine is done (R448). -/
def State.endRoutine (s : State) (e : CoreEnv) : State :=
  match s.drainAll e with
  | (s, false) => s
  | (s, true) => (s.updCore e.h e.k (fun m => { m with ended := true })).vcount e.t vStrTRoutineCnt 1

/-- ROUTINE_END: the routine of core `k` reaches 0x1C000, or executes ECALL with a7 equal to 0 (R448). -/
def execRoutineEnd (h k : Nat) (s : State) : Host.Outcome State Fault Refusal :=
  match s.coreEnv h k with
  | none => .next s
  | some e => match e.m.atPc with
    | .finish => .next (s.endRoutine e)
    | .act .ecall _ len _ =>
      if e.m.reg 17 = 0 then
        let s := s.retire e 1 (fun m => m.on len)
        match s.coreAny h k with
        | some e => .next (s.endRoutine e)
        | none => .next s
      else .next s
    | _ => .next s

/-- STRAND_TRAP: any other trap of core `k` ends its routine with a fault (R449, R460): an exception of the instruction, an access Table 15-2
does not permit, an ECALL with another a7, or a CSR instruction R447 does not allow. -/
def execStrandTrap (h k : Nat) (s : State) : Host.Outcome State Fault Refusal :=
  match s.coreEnv h k with
  | none => .next s
  | some e => match e.m.atPc with
    | .act (.trap code tv) _ _ _ => .next (s.strandFault e code tv)
    | .act .ecall _ _ _ => if e.m.reg 17 = 0 then .next s else .next (s.strandFault e errStrEcallInvalid 0)
    | .act (.csr _ num op src) _ _ raw => if csrAllowed num op src then .next s else .next (s.strandFault e errStrIllegalInstr raw)
    | .act (.load _ _ a n _) _ _ _ =>
      if (e.m.decode a n false false).isNone then .next (s.strandFault e errStrAccessFault a) else .next s
    | .act (.store a n _) _ _ _ => if (e.m.decode a n true false).isNone then .next (s.strandFault e errStrAccessFault a) else .next s
    | .act (.lr rd a n) _ len _ =>
      if (e.m.decode a n true true).isNone ∨ a % n ≠ 0 then .next (s.coreAtomic e len rd a n .lr) else .next s
    | .act (.sc rd a n v) _ len _ =>
      if (e.m.decode a n true true).isNone ∨ a % n ≠ 0 then .next (s.coreAtomic e len rd a n (.sc v)) else .next s
    | .act (.amo rd a n op v) _ len _ =>
      if (e.m.decode a n true true).isNone ∨ a % n ≠ 0 then .next (s.coreAtomic e len rd a n (.amo op v)) else .next s
    | _ => .next s

end Sys2Proof.Machine
end

