-- ==== Sys2Proof/Machine/Network.lean ====
section
/-! DEFINITION. The network ports and queue pairs (spec/16, R463 to R497): frames, PFC, queue pair commands, registered regions, what peers
write, read and send, acknowledgements and retransmission, congestion, links, and SHUFFLE_OUT. -/

namespace Sys2Proof.Machine

/-! ### Port registers -/

/-- A register of port `p`. -/
def portReg (off p : Nat) : Nat := off + 0x100 * p

/-- The port is present (Table 1-5). -/
def State.portPresent (s : State) (p : Nat) : Bool := decide (p < 4) && bit (s.getN rLodgeCapSideMap) (14 + p)

/-- LINK of a port. -/
def State.linkUp (s : State) (p : Nat) : Bool := bit (s.getN (portReg rNetPortStatus p)) 0

/-- `n` bytes of a number, most significant first. -/
def beBytes (n v : Nat) : Bytes := (leBytes n v).reverse

/-- The number bytes spell, most significant first. -/
def beNat (b : Bytes) : Nat := leNat b.reverse

/-- The MAC address of a port, byte 0 first: bits 47 to 40 of the register pair (R463). -/
def State.portMac (s : State) (p : Nat) : Bytes := beBytes 6 (s.get64 (portReg rNetPortMac p) % 2 ^ 48)

/-- The IPv4 and IPv6 addresses of a port, first byte in the lowest bits of the first register. -/
def State.portIp4 (s : State) (p : Nat) : Bytes := leBytes 4 (s.getN (portReg rNetPortIpv4 p))
def State.portIp6 (s : State) (p : Nat) : Bytes :=
  (List.range 4).flatMap (fun i => leBytes 4 (s.getN (portReg rNetPortIpv6 p + 4 * i)))

/-! ### Which frames a port accepts (R463) -/

/-- The MAC addresses PTP multicasts use, over Ethernet (IEEE 1588 Annex E) and over UDP/IPv4 (Annex C); PRESUMED, the standard's. -/
def ptpMacs : List Bytes :=
  [[0x01, 0x1B, 0x19, 0, 0, 0], [0x01, 0x80, 0xC2, 0, 0, 0x0E], [0x01, 0, 0x5E, 0, 0x01, 0x81], [0x01, 0, 0x5E, 0, 0, 0x6B]]

/-- The IPv4 addresses PTP multicasts use. -/
def ptpIps : List Bytes := [[224, 0, 1, 129], [224, 0, 0, 107]]

/-- The ones' complement sum of 16-bit words. -/
def onesSum : Nat → Nat → Bytes → Nat
  | 0, a, _ => a
  | _ + 1, a, [] => a
  | n + 1, a, b =>
    let w := b.headD 0 |>.toNat
    let v := a + w * 256 + (nth b 1 0).toNat
    onesSum n (v % 65536 + v / 65536) (b.drop 2)

/-- The ones' complement sum of a byte string. -/
def checkSum (b : Bytes) : Nat := onesSum (b.length / 2 + 1) 0 b

/-- A UDP datagram to a port the device listens on, with a good checksum; `pseudo` is the pseudo-header. -/
def State.udpOk (s : State) (p : Nat) (multi v6 : Bool) (pseudo udp : Bytes) : Bool :=
  let dst := beNat (slice udp 2 2)
  let len := beNat (slice udp 4 2)
  let sum := beNat (slice udp 6 2)
  let open_ := dst == 319 || dst == 320 || (!multi && (dst == 4791 || s.chans.any (fun c => c.at p dst)))
  decide (8 ≤ len ∧ len ≤ udp.length) && open_
    && ((sum == 0 && !v6) || (sum != 0 && checkSum (pseudo ++ udp.take len) == 0xFFFF))

/-- An IPv4 packet the port takes. -/
def State.ip4Ok (s : State) (p : Nat) (b : Bytes) : Bool :=
  let v := (nth b 0 0).toNat
  let hl := 4 * (v % 16)
  let len := beNat (slice b 2 2)
  let frag := beNat (slice b 6 2) % 0x4000
  let src := slice b 12 4
  let dst := slice b 16 4
  let multi := ptpIps.contains dst
  v / 16 == 4 && decide (20 ≤ hl ∧ hl ≤ len ∧ len ≤ b.length) && checkSum (b.take hl) == 0xFFFF && frag == 0 && (nth b 9 0) == 17
    && (dst == s.portIp4 p || multi)
    && s.udpOk p multi false (src ++ dst ++ [0, 17] ++ beBytes 2 (len - hl)) ((b.take len).drop hl)

/-- An IPv6 packet the port takes: a datagram without extension headers, or a neighbour solicitation. -/
def State.ip6Ok (s : State) (p : Nat) (b : Bytes) : Bool :=
  let len := beNat (slice b 4 2)
  let next := (nth b 6 0).toNat
  let src := slice b 8 16
  let dst := slice b 24 16
  let body := slice b 40 len
  decide (40 + len ≤ b.length) && (nth b 0 0).toNat / 16 == 6
    && ((next == 17 && dst == s.portIp6 p && s.udpOk p false true (src ++ dst ++ beBytes 4 len ++ [0, 0, 0, 17]) body)
      || (next == 58 && (nth body 0 0).toNat == 135 && slice body 8 16 == s.portIp6 p))

/-- The port accepts a frame: its destination address, at most one 802.1Q tag, and what it carries. MAC control frames are PFC's. -/
def State.frameOk (s : State) (p : Nat) (f : Bytes) : Bool :=
  let dst := f.take 6
  let ty0 := beNat (slice f 12 2)
  let off := if ty0 = 0x8100 then 18 else 14
  let ty := beNat (slice f (off - 2) 2)
  let body := f.drop off
  let mine := dst == s.portMac p
  let multi := ptpMacs.contains dst
  let arp := ty == 0x0806 && beNat (slice body 6 2) == 1 && slice body 24 4 == s.portIp4 p
  let sol := ty == 0x86DD && (nth body 6 0).toNat == 58 && s.ip6Ok p body
  decide (14 ≤ f.length ∧ f.length ≤ 9216)
    && (ty == 0x8808 || arp || sol
      || ((mine || multi) && ((ty == 0x0800 && s.ip4Ok p body) || (ty == 0x86DD && s.ip6Ok p body) || (ty == 0x88F7 && s.portPresent p))))

/-- FRAME_RECEIVE: an Ethernet frame arrives on port `p`. One that R463 does not accept is dropped and counted; what an accepted frame asks for
follows as the event of its kind. -/
def execFrameReceive (p : Nat) (frame : Bytes) (s : State) : Host.Outcome State Fault Refusal :=
  if s.linkUp p && !s.frameOk p frame then .next (s.count (portReg rNetPortDropCnt p) 1) else .next s

/-- ARP_REQUEST: a request for `target` from the station `mac`, `ip`: answered when the address is the port's, else dropped (R463). -/
def execArpRequest (p : Nat) (mac ip target : Bytes) (s : State) : Host.Outcome State Fault Refusal :=
  if !s.linkUp p then .next s
  else if target = s.portIp4 p then .next (s.emit (.arpReply p mac ip))
  else .next (s.count (portReg rNetPortDropCnt p) 1)

/-- NEIGHBOUR_SOLICITATION: as ARP_REQUEST, over IPv6 (R463). -/
def execNeighbourSolicitation (p : Nat) (mac ip target : Bytes) (s : State) : Host.Outcome State Fault Refusal :=
  if !s.linkUp p then .next s
  else if target = s.portIp6 p then .next (s.emit (.neighbourAdvert p mac ip))
  else .next (s.count (portReg rNetPortDropCnt p) 1)

/-! ### Sending what waits -/

/-- A queue pair transmits the messages that its port has not carried yet, in order (R476). -/
def State.sendWaiting (s : State) (t q : Nat) : State :=
  match s.qp? t q with
  | none => s
  | some k =>
    if k.st ≠ 3 || !s.portOpen k.port then s
    else
      let s := (k.unacked.filter (fun w => !w.sent)).foldl (fun s w => s.transmit k w) s
      s.updQp t q (fun k => { k with unacked := k.unacked.map (fun w => { w with sent := true }) })

/-- Every queue pair of a port. -/
def State.sendPort (s : State) (p : Nat) : State :=
  (s.qps.filter (fun k => k.port == p)).foldl (fun s k => s.sendWaiting k.tenant k.q) s

/-- How long a pause of `quanta` lasts, in thousandths of a schedule-clock cycle: 512 bit times each at 400 Gb/s, 1.28 ns. -/
def pauseTime (quanta : Nat) : Nat := quanta * 2048

/-- PFC_PAUSE_RECEIVE: the peer of port `p` pauses priority `prio` for `quanta`, or releases it with 0 (R464). Only PFC_PRIO matters. -/
def execPfcPauseReceive (p prio quanta : Nat) (s : State) : Host.Outcome State Fault Refusal :=
  if prio ≠ s.getF (portReg rNetPortCtrl p) 3 1 then .next s
  else
    let s := s.updPort p (fun k => { k with paused := pauseTime quanta })
    .next (if quanta = 0 then s.sendPort p else s)

/-! ### Links and modules (R496) -/

/-- NET_LINK_DOWN: port `p` loses link: LINK clears and the event is logged. Queue pairs retry until R471 (R495). -/
def execNetLinkDown (p : Nat) (s : State) : Host.Outcome State Fault Refusal :=
  if !s.portPresent p || !s.linkUp p then .next s
  else .next ((s.setF (portReg rNetPortStatus p) 0 0 0).logOpen errNetLinkDown noTenant 0)

/-- NET_LINK_UP: the link of a present port comes up (R496), where the port has a MAC address (R560) and no trip keeps it down (R599); the pause of the
old link is over, and what waits goes out. -/
def execNetLinkUp (p : Nat) (s : State) : Host.Outcome State Fault Refusal :=
  if !s.portPresent p || s.boot.factory.isNone || s.mbx.tripped then .next s
  else .next (((s.setF (portReg rNetPortStatus p) 0 0 1).updPort p (fun k => { k with paused := 0 })).sendPort p)

/-- OSFP_MODULE_PRESENCE: the device detects the module of port `p`: MEDIA 0 none, 1 CR4, 2 DR4 (Table 16-9). -/
def execOsfpModulePresence (p media : Nat) (s : State) : Host.Outcome State Fault Refusal :=
  if !s.portPresent p then .next s
  else .next (s.setF (portReg rNetPortStatus p) 2 1 (if media ≤ 2 then media else 0))

/-! ### Queue pair commands (R470) -/

/-- The 64 B context that a tenant's registers hold. -/
def State.ctxRegs (s : State) (t : Nat) : Bytes := (List.range 16).flatMap (fun i => leBytes 4 (s.vgetN t (vNetTQpCtx + 4 * i)))

/-- A context keeps Table 16-3. -/
def State.ctxOk (s : State) (c : Bytes) : Bool :=
  let v6 := bit (fieldAt c 1 1) 0
  s.portPresent (fieldAt c 0 1) && decide (fieldAt c 1 1 < 4) && decide (fieldAt c 2 1 ≤ 2) && decide (fieldAt c 3 1 < 64)
    && decide (fieldAt c 4 4 < 2 ^ 24) && decide (fieldAt c 8 4 < 2 ^ 24) && decide (fieldAt c 0xC 4 < 2 ^ 24)
    && (v6 || allZero (slice c 0x14 12)) && decide (fieldAt c 0x26 2 < 0x8000) && decide (8 ≤ fieldAt c 0x28 1 ∧ fieldAt c 0x28 1 ≤ 20)
    && decide (fieldAt c 0x29 1 ≤ 7) && decide (fieldAt c 0x2A 1 ≤ 6) && decide (1 ≤ fieldAt c 0x2B 1)
    && decide (49152 ≤ fieldAt c 0x2C 2) && allZero (slice c 0x2E 18)

/-- SHUFFLE_OUT fields (Table 16-4). -/
def shTable (d : Bytes) : Nat := fieldAt d 0xA 2
def shSelf (d : Bytes) : Nat := fieldAt d 0xC 2
def shRowBytes (d : Bytes) : Nat := fieldAt d 0xE 2
def shP (d : Bytes) : Nat := fieldAt d 0x10 4
def shSrcBytes (d : Bytes) : Nat := fieldAt d 0x14 4
def shDepth (d : Bytes) : Nat := fieldAt d 0x18 1
def shDelta (d : Bytes) : Int := toSigned 8 (fieldAt d 0x19 1)
def shDestSrc (d : Bytes) : Nat := fieldAt d 0x1C 4
def shStrict (d : Bytes) : Bool := bit (fieldAt d 5 1) 0

/-- A peer table of a running course of the tenant names the queue pair (R470). -/
def State.peerNames (s : State) (t q : Nat) : Bool :=
  (s.rotasOf t).any (fun r => match r.course with
    | none => false
    | some c => (courseOps r.bin .network c.course).any (fun i =>
        let d := opRec r.bin .network i
        fieldAt d 3 1 == 2 && (match (courseTables r.bin c.course).find? (fun j => roTable r.bin j == shTable d) with
          | none => false
          | some j => (List.range (shP d)).any (fun p => match (s.readTable r c.course j (16 * p) 16).2 with
              | .ok e => !bit (fieldAt e 2 2) 0 && fieldAt e 0 2 == q
              | .error _ => false))))

/-- An accepted task of the tenant names the queue pair (R470). -/
def State.taskNames (s : State) (t q : Nat) : Bool :=
  (s.tasksOf t).any (fun x => (List.range (btNConsumer x.binding)).any (fun k => btPath x.binding k == 1 && btQp x.binding k == q))

/-- The result of a queue pair command. -/
def State.qpResult (s : State) (t code : Nat) : State := s.vsetF t vNetTQpStatus 31 16 code

/-- Why a command to move queue pair `q` out of the states `from_` is refused; 0 when it is not. -/
def State.qpRefusal (s : State) (t q : Nat) (from_ : List Nat) (ctx busy : Bool) : Nat :=
  match s.qp? t q with
  | none => errNetQpInvalid
  | some k =>
    if !from_.contains k.st then errNetQpState
    else if ctx && !s.ctxOk (s.ctxRegs t) then errNetQpInvalid
    else if busy && (s.taskNames t q || s.peerNames t q) then errNetQpBusy
    else 0

/-- A queue pair in RESET, its context kept. -/
def Qp.cleared (k : Qp) : Qp :=
  { k with unacked := [], lastAck := none, retries := 0, rnr := 0, sendPsn := 0, recvPsn := 0, rc := 400000, rt := 400000, alpha := 1,
           stage := 0, sent := 0, cnp := false, lastCnp := none }

/-- INIT loads the context: packet sequence numbers and the reaction point start (R469, Table 16-2). -/
def Qp.loaded (k : Qp) (c : Bytes) : Qp :=
  { k.cleared with st := 1, ctx := c, sendPsn := fieldAt c 8 4, recvPsn := fieldAt c 0xC 4 }

/-- Every write a queue pair has not had acknowledged is flushed; tiers among them never become ready (R471, R493). -/
def State.flushQp (s : State) (t q : Nat) : State :=
  match s.qp? t q with
  | none => s
  | some k =>
    let s := k.unacked.foldl (fun s w => match w.tier with
      | some i => s.updTask t w.task (fun y => { y with lost := setInsert y.lost i })
      | none => s) s
    s.updQp t q (fun k => { k with unacked := [], st := 4 })

/-- The device moves a queue pair to ERR (R471). -/
def State.qpError (s : State) (t q : Nat) : State :=
  match s.qp? t q with
  | none => s
  | some k =>
    let s := (s.flushQp t q).vcount t vNetTQpErrCnt 1
    match k.lastAck with
    | some a => s.logEvent errNetQpError t 0 q a
    | none => let f := s.free 64; f.2.logEvent errNetQpError t 0 q f.1.toNat

/-- The frame of a queue pair command of tenant `t`: on the queue pair NET_T_QP_SEL names, `f` applies unless R470 refuses it. -/
def State.qpCommand (s : State) (t : Nat) (from_ : List Nat) (ctx busy : Bool) (f : State → Nat → State) : State :=
  if !s.exists? t then s
  else
    let q := s.vgetN t vNetTQpSel % 4096
    let code := s.qpRefusal t q from_ ctx busy
    if code = 0 then (f s q).qpResult t 0 else s.qpResult t code

/-- QP_INIT: RESET to INIT, loading the context (R470). -/
def execQpInit (t : Nat) (s : State) : Host.Outcome State Fault Refusal :=
  .next (s.qpCommand t [0] true true (fun s q => s.updQp t q (fun k => k.loaded (s.ctxRegs t))))

/-- QP_RTR: INIT to RTR (R470). -/
def execQpRtr (t : Nat) (s : State) : Host.Outcome State Fault Refusal :=
  .next (s.qpCommand t [1] false true (fun s q => s.updQp t q (fun k => { k with st := 2 })))

/-- QP_RTS: RTR to RTS (R470). -/
def execQpRts (t : Nat) (s : State) : Host.Outcome State Fault Refusal :=
  .next (s.qpCommand t [2] false false (fun s q => s.updQp t q (fun k => { k with st := 3 })))

/-- QP_ERR: any state to ERR (R470); what is not acknowledged is flushed. -/
def execQpErr (t : Nat) (s : State) : Host.Outcome State Fault Refusal :=
  .next (s.qpCommand t [0, 1, 2, 3, 4] false false (fun s q => s.flushQp t q))

/-- QP_RESET: INIT or ERR to RESET (R470). -/
def execQpReset (t : Nat) (s : State) : Host.Outcome State Fault Refusal :=
  .next (s.qpCommand t [1, 4] false true (fun s q => s.updQp t q (fun k => { k.cleared with st := 0 })))

/-! ### Registered regions (R472) -/

/-- Region `i` of a tenant with a base, a length and the CTRL word `v`: registered, replaced or dropped, or refused with a code that is not 0 (R472). -/
def State.putRegion (s : State) (t i base len v : Nat) : State × Nat :=
  let ory := bit v 2
  let size := runsLen (s.extents t (if ory then .ory else .hbm)) * 0x400000
  let drop := fun (x : Tenant) => { x with mrs := x.mrs.filter (fun m => m.no != i) }
  if v % 4 = 0 then (s.updTenant t drop, 0)
  else if len = 0 ∨ size < base + len then (s, errNetMrInvalid)
  else
    let m : Mr := { no := i, base := base, len := len, read := bit v 0, write := bit v 1, ory := ory, key := v / 128 }
    (s.updTenant t (fun x => { drop x with mrs := insertBy (·.no) m (drop x).mrs }), 0)

/-- NET_T_MR_CTRL: tenant `t` writes `value`, which registers, replaces or drops the region NET_T_MR_SEL names (R472). -/
def execNetTMrCtrl (t : Nat) (value : Word) (s : State) : Host.Outcome State Fault Refusal :=
  if !s.exists? t then .next s
  else
    let s := s.vset t vNetTMrCtrl value
    let r := s.putRegion t (s.vgetN t vNetTMrSel % 64) (s.vget64 t vNetTMrBase) (s.vget64 t vNetTMrLen) value.toNat
    .next (r.1.vsetF t vNetTMrStatus 31 16 r.2)

/-! ### Packets of peers (R473, R474, R480 to R483) -/

/-- Where a packet sequence number stands against the one expected. -/
inductive PsnOrder where
  | expected | behind | ahead
  deriving DecidableEq, Repr

def psnOrder (want got : Nat) : PsnOrder :=
  let d := (got + 2 ^ 24 - want % 2 ^ 24) % 2 ^ 24
  if d = 0 then .expected else if d < 2 ^ 23 then .ahead else .behind

/-- NAK codes of the InfiniBand transport (PRESUMED: the standard's): 0 sequence error, 1 invalid request, 2 remote access error,
3 remote operational error. -/
def nakSeq : Nat := 0
def nakInvalid : Nat := 1
def nakAccess : Nat := 2
def nakOperational : Nat := 3

/-- A CNP for a CE-marked packet, at most one per NP_INTERVAL (R469), when ECN_EN is 1. -/
def State.noteCe (s : State) (p : Pkt) : State :=
  match s.qp? p.tenant p.q with
  | none => s
  | some k =>
    let due := match k.lastCnp with
      | some a => decide (a + s.getN (rNetCcParam + 28) * 1000 ≤ p.now)
      | none => true
    if p.ce && decide (2 ≤ k.st ∧ k.st ≤ 3) && bit (s.getN (portReg rNetPortCtrl k.port)) 4 && due then
      (s.updQp p.tenant p.q (fun k => { k with lastCnp := some p.now })).emit (.cnp p.tenant p.q)
    else s

/-- Move the expected packet sequence number on by `n` packets. -/
def State.bumpRecv (s : State) (p : Pkt) (n : Nat) : State :=
  s.updQp p.tenant p.q (fun k => { k with recvPsn := (k.recvPsn + n) % 2 ^ 24 })

/-- Acknowledge a packet taken. -/
def State.ackRecv (s : State) (p : Pkt) (n bytes : Nat) : State :=
  ((s.bumpRecv p n).vcount64 p.tenant vNetTRxBytes bytes).emit (.ack p.tenant p.q ((p.psn + n - 1) % 2 ^ 24))

/-- A remote access error: the NAK, and the queue pair goes to ERR (R471, R473). -/
def State.accessError (s : State) (p : Pkt) : State := (s.emit (.nak p.tenant p.q p.psn nakAccess)).qpError p.tenant p.q

/-- The registered region an rkey names. -/
def State.mr? (s : State) (t rkey : Nat) : Option Mr :=
  match s.tenant? t with
  | none => none
  | some x => x.mrs.find? (fun m => m.key * 64 + m.no == rkey)

/-- The rate at which a tenant's spare account of a class fills, in bytes per 65,536 cycles (R210). -/
def State.spareRate (s : State) (t : Nat) : BwClass → Nat
  | .read => s.admEnv.rate s.admEnv.read (grantItem s.pf0 t 0 - s.usedOf t rhBwRead)
  | .write => s.admEnv.rate s.admEnv.write (grantItem s.pf0 t 1 - s.usedOf t rhBwWrite)
  | .remote => s.admEnv.rate s.admEnv.remote (grantItem s.pf0 t 2 - s.usedOf t rhBwRemote)

/-- Take tokens of a tenant's spare remote account (R212). -/
def State.chargeSpare (s : State) (t n : Nat) : State :=
  (s.updTenant t (fun x => { x with spare := x.spare.take .remote n })).vcount64 t vBwTRemoteBytes n

/-- What serving an access of a peer to a registered region comes to (R473, R474). -/
inductive RegionUse where
  | refuse (count : Bool)
  | wait
  | go (m : Mr)

def State.regionUse (s : State) (t rkey addr len : Nat) (write : Bool) : RegionUse :=
  match s.mr? t rkey with
  | none => .refuse false
  | some m =>
    if s.spareRate t .remote = 0 then .refuse true
    else if !(if write then m.write else m.read) || addr < m.base || m.base + m.len < addr + len then .refuse false
    else if (match s.tenant? t with | some x => x.spare.has .remote len | none => false) then .go m
    else .wait

/-- The window an rkey names: the Rota, its PEER_IN's descriptor, and the window (R480). -/
def State.window? (s : State) (t rkey : Nat) : Option (Rota × Bytes × PeerIn) :=
  (s.rotasOf t).findSome? (fun r => match r.peers.find? (fun p => rkey == 0x80000000 + piKey (opRec r.bin .network p.nop)) with
    | some p => some (r, opRec r.bin .network p.nop, p)
    | none => none)

/-- Entry `e` of a window is closed: its owning beat is staged, or its course has started (R482). -/
def State.entryClosed (s : State) (r : Rota) (d : Bytes) (p : PeerIn) (e : Nat) : Bool :=
  decide (piSrc d ≤ (nth p.marks e []).length) ||
    (match r.course with
     | some c => c.course == piCourse d && (match s.task? (handleTenant r.handle) c.seq with
         | some x => x.pub == nth p.owners e 0
         | none => false)
     | none => false)

/-- The entries `n` bytes at window address `a` touch. -/
def entriesOf (d : Bytes) (a n : Nat) : List Nat :=
  let w := Nat.max 1 (piSrc d * piSrcBytes d)
  (List.range ((a + n - 1) / w + 1 - a / w)).map (fun i => a / w + i)

/-- A peer's write into a staging window (R480, R482, R483): none when its tokens are not there yet. -/
def State.windowWrite (s : State) (p : Pkt) (rkey addr : Nat) (data : Bytes) (first : Bool) : Option State :=
  let t := p.tenant
  match s.window? t rkey with
  | none => some (s.accessError p)
  | some (r, d, w) =>
    if piDepth d * piSrc d * piSrcBytes d < addr + data.length then some (s.accessError p)
    else if data.length ≠ 0 && (entriesOf d addr data.length).any (s.entryClosed r d w) then
      some ((if first then s.vcount t vNetTPeerDiscardCnt 1 else s).ackRecv p 1 data.length)
    else if !r.acc.has .remote data.length then none
    else
      let s := s.chargeRota r.handle .remote data.length
      some (((s.writeMem t .hbm (r.hbmBase + piOffset d + addr) data).1).ackRecv p 1 data.length)

/-- A peer's write under a registered region. -/
def State.regionWrite (s : State) (p : Pkt) (rkey addr : Nat) (data : Bytes) : Option State :=
  match s.regionUse p.tenant rkey addr data.length true with
  | .refuse c => some ((if c then s.vcount p.tenant vNetTRaccErrCnt 1 else s).accessError p)
  | .wait => none
  | .go m =>
    let s := s.chargeSpare p.tenant data.length
    some (((s.writeMem p.tenant (if m.ory then .ory else .hbm) addr data).1).ackRecv p 1 data.length)

/-- The packets of the response to a read of `n` bytes. -/
def State.respPackets (s : State) (p : Pkt) (n : Nat) : Nat := match s.qp? p.tenant p.q with | some k => k.packets n | none => 1

/-- A peer's read under a registered region; `again` says that it repeats one already served. -/
def State.regionRead (s : State) (p : Pkt) (rkey addr len : Nat) (again : Bool) : Option State :=
  match s.regionUse p.tenant rkey addr len false with
  | .refuse c => some ((if c then s.vcount p.tenant vNetTRaccErrCnt 1 else s).accessError p)
  | .wait => none
  | .go m =>
    let n := s.respPackets p len
    let s := s.chargeSpare p.tenant len
    match s.readMem p.tenant (if m.ory then .ory else .hbm) false addr len with
    | (s, .error _) => some (s.emit (.nak p.tenant p.q p.psn nakOperational))
    | (s, .ok d) =>
      let s := (s.emit (.readResponse p.tenant p.q p.psn d)).vcount64 p.tenant vNetTTxBytes len
      some (if again then s else s.bumpRecv p n)

/-- A staging mark (Table 16-5) as its fields say; none when it is not well formed (R481). -/
structure Mark where
  beat : Nat
  rkey : Nat
  src : Nat
  bytes : Nat
  deriving DecidableEq, Repr

def Mark.of (b : Bytes) : Option Mark :=
  if b.length = 24 ∧ fieldAt b 0x14 4 = 0 then
    some { beat := fieldAt b 0 8, rkey := fieldAt b 8 4, src := fieldAt b 0xC 4, bytes := fieldAt b 0x10 4 }
  else none

/-- A mark's source and bytes are what the window takes. -/
def Mark.fits (m : Mark) (d : Bytes) : Bool :=
  decide (m.src < piSrc d ∧ m.bytes ≤ piSrcBytes d) && (!piRows d || m.bytes % Nat.max 1 (piRowBytes d) == 0)

/-- Apply a mark to a window, or discard and count it (R481); one for a batch already published without its tier counts twice (R691). -/
def State.applyMark (s : State) (t : Nat) (r : Rota) (d : Bytes) (w : PeerIn) (m : Mark) : State :=
  let e := m.beat % Nat.max 1 (piDepth d)
  let have_ := nth w.marks e []
  if m.fits d && nth w.owners e 0 == m.beat && have_.all (fun k => k.src != m.src) then
    s.updRota r.handle (fun q => { q with peers := updWhere q.peers (fun p => p.nop == w.nop) (fun p => { p with
      marks := modifyAt p.marks e (fun l => l ++ [{ src := m.src, bytes := m.bytes }]) }) })
  else (s.vcount t vNetTPeerDiscardCnt 1).countLate r m.beat (piCourse d)

/-- A SEND of a peer: a staging mark, or discarded and counted (R481). None when the mark's tokens are not there yet (R483). -/
def State.sendTaken (s : State) (p : Pkt) (data : Bytes) : Option State :=
  let n := s.respPackets p data.length
  let t := p.tenant
  let discard := some ((s.vcount t vNetTPeerDiscardCnt 1).ackRecv p n data.length)
  match Mark.of data with
  | none => discard
  | some m => match s.window? t m.rkey with
    | none => discard
    | some (r, d, w) =>
      if !r.acc.has .remote data.length then none
      else some (((s.chargeRota r.handle .remote data.length).applyMark t r d w m).ackRecv p n data.length)

/-- A packet of a peer meets its queue pair: what the device does with it, or none when it waits for tokens. A queue pair that is not in RTR or
RTS answers nothing (R471); a repeated packet is acknowledged again, and one ahead of its turn gets a NAK. -/
def State.takePacket (s : State) (p : Pkt) (f : State → Option State) (again : State → Option State) : Option State :=
  match s.qp? p.tenant p.q with
  | none => some s
  | some k =>
    if k.st ≠ 2 ∧ k.st ≠ 3 then some s
    else match psnOrder k.recvPsn p.psn with
      | .expected => f s
      | .behind => again s
      | .ahead => some (s.emit (.nak p.tenant p.q k.recvPsn nakSeq))

/-- The answer to a repeated write or SEND. -/
def State.ackAgain (s : State) (p : Pkt) : Option State :=
  match s.qp? p.tenant p.q with
  | some k => some (s.emit (.ack p.tenant p.q ((k.recvPsn + 2 ^ 24 - 1) % 2 ^ 24)))
  | none => some s

/-- A held item takes its turn; none while its tokens are not there. -/
def State.tryRx (s : State) (port : Nat) (x : RxItem) : Option State :=
  match x.what with
  | .sensor udp d => match s.chanFor port udp d with
    | none => some s
    | some c => if s.sensorTokens c d then some (s.sensorTake c d s.ptp.clock) else none
  | .write p rkey addr data first =>
    s.takePacket p (fun s => if 0x80000000 ≤ rkey then s.windowWrite p rkey addr data first else s.regionWrite p rkey addr data) (·.ackAgain p)
  | .read p rkey addr len => s.takePacket p (fun s => s.regionRead p rkey addr len false) (fun s => s.regionRead p rkey addr len true)
  | .send p data => s.takePacket p (fun s => s.sendTaken p data) (·.ackAgain p)

/-- Serve the receive buffer of a port in order of arrival; a tenant whose oldest item waits keeps its later ones waiting (R464, R474). -/
def State.serveItems (s : State) (port : Nat) (stuck : List Nat) : List RxItem → State × List RxItem
  | [] => (s, [])
  | x :: t =>
    if stuck.contains x.tenant then
      let r := s.serveItems port stuck t
      (r.1, x :: r.2)
    else match s.tryRx port x with
      | none =>
        let r := s.serveItems port (x.tenant :: stuck) t
        (r.1, x :: r.2)
      | some s => s.serveItems port stuck t

/-- Serve a port's receive buffer. -/
def State.serveRx (s : State) (port : Nat) : State :=
  if (s.port port).rx.isEmpty then s
  else
    let r := s.serveItems port [] (s.port port).rx
    (r.1.updPort port (fun k => { k with rx := r.2 })).settlePause port

/-- A packet of a peer arrives: it is served, or waits in the receive buffer of its queue pair's port behind what its tenant already has
there, or is dropped (R464, R474). -/
def State.arrive (s : State) (p : Pkt) (what : RxWhat) (bytes : Nat) : State :=
  match s.qp? p.tenant p.q with
  | none => s
  | some k =>
    if k.st ≠ 2 ∧ k.st ≠ 3 then s
    else
      let s := s.noteCe p
      let x : RxItem := { tenant := p.tenant, bytes := bytes, what := what }
      if (s.port k.port).rx.any (fun y => y.tenant == p.tenant) then (s.holdRx k.port x).1
      else match s.tryRx k.port x with
        | some s => s
        | none => (s.holdRx k.port x).1

/-- RDMA_WRITE_RECEIVE: a packet of a peer's RDMA WRITE, with or without immediate data; `first` says that it is the write's first
(R473, R480, R482). -/
def execRdmaWriteReceive (p : Pkt) (rkey addr : Nat) (data : Bytes) (first : Bool) (s : State) : Host.Outcome State Fault Refusal :=
  .next (s.arrive p (.write p rkey addr data first) data.length)

/-- RDMA_READ_RECEIVE: a peer's RDMA READ of `len` bytes (R473, R474). A staging window cannot be read: its rkey names no region. -/
def execRdmaReadReceive (p : Pkt) (rkey addr len : Nat) (s : State) : Host.Outcome State Fault Refusal :=
  .next (s.arrive p (.read p rkey addr len) 0)

/-- SEND_RECEIVE: a peer's SEND (R481). -/
def execSendReceive (p : Pkt) (data : Bytes) (s : State) : Host.Outcome State Fault Refusal :=
  .next (s.arrive p (.send p data) data.length)

/-- ATOMIC_RECEIVE: a peer's atomic is answered with NAK invalid request (Table 16-1). -/
def execAtomicReceive (p : Pkt) (s : State) : Host.Outcome State Fault Refusal :=
  match s.qp? p.tenant p.q with
  | none => .next s
  | some k =>
    if k.st ≠ 2 ∧ k.st ≠ 3 then .next s
    else .next ((s.noteCe p).emit (.nak p.tenant p.q p.psn nakInvalid))

/-! ### Answers of peers (R471, R476, R477) -/

/-- The last packet of a message. -/
def QpWrite.last (w : QpWrite) : Nat := (w.psn + w.packets - 1) % 2 ^ 24

/-- An acknowledgement of `psn` covers a message. -/
def QpWrite.covered (w : QpWrite) (psn : Nat) : Bool := w.sent && psnOrder w.last psn != .behind

/-- ACK_RECEIVE: the peer has acknowledged every packet up to `psn`: those messages leave the staging (R477). A number beyond what was sent
changes nothing. -/
def execAckReceive (t q psn : Nat) (s : State) : Host.Outcome State Fault Refusal :=
  match s.qp? t q with
  | none => .next s
  | some k =>
    if k.st ≠ 3 || psnOrder k.sendPsn psn != .behind then .next s
    else
      let done := k.unacked.filter (fun w => w.covered psn)
      let last := done.foldl (fun a w => match w.seq with | some q => some q | none => a) k.lastAck
      if done.isEmpty then .next s
      else .next (s.updQp t q (fun k => { k with
        unacked := k.unacked.filter (fun w => !w.covered psn), lastAck := last, retries := 0, rnr := 0 }))

/-- Send again every message from `psn` on (go-back-N, Table 16-1). -/
def State.resend (s : State) (t q psn : Nat) : State :=
  match s.qp? t q with
  | none => s
  | some k =>
    if !s.portOpen k.port then s
    else
      let s := (k.unacked.filter (fun w => psnOrder psn w.last != .behind)).foldl (fun s w => s.transmit k w) s
      s.updQp t q (fun k => { k with unacked := k.unacked.map (fun w => { w with sent := true }) })

/-- NAK_RECEIVE: RNR is retried as RNR_RETRY allows; any other NAK moves the queue pair to ERR (R471, R476). -/
def execNakReceive (t q psn : Nat) (rnr : Bool) (s : State) : Host.Outcome State Fault Refusal :=
  match s.qp? t q with
  | none => .next s
  | some k =>
    if k.st ≠ 3 then .next s
    else if !rnr || decide (fieldAt k.ctx 0x2A 1 < k.rnr + 1) then .next (s.qpError t q)
    else .next ((s.updQp t q (fun k => { k with rnr := k.rnr + 1 })).resend t q psn)

/-- RETRANSMIT_TIMEOUT: the oldest unacknowledged packet's timer runs out: everything unacknowledged is sent again, or after RETRY times the
queue pair goes to ERR (R471). -/
def execRetransmitTimeout (t q : Nat) (s : State) : Host.Outcome State Fault Refusal :=
  match s.qp? t q with
  | none => .next s
  | some k => match k.unacked.find? (fun w => w.sent) with
    | none => .next s
    | some w =>
      if k.st ≠ 3 then .next s
      else if fieldAt k.ctx 0x29 1 < k.retries + 1 then .next (s.qpError t q)
      else .next ((s.updQp t q (fun k => { k with retries := k.retries + 1 })).resend t q w.psn)

/-! ### Congestion (R469) -/

/-- A parameter of Table 16-2. -/
def State.ccParam (s : State) (i : Nat) : Nat := s.getN (rNetCcParam + 4 * i)

/-- g, as 2^-VALUE. -/
def State.ccGain (s : State) : Rat := 1 / ((2 ^ s.ccParam 0 : Nat) : Rat)

/-- The larger, and the smaller, of two rates. -/
def ratMax (a b : Rat) : Rat := if a ≤ b then b else a
def ratMin (a b : Rat) : Rat := if a ≤ b then a else b

/-- CNP_RECEIVE: on a congestion notification the current rate falls (R469). -/
def execCnpReceive (t q : Nat) (s : State) : Host.Outcome State Fault Refusal :=
  match s.qp? t q with
  | none => .next s
  | some k =>
    let g := s.ccGain
    let floor_ : Rat := (s.ccParam 6 : Nat)
    .next ((s.count (portReg rNetPortCnpCnt k.port) 1).updQp t q (fun k => { k with
      rt := k.rc, rc := ratMax (k.rc * (1 - k.alpha / 2)) floor_, alpha := (1 - g) * k.alpha + g, stage := 0, cnp := true }))

/-- ALPHA_TIMER: alpha falls after an interval without a CNP (R469). -/
def execAlphaTimer (t q : Nat) (s : State) : Host.Outcome State Fault Refusal :=
  let g := s.ccGain
  .next (s.updQp t q (fun k => if k.cnp then { k with cnp := false } else { k with alpha := (1 - g) * k.alpha }))

/-- The increase of R469. -/
def Qp.increase (k : Qp) (ai : Rat) : Qp :=
  let stage := (k.stage + 1) % 2 ^ 32
  let rt := if 5 < stage then ratMin (k.rt + ai) 400000 else k.rt
  { k with stage := stage, rt := rt, rc := (k.rc + rt) / 2 }

/-- RATE_TIMER: the rate timer runs out, or with `bytes` BYTE_STEP bytes have been sent: the rate rises (R469). -/
def execRateTimer (t q : Nat) (bytes : Bool) (s : State) : Host.Outcome State Fault Refusal :=
  match s.qp? t q with
  | none => .next s
  | some k =>
    let step := s.ccParam 4 * 1024
    let ai : Rat := (s.ccParam 5 : Nat)
    if bytes && decide (k.sent < step) then .next s
    else .next (s.updQp t q (fun k => { k.increase ai with sent := if bytes then k.sent - step else k.sent }))

/-! ### Shuffles (R485, R486) -/

/-- The port that runs a SHUFFLE_OUT. -/
def OpEnv.shufflePort (e : OpEnv) : Agent :=
  let p := e.r.phys e.c.course 8 (fieldAt e.d 4 1)
  { cls := 8, inst := p, req := 0x90 + p }

def shIn (d : Bytes) : Nat := fieldAt d 6 2
def shPart (d : Bytes) : Nat := fieldAt d 8 2

/-- A row of a shuffle: its bytes, none for a null row, and its partition. -/
structure ShufRow where
  bytes : Option Bytes
  part : Option Nat
  deriving DecidableEq, Repr

/-- What a pair of batches gives: the rows, or the row at which it breaks R241, R243 or R485. -/
def shufRows (d a b : Bytes) : Except Nat (List ShufRow) :=
  match parseBatch a, parseBatch b with
  | some x, some y =>
    if x.layout ≠ 4 || x.etype ≠ 6 || y.layout ≠ 0 || y.etype ≠ 8 || x.nullsBad || y.nullsBad || x.rows ≠ y.rows || x.rowBase ≠ y.rowBase then
      .error 0
    else match x.badOffset with
      | some i => .error i
      | none => match (List.range x.rows).find? (fun i => nth x.valid i false && (x.span i).length != shRowBytes d) with
        | some i => .error i
        | none => .ok ((List.range x.rows).map (fun i =>
            { bytes := if nth x.valid i false then some (x.span i) else none,
              part := if nth y.valid i false then some (y.elem i) else none }))
  | _, _ => .error 0

/-- Entry `p` of the peer table (Table 16-6). -/
def State.peerEntry (s : State) (e : OpEnv) (p : Nat) : State × Except Nat Bytes :=
  match e.table? (shTable e.d) with
  | none => (s, .error errMemOutOfRange)
  | some j => s.readTable e.r e.c.course j (16 * p) 16

def peQp (b : Bytes) : Nat := fieldAt b 0 2
def peSelf (b : Bytes) : Bool := bit (fieldAt b 2 2) 0
def peRkey (b : Bytes) : Nat := fieldAt b 4 4
def peSrc (b : Bytes) : Nat := fieldAt b 8 4

/-- The beat the receivers' entry is for: the task's assigned beat + BEAT_DELTA. -/
def OpEnv.destBeat (e : OpEnv) : Nat := ((e.x.pub : Int) + shDelta e.d).toNat

/-- The window address of a piece's bytes at the receiver (R485). -/
def OpEnv.destAddr (e : OpEnv) (ent : Bytes) (sent : Nat) : Nat :=
  (e.destBeat % Nat.max 1 (shDepth e.d) * shDestSrc e.d + peSrc ent) * shSrcBytes e.d + sent

/-- Bytes sent to piece `p` in the task. -/
def OpEnv.sentTo (e : OpEnv) (p : Nat) : Nat := (sparseGet [] e.o.table p).headD 0

/-- What sending one thing of a shuffle comes to: it waits for tokens or staging room, it fails, or it is done. -/
inductive ShufOut where
  | wait | fault (s : State) (code : Nat) | done (s : State)

/-- Send bytes, or with `send` a mark, of a shuffle to a peer: charged to the Rota's remote account, into its transmit staging. -/
def State.shufSend (s : State) (e : OpEnv) (ent : Bytes) (send : Bool) (addr : Nat) (data : Bytes) : ShufOut :=
  match s.rota? e.h with
  | none => .wait
  | some r =>
    if !r.acc.has .remote data.length || decide (stagingOf r.bin < s.stagedOut e.h + data.length) then .wait
    else .done ((s.chargeRota e.h .remote data.length).peerSend e.t (peQp ent)
      { handle := e.h, task := e.c.seq, tier := none, send := send, rkey := peRkey ent, addr := addr, data := data, seq := none,
        psn := 0, packets := 0, sent := false }).1

/-- The PEER_IN that takes the local piece. -/
def State.selfWindow (s : State) (e : OpEnv) : Option (Rota × Bytes × PeerIn) :=
  match s.rota? e.h with
  | none => none
  | some r => match r.peers.find? (fun p => p.nop == shSelf e.d) with
    | some p => some (r, opRec r.bin .network p.nop, p)
    | none => none

/-- Write a row of the local piece into its window; a closed entry discards it (R482, R486). -/
def State.shufLocal (s : State) (e : OpEnv) (addr : Nat) (data : Bytes) : ShufOut :=
  match s.selfWindow e with
  | none => .done s
  | some (r, d, w) =>
    if (entriesOf d addr data.length).any (s.entryClosed r d w) then .done (s.vcount e.t vNetTPeerDiscardCnt 1)
    else if !r.acc.has .write data.length then .wait
    else match (s.chargeRota e.h .write data.length).writeMem e.t .hbm (r.hbmBase + piOffset d + addr) data with
      | (s, some c) => .fault s c
      | (s, none) => .done s

/-- One row of a shuffle (R485): what becomes of it, with the code of a fault. -/
def State.shufRow (s : State) (e : OpEnv) (row : ShufRow) : ShufOut :=
  match row.bytes, row.part with
  | some b, some p =>
    if shP e.d ≤ p then (if shStrict e.d then .fault s errNetShufPartRange else .done (s.vcount e.t vNetTShufDropCnt 1))
    else match s.peerEntry e p with
      | (s, .error c) => .fault s c
      | (s, .ok ent) =>
        let sent := e.sentTo p
        if shSrcBytes e.d < sent + b.length then .fault s errNetShufOverflow
        else
          let r := if peSelf ent then s.shufLocal e (e.destAddr ent sent) b else s.shufSend e ent false (e.destAddr ent sent) b
          match r with
          | .done s => .done (s.updOp e.h e.o.key (fun o => { o with table := sparseSet [] o.table p [sent + b.length] }))
          | r => r
  | _, _ => .done (s.vcount e.t vNetTShufDropCnt 1)

/-- The rows of a batch from `i` on, as far as tokens and staging let them go: how many are done, and the fault that stopped one. -/
def State.shufRowsFrom (s : State) (h i : Nat) : Nat → List ShufRow → State × Nat × Option Nat
  | n, [] => (s, n, none)
  | n, x :: t =>
    match s.opEnv h .network i with
    | none => (s, n, none)
    | some e => match s.shufRow e x with
      | .wait => (s, n, none)
      | .fault s c => (s, n, some c)
      | .done s => s.shufRowsFrom h i (n + 1) t

/-- The mark of piece `p` (R486). -/
def OpEnv.mark (e : OpEnv) (ent : Bytes) (p : Nat) : Bytes :=
  leBytes 8 e.destBeat ++ leBytes 4 (peRkey ent) ++ leBytes 4 (peSrc ent) ++ leBytes 4 (e.sentTo p) ++ leBytes 4 0

/-- Send the mark of one piece; the local one applies directly. -/
def State.shufMark (s : State) (e : OpEnv) (p : Nat) : ShufOut :=
  match s.peerEntry e p with
  | (s, .error c) => .fault s c
  | (s, .ok ent) =>
    if peSelf ent then match s.selfWindow e with
      | none => .done s
      | some (r, d, w) => .done (s.applyMark e.t r d w { beat := e.destBeat, rkey := peRkey ent, src := peSrc ent, bytes := e.sentTo p })
    else s.shufSend e ent true 0 (e.mark ent p)

/-- The marks of the pieces from `p` on; `fuel` counts pieces. -/
def State.shufMarks (s : State) (h i : Nat) : Nat → Nat → State × Nat × Option Nat
  | 0, p => (s, p, none)
  | n + 1, p =>
    match s.opEnv h .network i with
    | none => (s, p, none)
    | some e =>
      if shP e.d ≤ p then (s, p, none)
      else match s.shufMark e p with
        | .wait => (s, p, none)
        | .fault s c => (s, p, some c)
        | .done s => s.shufMarks h i n (p + 1)

/-- A fault of a shuffle names the stream context of IN_HOOP (R495). -/
def State.shufFault (s : State) (e : OpEnv) (code elem : Nat) : State := s.opFault e e.shufflePort { code := code, elem := elem, hoop := shIn e.d }

/-- The marks that are still to go: the operation is done once all have gone (R486). -/
def State.shufEnd (s : State) (e : OpEnv) : State :=
  let r := s.shufMarks e.h e.i (shP e.d + 1) (nth e.o.nums 1 0)
  match r.2.2 with
  | some c => r.1.shufFault e c 0
  | none => r.1.updOp e.h e.o.key (fun o => { o with nums := [0, r.2.1], stage := if shP e.d ≤ r.2.1 then 2 else 1 })

/-- One pair of batches: the rows not yet sent go as far as they can; when the last is done the slots are released, and at END the marks
follow. -/
def State.shufBatch (s : State) (e : OpEnv) (l : List (Hoop × Slot)) (a b : Bytes) : State :=
  match shufRows e.d a b with
  | .error i => s.shufFault e errNetBatchInvalid (hdrRowBase a + i)
  | .ok rows =>
    let from_ := nth e.o.nums 0 0
    let r := s.shufRowsFrom e.h e.i from_ (rows.drop from_)
    match r.2.2 with
    | some c => r.1.shufFault e c (hdrRowBase a + r.2.1)
    | none =>
      if r.2.1 < rows.length then r.1.updOp e.h e.o.key (fun o => { o with nums := [r.2.1, 0] })
      else
        let fin := l.any (fun p => p.2.fin)
        let s := (r.1.updOp e.h e.o.key (fun o => { o with nums := [0, 0], stage := if fin then 1 else 0 })).finishInputs e l
        if !fin then s
        else match s.opEnv e.h .network e.i with
          | none => s
          | some e => s.shufEnd e

/-- SHUFFLE_OUT: the port takes the next pair of batches of network operation `i` of Rota `h`, or sends the marks after END (R485, R486). What
tokens or staging do not allow yet goes at a later event. -/
def execShuffleOut (h i : Nat) (s : State) : Host.Outcome State Fault Refusal :=
  match s.opEnv h .network i with
  | none => .next s
  | some e =>
    if fieldAt e.d 3 1 ≠ 2 ∨ 2 ≤ e.o.stage then .next s
    else if e.o.stage = 1 then .next (s.shufEnd e)
    else match e.c.inputs e.o.key [shIn e.d, shPart e.d] with
      | .wait => .next s
      | .ended => .next (s.shufEnd e)
      | .got l =>
        if l.all (fun p => p.2.bare) then
          let s := s.finishInputs e l
          match s.opEnv h .network i with
          | none => .next s
          | some e => .next (s.shufEnd e)
        else match s.readInputs e.r l with
          | (s, .error c) => .next (s.shufFault e c.1 0)
          | (s, .ok bs) => .next (s.shufBatch e l (nth bs 0 []) (nth bs 1 []))

end Sys2Proof.Machine
end

