-- ==== Sys2Proof/Machine/Host.lean ====
section
/-! DEFINITION. The host attachment (spec/17): queues and doorbells, fetching and accepting tasks (spec/03, R96 to R98, R109), staging of host
input streams, translation, completions and faults, and the loss and return of the link. -/

namespace Sys2Proof.Machine

/-! ### HOST_EVENT -/

/-- Set a bit of HOST_EVENT; PF0 vector 4 when it becomes set (Table 17-5). -/
def State.hostEvent (s : State) (b : Nat) : State :=
  let was := bit (s.getN rHostEvent) b
  let s := s.raise rHostEvent (2 ^ b)
  if was then s else s.msg 0 4

/-- A HOST_INDEPENDENT Rota's task. -/
def State.independent (s : State) (x : Task) : Bool := rhHostIndependent (s.binOf x)

/-- A task that the host's absence affects: of a host tenant, or of a Rota without HOST_INDEPENDENT (R529, R532). -/
def State.hostBound (s : State) (x : Task) : Bool :=
  !s.independent x || (match s.tenant? x.tenant with | some y => !y.standing | none => true)

/-! ### Queue pairs (R504, R505, R522) -/

/-- The pair HOST_T_Q_SEL names. -/
def State.pairSel (s : State) (t : Nat) : Nat := s.vgetN t vHostTQSel % 8

/-- The configuration of a pair keeps R504. -/
def HostQueue.configOk (k : HostQueue) : Bool :=
  let sl := bits k.wSize 3 0
  let cl := bits k.wSize 7 4
  k.wSq % 4096 == 0 && k.wCq % 4096 == 0 && decide (4 ≤ sl ∧ sl ≤ 12 ∧ 4 ≤ cl ∧ cl ≤ 12)

/-- A pair as an accepted enable leaves it. -/
def HostQueue.started (k : HostQueue) : HostQueue :=
  { k with enabled := true, stopping := false, fault := false, result := 0, sqBase := k.wSq, cqBase := k.wCq, sqLog := bits k.wSize 3 0,
           cqLog := bits k.wSize 7 4, vector := bits k.wSize 11 8, irq := bit k.wSize 12, sqHead := 0, sqTail := 0, cqHead := 0, cqTail := 0,
           phase := true, reserved := 0, descSeq := 0 }

/-- The records a pair still owes are dropped and counted when it starts again before its disable has finished. -/
def State.dropOwed (s : State) (t q : Nat) : State :=
  let owed := fun (x : Task) => x.tenant == t && x.queue == some q && !x.decided
  let fetched := match s.tenant? t with | some x => (x.fetched.filter (fun f => f.queue == q)).length | none => 0
  let s := s.vcount t vHostTRecDropCnt ((s.tasks.filter owed).length + fetched)
  { (s.updTenant t (fun x => { x with fetched := x.fetched.filter (fun f => f.queue != q) })) with
    tasks := updWhere s.tasks owed (fun x => { x with queue := none }) }

/-- QUEUE_ENABLE: tenant `t` writes 1 to HOST_T_Q_CTRL.ENABLE of the selected pair (R504). A pair that is enabled keeps its configuration. -/
def execQueueEnable (t : Nat) (s : State) : Host.Outcome State Fault Refusal :=
  match s.tenant? t with
  | none => .next s
  | some x =>
    let q := s.pairSel t
    let k := s.queue t q
    if x.phase ≠ .active || (k.enabled && !k.stopping) then .next s
    else if x.orphaned then .next (s.updQueue t q (fun k => { k with result := errHostTenantOrphaned }))
    else if !k.configOk then .next (s.updQueue t q (fun k => { k with result := errHostQueueInvalid }))
    else .next ((if k.stopping then s.dropOwed t q else s).updQueue t q HostQueue.started)

/-- QUEUE_DISABLE: tenant `t` writes 0 to ENABLE of the selected pair: fetching stops, and ENABLED clears once every fetched descriptor has its
record (R522). -/
def execQueueDisable (t : Nat) (s : State) : Host.Outcome State Fault Refusal :=
  let q := s.pairSel t
  if !(s.queue t q).enabled then .next s
  else .next ((s.updQueue t q (fun k => { k with stopping := true })).settleQueue t q)

/-- A doorbell that R505 ignores raises its event. -/
def State.badDoorbell (s : State) (t : Nat) : State := s.logOpen errHostDoorbellInvalid t 0

/-- HOST_T_SQ_TAIL_DB: a write of `v` to the SQ tail doorbell of pair `q` (R505), whose reserved bits are ignored (R6). The doorbells of a tenant that does not exist are ignored
(R663). -/
def execHostTSqTailDb (t q v : Nat) (s : State) : Host.Outcome State Fault Refusal :=
  if !s.exists? t || 8 ≤ q then .next s
  else
    let v := bits v 11 0
    let k := s.queue t q
    if k.enabled && !k.stopping && decide (v < 2 ^ k.sqLog) then .next (s.updQueue t q (fun k => { k with sqTail := v }))
    else .next (s.badDoorbell t)

/-- HOST_T_CQ_HEAD_DB: a write of `v` to the CQ head doorbell of pair `q` (R505): the entries it passes are free again (R506). -/
def execHostTCqHeadDb (t q v : Nat) (s : State) : Host.Outcome State Fault Refusal :=
  if !s.exists? t || 8 ≤ q then .next s
  else
    let v := bits v 11 0
    let k := s.queue t q
    let n := 2 ^ k.cqLog
    let step := (v + n - k.cqHead) % n
    if k.enabled && !k.stopping && decide (v < n) && decide (step ≤ (k.cqTail + n - k.cqHead) % n) then
      .next (s.updQueue t q (fun k => { k with cqHead := v, reserved := k.reserved - step }))
    else .next (s.badDoorbell t)

/-! ### Faults of host accesses (R522 to R525) -/

/-- The code of a read that fails. -/
def hostReadCode : HostRead → Option Nat
  | .data _ => none
  | .noAccess => some errHostXlateFault
  | .timeout => some errHostCplTimeout
  | .error => some errHostReadError

/-- HOST_QUEUE_FAULT: the pair is disabled, FAULT set, and the event logged with the VF and the pair (R524). -/
def State.queueFault (s : State) (t q code : Nat) : State :=
  let s := (if code = errHostXlateFault then s.vcount t vHostTXlateFaultCnt 1 else s)
  (s.updQueue t q (fun k => { k with enabled := false, stopping := false, fault := true })).logEvent errHostQueueFault t 0 (t + 1) q

/-- The host registers of a fault met for a task (R523). -/
def State.hostFaultNote (s : State) (t code addr : Nat) : State :=
  (if code = errHostXlateFault then s.vcount t vHostTXlateFaultCnt 1 else s).vset64 t vHostTLastAddr addr

/-- A host fault aborts a task that has none yet: unit 0x10, instance 0 (R523). -/
def State.hostTaskFault (s : State) (t seq code ctx elem addr : Nat) : State :=
  match s.task? t seq with
  | none => s
  | some x => if x.abort.isSome then s else (s.hostFaultNote t code addr).abortTask t seq code 0 ctx elem 0

/-- A publication record whose write fails is dropped and counted; unless its batch is an aborted one, that is also a fault of the task after
the cut (R523, R525, R620). -/
def State.recordFault (s : State) (t seq course : Nat) (aborted : Bool) (code addr : Nat) : State :=
  let s := s.vcount t vHostTRecDropCnt 1
  if aborted then s
  else match s.task? t seq with
    | some x => if x.abort.isSome then s else s.hostTaskFault t seq code 0xFFFF 0 addr
    | none =>
      let s := ((s.hostFaultNote t code addr).unitFault t code).vcount t vRotaTAfterCutCnt 1
      s.logEntry { code := code, cls := clsAbort, tenant := t, detail := course + 0x200, arg0 := seq + s.epochOf t * 2 ^ 32,
                   arg1 := 0xFFFF * 256 }

/-- A region update whose fetch faults is not applied (R157). -/
def State.regionFault (s : State) (h table code addr : Nat) : State :=
  let t := handleTenant h
  let s := (s.hostFaultNote t code addr).unitFault t code
  (s.updRegion h table (fun g => { g with flight := none, staged := [] })).updResult t code

/-- A completion record that was not written leaves the CQ tail where it was (R513). -/
def State.unwrite (s : State) (t k addr : Nat) : State :=
  s.updQueue t k (fun p =>
    let i := (addr - p.cqBase) / 32
    { p with cqTail := i, phase := if p.cqTail ≤ i then !p.phase else p.phase })

/-- A record that waits for a pair's CQ. -/
def HostReq.completes (q : HostReq) (t k : Nat) : Bool :=
  q.tenant == t && (match q.use with
    | .completion j => j == k
    | _ => false)

/-- The records that wait for the CQ of a faulted pair are dropped (R525). -/
def State.dropHeld (s : State) (t k : Nat) : State :=
  let n := (s.held.filter (·.completes t k)).length
  ({ s with held := s.held.filter (fun q => !q.completes t k) } : State).vcount t vHostTRecDropCnt n

/-- What a host access comes to that fails at `addr` (R523, R524). -/
def State.failReq (s : State) (q : HostReq) (code : Nat) : State :=
  let t := q.tenant
  let ctx := fun (h i : Nat) => match s.rota? h with | some r => r.ctxOf i | none => 0xFFFF
  match q.use with
  | .stage h seq i off => s.hostTaskFault t seq code (ctx h i) off q.addr
  | .region h table _ => s.regionFault h table code q.addr
  | .core h _ =>
    -- no buffer names an offset: a free value (notes/assumptions/1.md)
    match s.running h with
    | some (_, c) => let f := s.free 64; f.2.hostTaskFault t c.seq code 0xFFFF f.1.toNat q.addr
    | none => s
  | .tier h seq _ i off => s.hostTaskFault t seq code (ctx h i) off q.addr
  | .output h seq i off => s.hostTaskFault t seq code (ctx h i) off q.addr
  | .record _ seq course aborted => s.recordFault t seq course aborted code q.addr
  | .completion k =>
    let s := s.vcount t vHostTRecDropCnt 1
    let p := s.queue t k
    if p.enabled && !p.stopping then ((s.unwrite t k q.addr).dropHeld t k).queueFault t k code
    else if code = errHostXlateFault then s.vcount t vHostTXlateFaultCnt 1 else s
  | .message _ => s

/-! ### Fetching descriptors (R506 to R508, R98) -/

/-- The device may fetch for a pair. -/
def State.mayFetch (s : State) (t q : Nat) : Bool :=
  let k := s.queue t q
  s.host.dlUp && !s.mbx.tripped && s.host.state == 0 && k.enabled && !k.stopping && !k.fault
    && (match s.tenant? t with | some x => x.phase == .active && !x.orphaned | none => false)

/-- Descriptors one read may take: contiguous, waiting, and with a CQ entry to reserve. -/
def HostQueue.fetchable (k : HostQueue) : Nat :=
  let n := 2 ^ k.sqLog
  Nat.min 8 (Nat.min ((k.sqTail + n - k.sqHead) % n) (Nat.min (n - k.sqHead) (2 ^ k.cqLog - 1 - k.reserved)))

/-- A Rota holds 256 tasks that have not started, those being accepted among them (R98). -/
def State.full98 (s : State) (t h : Nat) : Bool :=
  let waiting := (s.tasks.filter (fun x => x.handle == h && x.nextCourse == 0 && !x.busy && !x.decided && x.abort.isNone)).length
  let coming := match s.tenant? t with | some x => (x.fetched.filter (fun f => tdHandle f.desc == h)).length | none => 0
  (s.rota? h).isSome && decide (256 ≤ waiting + coming)

/-- Take one descriptor. -/
def State.takeDescriptor (s : State) (t q : Nat) (d : Bytes) : State :=
  let k := s.queue t q
  (s.updTenant t (fun x => { x with fetched := x.fetched ++ [{ queue := q, desc := d, seqOk := tdSeq d == k.descSeq }] })).updQueue t q
    (fun k => { k with sqHead := (k.sqHead + 1) % 2 ^ k.sqLog, reserved := k.reserved + 1, descSeq := (k.descSeq + 1) % 0x10000 })

/-- Take descriptors until R98 holds the queue. -/
def State.takeDescriptors (s : State) (t q : Nat) : List Bytes → State
  | [] => s
  | d :: rest => if s.full98 t (tdHandle d) then s else (s.takeDescriptor t q d).takeDescriptors t q rest

/-- Bytes cut into pieces of `n`; `fuel` counts pieces. -/
def chunks (n : Nat) : Nat → Bytes → List Bytes
  | 0, _ => []
  | f + 1, b => if b.isEmpty then [] else b.take n :: chunks n f (b.drop n)

/-- DESCRIPTOR_FETCH: a read of the descriptors at the SQ head of pair `q` ends (R506 to R508). Bytes of more descriptors than R506 allows, or
of none, are no such read and change nothing. -/
def execDescriptorFetch (t q : Nat) (r : HostRead) (s : State) : Host.Outcome State Fault Refusal :=
  let n := (s.queue t q).fetchable
  if !s.mayFetch t q || n = 0 then .next s
  else match r with
    | .data b => if b.length % 64 = 0 ∧ b.length ≤ 64 * n then .next (s.takeDescriptors t q (chunks 64 8 b)) else .next s
    | r => .next (match hostReadCode r with | some c => s.queueFault t q c | none => s)

/-! ### Checking a task (R109, R186, R370, R475, R526) -/

/-- A byte range reaches a byte of an admitted Rota's own HBM (R695). -/
def State.touchesOwn (s : State) (t a n : Nat) : Bool :=
  decide (0 < n) && (s.hbmHeld t).any (fun p => decide (a < p.1 + p.2 ∧ p.1 < a + n))

/-- A field of a record that is wrong: its offset, the stream it concerns, and the cause of Table 12-7. -/
structure FieldFault where
  off : Nat
  stream : Nat
  cause : Option Nat
  deriving DecidableEq, Repr

/-- The reach of a stream leaves its entry (R186, R370, R375). -/
def reachFault (b : Bytes) (i n : Nat) : Option (Option Nat) :=
  if rsMode b i = 2 then (if n < rsOffset b i + rsBytes b i then some none else none)
  else if !reachOk b i n then some (some errLayReach)
  else if rsMode b i = 1 ∧ n < rsOffset b i + rsBytes b i then some none
  else if !scaleOk b i n then some (some errLayScaleReach)
  else none

/-- The faults of stream entry `j`. What of the tenant's host space is pinned is `pinned`, or not told (notes/assumptions/35.md). -/
def State.entryFaults (s : State) (t : Nat) (r : Rota) (bt : Bytes) (pinned : Option Ranges) (j : Nat) : List FieldFault :=
  let off := 0x10 + 32 * j
  let i := btStream bt j
  let size := runsLen (s.extents t .hbm) * 0x400000
  let f := fun (o : Nat) => ({ off := o, stream := i, cause := none } : FieldFault)
  let twice := (List.range j).any (fun k => btStream bt k == i)
  if rhNStream r.bin ≤ i || twice then [f off]
  else if btHost bt j != (rsSpace r.bin i == 1) then [f off]
  else
    let n := btBytes bt j
    let a := btBase bt j
    let own := !btHost bt j && s.touchesOwn t a n
    let outside := if btHost bt j then decide (2 ^ 64 < a + n) || !isPinned pinned a n else decide (size < a + n)
    (if btFlags bt j < 2 then [] else [f (off + 2)]) ++ (if fieldAt bt (off + 4) 4 = 0 then [] else [f (off + 4)])
      ++ (if outside || own then [f (off + 8)] else []) ++ (if fieldAt bt (off + 24) 8 = 0 then [] else [f (off + 24)])
      ++ (if rhHostIndependent r.bin && btHost bt j then [f (off + 2)] else [])
      ++ (match (if rsSpace r.bin i ≤ 1 then reachFault r.bin i n else none) with
          | some c => [{ off := off, stream := i, cause := c }]
          | none => [])

/-- Streams without the entry R186 asks for. -/
def missingEntries (r : Rota) (bt : Bytes) : List FieldFault :=
  ((List.range (rhNStream r.bin)).filter (fun i => decide (rsSpace r.bin i ≤ 1) && (btFind bt i).isNone
    && !(rsPersistent r.bin i && (r.streamCtx i).armed))).map (fun i => { off := 0, stream := i, cause := none })

/-- The faults of consumer entry `k`: over PATH 0 its record address and its tier buffers lie in pinned host memory (R109, R503). -/
def State.consumerFaults (s : State) (t : Nat) (r : Rota) (bt : Bytes) (pinned : Option Ranges) (k : Nat) : List FieldFault :=
  let off := btConsOff bt k
  let f := fun (o : Nat) => ({ off := o, stream := 0, cause := none } : FieldFault)
  let peer := match s.qp? t (btQp bt k) with
    | none => [f (off + 2)]
    | some q => if q.st ≠ 3 then [f (off + 2)] else if q.port ≠ btPort bt k then [f (off + 1)] else []
  (if 1 < btPath bt k || (rhHostIndependent r.bin && btPath bt k == 0) then [f off] else if btPath bt k = 1 then peer else [])
    ++ (if allZero (slice bt (off + 0x70) 16) then [] else [f (off + 0x70)])
    ++ ((List.range (rhNTier r.bin)).filter (fun i => decide (btTierBytes bt k (rtTier r.bin i) < rtMaxBytes r.bin i))).map
        (fun i => f (off + 0x50 + 4 * rtTier r.bin i))
    ++ (if btPath bt k = 0 then
        (if isPinned pinned (btRecordAddr bt k) 64 then [] else [f (off + 8)])
          ++ ((List.range (rhNTier r.bin)).filter (fun i =>
              !isPinned pinned (btTierAddr bt k (rtTier r.bin i)) (btTierBytes bt k (rtTier r.bin i)))).map
            (fun i => f (off + 0x10 + 8 * rtTier r.bin i))
      else [])

/-- The lowest offset first. -/
def lowestFault : List FieldFault → Option FieldFault
  | [] => none
  | a :: t => match lowestFault t with
    | none => some a
    | some b => if b.off < a.off then some b else some a

/-- The wrong field of a binding table of `n` bytes that R109, R186, R475 and R526 name, if any. -/
def State.bindFault (s : State) (t : Nat) (r : Rota) (bt : Bytes) (n : Nat) (pinned : Option Ranges) : Option FieldFault :=
  if n < 16 || btNStream bt > 256 || n ≠ 16 + 32 * btNStream bt + 128 * btNConsumer bt || bt.length ≠ n then
    some { off := 0, stream := 0, cause := none }
  else
    let f := fun (o : Nat) => ({ off := o, stream := 0, cause := none } : FieldFault)
    lowestFault ((if btNConsumer bt = rhNConsumer r.bin then [] else [f 2]) ++ (if allZero (slice bt 3 13) then [] else [f 3])
      ++ missingEntries r bt ++ (List.range (btNStream bt)).flatMap (s.entryFaults t r bt pinned)
      ++ (List.range (btNConsumer bt)).flatMap (s.consumerFaults t r bt pinned))

/-! ### Accepting a task (R96, R97) -/

/-- A refused task: its counts, and its KIND 2 record where a pair carried it, with the message that follows (R109, R513, R514); a task that no
pair carried is logged (R573). -/
def State.refuseTask (s : State) (t : Nat) (q : Option Nat) (d : Bytes) (code detail : Nat) : State :=
  let s := (s.vcount t vRotaTRejectCnt 1).vsetF t vRotaTLastReject 15 0 code
  match q with
  | none => s.logOpen code t detail
  | some q =>
    let k := s.queue t q
    let ok := s.host.dlUp && k.enabled && !k.fault
    let s := s.complete t q (fun ph => complRecord 0xFFFFFFFF (ph + 4) (tdSeq d) (tdUserTag d) code (area2 detail))
    if ok && k.irq then s.message t k.vector else s

/-- The publication beat of R97. -/
def nextFree (taken : List Nat) : Nat → Nat → Nat
  | 0, b => b
  | n + 1, b => if taken.contains b then nextFree taken n (b + 1) else b

def State.assignBeat (s : State) (r : Rota) (x : Tenant) (pub : Nat) : Nat :=
  let b := Nat.max (Nat.max pub (s.beat.number + rhSpan r.bin + 1)) (Nat.max r.firstBeat x.lastAssigned)
  let taken := (s.tasks.filter (fun y => y.handle == r.handle)).map (·.assigned)
  nextFree taken taken.length b

/-- A new task. -/
def newTask (t seq b : Nat) (q : Option Nat) (d bt : Bytes) : Task :=
  { tenant := t, seq := seq, handle := tdHandle d, queue := q, descSeq := tdSeq d, userTag := tdUserTag d, sampleBase := tdSampleBase d,
    binding := bt, assigned := b, pub := b, slip := 0, shifted := false, nextCourse := 0, busy := false, done := false,
    ready := List.replicate 8 false, lost := [], abort := none, decided := false, staging := false, asked := [], staged := [] }

/-- Accept or refuse a task whose descriptor passed R508: its Rota, the link, its binding table (none when it could not be read), its beat
and its sequence number, in this order. -/
def State.submit (s : State) (t : Nat) (q : Option Nat) (d : Bytes) (bind : Option Bytes) (pinned : Option Ranges) : State :=
  match s.tenant? t, s.rota? (tdHandle d) with
  | none, _ => s
  | some _, none => s.refuseTask t q d errRotaHandleInvalid (tdHandle d)
  | some x, some r =>
    if handleTenant r.handle ≠ t || r.retiring then s.refuseTask t q d errRotaHandleInvalid (tdHandle d)
    else if !s.host.dlUp && !rhHostIndependent r.bin then s.refuseTask t q d errHostLinkDown 0
    else match bind with
      | none => s.refuseTask t q d errRotaBindingInvalid 0
      | some bt => match s.bindFault t r bt (tdBindBytes d) pinned with
        | some f =>
          let s := match f.cause with
            | some c => (s.vsetF t vLayTLastCause 15 0 c).vsetF t vLayTLastStream 15 0 f.stream
            | none => s
          s.refuseTask t q d errRotaBindingInvalid f.off
        | none =>
          let b := s.assignBeat r x (tdPubBeat d)
          if bit (tdFlags d) 0 && b != tdPubBeat d then s.refuseTask t q d errTaskTooLate (b % 2 ^ 32)
          else if x.exhausted || 0xFFFFFFFF ≤ x.nextSeq then
            (s.updTenant t (fun x => { x with exhausted := true })).refuseTask t q d errTenSeqExhausted 0
          else
            let s := { s with tasks := s.tasks ++ [newTask t x.nextSeq b q d bt] }
            let s := s.updTenant t (fun x => { x with nextSeq := x.nextSeq + 1, lastAssigned := b })
            let s := s.vcount t vRotaTAcceptCnt 1
            if tdPubBeat d < b then s.vcount t vRotaTLateAssignCnt 1 else s

/-- TASK_ACCEPT: the oldest fetched descriptor of pair `q` is validated with its binding table, whose read ended as `r` says (R96, R508);
`pinned` are the parts of the tenant's host space that the host keeps pinned and mapped (R503). -/
def execTaskAccept (t q : Nat) (r : HostRead) (pinned : Ranges) (s : State) : Host.Outcome State Fault Refusal :=
  match s.tenant? t with
  | none => .next s
  | some x => match x.fetched.find? (fun f => f.queue == q) with
    | none => .next s
    | some f =>
      let i := (x.fetched.takeWhile (fun f => f.queue != q)).length
      let s := s.updTenant t (fun x => { x with fetched := x.fetched.eraseIdx i })
      let s := (if !f.seqOk then s.refuseTask t (some q) f.desc errHostDescSeq 0
        else s.submit t (some q) f.desc (match r with | .data b => some b | _ => none) (some pinned))
      .next (s.settleQueue t q)

/-! ### Staging of SPACE 1 streams (R187, R510, R511) -/

/-- The SPACE 1 input streams' last course. -/
def lastHostCourse (b : Bytes) : Nat :=
  maxList (((List.range (rhNCourse b)).filter (fun c => (courseStreams b c).any (fun i => !rsOut b i && rsSpace b i == 1))))

/-- No earlier task holds the entry (R511). -/
def State.stageFree (s : State) (r : Rota) (x : Task) : Bool :=
  s.tasks.all (fun y => !(y.handle == x.handle && decide (y.seq < x.seq) && y.assigned % 2 == x.assigned % 2) || y.past (lastHostCourse r.bin))

/-- Where a stream's buffer lies for a task: its entry, or what the stream was last armed with. -/
def stageBase (r : Rota) (x : Task) (i : Nat) : Nat := match btFind x.binding i with | some e => btBase x.binding e | none => (r.streamCtx i).base

/-- The piece of a stream staged from its byte `j` on: the host address and the length. -/
def stageRun (r : Rota) (x : Task) (i j : Nat) : Nat × Nat :=
  let b := r.bin
  let a := stageBase r x i
  if rsMode b i = 0 then (((a : Int) + srcOff b i 0 j).toNat, Nat.max 1 (runLen b i a 0 j))
  else (a + rsOffset b i + j, Nat.max 1 (Nat.min (2 ^ rsXferLog2 b i) (rsBytes b i - j)))

/-- Ask for the next pieces of a stream as far as the Rota's remote account lets them; `fuel` counts pieces. -/
def State.stageMore (s : State) (h seq i : Nat) : Nat → State
  | 0 => s
  | n + 1 =>
    match s.rota? h, s.task? (handleTenant h) seq with
    | some r, some x =>
      let j := sparseGet 0 x.asked i
      if stageTotal r.bin i ≤ j then s
      else
        let p := stageRun r x i j
        if !r.acc.has .remote p.2 then s.vcount64 (handleTenant h) vBwTTokenWait 1
        else
          let s := s.chargeRota h .remote p.2
          let s := s.updTask (handleTenant h) seq (fun x => { x with asked := sparseSet 0 x.asked i (j + p.2) })
          (s.hostRead (handleTenant h) p.1 p.2 (.stage h seq i j)).stageMore h seq i n
    | _, _ => s

/-- Ask for what a task's streams still lack, stream after stream. -/
def State.stageTask (s : State) (h seq : Nat) : State :=
  match s.rota? h with
  | none => s
  | some r => (hostInputs r.bin).foldl (fun s i => s.stageMore h seq i (stageTotal r.bin i)) s

/-- HOST_STAGING_START: staging of the SPACE 1 input streams of task `seq` of Rota `h` begins, once its entry is free (R511); what the account
does not allow yet follows as tokens come. -/
def execHostStagingStart (h seq : Nat) (s : State) : Host.Outcome State Fault Refusal :=
  match s.rota? h, s.task? (handleTenant h) seq with
  | some r, some x =>
    if x.handle ≠ h || x.staging || x.decided || x.abort.isSome || (hostInputs r.bin).isEmpty || !s.host.dlUp || !s.stageFree r x then .next s
    else .next ((s.updTask (handleTenant h) seq (fun x => { x with staging := true })).stageTask h seq)
  | _, _ => .next s

/-- Staged bytes arrive: into the entry, or discarded and counted once for each stream when their batch no longer wants them (R55). -/
def State.stageArrive (s : State) (t h seq i off : Nat) (d : Bytes) : State :=
  match s.rota? h with
  | none => s
  | some r =>
    let late := off + d.length == stageTotal r.bin i && r.late.any (fun l => l.seq == seq)
    match s.task? t seq with
    | none => if late then s.vcount t vBeatTLateDropCnt 1 else s
    | some x =>
      if x.decided || x.abort.isSome then (if late then s.vcount t vBeatTLateDropCnt 1 else s)
      else
        let s := (s.writeMem t .hbm (r.hostStageAt x i + off) d).1
        s.updTask t seq (fun x => { x with staged := sparseSet 0 x.staged i (sparseGet 0 x.staged i + d.length) })

/-- A Strand core's host load ends with its bytes (R453). -/
def State.coreArrive (s : State) (h k no : Nat) (d : Bytes) : State :=
  s.updCore h k (fun m => match m.load with
    | some l => if l.no = no then { (m.loaded l.rd l.float l.bytes l.signed (leNat d)) with load := none } else m
    | none => m)

/-- The bytes of a read arrive. -/
def State.readArrive (s : State) (q : HostReq) (d : Bytes) : State :=
  match q.use with
  | .stage h seq i off => s.stageArrive q.tenant h seq i off d
  | .region h table _ =>
    (s.updRegion h table (fun g => if g.flight.isSome then { g with staged := g.staged ++ d } else g)).placeStandby h table
  | .core h k => s.coreArrive h k q.no d
  | _ => s

/-- HOST_READ_COMPLETION: read number `no` of the device ends (R507, R523). -/
def execHostReadCompletion (no : Nat) (r : HostRead) (s : State) : Host.Outcome State Fault Refusal :=
  match s.reads.find? (fun q => q.no == no) with
  | none => .next s
  | some q =>
    let s' := { s with reads := s.reads.filter (fun x => x.no != no) }
    match r with
    | .data b => if b.length = q.len then .next (s'.readArrive q b) else .next s
    | r => .next (match hostReadCode r with | some c => s'.failReq q c | none => s')

/-- HOST_CPL_TIMEOUT: read number `no` gets no completion within the Completion Timeout (Table 17-7). -/
def execHostCplTimeout (no : Nat) (s : State) : Host.Outcome State Fault Refusal :=
  match s.reads.find? (fun q => q.no == no) with
  | none => .next s
  | some q => .next (({ s with reads := s.reads.filter (fun x => x.no != no) } : State).failReq q errHostCplTimeout)

/-! ### Translation (R501, R502, R519) -/

/-- Keep a translation; the oldest of the VF goes when 4,096 are held. -/
def State.cacheTranslation (s : State) (x : Translation) : State :=
  let mine := s.atc.filter (fun y => y.tenant == x.tenant)
  let atc := if mine.length < 4096 then s.atc else s.atc.eraseIdx (s.atc.takeWhile (fun y => y.tenant != x.tenant)).length
  { s with atc := atc ++ [x] }

/-- TRANSLATION_COMPLETION: the answer to a Translation Request of tenant `t` for the page of 2^`log2` bytes at `base`, and the access it
grants. One that grants what the waiting access needs is cached and lets it go (R501); one that does not makes it fault (R523). -/
def execTranslationCompletion (t base log2 : Nat) (rd wr : Bool) (s : State) : Host.Outcome State Fault Refusal :=
  match s.held.find? (fun q => q.tenant == t) with
  | none => .next s
  | some q => match s.waitsFor q with
    | none => .next s
    | some p =>
      if p < base ∨ base + 2 ^ log2 ≤ p then .next s
      else
        let n := s.held.length
        if if q.data.isSome then wr else rd then
          .next ((s.cacheTranslation { tenant := t, base := base, log2 := log2, read := rd, write := wr }).releaseHeld t n)
        else
          .next ((({ s with held := s.held.filter (fun x => x.no != q.no) } : State).failReq { q with addr := p } errHostXlateFault).releaseHeld t n)

/-- ATS_INVALIDATION_REQUEST: translations of tenant `t` within the 2^`log2` bytes at `base` are used no more; the completion follows what was
sent under them, and a read in flight keeps its data (R502, R519). -/
def execAtsInvalidationRequest (t base log2 : Nat) (s : State) : Host.Outcome State Fault Refusal :=
  let s := { s with atc := s.atc.filter (fun x =>
    !(x.tenant == t && decide (x.base < base + 2 ^ log2) && decide (base < x.base + 2 ^ x.log2))) }
  .next ((s.count rHostAtsInvCnt 1).emit (.invalidated t))

/-! ### The link (R528 to R533) -/

/-- HOST_LINK_STATUS and HOST_STATE show the link. -/
def State.setLink (s : State) (up : Bool) (gen width : Nat) (flit : Bool) : State :=
  { s with host := { s.host with dlUp := up, gen := gen, width := width, flit := flit } }

/-- A pair without its configuration in force: disabled, all counts 0. -/
def HostQueue.cleared (k : HostQueue) : HostQueue := { HostQueue.reset with result := k.result, wSq := k.wSq, wCq := k.wCq, wSize := k.wSize }

/-- R529 step 2: every host tenant is orphaned and its pairs are disabled; what they had fetched goes. -/
def State.orphanHosts (s : State) : State :=
  { s with tenants := updWhere s.tenants (fun x => !x.standing) (fun x => { x with
      orphaned := true, fetched := [],
      queues := x.queues.map (fun k => { k with enabled := false, stopping := false }) }) }

/-- R529 step 3: the tasks the host's absence affects are aborted. -/
def State.abortHostTasks (s : State) (code : Nat) : State :=
  s.tasks.foldl (fun s x =>
    if !x.decided && s.hostBound x then s.abortTask x.tenant x.seq code 0 0xFFFF 0 0 else s) s

/-- A queue pair that has left RESET and is not in ERR moves to ERR by R471. -/
def State.errQps (s : State) (p : Nat → Bool) : State :=
  s.qps.foldl (fun s k => if p k.tenant && decide (1 ≤ k.st ∧ k.st ≤ 3) then s.qpError k.tenant k.q else s) s

/-- The tenant is a host tenant. -/
def State.hostTenant (s : State) (t : Nat) : Bool := match s.tenant? t with | some x => !x.standing | none => false

/-- R529 step 6, R157: waiting requests go, and region updates whose source is in host space are discarded. -/
def State.dropHostWork (s : State) : State :=
  { s with held := [], reads := [],
           rotas := s.rotas.map (fun r => { r with regions := r.regions.map (fun g =>
             let g := if (match g.pend with | some p => p.host | none => false) then { g with pend := none } else g
             if (match g.flight with | some p => p.host | none => false) && decide (g.staged = []) then { g with flight := none } else g) }) }

/-- The loss of the link: after a completed quiesce only steps 2 and 4 of R529 (R533), else all of them. -/
def State.linkLost (s : State) : State :=
  let quiet := s.host.state == 2
  let s := (s.setLink false 0 0 false).updateLinkLost
  if quiet then (s.orphanHosts.errQps s.hostTenant).dropHostWork
  else
    let s := { s with host := { s.host with state := 3 } }
    let s := ((s.hostEvent 0).count rHostLinkDownCnt 1).logOpen errHostLinkDown noTenant 0
    let s := (s.orphanHosts).abortHostTasks errHostLinkDown
    (s.errQps s.hostTenant).dropHostWork

/-- DL_DOWN: the data link goes down (R529). -/
def execDlDown (s : State) : Host.Outcome State Fault Refusal := if s.host.dlUp then .next s.linkLost else .next s

/-- DL_UP: the link comes up at a speed and width (R531), when the main rails are up and nothing holds the device in reset. HOST_STATE returns to 0; nothing else changes. -/
def execDlUp (gen width : Nat) (flit : Bool) (s : State) : Host.Outcome State Fault Refusal :=
  if s.host.dlUp || !s.power.main || s.power.held then .next s
  else
    let s := s.setLink true gen width flit
    .next (({ s with host := { s.host with state := 0 } } : State).hostEvent 1)

/-- LINK_RETRAINED: the link changes its speed or width (R498). -/
def execLinkRetrained (gen width : Nat) (flit : Bool) (s : State) : Host.Outcome State Fault Refusal :=
  if !s.host.dlUp || (s.host.gen == gen && s.host.width == width && s.host.flit == flit) then .next s
  else .next ((s.setLink true gen width flit).hostEvent 2)

/-- A reset of the PCIe interface (R528): VF Enable, MSI-X and every queue pair are reset, and the link is lost. -/
def State.pcieReset (s : State) : State :=
  let s := if s.host.dlUp then s.linkLost else s
  { s with host := { s.host with vfEnable := false, relaxed := [] }, msix := Msix.reset, atc := [],
           tenants := s.tenants.map (fun x => { x with fetched := [], queues := x.queues.map HostQueue.cleared }) }

/-- PCIE_INTERFACE_RESET: PERST#, a Hot Reset or a link disable (R528). -/
def execPcieInterfaceReset (s : State) : Host.Outcome State Fault Refusal := .next s.pcieReset

/-- Clearing VF Enable acts as a surprise removal for what the VFs serve, with the link up (R528): host tenants are orphaned, their tasks
aborted, their queue pairs moved to ERR, and every pair of every VF is reset. -/
def State.vfDisable (s : State) : State :=
  let s := { s with host := { s.host with vfEnable := false } }
  let s := (s.orphanHosts).abortHostTasks errHostLinkDown
  let s := (s.errQps s.hostTenant).dropHostWork
  { s with tenants := s.tenants.map (fun x => { x with fetched := [], queues := x.queues.map HostQueue.cleared }) }

/-! ### Configuration Requests (R499, R500, R527) -/

/-- Device ID and Revision ID (Table 17-1). -/
def State.deviceId (s : State) (f : Nat) : Nat := s.chip.part.code + (if f = 0 then 0 else 1)

/-- CONFIG_REQUEST: a Configuration Request of function `f`. Until the factory page is read it is answered with Retry Status (R527). The words
Table 17-1 gives are answered, the vendor identifier from the factory page (without one it is the ROM's, which the spec does not state); every
other word belongs to the PCI Express specification and is a free value. -/
def execConfigRequest (f : Nat) (r : CfgReq) (s : State) : Host.Outcome State Fault Refusal :=
  if !s.host.dlUp || 129 ≤ f || (f ≠ 0 && !s.host.vfEnable) then .next s
  else if !s.host.pcie then .next (s.emit (.cfgRetry f))
  else match r with
    | .read off =>
      let v := s.free 32
      if off = 0 then
        match s.boot.factory with
        | some b => .next (s.emit (.cfgData f (fieldAt b 0xC 2 + s.deviceId f * 0x10000)))
        | none => .next (s.emit (.cfgData f ((Config.builtIn 16 1).toNat + s.deviceId f * 0x10000)))
      else if off = 8 then .next (s.emit (.cfgData f (s.chip.stepping + 0x12000000)))
      else .next (v.2.emit (.cfgData f v.1.toNat))
    | .vfEnable on =>
      if f ≠ 0 then .next s
      else if on then .next { s with host := { s.host with vfEnable := true } }
      else if s.host.vfEnable then .next s.vfDisable else .next s
    | .relaxed on =>
      .next { s with host := { s.host with relaxed := if on then setInsert s.host.relaxed f else s.host.relaxed.filter (fun x => x != f) } }
    | .msix enable mask =>
      .next ({ s with msix := { s.msix with
        on := if enable then setInsert s.msix.on f else s.msix.on.filter (fun x => x != f),
        fmask := if mask then setInsert s.msix.fmask f else s.msix.fmask.filter (fun x => x != f) } } : State).msixRelease

end Sys2Proof.Machine
end

