-- ==== Sys2Proof/Machine/Boundary.lean ====
section
/-! DEFINITION. Phase 0 of a beat (spec/02, R39 to R47, R50, R67 to R79): the boundary and everything it brings, the events that give one, and the
loss of the beat. -/

namespace Sys2Proof.Machine

/-! ### Standing Rotas (R77, R573) -/

/-- Where binding table `p` modulo N_BIND of a standing Rota lies. -/
def Standing.bindOf (k : Standing) (p : Nat) : Nat := k.bindAddr + p % Nat.max 1 k.nBind * roundUp k.bindBytes 64

/-- The descriptor of the task generated at boundary `b` (R573). -/
def Standing.descriptor (k : Standing) (h b p : Nat) : Bytes :=
  leBytes 4 h ++ leBytes 2 0 ++ leBytes 2 b ++ leBytes 8 p ++ leBytes 8 (k.bindOf p) ++ leBytes 4 k.bindBytes ++ leBytes 4 0
    ++ leBytes 8 ((k.origin + p * k.samples) % 2 ^ 64) ++ leBytes 8 0 ++ List.replicate 16 0

/-- A standing Rota may start at boundary `b`: it is later than the one at which the source became active, and the load of R95 is over (R77). -/
def State.mayRun (s : State) (r : Rota) (b : Nat) : Bool :=
  (match s.beat.activated with | some a => decide (a < b) | none => false) && decide (r.firstBeat ≤ b + rhSpan r.bin + 1)

/-- Generation is not stopped: the Rota stays admitted, its tenant takes tasks, and neither R529 nor R532 holds it back. -/
def State.mayGenerate (s : State) (r : Rota) : Bool :=
  !r.retiring && (rhHostIndependent r.bin || s.host.state == 0)
    && (match s.tenant? (handleTenant r.handle) with | some x => x.phase == .active | none => false)

/-- The task of one standing Rota at boundary `b` (R573). -/
def State.generateFor (s : State) (b : Nat) (r : Rota) : State :=
  match r.standing with
  | none => s
  | some k =>
    let s := (if !r.running && s.mayRun r b then s.updRota r.handle (fun r => { r with running := true }) else s)
    if (r.running || s.mayRun r b) && s.mayGenerate r then
      let p := b + rhSpan r.bin + 1
      match s.readMem (handleTenant r.handle) .hbm false (k.bindOf p) k.bindBytes with
      | (s, .ok d) => s.submit (handleTenant r.handle) none (k.descriptor r.handle b p) (some d) none
      | (s, .error _) => s.submit (handleTenant r.handle) none (k.descriptor r.handle b p) none none
    else s

def State.generate (s : State) (b : Nat) : State := s.rotas.foldl (fun s r => s.generateFor b r) s

/-! ### The boundary -/

/-- One boundary of a quiesce passes (R532). -/
def State.quiesceBeat (s : State) : State := { s with host := { s.host with quiesceLeft := s.host.quiesceLeft.map (· - 1) } }

/-- What phase 0 of beat `b` brings, in this order: the ports' credits and pointers restart (R204, R206); the cut, its decisions and its records (R50 to
R54); a commit whose boundary this is (R100); entries nobody consumed (R419); region updates and loads (R137, R95); retired Rotas
(R108); the tasks of standing Rotas, accepted after the cut (R573, R103); the staging entries' owners (R481); and a beat of a quiesce. After a
thermal trip a boundary brings nothing (R599). -/
def State.phaseZero (s : State) (b : Nat) : State :=
  if s.mbx.tripped then s else
  let s := { s with mem := { s.mem with ports := [] } }
  let s := ((((((s.cut b).commitAt b).discardFrames b).regionsAt).loadsAt b).freesAt).generate b
  (s.rotas.foldl (fun s r => s.settleOwners r.handle) s).quiesceBeat

/-- The beat numbers a boundary of beat `m` passes over. -/
def State.passed (s : State) (m : Nat) (renumber : Bool) : Nat := if s.beat.started && !renumber then m - s.beat.number - 1 else 0

/-- The beat that ends is bounded by two boundaries taken in turn, so its period is measured (R47). -/
def State.measured (s : State) (renumber : Bool) : Bool := s.beat.started && !s.beat.lost && !renumber

/-- The boundary of beat `m` from a source: measurement (R47, R67), numbers passed over (R69, R74), realignment (R74), the new beat, and what phase 0
brings. `renumber` is the first pulse of an epoch armed anew while the beat runs (R43). -/
def State.boundary (s : State) (src : BeatSrc) (m : Nat) (renumber : Bool) : State :=
  let b := s.beat
  let meas := b.now - b.lastBoundary
  let known := s.measured renumber
  let s := (if known then (s.set64 rBeatMeasPeriodNs meas).checkShort meas else s)
  let s := s.skip (s.passed m renumber)
  let s := (if b.lost then s.beatEvent 2 else s)
  let s := { s with beat := { b with
    src := src, chosen := .none, number := m, phase := 0, lastBoundary := b.now, refInterval := if known then some meas else none,
    started := true, lost := false, hold := false, activated := if b.started then b.activated else some m,
    recent := noteBoundary b.recent m s.ptp.clock, inNext := if src == BeatSrc.beatIn then none else b.inNext,
    dbNext := if src == BeatSrc.doorbell then none else b.dbNext } }
  s.phaseZero m

/-- No source gives boundaries: before the first one, and while the beat is lost. -/
def State.searching (s : State) : Bool := !s.beat.started || s.beat.lost

/-- BEAT_BOUNDARY: local PTP time reaches the epoch plus a whole number of periods (R42). It is a boundary when PTP-scheduled is the active source, or
the one chosen while none gives boundaries, and the number is above the last taken (R70). -/
def execBeatBoundary (now ptp : Nat) (s : State) : Host.Outcome State Fault Refusal :=
  let s := s.tickTo now ptp
  let d := s.ptp.clock - s.epochNs
  let ours := if s.searching then s.beat.chosen == .ptp else s.beat.src == .ptp
  if !ours || !s.qualified .ptp || d % s.period ≠ 0 || (s.beat.started && decide (d / s.period ≤ s.beat.number)) then .next s
  else .next (s.boundary .ptp (d / s.period) false)

/-- The number of a pulse that ends the search for a source: the armed one at the start (R43), else that of R73. -/
def State.foundNumber (s : State) (src : BeatSrc) : Nat :=
  if !s.beat.started then ((if src = .beatIn then s.beat.inNext else s.beat.dbNext).getD 0)
  else if src = .doorbell || s.period = 0 then s.beat.number + 1
  else s.beat.number + Nat.max 1 ((s.beat.now - s.beat.lastBoundary + s.period / 2) / s.period)

/-- A pulse of BEAT_IN or a doorbell write, its epoch armed: the next beat, or the armed one (R43); while no source gives boundaries, a boundary when
this source is the one R39 picks (R73). -/
def State.pulse (s : State) (src : BeatSrc) : State :=
  if s.searching then (if s.chooseSrc = src then s.boundary src (s.foundNumber src) false else s)
  else if s.beat.src = src then
    match (if src = .beatIn then s.beat.inNext else s.beat.dbNext) with
    | some n => s.boundary src n true
    | none => s.boundary src (s.beat.number + 1) false
  else s

/-- BEAT_IN_PULSE: a rising edge of BEAT_IN; an edge within 10 µs of one taken is ignored (R43, R671). -/
def execBeatInPulse (now ptp : Nat) (s : State) : Host.Outcome State Fault Refusal :=
  let s := s.tickTo now ptp
  if (match s.beat.lastPulse with | some p => decide (now < p + 10000) | none => false) then .next s
  else
    let s := { s with beat := { s.beat with lastPulse := some now } }
    if s.beat.inEpoch then .next (s.pulse .beatIn) else .next s

/-- BEAT_DOORBELL: a write of any value to BEAT_DOORBELL (R45). Until READY it is ignored (R664). -/
def execBeatDoorbell (now ptp : Nat) (s : State) : Host.Outcome State Fault Refusal :=
  let s := s.tickTo now ptp
  if s.mbx.ready && s.beat.dbEpoch then .next (s.pulse .doorbell) else .next s

/-- BEAT_LOST: no boundary within 1.5 times the declared maximum period of the last (R71, R72). -/
def execBeatLost (now ptp : Nat) (s : State) : Host.Outcome State Fault Refusal :=
  let s := s.tickTo now ptp
  if !s.beat.started || s.beat.lost || decide (now < s.beat.lastBoundary + s.lossThreshold) then .next s
  else
    let s := ((s.beatEvent 1).count rBeatLostCnt 1).logOne errBeatLost noTenant 0 s.beat.number
    .next { s with beat := { s.beat with lost := true, hold := false, phase := 65535, chosen := .none } }

/-- BEAT_NO_SOURCE: no source was qualified within 1.5 times the declared maximum period of start-up (R78). -/
def execBeatNoSource (now ptp : Nat) (s : State) : Host.Outcome State Fault Refusal :=
  let s := s.tickTo now ptp
  match s.beat.startDone with
  | none => .next s
  | some t =>
    if s.beat.noSource || s.beat.src ≠ .none || s.beat.started || decide (now < t + s.lossThreshold) then .next s
    else .next (({ s with beat := { s.beat with noSource := true } } : State).logOpen errBeatNoSource noTenant 0)

/-- R39 at a Lodge tick: before the first boundary the first qualified source becomes active (R77); while the beat is lost one is chosen for the
realignment (R73). -/
def State.applySources (s : State) : State :=
  if !s.boot.begun then s
  else if !s.beat.started then
    let k := if s.beat.src ≠ .none && s.qualified s.beat.src then s.beat.src else s.chooseSrc
    { s with beat := { s.beat with src := k, chosen := k } }
  else if s.beat.lost then { s with beat := { s.beat with chosen := s.chooseSrc } }
  else s

end Sys2Proof.Machine
end

