-- ==== Sys2Proof/Machine/Ptp.lean ====
section
/-! DEFINITION. PTP time (spec/16, R465 to R468; spec/02, R69 to R71): the master, Sync results, the servo's lock and holdover, steps and their beats,
and 1PPS. The reading of the local clock comes with each command; what the frequency steering of the servo does to it is not the model's to
say, so the steering is a free value (notes/assumptions/34.md). -/

namespace Sys2Proof.Machine

/-! ### Which messages count (R465) -/

/-- The port, domain and transport of NET_PTP_CTRL. -/
def State.ptpHears (s : State) (m : PtpMsg) : Bool :=
  m.port == s.getF rNetPtpCtrl 1 0 && m.domain == s.getF rNetPtpCtrl 8 2 && m.l2 == bit (s.getN rNetPtpCtrl) 9 && s.linkUp m.port

/-- The port identity of the master: the last of its attributes. -/
def State.masterId (s : State) : Option Nat := s.ptp.master.map (fun l => nth l 7 0)

/-- A message of the master the clock follows. -/
def State.fromMaster (s : State) (m : PtpMsg) : Bool := s.ptpHears m && s.masterId == some m.source

/-- The port's delayAsymmetry. -/
def State.ptpAsym (s : State) : Int := toSigned 32 (s.getN (rNetPortAsymNs + 0x100 * s.getF rNetPtpCtrl 1 0))

/-! ### A step of the local clock (R69, R70) -/

/-- The local clock steps by `-off`: a forward step past a boundary takes the newest one at once, a backward one holds the phase. A step while
PTP-scheduled gives no boundaries changes the time only (notes/assumptions/19.md). -/
def State.stepClock (s : State) (off : Int) : State :=
  let held := s.phaseNow
  let s := { s with ptp := { s.ptp with adj := s.ptp.adj - off, clock := ((s.ptp.clock : Int) - off).toNat } }
  if s.searching || s.beat.src ≠ .ptp then s
  else if 0 < off then
    let s := { s with beat := { s.beat with hold := true, phase := held } }
    s.beatEvent 3
  else
    let n := (s.ptp.clock - s.epochNs) / s.period
    if s.epochNs ≤ s.ptp.clock ∧ s.beat.number < n then (s.beatEvent 3).boundary .ptp n false else s

/-! ### The servo (R466, R467) -/

/-- LOCKED and HOLDOVER of NET_PTP_STATUS. -/
def State.showServo (s : State) : State := s.setF rNetPtpStatus 1 0 (ofBool s.ptp.locked + 2 * ofBool s.ptp.holdover)

/-- The servo leaves lock and enters holdover. -/
def State.ptpUnlock (s : State) : State :=
  let s := { s with ptp := { s.ptp with locked := false, holdover := true, holdoverSince := s.beat.now, lockRun := 0, unlockRun := 0 } }
  s.showServo.logOpen errNetPtpUnlock noTenant 0

/-- A Sync result counts towards lock or against it. -/
def State.judgeLock (s : State) (off : Int) : State :=
  if off.natAbs ≤ s.getN rNetPtpLockNs then
    let run := s.ptp.lockRun + 1
    let s := { s with ptp := { s.ptp with lockRun := run, unlockRun := 0 } }
    if 16 ≤ run then
      ({ s with ptp := { s.ptp with locked := true, holdover := false }, beat := { s.beat with ptpQual := true } } : State).showServo
    else s
  else
    let run := s.ptp.unlockRun + 1
    let s := { s with ptp := { s.ptp with lockRun := 0, unlockRun := run } }
    if 4 ≤ run && s.ptp.locked then s.ptpUnlock else s

/-- An i32 register that saturates. -/
def satI32 (v : Int) : Nat := ofSigned 32 (max (-2147483648) (min 2147483647 v))

/-- Frequency steering against an offset, at most 200 ppm either way. -/
def State.steer (s : State) (off : Int) : State :=
  let f := s.free 8
  let k : Int := (f.1.toNat % 201 : Nat)
  { f.2 with ptp := { f.2.ptp with rateAdj := if off < 0 then k else -k } }

/-- A Sync result: master time `t1`, local time `t2` and the correction of the messages. The offset is shown, judged, and taken out by a step or
by steering; a delay measurement follows (R465 to R467). -/
def State.syncResult (s : State) (t1 t2 : Nat) (cf : Int) : State :=
  let cf := cf + s.ptpAsym
  let off : Int := (t2 : Int) - t1 - s.ptp.pathDelay - cf
  let big := decide (s.getN rNetPtpStepNs < off.natAbs)
  let t2' := if big then ((t2 : Int) - off).toNat else t2
  let s := s.setN rNetPtpOffsetNs (satI32 off)
  let s := { s with ptp := { s.ptp with offset := off, awaitFollowUp := none, lastSync := some (t1, t2', cf) } }
  let s := s.judgeLock off
  let s := (if big then s.stepClock off else s.steer off)
  s.emit (.delayReq (s.getF rNetPtpCtrl 1 0) (bit (s.getN rNetPtpCtrl) 10))

/-- PTP_SYNC: a Sync of the master, which for a one-step master gives a result at once (R465, R466). -/
def execPtpSync (m : PtpMsg) (origin : Nat) (twoStep : Bool) (s : State) : Host.Outcome State Fault Refusal :=
  let s := s.tickTo m.now m.ptp
  if !s.fromMaster m then .next s
  else if twoStep then .next { s with ptp := { s.ptp with awaitFollowUp := some (m.seq, s.ptp.clock, m.correction) } }
  else .next (s.syncResult origin s.ptp.clock m.correction)

/-- PTP_FOLLOW_UP: the Follow_Up of a two-step master gives the Sync's time (R465). -/
def execPtpFollowUp (m : PtpMsg) (origin : Nat) (s : State) : Host.Outcome State Fault Refusal :=
  let s := s.tickTo m.now m.ptp
  match s.ptp.awaitFollowUp with
  | none => .next s
  | some (q, t2, cf) => if s.fromMaster m && q == m.seq then .next (s.syncResult origin t2 (cf + m.correction)) else .next s

/-- PTP_DELAY_RESPONSE: the measurement of the selected mechanism ends. End to end, `a` is the local time at which the Delay_Req left and `d` the
master's at which it arrived; peer to peer, `a` to `d` are t1 to t4 of the Pdelay exchange, `a` and `d` local. -/
def execPtpDelayResponse (m : PtpMsg) (a b c d : Nat) (s : State) : Host.Outcome State Fault Refusal :=
  let s := s.tickTo m.now m.ptp
  let t1 := s.ptpAt a
  if bit (s.getN rNetPtpCtrl) 10 then
    if !s.ptpHears m then .next s
    else
      let delay := ((((s.ptpAt d : Int) - t1) - ((c : Int) - b)) - (m.correction + s.ptpAsym)) / 2
      .next { s with ptp := { s.ptp with pathDelay := delay } }
  else match s.ptp.lastSync with
    | none => .next s
    | some (o, t2, cf) =>
      if !s.fromMaster m then .next s
      else
        let delay := (((t2 : Int) - o) + ((d : Int) - t1) - cf - m.correction) / 2
        .next { s with ptp := { s.ptp with pathDelay := delay } }

/-! ### The master (R465) -/

/-- The first of two lists of numbers comes first in lexicographic order. -/
def lexLt : List Nat → List Nat → Bool
  | [], [] => false
  | [], _ => true
  | _, [] => false
  | a :: x, b :: y => decide (a < b) || (a == b && lexLt x y)

/-- Attributes of an Announce: priority1, class, accuracy, variance, priority2, grandmaster, steps removed, sender. One is better than another by the
data set comparison: by its topology when both name one grandmaster, else by the grandmaster's quality. -/
def betterMaster (x y : List Nat) : Bool :=
  if nth x 5 0 = nth y 5 0 then lexLt (x.drop 6) (y.drop 6) else lexLt (x.take 6) (y.take 6)

/-- PTP_ANNOUNCE: an Announce with the grandmaster's attributes and the steps removed, in the order of `betterMaster` (R465). -/
def execPtpAnnounce (m : PtpMsg) (attrs : List Nat) (s : State) : Host.Outcome State Fault Refusal :=
  let s := s.tickTo m.now m.ptp
  let x := attrs.take 7 ++ [m.source]
  let better := match s.ptp.master with
    | none => true
    | some y => nth y 7 0 == m.source || betterMaster x y
  if !s.ptpHears m || attrs.length ≠ 7 || 255 ≤ nth attrs 6 0 || !better then .next s
  else
    let same := s.masterId == some m.source
    .next { s with ptp := { s.ptp with
      master := some x, awaitFollowUp := if same then s.ptp.awaitFollowUp else none, lastSync := if same then s.ptp.lastSync else none } }

/-- NET_PTP_UNLOCK: three Sync intervals pass without a Sync; a locked servo leaves lock, and the master is given up (R467). -/
def execNetPtpUnlock (now ptp : Nat) (s : State) : Host.Outcome State Fault Refusal :=
  let s := s.tickTo now ptp
  let s := { s with ptp := { s.ptp with awaitFollowUp := none, lastSync := none, master := none, lockRun := 0 } }
  if s.ptp.locked then .next s.ptpUnlock else .next s

/-- PTP_HOLDOVER_EXPIRY: BEAT_HOLDOVER_MS after the servo left lock, PTP-scheduled is qualified no more (R71). -/
def execPtpHoldoverExpiry (now ptp : Nat) (s : State) : Host.Outcome State Fault Refusal :=
  let s := s.tickTo now ptp
  if s.ptp.holdover && decide (s.ptp.holdoverSince + s.getN rBeatHoldoverMs * 1000000 ≤ now) then
    .next { s with beat := { s.beat with ptpQual := false } }
  else .next s

/-- Local time less the nearest whole second. -/
def ppsOffset (t : Nat) : Int :=
  let r := t % 1000000000
  if r < 500000000 then (r : Int) else (r : Int) - 1000000000

/-- PPS_EDGE: a rising edge of 1PPS (R468). PPS_MODE 3 has no meaning and is taken as 0 (notes/assumptions/34.md). -/
def execPpsEdge (now ptp : Nat) (s : State) : Host.Outcome State Fault Refusal :=
  let s := s.tickTo now ptp
  let mode := s.getF rNetPtpCtrl 12 11
  if mode = 0 ∨ mode = 3 then .next s
  else
    let off := ppsOffset s.ptp.clock
    let s := s.setN rNetPtpPpsOffsetNs (ofSigned 32 off)
    if mode = 2 && s.ptp.holdover then .next (s.steer off) else .next s

end Sys2Proof.Machine
end

