-- ==== Sys2Proof/Machine/Mailbox.lean ====
section
/-! DEFINITION. Commands of the management mailbox (spec/20, R585 to R591): the short ones of that chapter, the beat's epoch (R43, R45), and quiesce
(spec/17, R532, R533). -/

namespace Sys2Proof.Machine

/-! ### The commands of spec/20 and the beat's epoch -/

/-- MBX_NOP: completes with no effect. -/
def execMbxNop (r : MbxReq) (s : State) : Host.Outcome State Fault Refusal :=
  .next (s.command (fun o => o == 0x0001) r (fun s _ => .done s MbxResult.ok))

/-- MBX_IDENTIFY: PART, STEPPING, IMG_ROM_VERSION; STR_FW_VERSION (Table 20-2). -/
def execMbxIdentify (r : MbxReq) (s : State) : Host.Outcome State Fault Refusal :=
  .next (s.command (fun o => o == 0x0002) r (fun s _ => .done s { MbxResult.ok with
    value0 := s.chip.part.code + s.chip.stepping % 256 * 0x10000 + s.getN rImgRomVersion * 2 ^ 32, value1 := s.getN rStrFwVersion }))

/-- MBX_UNKNOWN_COMMAND: an opcode that Table 20-2 does not hold is refused (R590). -/
def execMbxUnknownCommand (r : MbxReq) (s : State) : Host.Outcome State Fault Refusal :=
  .next (s.command (fun o => (commandRow o).isNone) r (fun s _ => .done s MbxResult.ok))

/-- The largest sample of the dies at the last tick, in 1/16 °C. -/
def Telemetry.dieNow (x : Telemetry) : Option Int := (x.die.head?).join

/-- DEV_RESET is refused: in use without FORCE (R591), or while a die is hot after a trip (R599). -/
def State.resetRefused (s : State) (force : Bool) : Bool :=
  (!force && !(s.host.state == 2 && s.rotas.isEmpty))
    || (s.mbx.tripped && (match s.tele.dieNow with | some d => decide ((s.getF rLodgeDieLimits 15 8 : Int) * 16 ≤ d) | none => false))

/-- DEV_RESET: an accepted one completes, and DEVICE_RESET follows within 10 ms (R591). -/
def execDevReset (r : MbxReq) (s : State) : Host.Outcome State Fault Refusal :=
  .next (s.command (fun o => o == 0x0060) r (fun s r =>
    if s.resetRefused (bit r.flags 0) then .done s (MbxResult.bad errMbxDeviceInUse 0)
    else .done { s with mbx := { s.mbx with resetDue := true } } MbxResult.ok))

/-- Arming the epoch of the active source anew changes the beat numbers, so it is refused while a Rota is admitted (R62). -/
def State.epochHeld (s : State) (src : BeatSrc) : Bool := s.beat.src == src && !s.rotas.isEmpty

/-- BEAT_SET_EPOCH: the epoch of BEAT_IN or the doorbell is armed with the number its next pulse begins (R43, R45). A source of another code is an
argument out of its range. -/
def execBeatSetEpoch (r : MbxReq) (s : State) : Host.Outcome State Fault Refusal :=
  .next (s.command (fun o => o == 0x0030) r (fun s r =>
    if r.arg0 = 2 then
      if s.epochHeld .beatIn then .done s (MbxResult.bad errCfgWouldBreak 0)
      else .done { s with beat := { s.beat with inEpoch := true, inNext := some r.arg64 } } MbxResult.ok
    else if r.arg0 = 3 then
      if s.epochHeld .doorbell then .done s (MbxResult.bad errCfgWouldBreak 0)
      else .done { s with beat := { s.beat with dbEpoch := true, dbNext := some r.arg64 } } MbxResult.ok
    else .done s (MbxResult.bad errMbxArgInvalid 0)))

/-! ### Quiesce (R532, R533) -/

/-- HOST_QUIESCE: fetching and generation stop, and the affected tasks run on; T boundaries bound it (R532). -/
def execHostQuiesce (r : MbxReq) (s : State) : Host.Outcome State Fault Refusal :=
  .next (s.command (fun o => o == 0x0040) r (fun s r =>
    if r.arg0 = 0 ∨ 65535 < r.arg0 then .done s (MbxResult.bad errMbxArgInvalid 0)
    else .runs { s with host := { s.host with state := if s.host.dlUp then 1 else s.host.state, quiesceLeft := some r.arg0 } } (longFor r none)))

/-- The running long command is a quiesce. -/
def State.quiescing (s : State) : Bool := match s.mbx.long with | some l => l.req.opcode == 0x0040 | none => false

/-- A host access that a record or its message still waits for. -/
def HostReq.isRecord (q : HostReq) : Bool :=
  match q.use with
  | .record .. => true
  | .completion _ => true
  | .message _ => true
  | _ => false

/-- No affected task remains and every record is written (R532). -/
def State.quiesced (s : State) : Bool :=
  s.tasks.all (fun x => !s.hostBound x) && s.tenants.all (fun x => x.fetched.isEmpty) && s.held.all (fun q => !q.isRecord)

/-- HOST_QUIESCE_COMPLETE: the quiesce ends (R532). One that ends with the link down leaves HOST_STATE at 3: that loss was a surprise removal
(R529). -/
def execHostQuiesceComplete (s : State) : Host.Outcome State Fault Refusal :=
  if !s.quiescing || !s.quiesced then .next s
  else
    let s := { s with host := { s.host with state := if s.host.dlUp then 2 else s.host.state, quiesceLeft := none } }
    .next ((s.hostEvent 3).endLong MbxResult.ok)

/-- HOST_QUIESCE_ABORT: T boundaries have passed; what remains is aborted, and the records publish at the next cut (R532). -/
def execHostQuiesceAbort (s : State) : Host.Outcome State Fault Refusal :=
  if !s.quiescing || s.host.quiesceLeft ≠ some 0 then .next s
  else .next (({ s with host := { s.host with quiesceLeft := none } } : State).abortHostTasks errHostQuiesceAbort)

/-- HOST_RESUME: the state returns to 0 and fetching and generation start again (R533). With the link down the state stays that of the removal. -/
def execHostResume (r : MbxReq) (s : State) : Host.Outcome State Fault Refusal :=
  .next (s.command (fun o => o == 0x0041) r (fun s _ =>
    .done { s with host := { s.host with state := if s.host.dlUp then 0 else s.host.state } } MbxResult.ok))

end Sys2Proof.Machine
end

