-- ==== Sys2Proof/Machine/Tenants.lean ====
section
/-! DEFINITION. Tenants and their lifecycle (spec/18): the grant record and its checks, creation, reset and destruction; and a Function Level Reset of
a VF (spec/17, R521). -/

namespace Sys2Proof.Machine

/-! ### The grant record (Table 18-1) -/

def gTenant (b : Bytes) : Nat := fieldAt b 0 1
def gQpQuota (b : Bytes) : Nat := fieldAt b 2 2
def gHbmGran (b : Bytes) : Nat := fieldAt b 0x10 4
def gOryGran (b : Bytes) : Nat := fieldAt b 0x14 4

/-- The staleness limit's image default in µs (R415). -/
def staleDefault : Nat := 100000

/-- The byte offset of the first field of a grant record that breaks Table 18-1; for a record of another length, its length. -/
def State.grantFault (s : State) (b : Bytes) (standing : Bool) : Option Nat :=
  let f := fun (o n top : Nat) => if fieldAt b o n ≤ top then [] else [o]
  let wrong := f 0 1 127 ++ f 1 1 1 ++ f 2 2 4096 ++ (if fieldAt b 6 2 = 0xFFFF then [] else f 6 2 192) ++ f 8 2 4096 ++ f 0xA 2 1024
    ++ f 0xC 4 (if standing then 0 else 0xFFFFF) ++ (if gHbmGran b = 0 then [0x10] else f 0x10 4 s.allocatable)
    ++ f 0x14 4 s.chip.part.oryGranules ++ f 0x18 2 4096 ++ f 0x1A 2 4096 ++ f 0x1C 2 4096 ++ f 0x1E 2 0
    ++ (if allZero (slice b 0x38 8) then [] else [0x38]) ++ (if allZero (slice b 0x130 80) then [] else [0x130])
  if b.length ≠ 384 then some b.length else wrong.head?

/-- A grant as the registers that hold it: the shadow registers and their values. -/
def State.grantRegs (s : State) (b : Bytes) : List (Nat × Nat) :=
  let t := gTenant b
  let stakes := if fieldAt b 6 2 = 0xFFFF then s.getF rStakeQuotaDefault 7 0 else fieldAt b 6 2
  let wins := (List.range 30).flatMap (fun i => [(winKey t i, fieldAt b (0x40 + 8 * i) 4), (winKey t i + 4, fieldAt b (0x44 + 8 * i) 4)])
  wins ++ (List.range 4).map (fun i => (tenKey t (rTenSeed + 4 * i), fieldAt b (0x28 + 4 * i) 4)) ++
    [(tenKey t rTenHbmGran, gHbmGran b), (tenKey t rTenOryGran, gOryGran b), (tenKey t rTenWatts, fieldAt b 4 2), (tenKey t rTenQpQuota, gQpQuota b),
     (tenKey t rTenStreamQuota, fieldAt b 8 2), (tenKey t rTenHoopQuota, fieldAt b 0xA 2), (rBwTenGrantA + 16 * t, fieldAt b 0x18 4),
     (rBwTenGrantB + 16 * t, fieldAt b 0x1C 2), (rStakeTenQuota + 16 * t, stakes), (rMemTenFill + 8 * t, fieldAt b 0x20 4),
     (rMemTenCtrl + 8 * t, fieldAt b 1 1), (rNetTenSensorStaleUs + 4 * t, if fieldAt b 0x24 4 = 0 then staleDefault else fieldAt b 0x24 4)]

/-- A register file with values put in. -/
def putRegs (f : RegFile) (l : List (Nat × Nat)) : RegFile := l.foldl (fun f p => sparseSet 0 f p.1 (BitVec.ofNat 32 p.2)) f

/-- Values of a grant's registers in force, in the shadow set and in the snapshot of a pending commit, so that no commit undoes them. -/
def State.putGrant (s : State) (l : List (Nat × Nat)) : State :=
  { s with pf0 := putRegs s.pf0 l, shadow := putRegs s.shadow l,
           commit := s.commit.map (fun c => { c with snap := putRegs c.snap l }) }

/-- The tenant's registers as they stand without a tenant. -/
def State.dropGrant (s : State) (t : Nat) : State :=
  let mine := fun (p : Nat × Word) => tenantOfKey p.1 != some t
  let stale := [(rNetTenSensorStaleUs + 4 * t, staleDefault)]
  (({ s with pf0 := s.pf0.filter mine, shadow := s.shadow.filter mine,
             commit := s.commit.map (fun c => { c with snap := c.snap.filter mine }) } : State).putGrant stale).setN (rHostTenPasid + 4 * t) 0

/-! ### Creation (R537 to R540) -/

/-- The register file of a pending drain-kind commit, or the one in force. -/
def State.pendingFile (s : State) : RegFile :=
  match s.commit with
  | some c => if c.drain then applyKeys c.snap s.pf0 (changedKeys c.snap s.pf0) else s.pf0
  | none => s.pf0

/-- Check 5 of R539: the class whose sum a new grant would take past its bound, now or when the pending commit applies, with the free amount. -/
def State.createOvergrant (s : State) (l : List (Nat × Nat)) (t : Nat) : Option Nat :=
  let now := putRegs s.pf0 l
  let later := putRegs s.pendingFile l
  match (List.range 8).find? (fun cls =>
      decide (s.grantBound cls < s.grantOthers now t cls + grantItem now t cls)
        || decide (s.grantBound cls < s.grantOthers later t cls + grantItem later t cls)) with
  | some cls => some (cls + Nat.min (s.grantBound cls - s.grantOthers s.pf0 t cls) 0xFFFF * 0x10000)
  | none => none

/-- The free granules of a memory that a pending commit does not take for its growth. -/
def State.freeLeft (s : State) (sp : Space) : Runs :=
  let free := match sp with | .hbm => s.mem.hbmFree | .ory => s.mem.oryFree
  let off := match sp with | .hbm => rTenHbmGran | .ory => rTenOryGran
  s.tenants.foldl (fun fr x =>
    if x.phase == TenPhase.creating then fr
    else match grow (s.extents x.id sp) fr (fileN s.pendingFile (tenKey x.id off) - runsLen (s.extents x.id sp)) with
      | some r => r.2
      | none => fr) free

/-- Where a new tenant's granules would come from: allocated now, waiting for zeroing, or not to be had within 16 extents. -/
inductive AllocOut where
  | now (hbm ory : Runs)
  | wait
  | never

/-- Check 6 of R539 with the wait of R125. -/
def State.planMemory (s : State) (hbm ory : Nat) : AllocOut :=
  let free := s.freeLeft .hbm
  match grow [] (s.freeLeft .ory) ory with
  | none => .never
  | some o => match grow [] free hbm with
    | some h => .now h.1 o.1
    | none => if (grow [] (s.mem.zeroQ.foldl runsPut free) hbm).isSome then .wait else .never

/-- The checks of R539 after the record's form: the code and detail word of the first that fails. -/
def State.createRefusal (s : State) (b : Bytes) : Option (Nat × Nat) :=
  let t := gTenant b
  let l := s.grantRegs b
  let f := putRegs s.pendingFile l
  if (s.tenant? t).isSome then some (errTenExists, 0)
  else match s.absentWindow f t with
    | some d => some (errUnitAbsent, d)
    | none => match s.windowConflict f s.pf0 t with
      | some d => some (errTenWindowConflict, d)
      | none => match s.createOvergrant l t with
        | some d => some (errTenOvergrant, d)
        | none => match s.planMemory (gHbmGran b) (gOryGran b) with
          | .never => some (errMemNoExtent, 0)
          | _ => none

/-- A new tenant: its epoch follows the last of its number (R540). -/
def State.newTenant (s : State) (t : Nat) (standing : Bool) : Tenant :=
  { id := t, phase := .creating, standing := standing, orphaned := false,
    epoch := match s.epochs.find? (fun p => p.1 == t) with | some p => (p.2 + 1) % 0x10000 | none => 0,
    nextSeq := 0, exhausted := false, lastAssigned := 0, handleCount := 0, hbm := [], ory := [],
    spare := { read := 0, write := 0, remote := 0 }, queues := List.replicate 8 HostQueue.reset, fetched := [], mrs := [] }

/-- The grant of an accepted creation is held from here on. -/
def State.holdGrant (s : State) (b : Bytes) (standing : Bool) : State :=
  let t := gTenant b
  let s := (s.putGrant (s.grantRegs b)).setN (rHostTenPasid + 4 * t) (fieldAt b 0xC 4 + (if standing then 0 else 2 ^ 31))
  { s with tenants := insertBy (fun x => x.id) (s.newTenant t standing) s.tenants,
           vf := (sparseClear s.vf (vfKey t 0) (vfKey (t + 1) 0)) } |>.vsetN t vBeatTLastSeq 0xFFFFFFFF

/-- The creation ends: granules, init tags (R124), queue pairs, and the tenant is active. -/
def State.settleTenant (s : State) (t : Nat) (hbm ory : Runs) : State :=
  let s := { s with mem := { s.mem with hbmFree := hbm.foldl runsMinus s.mem.hbmFree, oryFree := ory.foldl runsMinus s.mem.oryFree } }
  let s := s.clearGranuleTags (runsList ory)
  (s.updTenant t (fun x => { x with phase := .active, hbm := hbm, ory := ory })).mapQps t (fileN s.pf0 (tenKey t rTenQpQuota))

/-- A creation that can no longer be completed leaves nothing behind. -/
def State.undoTenant (s : State) (t : Nat) : State := ({ s with tenants := s.tenants.filter (fun x => x.id != t) } : State).dropGrant t

/-- What a request to create a tenant comes to. -/
inductive CreateOut where
  | refused (code detail : Nat)
  | created (s : State)
  | waits (s : State)

/-- A creation (R539). -/
def State.create (s : State) (b : Bytes) (standing : Bool) : CreateOut :=
  match s.grantFault b standing with
  | some d => .refused errTenInvalid d
  | none => match s.createRefusal b with
    | some (c, d) => .refused c d
    | none => match s.planMemory (gHbmGran b) (gOryGran b) with
      | .now h o => .created ((s.holdGrant b standing).settleTenant (gTenant b) h o)
      | _ => .waits (s.holdGrant b standing)

/-- TEN_CREATE: a creation from the grant record in the inline data (R539). -/
def execTenCreate (r : MbxReq) (s : State) : Host.Outcome State Fault Refusal :=
  .next (s.command (fun o => o == 0x0010) r (fun s r => match s.create r.inlineData false with
    | .refused c d => .done s (MbxResult.bad c d)
    | .created s => .runs s (longFor r (some MbxResult.ok))
    | .waits s => .runs s (longFor r none)))

/-- The tenant whose creation waits for zeroed granules (R125). -/
def State.creating? (s : State) : Option Tenant := s.tenants.find? (fun x => x.phase == TenPhase.creating)

/-- The waiting creation, judged again: done with its result, or still waiting. -/
def State.retryCreate (s : State) (x : Tenant) : Option (State × MbxResult) :=
  match s.planMemory (fileN s.pf0 (tenKey x.id rTenHbmGran)) (fileN s.pf0 (tenKey x.id rTenOryGran)) with
  | .wait => none
  | .now h o => some (s.settleTenant x.id h o, MbxResult.ok)
  | .never => some (s.undoTenant x.id, MbxResult.bad errMemNoExtent 0)

/-! ### Reset (R521, R543 to R546, R551, R555) -/

/-- A pair as a tenant reset leaves it: disabled, its heads, tails and reservations 0 (R521). -/
def HostQueue.halted (k : HostQueue) : HostQueue :=
  { k with enabled := false, stopping := false, sqHead := 0, sqTail := 0, cqHead := 0, cqTail := 0, reserved := 0 }

/-- An access that fetches a region update: it outlives a tenant reset (R156). -/
def HostReq.isRegion (q : HostReq) : Bool := match q.use with | .region .. => true | _ => false

/-- The tenant's courses stop and its tasks are discarded, without records (R543). -/
def State.dropTasks (s : State) (t : Nat) : State :=
  let s := (s.tasksOf t).foldl (fun s x => s.stopTask x) s
  { s with tasks := s.tasks.filter (fun x => x.tenant != t) }

/-- A reset is requested; one in progress is joined (R551). -/
def State.beginReset (s : State) (t : Nat) (phase : TenPhase) : State :=
  match s.tenant? t with
  | none => s
  | some x =>
    if x.phase == TenPhase.creating then s
    else if x.phase != TenPhase.active then s.updTenant t (fun x => { x with phase := if x.phase == TenPhase.destroying then .destroying else phase })
    else
      let s := (s.updTenant t (fun x => { x with phase := phase, fetched := [], queues := x.queues.map HostQueue.halted })).dropTasks t
      { s with held := s.held.filter (fun q => q.tenant != t || q.isRegion) }

/-- Registers of a VF that hold what software wrote there, not what the device counted: selectors, addresses and the configurations of pairs, regions and
queue pairs (Table 18-3). -/
def resetKeeps (o : Nat) : Bool :=
  decide (0x3020 ≤ o ∧ o < 0x3038) || o == 0x4030 || o == 0x4034 || o == 0x5030 || o == 0x5034 || decide (0xA040 ≤ o ∧ o < 0xA058)
    || decide (0xF004 ≤ o ∧ o < 0xF06C) || decide (0x10000 ≤ o ∧ o < 0x1001C) || o == 0x11018

/-- A stream context after a reset: unarmed, and its Coil context empty (R200, R367). -/
def StreamCtx.dropped (x : StreamCtx) : StreamCtx := { x with armed := false, host := false, base := 0, size := 0, coil := Coil.empty }

/-- A tenant's Rota after a reset: admitted still, with nothing of the old epoch in it. -/
def Rota.afterReset (r : Rota) : Rota :=
  { r with acc := { read := 0, write := 0, remote := 0 }, regions := r.regions.map (fun g => { g with pend := none }),
           streams := r.streams.map StreamCtx.dropped, lastReady := r.lastReady.map (fun _ => none),
           peers := r.peers.map (fun p => { p with marks := p.marks.map (fun _ => []) }),
           sensors := r.sensors.map (fun x => { x with frames := [], parts := [] }), spills := [], late := [] }

/-- The highest count among the handles a tenant keeps (R546). -/
def State.keptCount (s : State) (t : Nat) : Nat := maxList ((s.rotasOf t).map (fun r => r.handle % 2 ^ 24))

/-- A reset completes (R544): Table 18-3, and R545. `phase` is what the tenant is then. -/
def State.endReset (s : State) (t : Nat) (phase : TenPhase) : State :=
  let s := (s.dropTasks t).errQps (fun k => k == t)
  let s := (s.rotasOf t).foldl (fun s r => s.clearStakes r.pairs) s
  let n := s.keptCount t
  let s := s.updTenant t (fun x => { x with
    phase := phase, orphaned := false, epoch := (x.epoch + 1) % 0x10000, nextSeq := 0, exhausted := false, lastAssigned := 0, handleCount := n,
    fetched := [], spare := { read := 0, write := 0, remote := 0 } })
  { s with rotas := updWhere s.rotas (fun r => handleTenant r.handle == t) Rota.afterReset,
           vf := s.vf.filter (fun p => p.1 / 0x40000 != t || resetKeeps (p.1 % 0x40000)),
           coilReqs := s.coilReqs.filter (fun q => q.tenant != t), atc := s.atc.filter (fun x => x.tenant != t),
           held := s.held.filter (fun q => q.tenant != t || q.isRegion), reads := s.reads.filter (fun q => q.tenant != t || q.isRegion) }
    |>.vsetN t vBeatTLastSeq 0xFFFFFFFF |>.vsetF t vCoilTCtxStatus 0 0 0

/-- TEN_RESET: the reset starts and the command completes (R543). -/
def execTenReset (r : MbxReq) (s : State) : Host.Outcome State Fault Refusal :=
  .next (s.command (fun o => o == 0x0011) r (fun s r =>
    if !s.exists? r.arg0 then .done s (MbxResult.bad errTenNotFound 0) else .done (s.beginReset r.arg0 .resetting) MbxResult.ok))

/-- TEN_RESET_COMPLETE: the reset of tenant `t` completes, at most 1 ms after its request (R544). A destruction goes on from there (R547, R552). -/
def execTenResetComplete (t : Nat) (s : State) : Host.Outcome State Fault Refusal :=
  match s.tenant? t with
  | none => .next s
  | some x =>
    if x.phase == TenPhase.resetting then .next (s.endReset t .active)
    else if x.phase == TenPhase.destroying then
      match s.mbx.long with
      | some l =>
        if l.phase = 0 then
          let s := s.endReset t .destroying
          .next { s with mbx := { s.mbx with long := some { l with phase := 1, result := some MbxResult.ok } } }
        else .next s
      | none => .next s
    else .next s

/-! ### Destruction (R547) -/

/-- TEN_DESTROY: a reset first; one in progress is joined (R547, R552). -/
def execTenDestroy (r : MbxReq) (s : State) : Host.Outcome State Fault Refusal :=
  .next (s.command (fun o => o == 0x0012) r (fun s r =>
    if !s.exists? r.arg0 then .done s (MbxResult.bad errTenNotFound 0) else .runs (s.beginReset r.arg0 .destroying) (longFor r none)))

/-- What a destroyed tenant held is free: its Rotas at once, its granules (R155), its queue pairs and its grant; its epoch is remembered (R540). -/
def State.destroyTenant (s : State) (t : Nat) : State :=
  match s.tenant? t with
  | none => s
  | some x =>
    let s := (s.rotasOf t).foldl (fun s r => s.freeRota r) s
    let s := (s.freeHbm (runsList x.hbm)).freeOry (runsList x.ory)
    let s := { s with tenants := s.tenants.filter (fun y => y.id != t), qps := s.qps.filter (fun k => k.tenant != t),
                      reads := s.reads.filter (fun q => q.tenant != t), held := s.held.filter (fun q => q.tenant != t),
                      epochs := insertBy (fun p => p.1) (t, x.epoch) (s.epochs.filter (fun p => p.1 != t)) }
    s.dropGrant t

/-! ### Function Level Reset (R521, R528) -/

/-- The MSI-X state of one function is reset. -/
def Msix.resetOf (m : Msix) (f : Nat) : Msix :=
  { on := setClear m.on f (f + 1), fmask := setClear m.fmask f (f + 1), unmasked := setClear m.unmasked (64 * f) (64 * f + 64),
    pend := setClear m.pend (64 * f) (64 * f + 64), table := sparseClear m.table (1024 * f) (1024 * f + 1024) }

/-- FUNCTION_LEVEL_RESET of function `f`: PF0's acts as a reset of the PCIe interface (R528); a VF's requests a reset of its tenant (R521), beside
the VF's own configuration, which PCI Express resets. -/
def execFunctionLevelReset (f : Nat) (s : State) : Host.Outcome State Fault Refusal :=
  if !s.host.dlUp || 129 ≤ f then .next s
  else if f = 0 then .next s.pcieReset
  else if !s.host.vfEnable then .next s
  else
    let s := { s with msix := s.msix.resetOf f, host := { s.host with relaxed := setClear s.host.relaxed f (f + 1) } }
    .next (s.beginReset (f - 1) .resetting)

end Sys2Proof.Machine
end

