-- ==== Sys2Proof/Machine/Format.lean ====
section
/-! DEFINITION. The format checks of admission, first part (spec/03, R81, R82; spec/05, R166, R173; spec/11, R339; spec/12, R368, R371, R377): the
header, the places of the parts, and the course, tier, link, table, hoop and stream records. Every check answers the wrong fields it finds. -/

namespace Sys2Proof.Machine

/-- The field at `off` is wrong unless the rule holds. -/
def chk (ok : Bool) (off : Nat) : List FieldFault := if ok then [] else [{ off := off, stream := 0xFFFF, cause := none }]

/-- Several rules, each with the offset of its field. -/
def chks (l : List (Bool × Nat)) : List FieldFault := l.flatMap (fun p => chk p.1 p.2)

/-- A value lies in a range, ends included. -/
def within (v lo hi : Nat) : Bool := decide (lo ≤ v ∧ v ≤ hi)

/-! ### The header and the places of the parts (R81, Table 3-1) -/

/-- The CRC of Table 3-1. -/
def rotaCrcOk (b : Bytes) : Bool := (crc32c (b.take 12 ++ List.replicate 4 0 ++ b.drop 16)).toNat == rhCrc b

/-- A part of `n` records of `size` bytes at `off` starts on a multiple of 8 and lies within TOTAL_BYTES. -/
def partOk (b : Bytes) (off n size : Nat) : Bool := off % 8 == 0 && decide (off + n * size ≤ rhTotalBytes b)

/-- The fields of the header. -/
def headerFaults (b : Bytes) : List FieldFault :=
  chks [(rhMagic b == 0x41544F52, 0), (rhVersion b == 1, 4), (rhHdrBytes b == 128, 6), (rhTotalBytes b == b.length, 8), (rotaCrcOk b, 0xC),
    (within (rhSpan b) 1 8, 0x10), (decide (rhLevel b ≤ 1), 0x11), (decide (rhPolicy b ≤ 2), 0x12), (decide (rhFlags b < 4), 0x13),
    (within (rhNCourse b) 1 64, 0x14), (within (rhNTier b) 1 8, 0x16), (within (rhNConsumer b) 1 8, 0x17),
    (within (rhMinPeriod b) 250000 60000000000, 0x18), (decide (rhBwRead b ≤ 4096), 0x28), (decide (rhBwWrite b ≤ 4096), 0x2A),
    (decide (rhBwRemote b ≤ 4096), 0x2C), (fieldAt b 0x2E 2 == 0, 0x2E)] ++
  chks [(partOk b (rhCourseOff b) (rhNCourse b) 64, 0x48), (partOk b (rhTierOff b) (rhNTier b) 16, 0x4C),
    (partOk b (rhLinkOff b) (rhNLink b) 16, 0x50), (partOk b (rhTableOff b) (rhNTable b) 32, 0x58),
    (partOk b (rhStreamOff b) (rhNStream b) 128, 0x5C), (within (rhNStream b) 1 4096, 0x60),
    (partOk b (rhHoopOff b) (rhNHoop b) 16, 0x64),
    (rhStrandOff b == 0 || partOk b (rhStrandOff b) (rhStrandBytes b) 1, 0x68),
    (if rhStrandOff b = 0 then rhStrandBytes b == 0 else decide (64 ≤ rhStrandBytes b), 0x6C),
    (rhExpertOff b == 0 || (rhLevel b == 1 && partOk b (rhExpertOff b) (rhExpertBytes b) 1), 0x70),
    (rhExpertOff b != 0 || rhExpertBytes b == 0, 0x74), (fieldAt b 0x78 8 == 0, 0x78)]

/-- The operation lists, one after another: each header and its descriptors lie within TOTAL_BYTES. -/
def listFaults (b : Bytes) : List OpList → List FieldFault
  | [] => []
  | l :: t =>
    let a := listAt b l
    if decide (a + 16 ≤ rhTotalBytes b) && decide (a + 16 + 64 * listN b l ≤ rhTotalBytes b) then
      chk (allZero (slice b (a + 4) 12)) (a + 4) ++ listFaults b t
    else chk false a

/-- Every list, in the order in which they lie. -/
def allLists : List OpList := [.weave, .quotient, .select, .arbour, .sample, .network]

/-- What must hold before a record is read where the header places it. -/
def placeFaults (b : Bytes) : List FieldFault :=
  if b.length < 128 then chk false 0
  else match headerFaults b with
    | [] => listFaults b allLists
    | l => l

/-! ### Courses (Table 3-2, R82, R221, R442) -/

/-- The fields of course record `c`. -/
def courseFaults (b : Bytes) (c : Nat) : List FieldFault :=
  let o := rhCourseOff b + 64 * c
  let prev := if c = 0 then 0 else rcBeatOff b (c - 1)
  let moved := c == 0 || rcBeatOff b c != prev
  let w := rcUnits b c 1
  chks [(rcCourse b c == c, o), (decide (prev ≤ rcBeatOff b c ∧ rcBeatOff b c < rhSpan b), o + 1),
    (decide (rcFlags b c < 4) && (!moved || rcReuse b c), o + 2), (fieldAt b (o + 3) 1 == 0, o + 3),
    (decide (rcUnits b c 2 ≤ 4 * w) && (rhStrandOff b != 0 || rcUnits b c 2 == 0), o + 5),
    (decide (rcUnits b c 3 ≤ w), o + 6), (decide (rcUnits b c 4 ≤ w), o + 7), (decide (rcUnits b c 5 ≤ w), o + 8),
    (rcHbmRead b c == 0 || rhBwRead b != 0, o + 0x10), (rcHbmWrite b c == 0 || rhBwWrite b != 0, o + 0x18),
    (rcRemote b c == 0 || rhBwRemote b != 0, o + 0x20),
    (decide (rcTableFirst b c + rcTableCnt b c ≤ rhNTable b), o + 0x30), (decide (rcStreamFirst b c + rcStreamCnt b c ≤ rhNStream b), o + 0x34),
    (decide (rcLinkFirst b c + rcLinkCnt b c ≤ rhNLink b), o + 0x38), (fieldAt b (o + 0x3E) 2 == 0, o + 0x3E)]

/-! ### Tiers, links and tables (Tables 3-3 to 3-5, R221, R273) -/

/-- The fields of tier record `i`. -/
def tierFaults (b : Bytes) (i : Nat) : List FieldFault :=
  let o := rhTierOff b + 16 * i
  chks [(rtTier b i == i, o), (decide (rtCourse b i < rhNCourse b), o + 1), (decide (rtStreamFirst b i + rtStreamCnt b i ≤ rhNStream b), o + 2),
    (fieldAt b (o + 6) 2 == 0, o + 6)]

/-- The fields of link record `i`. -/
def linkFaults (b : Bytes) (i : Nat) : List FieldFault :=
  let o := rhLinkOff b + 16 * i
  chks [(decide (rlStake b i < rhStakes b), o), (decide (rlCourse b i < rhNCourse b), o + 2), (fieldAt b (o + 3) 1 == 0, o + 3),
    (within (rlProdClass b i) 1 8, o + 4), (within (rlConsClass b i) 1 8, o + 6), (decide (rlHoop b i < rhNHoop b), o + 8),
    (allZero (slice b (o + 0xA) 6), o + 0xA)]

/-- The operation that writes a device-built table (R273). -/
def writesTable (d : Bytes) (table : Nat) : Bool :=
  odTable d == table && (odOpcode d == 0x10 || odOpcode d == 0x12 || odOpcode d == 0x13 || odOpcode d == 0x14)

/-- The operations that write a table. -/
def tableWriters (b : Bytes) (table : Nat) : List Nat :=
  (List.range (listN b .weave)).filter (fun i => writesTable (opRec b .weave i) table)

/-- The fields of table record `i`; a device-built table is resident, carries no PARAM and has a writer. -/
def tableFaults (b : Bytes) (i : Nat) : List FieldFault :=
  let o := rhTableOff b + 32 * i
  let none_ := roSrcStream b i == 0xFFFF
  chks [(decide (roFlags b i < 4) && (!none_ || (roResident b i && !roParam b i)), o + 2), (fieldAt b (o + 4) 4 == 0, o + 4),
    (if none_ then (tableWriters b (roTable b i)).length != 0 else decide (roSrcStream b i < rhNStream b), o + 0x10),
    (allZero (slice b (o + 0x12) 6), o + 0x12)]

/-! ### Hoops (Tables 5-3 and 5-4, R173) -/

/-- How many instances of an endpoint course `c` has; none for a code outside Table 5-4. -/
def endpointCount (b : Bytes) (c code : Nat) : Option Nat :=
  if code = 0x01 ∨ code = 0x10 ∨ code = 0x11 then some (rcUnits b c 1)
  else if code = 0x02 ∨ code = 0x03 ∨ code = 0x04 ∨ code = 0x06 ∨ code = 0x07 ∨ code = 0x08 then some (rcUnits b c code)
  else if code = 0x12 then some 1
  else none

/-- An endpoint and its instance. -/
def endpointFaults (b : Bytes) (c code inst off : Nat) : List FieldFault :=
  match endpointCount b c code with
  | none => chk false off
  | some n => chk (decide (inst < n)) (off + 1)

/-- The fields of hoop record `i`. -/
def hoopFaults (b : Bytes) (i : Nat) : List FieldFault :=
  let o := rhHoopOff b + 16 * i
  let c := rpCourse b i
  chks [(rpHoop b i == i, o), (within (rpSlots b i) 3 64, o + 2), (within (rpSlotLog2 b i) 12 20, o + 3)] ++
  (if c < rhNCourse b then endpointFaults b c (rpProd b i) (rpProdInst b i) (o + 4) ++ endpointFaults b c (rpCons b i) (rpConsInst b i) (o + 6)
   else chk false (o + 8)) ++
  chks [(decide (rpFlags b i < 2), o + 9), (if rpLinked b i then decide (rpLink b i < rhNLink b) else rpLink b i == 0xFFFF, o + 0xA),
    (fieldAt b (o + 0xC) 4 == 0, o + 0xC)]

/-! ### Stream descriptors (Table 5-1, R166) -/

/-- The table record of number `t` that course `c` uses. -/
def usedTable (b : Bytes) (c t : Nat) : Option Nat :=
  if c < rhNCourse b then (courseTables b c).find? (fun j => roTable b j == t) else none

/-- The course that owns the hoop of a stream. -/
def streamCourse (b : Bytes) (i : Nat) : Option Nat := if rsHoop b i < rhNHoop b then some (rpCourse b (rsHoop b i)) else none

/-- The stream's hoop has the endpoint that its side asks for. -/
def streamHoopOk (b : Bytes) (i : Nat) : Bool :=
  decide (rsHoop b i < rhNHoop b) &&
    (if rsOut b i then rpCons b (rsHoop b i) == 0x11
     else rpProd b (rsHoop b i) == (if rsSpace b i = 1 then 0x12 else if rsSpace b i = 3 then 0x08 else 0x10))

/-- DRIVER: none in MODE 0, an index stream in MODE 1, a queue hoop that the stream's own engine consumes in MODE 2. -/
def driverOk (b : Bytes) (i : Nat) : Bool :=
  let d := rsDriver b i
  if rsMode b i = 0 then d == 0xFFFF
  else if rsMode b i = 1 then
    decide (d < rhNStream b) && (streamCourse b d).isSome && streamCourse b d == streamCourse b i && !rsOut b d && rsMode b d == 0
      && (rsEtype b d == 0x08 || rsEtype b d == 0x09)
  else if rsMode b i = 2 then
    let h := rsHoop b i
    decide (d < rhNHoop b ∧ h < rhNHoop b) && rpCourse b d == rpCourse b h && rpCons b d == (if rsOut b i then 0x11 else 0x10)
      && rpConsInst b d == (if rsOut b i then rpConsInst b h else rpProdInst b h)
  else true

/-- PERM is a permutation of 0 to 4 that leaves every position at or above N_DIM in place. -/
def permOk (b : Bytes) (i : Nat) : Bool :=
  decide (rsPerm b i < 0x8000) && (List.range 5).all (fun d => (List.range 5).any (fun p => rsPermAt b i p == d))
    && (List.range 5).all (fun p => decide (p < rsNDim b i) || rsPermAt b i p == p)

/-- BURST of MODE 2. -/
def burstOk (b : Bytes) (i : Nat) : Bool :=
  if rsMode b i = 2 then [1, 4, 8, 16, 32].contains (rsBurst b i) else rsBurst b i == 0

/-- The fields of Table 5-1 but for the rules of the Coil unit and of tensors. -/
def streamFields (b : Bytes) (i : Nat) : List FieldFault :=
  let o := rhStreamOff b + 128 * i
  let sp := rsSpace b i
  let out := rsOut b i
  let mode := rsMode b i
  chks [(rsStream b i == i, o), (decide (rsKind b i < 8) && mode != 3 && !(mode == 1 && out), o + 2),
    (decide (sp ≤ 4) && !(out && (sp == 2 || sp == 3)) && (out || sp != 4), o + 3), (decide (rsFlags b i < 8), o + 4),
    (streamHoopOk b i, o + 6), (driverOk b i, o + 8),
    (if sp = 2 then (match streamCourse b i with | some c => (usedTable b c (rsTable b i)).isSome | none => false) else rsTable b i == 0, o + 0xA),
    (permOk b i, o + 0xC), (within (rsOutstanding b i) 1 1024, o + 0xE), (within (rsNDim b i) 1 5, o + 0x10), (burstOk b i, o + 0x13),
    (within (rsXferLog2 b i) 6 12, o + 0x14), (if sp = 4 then decide (rsTier b i < rhNTier b) else rsTier b i == 0, o + 0x15),
    (fieldAt b (o + 0x17) 1 == 0, o + 0x17), (decide (rsBytes b i ≤ 2 ^ 40), o + 0x20),
    (rsSubbyte b i || rsScaleOffset b i == 0, o + 0x78)]

/-- The Coil rules of R166, R338 and R339. -/
def streamCoil (b : Bytes) (i : Nat) : List FieldFault :=
  let o := rhStreamOff b + 128 * i
  let out := rsOut b i
  let n := typeBytes (rsEtype b i)
  chk (if rsCoil b i && out then decide (rsCoilEnc b i < 16) else rsCoilEnc b i == 0) (o + 0x16) ++
  (if rsCoil b i then
    chks [(rsMode b i == 0, o + 2), (!rsSubbyte b i, o + 4), (rsPerm b i == 0x4688, o + 0xC), (rsNDim b i == 1, o + 0x10),
      (if out then n == 1 || n == 2 || n == 4 || n == 8 else rsEtype b i == 0x06, o + 0x11),
      (rsStride b i 0 == (if out then (n : Int) else 1), o + 0x50)]
   else [])

/-! ### Tensors (R368, R370, R371, R377, R385, R386) -/

/-- A layout rule that fails: the field, the stream and the cause of Table 12-7. -/
def lay (ok : Bool) (off i cause : Nat) : List FieldFault := if ok then [] else [{ off := off, stream := i, cause := some cause }]

/-- The first dimension whose extent is 0, or with which the product passes 2^40. -/
def badExtent (b : Bytes) (i : Nat) : Option Nat :=
  (List.range (rsNDim b i)).find? (fun d => rsExtent b i d == 0 || decide (2 ^ 40 < extProd b i (List.range (d + 1))))

/-- ETYPE values that SUBBYTE takes. -/
def subType (t : Nat) : Bool := typePacked t || t == 0x02 || t == 0x0E || t == 0x0F

/-- The rules of R377 on types and extents. -/
def tensorFields (b : Bytes) (i : Nat) : List FieldFault :=
  let o := rhStreamOff b + 128 * i
  let sub := rsSubbyte b i
  let t := rsEtype b i
  let packedInt := t == 0x18 || t == 0x19 || t == 0x1A
  lay (typeForStream t sub) (o + 0x11) i errLayType ++
  lay (!sub || (!rsOut b i && decide (rsMode b i ≤ 1) && subType t)) (o + 4) i errLayType ++
  lay (if sub then decide (rsScaleCode b i < 32) && (scOut b i != 3 || (scType b i == 3 && packedInt)) else rsScaleCode b i == 0)
    (o + 0x12) i errLayType ++
  (match badExtent b i with
    | some d => lay false (o + 0x28 + 8 * d) i errLayExtent
    | none => []) ++
  (if sub then
    lay (rsPermAt b i 0 == 0) (o + 0xC) i errLayPackedGeometry ++ lay (rsExtent b i 0 % scBlock b i == 0) (o + 0x28) i errLayPackedGeometry ++
    lay (rsStride b i 0 == (if typePacked t then 0 else 1)) (o + 0x50) i errLayPackedGeometry ++
    lay (scType b i != 3 || rsScaleOffset b i == 0) (o + 0x78) i errLayPackedGeometry
   else [])

/-- Bytes of the allocation of a stream that is checked at admission (Table 12-1). -/
def streamAlloc (b : Bytes) (i : Nat) : Option Nat :=
  if rsSpace b i = 2 then
    match streamCourse b i with
    | some c => (usedTable b c (rsTable b i)).map (roBytes b)
    | none => none
  else if rsSpace b i = 3 then some (rsBytes b i)
  else if rsSpace b i = 4 then (if rsTier b i < rhNTier b then some (rtMaxBytes b (rsTier b i)) else none)
  else none

/-- Overlap of an output (R371) and the reach in an allocation known at admission (R368). -/
def tensorReach (b : Bytes) (i : Nat) : List FieldFault :=
  let o := rhStreamOff b + 128 * i
  (match (if rsOut b i && rsMode b i != 2 then overlapDim b i else none) with
    | some d => lay false (o + 0x50 + 8 * d) i errLayOutputOverlap
    | none => []) ++
  (match streamAlloc b i with
    | none => []
    | some n =>
      if rsMode b i = 2 then chk (decide (rsOffset b i + rsBytes b i ≤ n)) (o + 0x20)
      else if typeForStream (rsEtype b i) (rsSubbyte b i) then
        lay (reachOk b i n) (o + 0x18) i errLayReach ++ lay (scaleOk b i n) (o + 0x78) i errLayScaleReach
      else [])

/-- The fields of stream descriptor `i`. -/
def streamFaults (b : Bytes) (i : Nat) : List FieldFault :=
  streamFields b i ++ streamCoil b i ++ (if within (rsNDim b i) 1 5 then tensorFields b i ++ tensorReach b i else [])

end Sys2Proof.Machine
end

