-- ==== Sys2Proof/Machine/FormatOps.lean ====
section
/-! DEFINITION. The format checks of admission, second part: the descriptors of the operation lists (R240 of spec/07, R270, R273, R294 of spec/08,
R313 of spec/09, R329 of spec/10, R400 of spec/13, R428 of spec/14, R490 of spec/16). Where a rule names no single field, the field reported is
the one named beside it here (notes/assumptions/71.md). -/

namespace Sys2Proof.Machine

/-! ### What every descriptor shares -/

/-- INDEX and COURSE of descriptor `i`: its place in the list, and courses in ascending order. -/
def headFaults (b : Bytes) (l : OpList) (i : Nat) : List FieldFault :=
  let o := opOff b l i
  let prev := if i = 0 then 0 else opCourse (opRec b l (i - 1))
  chks [(fieldAt b o 2 == i, o), (decide (prev ≤ opCourse (opRec b l i) ∧ opCourse (opRec b l i) < rhNCourse b), o + 2)]

/-- A hoop of course `c` that the endpoint consumes. -/
def consumes (b : Bytes) (c code inst h : Nat) : Bool :=
  decide (h < rhNHoop b) && rpCourse b h == c && rpCons b h == code && rpConsInst b h == inst

/-- A hoop of course `c` that the endpoint produces. -/
def produces (b : Bytes) (c code inst h : Nat) : Bool :=
  decide (h < rhNHoop b) && rpCourse b h == c && rpProd b h == code && rpProdInst b h == inst

/-- The extension of `n` bytes that EXPERT_OFF names, at field `off`: none at LEVEL 0, and within the expert block. `f` checks its bytes. -/
def extFaults (b : Bytes) (eo off n : Nat) (f : Bytes → Nat → List FieldFault) : List FieldFault :=
  if eo = 0 then []
  else if rhLevel b = 0 || decide (rhExpertBytes b < eo + n) then chk false off
  else f (slice b (rhExpertOff b + eo) n) (rhExpertOff b + eo)

/-- A device-built table: resident, without PARAM, loaded from nowhere (R273). -/
def ownBuilt (b : Bytes) (j : Nat) : Bool := roResident b j && !roParam b j && roSrcStream b j == 0xFFFF

/-- The earlier descriptors of a list that satisfy `p`. -/
def earlier (b : Bytes) (l : OpList) (i : Nat) (p : Bytes → Bool) : Nat :=
  ((List.range i).filter (fun j => opCourse (opRec b l j) == opCourse (opRec b l i) && p (opRec b l j))).length

/-- The largest n of `k` bits, at most `cap`, with size n within a slot. -/
def mostRows (size : Nat → Nat) (slot cap : Nat) : Nat → Nat → Nat
  | 0, n => n
  | k + 1, n => mostRows size slot cap k (if n + 2 ^ k ≤ cap ∧ size (n + 2 ^ k) ≤ slot then n + 2 ^ k else n)

/-- Rows of lists of `n` elements of `w` bytes that a slot holds, without a bitmap. -/
def rowsIn (n w slot : Nat) : Nat := mostRows (fun r => 64 + roundUp (4 * (r + 1)) 64 + r * n * w) slot 65536 17 0

/-- Rows of a fixed-width column of `w`-byte values that a slot holds. -/
def valuesIn (w slot : Nat) : Nat := mostRows (fun r => 64 + r * w) slot 65536 17 0

/-- Bytes of a batch of `r` lists of `n` elements of `w` bytes, with its bitmap (R242). -/
def listSize (r n w : Nat) : Nat := 64 + roundUp (ceilDiv r 8) 64 + roundUp (4 * (r + 1)) 64 + roundUp (r * n * w) 64

/-- Bytes of a batch of `r` values of `w` bytes, with its bitmap. -/
def columnSize (r w : Nat) : Nat := 64 + roundUp (ceilDiv r 8) 64 + roundUp (r * w) 64

/-- Bytes of a u32 column that carries NO_VALIDITY (R277). -/
def u32Size (r : Nat) : Nat := 64 + roundUp (4 * r) 64

/-! ### Column operations (R240) -/

/-- IN_TYPE is of a class Table 7-6 gives the opcode. -/
def inTypeOk (oc cmp t : Nat) : Bool :=
  let num := isInt t || isFloat t
  if oc = 1 then num || (t == 1 && decide (cmp ≤ 1)) || (isVar t && (cmp == 6 || cmp == 7))
  else if 2 ≤ oc ∧ oc ≤ 4 then t == 1
  else if 5 ≤ oc ∧ oc ≤ 7 then num || t == 1 || isVar t
  else num

/-- OUT_TYPE of each opcode (Table 7-3, R256 to R258). -/
def outTypeOk (oc it t : Nat) : Bool :=
  if oc ≤ 4 then t == 1
  else if oc = 5 then t == it
  else if oc = 6 then t == 0x09
  else if oc ≤ 9 then t == 0x08
  else if oc = 0xF then t == 0
  else t == 0x0C || t == 0x0A || t == 0x0B

/-- Bytes of the parameter entry an opcode reads (R239), 0 where it reads none. -/
def entryOf (oc n : Nat) : Nat := if oc = 9 then 8 * n else if oc = 0xD ∨ oc = 0xE then 8 else 0

/-- Bytes of the entry of `u`, at `o` in the binary, of the column expert extension (Table 7-4). -/
def columnExt (u : Bytes) (o : Nat) : List FieldFault :=
  chks [(decide (fieldAt u 0 1 ≤ 1), o), (decide (fieldAt u 1 1 ≤ 1), o + 1), (fieldAt u 2 2 == 0, o + 2), (allZero (slice u 8 24), o + 8)]

/-- The immediates of WIDTH_BUCKET, CLIP and a bool FILTER_CMP. -/
def immFaults (d : Bytes) (o : Nat) : List FieldFault :=
  let oc := odOpcode d
  let a := odImm0 d
  let z := odImm1 d
  if oc = 1 then chk (odInType d != 1 || decide (a ≤ 1)) (o + 0x18)
  else if oc = 8 then
    chks [((f64.decode a).isFinite, o + 0x18), ((f64.decode z).isFinite && cmp64 false z 0 == some .gt, o + 0x20)]
  else if oc = 0xA then
    let lo := f64Of 0x0C (a % 2 ^ 32)
    let hi := f64Of 0x0C (z % 2 ^ 32)
    chks [(!(f64.decode lo).isNan && cmp64 false lo hi != some .gt, o + 0x18), (!(f64.decode hi).isNan, o + 0x20)]
  else []

/-- The statistics rules: one IN_TYPE in a group, and at most 6 tables that carry PARAM (R240, R261). -/
def statsFaults (b d : Bytes) (i o : Nat) : List FieldFault :=
  let c := opCourse d
  chk (earlier b .weave i (fun e => odOpcode e == 0xF && odColumn e == odColumn d && odEngine e != odEngine d && odInType e != odInType d) == 0)
    (o + 0xC) ++
  chk (decide (((courseTables b c).filter (roParam b)).length ≤ 6)) (rhCourseOff b + 64 * c + 0x32)

/-- A column operation. -/
def columnFaults (b d : Bytes) (i o : Nat) : List FieldFault :=
  let c := opCourse d
  let oc := odOpcode d
  let e := odEngine d
  let two := oc == 2 || oc == 3 || oc == 5
  let sz := entryOf oc (odN d)
  chks [(if oc = 1 then decide (odCmp d ≤ 8) else odCmp d == 0, o + 5), (consumes b c 1 e (odIn d), o + 6),
    (if odIn2 d = 0xFFFF then !two else (two || oc == 6) && consumes b c 1 e (odIn2 d), o + 8),
    (produces b c 1 e (odOut d), o + 0xA), (inTypeOk oc (odCmp d) (odInType d), o + 0xC), (outTypeOk oc (odInType d) (odOutType d), o + 0xD)] ++
  (if sz = 0 then chk (odTable d == 0xFFFF || oc == 9) (o + 0xE)
   else match usedTable b c (odTable d) with
    | none => chk false (o + 0xE)
    | some j => chk (decide ((odColumn d + 1) * sz ≤ roBytes b j)) (o + 0x10)) ++
  chk (if oc = 7 ∨ oc = 8 then odN d != 0 else if oc = 9 then within (odN d) 1 4096 else true) (o + 0x14) ++
  immFaults d o ++ extFaults b (odExpert d) (o + 0x34) 32 columnExt ++ (if oc = 0xF then statsFaults b d i o else [])

/-! ### Joins, groups and the tile array (R270, R273, R294) -/

/-- Where a fixed output hoop stands: not produced, or produced by the engine with room for `size` bytes. -/
def outFaults (b : Bytes) (c e h off size : Nat) : List FieldFault :=
  chk (h == 0xFFFF || (produces b c 1 e h && decide (size ≤ rpSlotBytes b h))) off

/-- The table of an operation that builds it: used by the course, device-built, with no other writer (R273). -/
def builtFaults (b d : Bytes) (o : Nat) : List FieldFault :=
  chk (match usedTable b (opCourse d) (odTable d) with
    | some j => ownBuilt b j && (tableWriters b (odTable d)).length == 1
    | none => false) (o + 0xE)

/-- BYTES of the table an operation names, 0 when its course does not use it. -/
def namedBytes (b d : Bytes) : Nat :=
  match usedTable b (opCourse d) (odTable d) with
  | some j => roBytes b j
  | none => 0

/-- ROWS_OUT (Table 8-8). -/
def rowsOutOk (d : Bytes) : Bool := within (odImm0 d / 2 ^ 32) 1 65536

/-- KEY_OP names a GROUP_KEY of the same course and engine. -/
def keyOpOk (b d : Bytes) : Bool :=
  let k := odImm1 d % 2 ^ 16
  let e := opRec b .weave k
  decide (k < listN b .weave) && opCourse e == opCourse d && odOpcode e == 0x12 && odEngine e == odEngine d

/-- A key column's type (R271). -/
def keyType (t : Nat) : Bool := isInt t || isFloat t || t == 1 || isVar t

/-- The course carries SPILL. -/
def rcSpill (b : Bytes) (c : Nat) : Bool := bit (rcFlags b c) 1

/-- The partitioned-spill extension `u` of a JOIN_BUILD, at `o` in the binary (Table 8-4). -/
def spillFaults (b d : Bytes) (u : Bytes) (o : Nat) : List FieldFault :=
  chks [(within (fieldAt u 0 1) 1 6 && decide (fieldAt u 0 1 ≤ odImm0 d % 256), o), (allZero (slice u 1 7), o + 1),
    (fieldAt u 8 8 % 4096 == 0 && decide (fieldAt u 8 8 + 2 ^ fieldAt u 0 1 * fieldAt u 0x10 8 ≤ rhHbmBytes b), o + 8),
    (fieldAt u 0x10 8 % 4096 == 0, o + 0x10), (allZero (slice u 0x18 8), o + 0x18)]

/-- JOIN_BUILD. -/
def joinBuildFaults (b d : Bytes) (o : Nat) : List FieldFault :=
  let log := odImm0 d
  chks [(odIn2 d == 0xFFFF, o + 8), (odOut d == 0xFFFF, o + 0xA), (keyType (odInType d), o + 0xC), (odColumn d == 0, o + 0x10),
    (within (odN d) 1 16777216 && decide (128 + 8 * 2 ^ (log % 64) + 32 * odN d ≤ namedBytes b d), o + 0x14), (within log 4 24, o + 0x18),
    (odImm1 d == 0, o + 0x20), (!rcSpill b (opCourse d) || odExpert d != 0, o + 0x34)] ++
  builtFaults b d o ++ extFaults b (odExpert d) (o + 0x34) 32 (spillFaults b d)

/-- A JOIN_PROBE reads a table that an earlier course of the same beat offset builds; a table built with spill has one probe, in a course that
carries SPILL (R273, R281, R294). -/
def probeTableOk (b d : Bytes) : Bool :=
  match usedTable b (opCourse d) (odTable d), builderOf b (odTable d) with
  | some j, some w =>
    let spilt := rcSpill b (opCourse w)
    let probes := (List.range (listN b .weave)).filter (fun i =>
      odOpcode (opRec b .weave i) == 0x11 && odTable (opRec b .weave i) == odTable d)
    ownBuilt b j && decide (opCourse w < opCourse d) && rcBeatOff b (opCourse w) == rcBeatOff b (opCourse d)
      && (!spilt || (rcSpill b (opCourse d) && probes.length == 1))
  | _, _ => false

/-- JOIN_PROBE. -/
def joinProbeFaults (b d : Bytes) (o : Nat) : List FieldFault :=
  let c := opCourse d
  let n := odImm0 d / 2 ^ 32
  chks [(odIn2 d == 0xFFFF, o + 8), (keyType (odInType d), o + 0xC), (odOutType d == 0x08, o + 0xD), (probeTableOk b d, o + 0xE),
    (odColumn d == 0, o + 0x10), (odN d == 0, o + 0x14), (decide (odImm0 d % 2 ^ 32 < 4) && rowsOutOk d, o + 0x18),
    (decide (odImm1 d < 2 ^ 16), o + 0x20),
    (match builderOf b (odTable d) with | some w => odSeed w == odSeed d | none => true, o + 0x28)] ++
  outFaults b c (odEngine d) (odOut d) (o + 0xA) (u32Size n) ++ outFaults b c (odEngine d) (odImm1 d % 2 ^ 16) (o + 0x20) (u32Size n)

/-- GROUP_KEY. -/
def groupKeyFaults (b d : Bytes) (o : Nat) : List FieldFault :=
  let c := opCourse d
  let log := odImm0 d % 2 ^ 32
  let n := odImm0 d / 2 ^ 32
  chks [(odIn2 d == 0xFFFF, o + 8), (keyType (odInType d), o + 0xC), (odOutType d == 0x08, o + 0xD), (odColumn d == 0, o + 0x10),
    (within (odN d) 1 16777216 && decide (128 + 8 * 2 ^ (log % 64) + 32 * odN d ≤ namedBytes b d), o + 0x14),
    (within log 4 24 && rowsOutOk d, o + 0x18), (decide (odImm1 d < 2 ^ 16), o + 0x20)] ++ builtFaults b d o ++
  outFaults b c (odEngine d) (odOut d) (o + 0xA) (u32Size n) ++ outFaults b c (odEngine d) (odImm1 d % 2 ^ 16) (o + 0x20) (u32Size n)

/-- GROUP_AGG. -/
def groupAggFaults (b d : Bytes) (o : Nat) : List FieldFault :=
  let t := odInType d
  chks [(odIn2 d == 0xFFFF, o + 8), (isInt t || isFloat t, o + 0xC), (odOutType d == aggType (aggFunc d) t, o + 0xD), (odColumn d == 0, o + 0x10),
    (odN d == 0, o + 0x14), (decide (odImm0 d % 2 ^ 32 ≤ 4) && rowsOutOk d, o + 0x18), (decide (odImm1 d < 2 ^ 16) && keyOpOk b d, o + 0x20),
    (odSeed d == 0, o + 0x28)] ++ builtFaults b d o ++
  outFaults b (opCourse d) (odEngine d) (odOut d) (o + 0xA) (columnSize (odImm0 d / 2 ^ 32) (typeBytes (aggType (aggFunc d) t)))

/-- SEQ_GATHER. -/
def seqGatherFaults (b d : Bytes) (o : Nat) : List FieldFault :=
  let t := odInType d
  let n := odImm0 d / 2 ^ 32
  let two := odImm1 d / 2 ^ 16 % 2 ^ 16
  chks [(odIn2 d == 0xFFFF, o + 8), (isInt t || isFloat t, o + 0xC), (odOutType d == t, o + 0xD), (odColumn d == 0, o + 0x10),
    (odN d != 0, o + 0x14), (decide (odImm0 d % 2 ^ 32 < 2) && rowsOutOk d, o + 0x18),
    (keyOpOk b d && within (odImm1 d / 2 ^ 32) 1 16777216, o + 0x20), (odSeed d == 0, o + 0x28)] ++ builtFaults b d o ++
  outFaults b (opCourse d) (odEngine d) (odOut d) (o + 0xA) (columnSize n (typeBytes t)) ++
  outFaults b (opCourse d) (odEngine d) two (o + 0x20) (u32Size n)

/-- FP8 types. -/
def isFp8 (t : Nat) : Bool := t == 0x0E || t == 0x0F

/-- Output types of the tile array but for i32. -/
def tileOutType (t : Nat) : Bool := t == 0x0C || t == 0x0B || t == 0x0A

/-- The operands of a tile operation (Table 8-6): IN_TYPE, the matrix type, OUT_TYPE. -/
def tileTypes (oc it w ot : Nat) : List Bool :=
  if oc = 0x20 then [it == 0x0B || isFp8 it || it == 0x02, w == it || (isFp8 it && isFp8 w), tileOutType ot || (it == 0x02 && ot == 0x04)]
  else if oc = 0x22 then [it == 0x0C || it == 0x0B || it == 0x0A || isFp8 it, true, tileOutType ot]
  else [it == 0x08, w == 0x0C || w == 0x0B || isFp8 w, tileOutType ot]

/-- The width of an output list. -/
def tileWidth (d : Bytes) : Nat :=
  if odOpcode d = 0x20 then odImm0 d / 2 ^ 16 % 2 ^ 16
  else if odOpcode d = 0x22 then odImm0 d % 2 ^ 16 * (odImm0 d / 2 ^ 16 % 2 ^ 16)
  else odImm0 d % 2 ^ 16

/-- The input's largest row count: rows of full lists, bags of no index, or single buckets. -/
def tileRowsMost (b d : Bytes) : Nat :=
  let w := typeBytes (odInType d)
  let slot := fun h => if h < rhNHoop b then rpSlotBytes b h else 0
  if odOpcode d = 0x20 then rowsIn (odImm0 d % 2 ^ 16) w (slot (odIn d))
  else if odOpcode d = 0x22 then
    Nat.min (rowsIn (odImm0 d % 2 ^ 16) w (slot (odIn d))) (rowsIn (odImm0 d / 2 ^ 16 % 2 ^ 16) w (slot (odIn2 d)))
  else if odOpcode d = 0x21 then rowsIn 0 4 (slot (odIn d))
  else valuesIn 4 (slot (odIn d))

/-- IMM0 and IMM1 of a tile operation: the bits of Table 8-1 within Table 8-8. -/
def tileImm (d : Bytes) : Bool × Bool :=
  let a := odImm0 d
  let k := a % 2 ^ 16
  let m := a / 2 ^ 16 % 2 ^ 16
  if odOpcode d = 0x20 then
    (within k 1 4096 && within m 1 4096 && decide (a < 2 ^ 40),
     decide (odImm1 d < 2 ^ 32) && (odImm1 d == 0 || (odInType d == 0x02 && odOutType d != 0x04)))
  else if odOpcode d = 0x21 then (within k 1 4096 && m == 0 && decide (a < 3 * 2 ^ 40), odImm1 d == 0)
  else if odOpcode d = 0x22 then (within (k * m) 1 4096 && decide (a < 2 ^ 32), odImm1 d == 0)
  else (within k 1 4096 && m == 0 && decide (a < 2 ^ 40), odImm1 d == 0)

/-- Bytes of the matrix. -/
def matrixBytes (d : Bytes) : Nat :=
  let rows := if odOpcode d = 0x20 then odImm0 d % 2 ^ 16 else odN d
  rows * tileWidth d * typeBytes (odWType d)

/-- A tile operation. -/
def tileFaults (b d : Bytes) (o : Nat) : List FieldFault :=
  let c := opCourse d
  let oc := odOpcode d
  let cross := oc == 0x22
  let ty := tileTypes oc (odInType d) (odWType d) (odOutType d)
  chks [(if cross then consumes b c 1 (odEngine d) (odIn2 d)
         else if oc = 0x21 then odIn2 d == 0xFFFF || consumes b c 1 (odEngine d) (odIn2 d) else odIn2 d == 0xFFFF, o + 8),
    (ty.headD false, o + 0xC), (nth ty 2 false, o + 0xD),
    (if cross then odTable d == 0xFFFF else (usedTable b c (odTable d)).isSome, o + 0xE),
    (cross || decide (odColumn d * 64 + matrixBytes d ≤ namedBytes b d), o + 0x10), (oc == 0x21 || oc == 0x23 || odN d == 0, o + 0x14),
    ((tileImm d).1 && nth ty 1 false, o + 0x18), ((tileImm d).2, o + 0x20), (odSeed d == 0, o + 0x28)] ++
  outFaults b c (odEngine d) (odOut d) (o + 0xA) (listSize (tileRowsMost b d) (tileWidth d) (typeBytes (odOutType d)))

/-- An operation of spec/08. -/
def joinFaults (b d : Bytes) (o : Nat) : List FieldFault :=
  let oc := odOpcode d
  chks [(odCmp d == 0, o + 5), (consumes b (opCourse d) 1 (odEngine d) (odIn d), o + 6), (odSpecial d == 0, o + 0x30)] ++
  (if oc = 0x10 then joinBuildFaults b d o
   else (if oc = 0x11 then joinProbeFaults b d o
     else if oc = 0x12 then groupKeyFaults b d o
     else if oc = 0x13 then groupAggFaults b d o
     else if oc = 0x14 then seqGatherFaults b d o
     else tileFaults b d o) ++ extFaults b (odExpert d) (o + 0x34) 32 columnExt)

/-- Descriptor `i` of the operation list. -/
def weaveFaults (b : Bytes) (i : Nat) : List FieldFault :=
  let o := opOff b .weave i
  let d := opRec b .weave i
  let oc := odOpcode d
  let known := within oc 1 0xF || within oc 0x10 0x14 || within oc 0x20 0x23
  headFaults b .weave i ++ chk (allZero (slice d 0x38 8)) (o + 0x38) ++
  (if !known then chk false (o + 4)
   else if rhNCourse b ≤ opCourse d then []
   else chk (decide (odEngine d < rcUnits b (opCourse d) 1)) (o + 3) ++ (if oc < 0x10 then columnFaults b d i o else joinFaults b d o))

/-! ### Quotient operations (R313) -/

/-- How long the forwarded chain that ends at operation `i` is, up to the fuel. -/
def chainLen (b : Bytes) : Nat → Nat → Nat
  | 0, _ => 0
  | n + 1, i => 1 + maxList ((qdFwds (opRec b .quotient i)).map (chainLen b n))

/-- FWD names an element function with a lower QOP on the same course, instance and format, in a chain of at most 8. -/
def fwdOk (b : Bytes) (i q : Nat) : Bool :=
  let d := opRec b .quotient i
  let e := opRec b .quotient q
  decide (q < i) && within (qdFunc e) 1 4 && opCourse e == opCourse d && qdInst e == qdInst d && fieldAt e 5 1 == fieldAt d 5 1
    && decide (chainLen b 9 i ≤ 8)

/-- The element type that an operation writes into a hoop, where one does. -/
def hoopType (b : Bytes) (h : Nat) : Option Nat :=
  match (List.range (listN b .weave)).find? (fun i => odOut (opRec b .weave i) == h) with
  | some i => some (odOutType (opRec b .weave i))
  | none => match (List.range (listN b .quotient)).find? (fun i => qdOut (opRec b .quotient i) == h) with
    | some i => some (qdType (opRec b .quotient i))
    | none => none

/-- An input hoop of an operand: named exactly when the operand comes from a hoop, and for an element function no f64 under FORMAT 0. -/
def quoHoopOk (b d : Bytes) (src h : Nat) : Bool :=
  if src = 0 then
    consumes b (opCourse d) 3 (qdInst d) h && (decide (4 < qdFunc d) || qdF64 d || hoopType b h != some 0x0D)
  else h == 0xFFFF

/-- An immediate: an f32 in the low bits under FORMAT 0. -/
def quoImmOk (d : Bytes) (src v : Nat) : Bool := src != 2 || qdF64 d || decide (v < 2 ^ 32)

/-- Descriptor `i` of the Quotient list. -/
def quotientFaults (b : Bytes) (i : Nat) : List FieldFault :=
  let o := opOff b .quotient i
  let d := opRec b .quotient i
  let f := qdFunc d
  let elem := within f 1 4
  let c := opCourse d
  let taken := (List.range (listN b .quotient)).any (fun j => decide (i < j) && (qdFwds (opRec b .quotient j)).contains i)
  headFaults b .quotient i ++ chk (allZero (slice d 0x28 24)) (o + 0x28) ++
  (if rhNCourse b ≤ c then []
   else
    chks [(decide (qdInst d < rcUnits b c 3), o + 3), (within f 1 7, o + 4),
      (decide (fieldAt d 5 1 ≤ 1) && (decide (f < 6) || qdF64 d), o + 5), (if elem then decide (qdSrcA d ≤ 2) else qdSrcA d == 0, o + 6),
      (if f = 1 then decide (qdSrcB d ≤ 2) else qdSrcB d == 0xFF, o + 7), (quoHoopOk b d (qdSrcA d) (qdIn d), o + 8),
      (quoHoopOk b d (qdSrcB d) (qdIn2 d), o + 0xA),
      (if qdOut d = 0xFFFF then taken else produces b c 3 (qdInst d) (qdOut d), o + 0xC),
      (if qdSrcA d = 1 then fwdOk b i (qdFwdA d) else qdFwdA d == 0xFFFF, o + 0xE),
      (if qdSrcB d = 1 then fwdOk b i (qdFwdB d) else qdFwdB d == 0xFFFF, o + 0x10),
      (if f = 5 then within (qdN d) 1 32 else qdN d == 0, o + 0x12), (if f = 5 then within (qdRhs d) 1 8 else qdRhs d == 0, o + 0x13),
      (quoImmOk d (qdSrcA d) (qdImmA d), o + 0x18), (quoImmOk d (qdSrcB d) (qdImmB d), o + 0x20)] ++
    extFaults b (qdExpert d) (o + 0x14) 16 (fun u p =>
      chks [(decide (fieldAt u 0 1 ≤ 1), p), (allZero (slice u 1 3), p + 1), ((f32.decode (fieldAt u 4 4)).isFinite, p + 4),
        (allZero (slice u 8 8), p + 8)]))

/-! ### Selections (R329) -/

/-- K of each MODE (Table 10-2). -/
def modeK (m : Nat) : Nat := if m = 0 then 8 else if m = 1 then 64 else if m = 2 then 256 else 65536

/-- Descriptor `i` of the Select list. -/
def selectFaults (b : Bytes) (i : Nat) : List FieldFault :=
  let o := opOff b .select i
  let d := opRec b .select i
  let c := opCourse d
  let m := sdMode d
  let multi := m == 3
  let z := typeBytes (sdType d)
  headFaults b .select i ++ chks [(fieldAt d 0xE 2 == 0, o + 0xE), (allZero (slice d 0x30 16), o + 0x30)] ++
  (if rhNCourse b ≤ c then []
   else
    chks [(decide (sdInst d < rcUnits b c 4) && decide (earlier b .select i (fun e => sdInst e == sdInst d) < 2), o + 3),
      (decide (m ≤ 3), o + 4), (decide (sdOrder d ≤ 1), o + 5),
      (if m = 2 ∨ m = 3 then decide (fieldAt d 6 1 < rcUnits b c 1) else fieldAt d 6 1 == 0, o + 6),
      ([0x04, 0x05, 0x08, 0x09, 0x0A, 0x0B, 0x0C, 0x0D].contains (sdType d), o + 7), (consumes b c 4 (sdInst d) (sdIn d), o + 8),
      (if sdRowLen d = 0 then consumes b c 4 (sdInst d) (sdLen d) else sdLen d == 0xFFFF, o + 0xA),
      (produces b c 4 (sdInst d) (sdOut d) && decide (recBytes d ≤ rpSlotBytes b (sdOut d)), o + 0xC), (within (sdK d) 1 (modeK m), o + 0x10),
      (decide (sdRowLen d ≤ 16777216) && (!multi || decide (sdRowLen d ≤ sdRowMax d)), o + 0x14),
      (if multi then within (sdRowMax d) 1 16777216 else sdRowMax d == 0, o + 0x18), (decide (sdFill d < 2 ^ (8 * z)), o + 0x20),
      (if multi then sdBufOff d % 64 == 0 && decide (sdBufOff d + sdRowMax d * z ≤ rcOryWork b c) else sdBufOff d == 0, o + 0x28)] ++
    extFaults b (sdExpert d) (o + 0x1C) 16 (fun u p => chks [(decide (fieldAt u 0 1 ≤ 1), p), (allZero (slice u 1 15), p + 1)]))

/-! ### Tree scoring (R400) -/

/-- A result hoop with room for the input's largest row count, each row a list of `n` elements of 4 bytes. -/
def arbourOut (b d : Bytes) (h n : Nat) : Bool :=
  produces b (opCourse d) 6 (adInst d) h && decide (adIn d < rhNHoop b) &&
    decide (listSize (rowsIn (adNFeat d) 4 (rpSlotBytes b (adIn d))) n 4 ≤ rpSlotBytes b h)

/-- Descriptor `i` of the Arbour list. -/
def arbourFaults (b : Bytes) (i : Nat) : List FieldFault :=
  let o := opOff b .arbour i
  let d := opRec b .arbour i
  let c := opCourse d
  headFaults b .arbour i ++ chk (allZero (slice d 0x1C 36)) (o + 0x1C) ++
  (if rhNCourse b ≤ c then []
   else
    chks [(decide (adInst d < rcUnits b c 6) && decide (earlier b .arbour i (fun e => adInst e == adInst d) < 4), o + 3),
      (decide (adMode d ≤ 1), o + 4), (decide (adType d ≤ 1), o + 5), (decide (adLink d ≤ 3) && (adMode d == 0 || adLink d == 0), o + 6),
      (within (adDepthCap d) 1 32, o + 7), (consumes b c 6 (adInst d) (adIn d), o + 8),
      (arbourOut b d (adOut d) (if adMode d = 0 then adNClass d else adTreeCap d), o + 0xA),
      (match usedTable b c (adTable d) with | some j => !ownBuilt b j && decide (64 ≤ roBytes b j) | none => false, o + 0xC),
      (within (adNClass d) 1 256, o + 0xE), (within (adNFeat d) 1 65536, o + 0x10), (within (adTreeCap d) 1 65535, o + 0x14)] ++
    extFaults b (adExpert d) (o + 0x18) 16 (fun u p =>
      chks [(decide (fieldAt u 0 1 ≤ 1), p), (fieldAt u 1 1 == 0, p + 1),
        (fieldAt u 2 2 == 0xFFFF || (adMode d == 0 && arbourOut b d (fieldAt u 2 2) (adNClass d)), p + 2), (allZero (slice u 4 12), p + 4)]))

/-! ### Samples (R428) -/

/-- The kind area of an AUG_DRAW. -/
def drawArea (b d : Bytes) (o : Nat) : List FieldFault :=
  let n := mdDraws d
  let recs := if mdIn d < rhNHoop b then rpSlotBytes b (mdIn d) / 32 else 0
  chks [(within n 1 4096, o + 0x24), (decide (mdFmt d ≤ 2), o + 0x26), (fieldAt d 0x27 1 == 0, o + 0x27),
    (if mdFmt d = 2 then mdRange d != 0 else mdRange d == 0, o + 0x28), (allZero (slice d 0x2C 20), o + 0x2C),
    (decide (mdOut d < rhNHoop b) && decide (listSize (Nat.min recs 65536) n 4 ≤ rpSlotBytes b (mdOut d)), o + 8)]

/-- The kind area of a SENSOR_IN: at most 4 channels, each with a port of its own. -/
def sensorArea (b d : Bytes) (i o : Nat) : List FieldFault :=
  let before := (List.range i).filter (fun j => mdKind (opRec b .sample j) == 4)
  let n := fieldAt d 0x22 1
  let lag := fieldAt d 0x23 1
  let depth := fieldAt d 0x24 1
  let frame := fieldAt d 0x2C 4
  let stage := fieldAt d 0x30 8
  chks [(decide (before.length < 4), o + 3),
    (fieldAt d 0x20 2 != 0 && before.all (fun j => fieldAt (opRec b .sample j) 0x20 2 != fieldAt d 0x20 2), o + 0x20), (within n 1 64, o + 0x22),
    (within lag 1 8, o + 0x23), (within depth (lag + 2) 16, o + 0x24), (decide (fieldAt d 0x25 1 < 2), o + 0x25),
    (decide (fieldAt d 0x26 1 ≤ 6), o + 0x26), (fieldAt d 0x27 1 == 0, o + 0x27), (frame % 4096 == 0 && within frame 4096 268435456, o + 0x2C),
    (stage % 4096 == 0 && decide (stage + depth * n * frame ≤ rhHbmBytes b), o + 0x30), (allZero (slice d 0x38 8), o + 0x38)]

/-- The kind area of a TRELLIS. -/
def trellisArea (d : Bytes) (o : Nat) : List FieldFault :=
  chks [(within (fieldAt d 0x20 4) 1 67108864, o + 0x20), (fieldAt d 0x24 4 == 0, o + 0x24), (fieldAt d 0x28 8 != 0, o + 0x28),
    (allZero (slice d 0x30 16), o + 0x30)]

/-- Descriptor `i` of the sample list. -/
def sampleFaults (b : Bytes) (i : Nat) : List FieldFault :=
  let o := opOff b .sample i
  let d := opRec b .sample i
  let c := opCourse d
  let k := mdKind d
  let code := if k = 5 then 7 else 1
  let lanes := if k = 1 ∨ k = 2 then mdLanes d else 0
  headFaults b .sample i ++
  (if !within k 1 5 then chk false (o + 3)
   else if rhNCourse b ≤ c then []
   else
    chks [(if k = 4 then mdInst d == 0
           else decide (mdInst d < rcUnits b c code) && (k != 5 || decide (earlier b .sample i (fun e => mdKind e == 5 && mdInst e == mdInst d) < 2)),
           o + 4),
      (if k = 1 ∨ k = 2 then within (mdLanes d) 1 8 else mdLanes d == 0, o + 5),
      (if k = 2 ∨ k = 4 then mdIn d == 0xFFFF else consumes b c code (mdInst d) (mdIn d), o + 6),
      (if k = 1 then mdOut d == 0xFFFF
       else if k = 4 then decide (mdOut d < rhNHoop b) && rpCourse b (mdOut d) == c && rpProd b (mdOut d) == 8
       else produces b c code (mdInst d) (mdOut d), o + 8),
      (if k = 5 then (match usedTable b c (mdTable d) with | some j => !ownBuilt b j | none => false) else mdTable d == 0xFFFF, o + 0xA)] ++
    (List.range 8).flatMap (fun n =>
      let h := mdLane d n
      chk (if n < lanes then (if k = 1 then produces b c 1 (mdInst d) h else consumes b c 1 (mdInst d) h) else h == 0xFFFF) (o + 0x10 + 2 * n)) ++
    (if k ≤ 2 then chk (allZero (slice d 0x20 32)) (o + 0x20)
     else if k = 3 then drawArea b d o else if k = 4 then sensorArea b d i o else trellisArea d o) ++
    extFaults b (mdExpert d) (o + 0xC) 16 (fun u p =>
      chks [(decide (fieldAt u 0 1 ≤ (if k = 4 ∨ k = 5 then 1 else 0)), p), (allZero (slice u 1 15), p + 1)]))

/-! ### The network list (R490) -/

/-- ROW_BYTES of rows. -/
def rowBytesOk (n : Nat) : Bool := within n 8 4096 && n % 8 == 0

/-- Descriptors of the network list that are PEER_IN. -/
def peerIns (b : Bytes) : List Nat := (List.range (listN b .network)).filter (fun i => fieldAt (opRec b .network i) 3 1 == 1)

/-- A PEER_IN. -/
def peerFaults (b d : Bytes) (i o : Nat) : List FieldFault :=
  let before := (peerIns b).filter (fun j => decide (j < i))
  let st := fieldAt d 6 2
  let rows := fieldAt d 5 1 == 1
  let n := fieldAt d 0x10 4
  let stage := fieldAt d 0x20 8
  chks [(decide (before.length < 8), o + 3), (fieldAt d 4 1 == 0, o + 4), (decide (fieldAt d 5 1 < 2), o + 5),
    (decide (st < rhNStream b) && !rsOut b st && rsSpace b st == 3 && streamCourse b st == some (opCourse d)
      && before.all (fun j => fieldAt (opRec b .network j) 6 2 != st), o + 6),
    (fieldAt d 8 2 == 0xFFFF, o + 8), (fieldAt d 0xA 2 == 0xFFFF, o + 0xA),
    (decide (fieldAt d 0xC 2 ≤ 0x7FFF) && before.all (fun j => fieldAt (opRec b .network j) 0xC 2 != fieldAt d 0xC 2), o + 0xC),
    (if rows then rowBytesOk (shRowBytes d) else shRowBytes d == 0, o + 0xE), (within n 1 4096, o + 0x10), (shSrcBytes d % 4096 == 0, o + 0x14),
    (within (shDepth d) 2 16, o + 0x18), (fieldAt d 0x19 1 == 0, o + 0x19), (fieldAt d 0x1A 2 == 0, o + 0x1A), (shDestSrc d == 0, o + 0x1C),
    (stage % 4096 == 0 && decide (stage + shDepth d * n * shSrcBytes d ≤ rhHbmBytes b), o + 0x20)]

/-- A SHUFFLE_OUT. -/
def shuffleFaults (b d : Bytes) (o : Nat) : List FieldFault :=
  let c := opCourse d
  let p := fieldAt d 4 1
  chks [(decide (p < rcUnits b c 8), o + 4), (decide (fieldAt d 5 1 < 2), o + 5), (consumes b c 8 p (shIn d), o + 6), (consumes b c 8 p (shPart d), o + 8),
    (match usedTable b c (shTable d) with | some j => !ownBuilt b j && decide (16 * shP d ≤ roBytes b j) | none => false, o + 0xA),
    (shSelf d == 0xFFFF || (peerIns b).contains (shSelf d), o + 0xC), (rowBytesOk (shRowBytes d), o + 0xE), (within (shP d) 1 4096, o + 0x10),
    (shSrcBytes d % 4096 == 0, o + 0x14), (within (shDepth d) 2 16, o + 0x18), (decide (-8 ≤ shDelta d ∧ shDelta d ≤ 8), o + 0x19),
    (fieldAt d 0x1A 2 == 0, o + 0x1A), (within (shDestSrc d) 1 4096, o + 0x1C), (fieldAt d 0x20 8 == 0, o + 0x20)]

/-- Descriptor `i` of the network list. -/
def networkFaults (b : Bytes) (i : Nat) : List FieldFault :=
  let o := opOff b .network i
  let d := opRec b .network i
  let k := fieldAt d 3 1
  headFaults b .network i ++ chk (allZero (slice d 0x28 24)) (o + 0x28) ++
  (if !within k 1 2 then chk false (o + 3)
   else if rhNCourse b ≤ opCourse d then []
   else if k = 1 then peerFaults b d i o
   else shuffleFaults b d o)

/-- A SPACE 3 stream has a PEER_IN, no SUBBYTE, and COIL only with one source (R490). -/
def peerStreamFaults (b : Bytes) (i : Nat) : List FieldFault :=
  if rsSpace b i ≠ 3 then []
  else
    let o := rhStreamOff b + 128 * i
    match (peerIns b).find? (fun j => fieldAt (opRec b .network j) 6 2 == i) with
    | none => chk false (o + 3)
    | some j => chk (!rsSubbyte b i && (!rsCoil b i || decide (fieldAt (opRec b .network j) 0x10 4 ≤ 1))) (o + 4)

/-! ### The Strand package (R442, R443) -/

/-- Routine record `k`, at `o`; `p` is the package's offset. -/
def routineFaults (b : Bytes) (p k : Nat) : List FieldFault :=
  let at_ := fun j => p + fieldAt b (p + 0xC) 4 + 32 * j
  let o := at_ k
  let image := fieldAt b (p + 0x14) 4
  let key := fun j => fieldAt b (at_ j + 2) 1 * 256 + fieldAt b (at_ j + 3) 1
  let code := fieldAt b (o + 0xC) 4
  let data := fieldAt b (o + 0x14) 4
  let c := fieldAt b (o + 2) 1
  chks [(fieldAt b o 2 == k, o), (decide (c < rhNCourse b) && (k == 0 || decide (key (k - 1) / 256 ≤ c)), o + 2),
    (decide (fieldAt b (o + 3) 1 < rcUnits b c 2) && (k == 0 || decide (key (k - 1) < key k)), o + 3),
    (fieldAt b (o + 4) 4 % 2 == 0 && decide (fieldAt b (o + 4) 4 < code), o + 4),
    (fieldAt b (o + 8) 4 % 64 == 0 && decide (fieldAt b (o + 8) 4 + code ≤ image), o + 8),
    (within code 2 114688 && decide (roundUp code 64 + data ≤ 114688), o + 0xC),
    (fieldAt b (o + 0x10) 4 % 64 == 0 && decide (fieldAt b (o + 0x10) 4 + data ≤ image), o + 0x10), (decide (data ≤ 114688), o + 0x14)]

/-- The package of a Rota that has one. Each course has one routine for each logical Strand instance: their sum is N_ROUTINE. -/
def strandFaults (b : Bytes) : List FieldFault :=
  let p := rhStrandOff b
  if p = 0 then []
  else
    let n := fieldAt b (p + 6) 2
    let recs := fieldAt b (p + 0xC) 4
    let recsOk := recs % 64 == 0 && decide (recs + 32 * n ≤ rhStrandBytes b)
    chks [(fieldAt b p 4 == 0x444E5453, p), (fieldAt b (p + 4) 2 == 1, p + 4),
      (within n 1 4096 && n == sumList ((List.range (rhNCourse b)).map (fun c => rcUnits b c 2)), p + 6), (fieldAt b (p + 8) 4 == 0, p + 8),
      (recsOk, p + 0xC),
      (fieldAt b (p + 0x10) 4 % 64 == 0 && decide (fieldAt b (p + 0x10) 4 + fieldAt b (p + 0x14) 4 ≤ rhStrandBytes b), p + 0x10),
      (allZero (slice b (p + 0x18) 40), p + 0x18)] ++
    (if recsOk then (List.range n).flatMap (routineFaults b p) else [])

/-! ### The header against the records (R82, R132, R166, R220, R443, R526, R572) -/

/-- The stake peak: the largest, over the segments, of 1 plus the highest STAKE of a link of the segment (R220). -/
def stakePeak (b : Bytes) : Nat :=
  maxList ((List.range (rhNLink b)).map (fun i => rlStake b i + 1))

/-- The least ORY_BYTES a Rota may carry (R82, R132, R443). -/
def oryLeast (b : Bytes) : Nat := oryFigure b + tableSpan b (spareTables b) + roundUp (strandImage b) 4096

/-- The header's sums. `standing` says that the tenant is a standing tenant, `image` that the Rota comes from the boot image. -/
def sumFaults (b : Bytes) (standing image : Bool) : List FieldFault :=
  let courses := List.range (rhNCourse b)
  chks [((!rhHostIndependent b || (standing && (List.range (rhNStream b)).all (fun i => rsSpace b i != 1))) && (!image || rhStanding b), 0x13),
    (decide (maxList (courses.map (rcWatts b)) ≤ rhWatts b), 0x20), (decide (stakePeak b ≤ rhStakes b), 0x22),
    (decide (maxList (courses.map (fun c => (courseHoops b c).length)) ≤ rhHoops b), 0x24), (decide (rhNStream b ≤ rhStreams b), 0x26),
    ((loadedTables b).length == 0 || rhBwRead b != 0, 0x28), (decide (oryLeast b ≤ rhOryBytes b), 0x30)] ++
  (List.range 8).flatMap (fun k => chk (rhUnitPeak b (k + 1) == maxList (courses.map (fun c => rcUnits b c (k + 1)))) (0x40 + k))

/-- Every wrong field of the records of a Rota whose parts lie where its header says. -/
def recordFaults (b : Bytes) (standing image : Bool) : List FieldFault :=
  sumFaults b standing image ++ (List.range (rhNCourse b)).flatMap (courseFaults b) ++ (List.range (rhNTier b)).flatMap (tierFaults b) ++
    (List.range (rhNLink b)).flatMap (linkFaults b) ++ (List.range (rhNTable b)).flatMap (tableFaults b) ++
    (List.range (rhNStream b)).flatMap (fun i => streamFaults b i ++ peerStreamFaults b i) ++
    (List.range (rhNHoop b)).flatMap (hoopFaults b) ++ (List.range (listN b .weave)).flatMap (weaveFaults b) ++
    (List.range (listN b .quotient)).flatMap (quotientFaults b) ++ (List.range (listN b .select)).flatMap (selectFaults b) ++
    (List.range (listN b .arbour)).flatMap (arbourFaults b) ++ (List.range (listN b .sample)).flatMap (sampleFaults b) ++
    (List.range (listN b .network)).flatMap (networkFaults b) ++ strandFaults b

/-- The first wrong field of a Rota binary (R81, R385): the places of its parts first, and its records only when those hold. -/
def formatFault (b : Bytes) (standing image : Bool) : Option FieldFault :=
  match placeFaults b with
  | [] => lowestFault (recordFaults b standing image)
  | l => lowestFault l

end Sys2Proof.Machine
end

