-- ==== Sys2Proof/Machine/Admission.lean ====
section
/-! DEFINITION. Admission and retirement of Rotas (spec/03, R90 to R95, R105, R108, R111, R694; spec/01, R29, R30; spec/04, R131, R695; spec/05, R199;
spec/06, R223; spec/11, R356; spec/14, R428; spec/16, R477, R490; spec/22, R645). -/

namespace Sys2Proof.Machine

/-- What refuses an admission: the code, the detail word, and the layout cause with its stream where R386 records them. -/
structure Turned where
  code : Nat
  detail : Nat
  lay : Option (Nat × Nat)
  deriving DecidableEq, Repr

/-- A refusal with its code and detail where a condition that admission needs does not hold. -/
def needs (ok : Bool) (code detail : Nat) : Option Turned := if ok then none else some { code := code, detail := detail, lay := none }

/-- A number cut to 16 bits, as detail words hold it. -/
def low16 (n : Nat) : Nat := Nat.min n 0xFFFF

/-! ### Step 1: presence (R29, R30) -/

/-- Instances of class code `k` present. -/
def State.present (s : State) (k : Nat) : Nat :=
  let weave := popOf (s.getN rLodgeCapWeaveMap) 16
  let side := fun lo n => popOf (s.getN rLodgeCapSideMap / 2 ^ lo) n
  if k = 1 ∨ k = 3 ∨ k = 5 then weave
  else if k = 2 then 4 * weave
  else if k = 4 then side 0 8
  else if k = 6 then side 8 4
  else if k = 7 then side 12 2
  else side 14 4

/-- The absent class of the lowest code. -/
def State.presence (s : State) (b : Bytes) : Option Turned :=
  match (List.range 8).find? (fun k => decide (s.present (k + 1) < rhUnitPeak b (k + 1))) with
  | some k => needs false errUnitAbsent (k + 1 + rhUnitPeak b (k + 1) * 0x100 + s.present (k + 1) * 0x10000)
  | none => none

/-! ### Step 2: the format and the admission binding table (R81, R694) -/

/-- The format. -/
def formatRefusal (b : Bytes) (standing image : Bool) : Option Turned :=
  match formatFault b standing image with
  | none => none
  | some f => some { code := errRotaFormatInvalid, detail := f.off, lay := f.cause.map (fun c => (c, f.stream)) }

/-- The wrong fields of the entry that table record `i` is loaded from. -/
def State.loadEntryFaults (s : State) (t : Nat) (b bt : Bytes) (i : Nat) : List FieldFault :=
  match btFind bt (roSrcStream b i) with
  | none => chk false 0
  | some e =>
    let o := 0x10 + 32 * e
    let need := roSrcOffset b i + roBytes b i
    chks [(!btHost bt e, o + 2), (decide (btBase bt e + need ≤ runsLen (s.extents t .hbm) * 0x400000), o + 8), (decide (need ≤ btBytes bt e), o + 0x10)]

/-- The admission binding table of a Rota with tables to load; `host` says that a host request names it. -/
def State.bindingRefusal (s : State) (t : Nat) (b : Bytes) (bind : Option Bytes) (host : Bool) : Option Turned :=
  let loads := loadedTables b
  if loads.isEmpty then none
  else match bind with
    | none => needs false errRotaBindingInvalid 0
    | some bt =>
      if bt.length < 16 || decide (256 < btNStream bt) || bt.length ≠ 16 + 32 * btNStream bt + 128 * btNConsumer bt then
        needs false errRotaBindingInvalid 0
      else match lowestFault (chk (!host || btNConsumer bt == 0) 2 ++ loads.flatMap (s.loadEntryFaults t b bt)) with
        | some f => needs false errRotaBindingInvalid f.off
        | none => none

/-! ### Steps 4 and 5: windows and the tenant's grant (R89, R90, R105) -/

/-- The register files a Rota must fit: the values in force and the snapshot of a pending drain-kind commit. -/
def State.admFiles (s : State) : List RegFile := [s.pf0, s.pendingFile]

/-- The values in force with the tenant's window masks cut to those it also keeps under a pending commit. -/
def State.bothWindows (s : State) (t : Nat) : RegFile :=
  (List.range 30).foldl (fun f i => [winKey t i, winKey t i + 4].foldl (fun f k =>
    sparseSet 0 f k (sparseGet 0 s.pf0 k &&& sparseGet 0 s.pendingFile k)) f) s.pf0

/-- The windows. -/
def State.windowRefusal (s : State) (t : Nat) (b : Bytes) : Option Turned :=
  match s.placeRota (s.bothWindows t) t b with
  | .error d => needs false errRotaNoWindows d
  | .ok _ => none

/-- What a class of Table 18-2 leaves of the tenant's grant, under every file. -/
def State.grantFree (s : State) (t cls : Nat) (f : Bytes → Nat) : Nat :=
  (s.admFiles.map (fun g => grantItem g t cls - s.usedOf t f)).foldl Nat.min 0xFFFFFFFF

/-- Granules of the tenant's allocation under every file. -/
def State.topOf (s : State) (t off : Nat) : Nat := (s.admFiles.map (fun g => fileN g (tenKey t off) * 0x400000)).foldl Nat.min (2 ^ 62)

/-- Bytes of a Rota's own HBM: HBM_BYTES and the host staging area (R510, R695). -/
def ownHbm (b : Bytes) : Nat := roundUp (rhHbmBytes b) 0x400000 + roundUp (2 * hostEntry b) 0x400000

/-- The checks of R90, in their order. -/
def State.grantRefusal (s : State) (t : Nat) (b : Bytes) : Option Turned :=
  let stakes := s.grantFree t 3 rhStakes
  let hoops := s.grantFree t 7 rhHoops
  let streams := s.grantFree t 6 rhStreams
  let ory := largestGap (s.oryHeld t) 128 (s.topOf t rTenOryGran)
  let hbm := largestGap (s.hbmHeld t) 0x400000 (s.topOf t rTenHbmGran)
  let unitsUp := fun n => low16 (ceilDiv n 0x400000)
  let bw := fun cls f => needs (decide (f b ≤ s.grantFree t cls f)) errRotaBandwidth (cls + low16 (s.grantFree t cls f) * 0x10000)
  needs (decide (rhStakes b ≤ stakes)) errRotaStakeQuota (low16 (rhStakes b) + low16 stakes * 0x10000)
  <|> needs (decide (rhHoops b ≤ hoops)) errRotaNoHoops (rhHoops b + Nat.min hoops 0x7FFF * 0x10000)
  <|> needs (decide (rhStreams b ≤ streams)) errRotaNoHoops (rhStreams b + Nat.min streams 0x7FFF * 0x10000 + 2 ^ 31)
  <|> needs (decide (orySpan b ≤ ory)) errRotaOrangeryFull (unitsUp (orySpan b) + low16 (ory / 0x400000) * 0x10000)
  <|> needs (decide (ownHbm b ≤ hbm)) errRotaHbmFull (unitsUp (ownHbm b) + low16 (hbm / 0x400000) * 0x10000)
  <|> bw 0 rhBwRead <|> bw 1 rhBwWrite <|> bw 2 rhBwRemote

/-! ### Steps 6 to 10: what the device shares (R356, R428, R477, R490, R91) -/

/-- Coil contexts a Rota takes. -/
def coilNeed (b : Bytes) : Nat := ((List.range (rhNStream b)).filter (rsCoil b)).length

/-- Coil contexts no admitted Rota holds. -/
def State.coilFree (s : State) : Nat := 1024 - sumList (s.rotas.map (fun r => coilNeed r.bin))

/-- The UDP ports of a Rota's sensor channels, and the window keys of its PEER_IN operations. -/
def udpPorts (b : Bytes) : List Nat :=
  ((List.range (listN b .sample)).filter (fun i => mdKind (opRec b .sample i) == 4)).map (fun i => fieldAt (opRec b .sample i) 0x20 2)
def windowKeys (b : Bytes) : List Nat := (peerIns b).map (fun i => piKey (opRec b .network i))

/-- Bytes of transmit staging that no admitted Rota holds (R477). -/
def State.netFree (s : State) : Nat := s.portsPresent * 0x10000000 - sumList (s.rotas.map (fun r => stagingOf r.bin))

/-- Watts a Rota of the tenant may take (R91). -/
def State.wattsFree (s : State) (t : Nat) : Nat :=
  Nat.min (s.grantFree t 4 rhWatts) (s.getF rAdmPowerAvailW 15 0 - s.powerUsed)

/-- The shared pools. -/
def State.poolRefusal (s : State) (t : Nat) (b : Bytes) : Option Turned :=
  let held := s.rotas.flatMap (fun r => udpPorts r.bin)
  let keys := (s.rotasOf t).flatMap (fun r => windowKeys r.bin)
  needs (decide (coilNeed b ≤ s.coilFree)) errRotaNoCoilContext (coilNeed b + s.coilFree * 0x10000)
  <|> (match (udpPorts b).find? held.contains with | some p => needs false errRotaSensorPortBusy p | none => none)
  <|> needs (decide (stagingOf b ≤ s.netFree)) errRotaNetStaging (low16 (stagingOf b / 0x400000) + low16 (s.netFree / 0x400000) * 0x10000)
  <|> (match (windowKeys b).find? keys.contains with | some k => needs false errRotaPeerWindowBusy k | none => none)
  <|> needs (decide (rhWatts b ≤ s.wattsFree t)) errRotaPower (rhWatts b + low16 (s.wattsFree t) * 0x10000)

/-- The checks of R93, in order, after that of R645. -/
def State.admitRefusal (s : State) (x : Tenant) (b : Bytes) (bind : Option Bytes) (image : Bool) : Option Turned :=
  needs (decide (x.handleCount < 0xFFFFFF)) errTenSeqExhausted 1
  <|> s.presence b <|> formatRefusal b x.standing image <|> s.bindingRefusal x.id b bind (!image)
  <|> needs (decide (rhMinPeriod b ≤ s.period)) errRotaPeriodMismatch 0
  <|> s.windowRefusal x.id b <|> s.grantRefusal x.id b <|> s.poolRefusal x.id b

/-- A refusal by a rule of spec/12 leaves its cause and stream on the tenant's VF (R386). -/
def State.noteLayout (s : State) (t : Nat) (f : Turned) : State :=
  match f.lay with
  | some (c, i) => (s.vsetF t vLayTLastCause 15 0 c).vsetF t vLayTLastStream 15 0 i
  | none => s

/-! ### Admitting -/

/-- The `n` lowest numbers below `top` that are not taken. -/
def lowestFree (taken : List Nat) (top n : Nat) : List Nat := ((List.range top).filter (fun k => !taken.contains k)).take n

/-- The windows of a Rota's PEER_IN operations when beat `n` runs: entry e belongs to the lowest beat from `n` on with remainder e (R481). -/
def newPeers (b : Bytes) (n : Nat) : List PeerIn :=
  (peerIns b).map (fun i =>
    let depth := piDepth (opRec b .network i)
    { nop := i, owners := (List.range depth).map (fun e => n + (e + depth - n % depth) % depth), marks := List.replicate depth [] })

/-- A Rota as admission leaves it in beat `n`, where it was placed. Its accounts start empty. -/
def State.newRota (s : State) (x : Tenant) (b : Bytes) (bind : Bytes) (st : Option Standing) (place : List Place) : Rota :=
  let n := s.beat.number
  let t := x.id
  { handle := t * 2 ^ 24 + (x.handleCount + 1), bin := b, standing := st, running := false,
    firstBeat := n + 1 + s.admEnv.loadBeats b + rhSpan b, loadAt := some (n + 1), loadBind := bind, place := place,
    pairs := lowestFree (s.rotas.flatMap (·.pairs)) 192 (rhStakes b), hoopCtl := lowestFree (s.rotas.flatMap (·.hoopCtl)) 1024 (rhHoops b),
    hbmBase := (fitRange (s.hbmHeld t) 0x400000 (s.topOf t rTenHbmGran) (ownHbm b)).getD 0, hbmLen := ownHbm b,
    oryBase := (fitRange (s.oryHeld t) 128 (s.topOf t rTenOryGran) (orySpan b)).getD 0,
    acc := { read := 0, write := 0, remote := 0 },
    regions := ((List.range (rhNTable b)).filter (roParam b)).map (fun i =>
      { table := roTable b i, gen := 0, pend := none, flight := none, cur := none, spare := false, poisoned := false, staged := [], held := [] }),
    streams := (lowestFree (s.rotas.flatMap (fun r => r.streams.map (·.ctx))) 4096 (rhStreams b)).map (fun k =>
      { ctx := k, armed := false, host := false, base := 0, size := 0, coil := Coil.empty }),
    ring := 0, standby := none, course := none, lastReady := List.replicate 8 none, retiring := false, peers := newPeers b n,
    sensors := ((List.range (listN b .sample)).filter (fun i => mdKind (opRec b .sample i) == 4)).map (fun i =>
      { smp := i, served := none, frames := [], parts := [] }),
    spills := [], late := [] }

/-- The Strand image is placed in the resident area (R444). -/
def State.placeImage (s : State) (r : Rota) : State :=
  let n := strandImage r.bin
  let o := rhStrandOff r.bin + fieldAt r.bin (rhStrandOff r.bin + 0x10) 4
  if n = 0 then s else s.placeBytes (handleTenant r.handle) (fun k => r.strandAt + k) 0 (ceilDiv n 128) (slice r.bin o n)

/-- A Rota that every check passed is admitted (R93 to R95): the state with it, and the response. -/
def State.admitRota (s : State) (x : Tenant) (b : Bytes) (bind : Option Bytes) (st : Option Standing) : State × MbxResult :=
  let place := match s.placeRota (s.bothWindows x.id) x.id b with | .ok l => l | .error _ => []
  let r := s.newRota x b (bind.getD []) st place
  let s := (s.updTenant x.id (fun x => { x with handleCount := x.handleCount + 1 })).placeImage r
  ({ s with rotas := s.rotas ++ [r] },
   { code := 0, detail := 0, value0 := r.handle + r.hbmBase / 0x400000 * 2 ^ 32, value1 := r.firstBeat })

/-- The bytes a request names at ADDR, when the read gave them all (R588). -/
def mbxSource (r : MbxReq) : Option Bytes := match r.src with | some d => if d.length = r.bytes then some d else none | none => none

/-- The admission binding table a request names (R694): none with ARG1 0, or when it could not be read. -/
def mbxBinding (r : MbxReq) : Option Bytes :=
  if r.arg1 = 0 then none else match r.src2 with | some d => if d.length = r.arg1 then some d else none | none => none

/-- ROTA_ADMIT: the checks of R93, then the admission; a refusal applies nothing (R29, R93). -/
def execRotaAdmit (r : MbxReq) (s : State) : Host.Outcome State Fault Refusal :=
  .next (s.command (fun o => o == 0x0020) r (fun s r =>
    match (if s.exists? r.arg0 then s.tenant? r.arg0 else none), mbxSource r with
    | none, _ => .done s (MbxResult.bad errTenNotFound 0)
    | some _, none => .done s (MbxResult.bad s.sourceCode 0)
    | some x, some b => match s.admitRefusal x b (mbxBinding r) false with
      | some f => .done (s.noteLayout x.id f) (MbxResult.bad f.code f.detail)
      | none =>
        let a := s.admitRota x b (mbxBinding r) none
        .runs a.1 (longFor r (some a.2))))

/-- ROTA_RETIRE: new tasks of the handle are refused; accepted ones run on (R108). -/
def execRotaRetire (r : MbxReq) (s : State) : Host.Outcome State Fault Refusal :=
  .next (s.command (fun o => o == 0x0021) r (fun s r =>
    match s.rota? r.arg0 with
    | none => .done s (MbxResult.bad errRotaHandleInvalid r.arg0)
    | some q =>
      if q.retiring then .done s (MbxResult.bad errRotaHandleInvalid r.arg0)
      else .done (s.updRota r.arg0 (fun q => { q with retiring := true })) MbxResult.ok))

end Sys2Proof.Machine
end

