-- ==== Sys2Proof/Machine/Settings.lean ====
section
/-! DEFINITION. Settings (spec/19, R559, R560, R565, R567, R568, R579, R658): which registers a setting record may name, with the limits of each
field from the chapter that defines it, and how the ROM, the factory page, the image and the user calibration combine. -/

namespace Sys2Proof.Machine

/-! ### Which registers are settings -/

/-- A field of a setting: its bits, its ROM default (the Image default column), and its limits, as numbers of the field's own type. -/
structure SetField where
  lo : Nat
  width : Nat
  rom : Int
  min : Int
  max : Int
  signed : Bool
  deriving DecidableEq, Repr

/-- A setting: one register or 64-bit pair by its offset, its fields, and whether Table 19-10 lists it. -/
structure Setting where
  off : Nat
  pair : Bool
  fields : List SetField
  cal : Bool
  deriving DecidableEq, Repr

/-- An unsigned field. -/
def setU (lo width : Nat) (rom min max : Int) : SetField := { lo := lo, width := width, rom := rom, min := min, max := max, signed := false }

/-- A signed field. -/
def setI (lo width : Nat) (rom min max : Int) : SetField := { lo := lo, width := width, rom := rom, min := min, max := max, signed := true }

/-- A setting of one register. -/
def set1 (off : Nat) (cal : Bool) (fs : List SetField) : Setting := { off := off, pair := false, fields := fs, cal := cal }

/-- A setting of a pair. -/
def set2 (off : Nat) (fs : List SetField) : Setting := { off := off, pair := true, fields := fs, cal := false }

/-- Beat settings (Tables 2-5 and 2-9). -/
def beatSettings : List Setting :=
  [set1 rBeatCtrl false [setU 0 1 0 0 1, setU 1 1 0 0 1],
   set1 rBeatSrcOrder false [setU 0 4 1 0 3, setU 4 4 2 0 3, setU 8 4 0 0 3],
   set2 rBeatPeriodNs [setU 0 64 1000000 250000 60000000000],
   set2 rBeatMaxPeriodNs [setU 0 64 0 0 60000000000],
   set1 rBeatEpochNs false [setU 0 32 0 0 999999999],
   set2 rBeatEpochSec [setU 0 48 0 0 0xFFFFFFFFFFFF],
   set1 rBeatShortTolNs true [setU 0 32 1000 0 1000000],
   set1 rBeatHoldoverMs true [setU 0 32 1000 0 600000]]

/-- Admission, memory, bandwidth and stake settings (Tables 3-6, 3-12, 4-3, 6-3; R202, R219, R224). ADM_WINDOW_PHASE may be named by R559, but always shows
the width that R83 derives from the guard. -/
def resourceSettings (p : Part) : List Setting :=
  [set1 rAdmGuardBp false [setU 0 16 500 100 2000],
   set1 rAdmWindowPhase false [setU 0 16 972 0 0xFFFF],
   set1 rAdmHbmDeratePct false [setU 0 8 85 50 95],
   set1 rAdmPowerBudgetW true [setU 0 16 p.budgetW 1 p.boardW],
   set1 rMemZeroShare false [setU 0 16 64 16 256],
   set1 rBwClassSplit false [setU 0 8 60 5 90, setU 8 8 25 5 90, setU 16 8 15 5 90],
   set1 rBwBucketDepth false [setU 0 32 8192 8192 65536],
   set1 rStakeQuotaDefault false [setU 0 8 1 0 192]]

/-- The settings of network port `p` (Tables 16-8 and 16-9). -/
def portSettings (p : Nat) : List Setting :=
  let o := 0x100 * p
  [set1 (rNetPortCtrl + o) false [setU 0 1 1 0 1, setU 1 3 3 0 7, setU 4 1 1 0 1],
   set2 (rNetPortMac + o) [setU 0 48 0 0 0xFFFFFFFFFFFF],
   set1 (rNetPortIpv4 + o) false [setU 0 32 0 0 0xFFFFFFFF],
   set1 (rNetPortIpv6 + o) false [setU 0 32 0 0 0xFFFFFFFF],
   set1 (rNetPortIpv6 + o + 4) false [setU 0 32 0 0 0xFFFFFFFF],
   set1 (rNetPortIpv6 + o + 8) false [setU 0 32 0 0 0xFFFFFFFF],
   set1 (rNetPortIpv6 + o + 12) false [setU 0 32 0 0 0xFFFFFFFF],
   set1 (rNetPortAsymNs + o) true [setI 0 32 0 (-1000000) 1000000]]

/-- PTP and congestion settings (Tables 16-2, 16-8 and 16-9): g as a power of 2, then alpha, the timers, BYTE_STEP, the rates and NP_INTERVAL. -/
def netSettings : List Setting :=
  [set1 rNetPtpCtrl true [setU 0 2 0 0 3, setU 2 7 0 0 127, setU 9 1 0 0 1, setU 10 1 0 0 1, setU 11 2 0 0 2],
   set1 rNetPtpLockNs true [setU 0 32 100 1 100000],
   set1 rNetPtpStepNs true [setU 0 32 1000000 1000 1000000000],
   set1 rNetCcParam false [setU 0 32 8 4 10],
   set1 (rNetCcParam + 4) false [setU 0 32 1 1 1],
   set1 (rNetCcParam + 8) false [setU 0 32 55 1 1000],
   set1 (rNetCcParam + 12) false [setU 0 32 300 1 10000],
   set1 (rNetCcParam + 16) false [setU 0 32 10240 64 1048576],
   set1 (rNetCcParam + 20) false [setU 0 32 40 1 10000],
   set1 (rNetCcParam + 24) false [setU 0 32 100 10 100000],
   set1 (rNetCcParam + 28) false [setU 0 32 50 1 1000]]

/-- Telemetry and mailbox settings (Tables 20-5, 20-7 and 20-8). -/
def lodgeSettings : List Setting :=
  [set1 rLodgeDieLimits false [setU 0 8 95 70 110, setU 8 8 105 80 115],
   set1 rLodgeHbmLimits false [setU 0 8 85 70 95, setU 8 8 95 80 100],
   set1 rLodgeDerateWPerC false [setU 0 8 16 1 128],
   set1 rLodgeTempOffset true [setI 0 16 0 (-160) 160],
   set1 rLodgePwrGain true [setU 0 16 32768 29491 36045],
   set1 rMbxMctpCtrl false [setU 0 7 0x4C 0 127, setU 8 1 1 0 1, setU 9 1 1 0 1]]

/-- Every setting (R559): a register whose Image default column holds a value or "factory", of no capability, tenant or image block. -/
def settings (p : Part) : List Setting :=
  beatSettings ++ resourceSettings p ++ portSettings 0 ++ portSettings 1 ++ portSettings 2 ++ portSettings 3 ++ netSettings ++ lodgeSettings

/-- An offset names a setting: either half of a pair (R658). -/
def Setting.named (x : Setting) (off : Nat) : Bool := off == x.off || (x.pair && off == x.off + 4)

def settingAt (p : Part) (off : Nat) : Option Setting := (settings p).find? (fun x => x.named off)

/-! ### Values and limits -/

/-- The value of a field of a setting. -/
def SetField.get (f : SetField) (v : Nat) : Int :=
  if f.signed then toSigned f.width (bits v (f.lo + f.width - 1) f.lo) else (bits v (f.lo + f.width - 1) f.lo : Nat)

/-- A number in a field's own type, of its low bits. -/
def SetField.read (f : SetField) (n : Nat) : Int := if f.signed then toSigned f.width n else ((n % 2 ^ f.width : Nat) : Int)

/-- A narrower range for a field, of a BOUND record (R560). -/
structure Bound where
  off : Nat
  lo : Nat
  min : Int
  max : Int
  deriving DecidableEq, Repr

/-- The limits of a field, narrowed by the bounds. -/
def Setting.limits (x : Setting) (bs : List Bound) (f : SetField) : Int × Int :=
  bs.foldl (fun l b => if b.off = x.off ∧ b.lo = f.lo then (if l.1 < b.min then b.min else l.1, if b.max < l.2 then b.max else l.2) else l)
    (f.min, f.max)

/-- Codes that stand in BEAT_SRC_ORDER, up to the first 0, are distinct (R38). -/
def srcsDistinct (v : Nat) : Bool :=
  let l := [bits v 3 0, bits v 7 4, bits v 11 8].takeWhile (fun n => n != 0)
  match l with
  | [a, b, c] => a != b && a != c && b != c
  | [a, b] => a != b
  | _ => true

/-- The limits that relate a setting's own fields (R38, Table 2-5, R202, Table 20-5). -/
def Setting.whole (x : Setting) (v : Nat) : Bool :=
  if x.off = rBeatSrcOrder then srcsDistinct v
  else if x.off = rBeatMaxPeriodNs then v == 0 || decide (250000 ≤ v)
  else if x.off = rBwClassSplit then bits v 7 0 + bits v 15 8 + bits v 23 16 == 100
  else if x.off = rLodgeDieLimits ∨ x.off = rLodgeHbmLimits then decide (bits v 7 0 < bits v 15 8)
  else true

/-- A value keeps every limit of its setting. -/
def Setting.ok (x : Setting) (bs : List Bound) (v : Nat) : Bool :=
  x.fields.all (fun f => let l := x.limits bs f; decide (l.1 ≤ f.get v) && decide (f.get v ≤ l.2)) && x.whole v

/-- The ROM default, each field brought within its limits (R567). -/
def Setting.romValue (x : Setting) (bs : List Bound) : Nat :=
  sumList (x.fields.map (fun f =>
    let l := x.limits bs f
    let v := if f.rom < l.1 then l.1 else f.rom
    ofSigned f.width (if l.2 < v then l.2 else v) * 2 ^ f.lo))

/-- A value with every reserved bit 0. -/
def Setting.defined (x : Setting) (v : Nat) : Nat :=
  sumList (x.fields.map (fun f => bits v (f.lo + f.width - 1) f.lo * 2 ^ f.lo))

/-! ### Setting records (Table 19-2) -/

def srOffset (r : Bytes) : Nat := fieldAt r 0 4
def srKind (r : Bytes) : Nat := fieldAt r 4 1
def srMask (r : Bytes) : Nat := fieldAt r 8 4
def srLo (r : Bytes) : Nat := fieldAt r 0xC 4
def srHi (r : Bytes) : Nat := fieldAt r 0x10 4

/-- What a layer sets: a setting by its offset, the bits set and their values, of 64 bits for a pair. -/
structure SetValue where
  off : Nat
  mask : Nat
  value : Nat
  deriving DecidableEq, Repr

/-- The records of a layer as they were read: what they set, the bounds they give, and what is to be logged, as codes with their offsets. -/
structure Records where
  values : List SetValue
  bounds : List Bound
  logs : List (Nat × Nat)
  deriving DecidableEq, Repr

def Records.empty : Records := { values := [], bounds := [], logs := [] }

/-- A record that its layer may not hold is ignored and logged. -/
def Records.skip (a : Records) (code : Nat) (r : Bytes) : Records := { a with logs := a.logs ++ [(code, srOffset r)] }

/-- The bound a BOUND record gives, when it names one field and its range meets that field's (R560). -/
def boundOf (x : Setting) (bs : List Bound) (r : Bytes) : Option Bound :=
  match x.fields.find? (fun f => decide ((2 ^ f.width - 1) * 2 ^ f.lo = srMask r * (if srOffset r = x.off then 1 else 2 ^ 32))) with
  | .none => .none
  | .some f =>
    let l := x.limits bs f
    let b : Bound := { off := x.off, lo := f.lo, min := f.read (srLo r), max := f.read (srHi r) }
    if b.min ≤ b.max ∧ b.min ≤ l.2 ∧ l.1 ≤ b.max then .some b else .none

/-- One record of a layer (1 factory, 2 image, 3 calibration) is taken or ignored (R559, R560, R565). -/
def Records.take (p : Part) (layer : Nat) (a : Records) (r : Bytes) : Records :=
  match settingAt p (srOffset r) with
  | .none => a.skip errImgRecordInvalid r
  | .some x =>
    if !allZero (slice r 5 3) || !allZero (slice r 0x14 4) || 2 ≤ srKind r || (srKind r = 1 && layer ≠ 1) || (srKind r = 0 && srHi r ≠ 0) then
      a.skip errImgRecordInvalid r
    else if layer = 3 ∧ x.cal = false then a.skip errImgCalInvalid r
    else if srKind r = 1 then
      match boundOf x a.bounds r with
      | .some b => { a with bounds := a.bounds ++ [b] }
      | .none => a.skip errImgRecordInvalid r
    else
      let k := if srOffset r = x.off then 1 else 2 ^ 32
      { a with values := a.values ++ [{ off := x.off, mask := srMask r * k, value := srLo r * k }] }

/-- `n` records of 24 B. -/
def recordList (b : Bytes) (n : Nat) : List Bytes := (List.range n).map (fun i => slice b (24 * i) 24)

def readRecords (p : Part) (layer : Nat) (rs : List Bytes) : Records := rs.foldl (Records.take p layer) Records.empty

/-! ### Combining the layers (R567, R568) -/

/-- A setting as the layers so far leave it: its value and the layer it comes from; and the offsets and layers of values discarded. -/
structure Combined where
  vals : List (Setting × Nat × Nat)
  bounded : List (Nat × Nat)
  deriving DecidableEq, Repr

/-- The bits of `m` in `v` replaced by those of `w`, within 64 bits. -/
def blend (v m w : Nat) : Nat := v - (v &&& m) + (w &&& m)

/-- The value a layer would give a setting. -/
def layerValue (vs : List SetValue) (x : Setting) (v : Nat) : Nat :=
  x.defined ((vs.filter (fun r => r.off == x.off)).foldl (fun w r => blend w r.mask r.value) v)

/-- One layer over one setting. -/
def layerOne (bs : List Bound) (layer : Nat) (vs : List SetValue) (c : Combined) (e : Setting × Nat × Nat) : Combined :=
  if !vs.any (fun r => r.off == e.1.off) then { c with vals := c.vals ++ [e] }
  else
    let w := layerValue vs e.1 e.2.1
    if e.1.ok bs w then { c with vals := c.vals ++ [(e.1, w, layer)] }
    else { vals := c.vals ++ [e], bounded := c.bounded ++ [(e.1.off, layer)] }

/-- The value of a setting. -/
def valueOf (l : List (Setting × Nat × Nat)) (off : Nat) : Nat := match l.find? (fun e => e.1.off == off) with | some e => e.2.1 | none => 0

/-- BEAT_MAX_PERIOD_NS, when not 0, lies below BEAT_PERIOD_NS (Table 2-5). -/
def periodsBreak (l : List (Setting × Nat × Nat)) : Bool :=
  valueOf l rBeatMaxPeriodNs != 0 && decide (valueOf l rBeatMaxPeriodNs < valueOf l rBeatPeriodNs)

/-- The limits that relate two settings, after a layer: both go back to what they were before it (R568). -/
def relate (layer : Nat) (vs : List SetValue) (before : List (Setting × Nat × Nat)) (c : Combined) : Combined :=
  let two := fun (o : Nat) => o == rBeatPeriodNs || o == rBeatMaxPeriodNs
  if periodsBreak c.vals && vs.any (fun r => two r.off) then
    { vals := c.vals.map (fun e => if two e.1.off then (match before.find? (fun q => q.1.off == e.1.off) with | some q => q | none => e) else e),
      bounded := c.bounded ++ [(rBeatPeriodNs, layer), (rBeatMaxPeriodNs, layer)] }
  else c

/-- One layer over all settings. -/
def layerAll (bs : List Bound) (c : Combined) (layer : Nat) (vs : List SetValue) : Combined :=
  relate layer vs c.vals (c.vals.foldl (layerOne bs layer vs) { vals := [], bounded := c.bounded })

/-- The values in force from the factory's, the image's and the calibration's records. -/
def combine (p : Part) (bs : List Bound) (factory image cal : List SetValue) : Combined :=
  let rom : Combined := { vals := (settings p).map (fun x => (x, x.romValue bs, 0)), bounded := [] }
  layerAll bs (layerAll bs (layerAll bs rom 1 factory) 2 image) 3 cal

/-- The registers a combination gives, as offsets with their words. ADM_WINDOW_PHASE shows the width of R83. -/
def Combined.words (c : Combined) : List (Nat × Nat) :=
  c.vals.flatMap (fun e =>
    if e.1.off = rAdmWindowPhase then [(e.1.off, windowWidth (valueOf c.vals rAdmGuardBp))]
    else if e.1.pair then [(e.1.off, e.2.1), (e.1.off + 4, e.2.1 / 2 ^ 32)] else [(e.1.off, e.2.1)])

/-- A value broken in a layer gives way, counted and logged (R567, R582). -/
def State.noteBounded (s : State) (off layer : Nat) : State :=
  let d := off % 2 ^ 24 + layer * 2 ^ 24
  ((s.count rImgBoundedCnt 1).setN rImgBoundedLast d).logOpen errImgValueBounded noTenant d

/-- The combined values take force, in the registers and in their shadow copies (R567). -/
def State.applySettings (s : State) (c : Combined) : State :=
  let ws := c.words
  let put := fun (f : RegFile) (l : List (Nat × Nat)) => l.foldl (fun f e => sparseSet 0 f e.1 (BitVec.ofNat 32 e.2)) f
  let s := { s with pf0 := put s.pf0 ws, shadow := put s.shadow (ws.filter (fun e => isShadow e.1)) }
  let s := { s with boot := { s.boot with layers := (c.vals.filter (fun e => e.2.2 != 0)).map (fun e => (e.1.off, e.2.2)) } }
  c.bounded.foldl (fun s e => s.noteBounded e.1 e.2) s

end Sys2Proof.Machine
end

