-- ==== Sys2Proof/Machine/View.lean ====
section
/-! DEFINITION. What a register reads as (spec/23, and the register table of each chapter): a register that holds a value of its own reads from its
file, and one that shows other state is computed here from that state. -/

namespace Sys2Proof.Machine

/-! ### The device -/

/-- CAP_VALID (R34). -/
def State.capValid (s : State) : Bool := bit (s.getN rLodgeCapId) 31

/-- A number shown only once the capability block is final; before that the Lodge has set nothing up and it reads 0 (R656). -/
def State.shown (s : State) (n : Nat) : Nat := if s.capValid then n else 0

/-- BEAT_STATUS (Table 2-9). -/
def State.beatStatus (s : State) : Nat :=
  s.beat.src.code + 16 * ofBool s.beat.lost + 32 * ofBool (s.qualified .ptp) + 64 * ofBool (s.qualified .beatIn)
    + 128 * ofBool (s.qualified .doorbell) + 256 * ofBool (s.beat.src == .doorbell)

/-- CFG_STATUS (Table 3-14): STATE from the commit that waits. -/
def State.cfgStatus (s : State) : Nat :=
  s.getN rCfgStatus + (match s.commit with | none => 0 | some c => if c.drain then 2 else 1)

/-- MEM_FREE (Table 4-5). -/
def State.memFree (s : State) : Nat := runsLen s.mem.hbmFree % 0x10000 + runsLen s.mem.oryFree % 0x10000 * 0x10000

/-- Bandwidth units of a class that no tenant holds (Table 6-6). -/
def State.unitsFree (s : State) (cls : Nat) : Nat :=
  s.shown (s.grantBound cls - sumList (s.tenants.map (fun x => grantItem s.pf0 x.id cls)))

/-- STAKE_FREE (Table 6-6). -/
def State.stakeFree (s : State) : Nat :=
  let pairs := s.getF rLodgeCapLimitsB 7 0
  (pairs - sumList (s.tenants.map (fun x => grantItem s.pf0 x.id 3))) + 256 * (pairs - sumList (s.rotas.map (fun r => rhStakes r.bin)))

/-- HOST_LINK_STATUS (Table 17-8). -/
def State.linkStatus (s : State) : Nat :=
  if s.host.dlUp then s.host.gen % 16 + 16 * (s.host.width % 32) + 512 * ofBool s.host.flit + 1024 else 0

/-- The state code of TEN_STATE (Table 18-6). -/
def TenPhase.code : TenPhase → Nat
  | .creating => 1 | .active => 2 | .resetting => 3 | .destroying => 4

/-- TEN_STATE of a tenant. -/
def State.tenState (s : State) (t : Nat) : Nat :=
  match s.tenant? t with
  | none => 0
  | some x => x.phase.code + 8 * ofBool x.standing + 16 * ofBool x.orphaned + x.epoch % 0x10000 * 0x10000

/-- Half of a tenant's window mask on the instance a selector names (Tables 18-6, 18-7). -/
def State.maskWord (s : State) (t inst cls : Nat) (high : Bool) : Nat :=
  match winIdx cls inst with
  | none => 0
  | some i => let m := winMask s.pf0 t i; if high then m / 2 ^ 32 else m % 2 ^ 32

/-- IMG_SRC (Table 19-14): of the setting IMG_SRC_SEL names, its layer, and SETTABLE. -/
def State.imgSrc (s : State) : Nat :=
  match settingAt s.chip.part (s.getF rImgSrcSel 23 0) with
  | none => 0
  | some x => (match s.boot.layers.find? (fun e => e.1 == x.off) with | some e => e.2 | none => 0) + 2 ^ 31

/-- LODGE_RAIL_READ: mV, and 1/16 A above; codes 12 to 15 read 0 (Table 24-2). -/
def State.railRead (s : State) : Nat :=
  let k := s.getF rLodgeRailSel 3 0
  if k < 12 then let r := nth s.tele.rails k (0, 0); r.1 % 0x10000 + r.2 % 0x10000 * 0x10000 else 0

/-- A register of PF0 that is selected by TEN_SEL (Table 18-6). -/
def State.selectedWord (s : State) (off : Nat) : Nat :=
  let t := s.getF rTenSel 6 0
  if off = rTenState then s.tenState t
  else if !s.exists? t then 0
  else if off = rTenWinMask ∨ off = rTenWinMask + 4 then
    s.maskWord t (s.getF rTenWinInst 7 0) (s.getF rTenWinInst 15 8) (off == rTenWinMask + 4)
  else fileN s.pf0 (tenKey t off)

/-- The tenant whose tenant-indexed PF0 register lies at an offset (R663). -/
def indexedTenant (off : Nat) : Option Nat :=
  if rHostTenPasid ≤ off ∧ off < rHostTenPasid + 512 then some ((off - rHostTenPasid) / 4) else tenantOfKey off

/-- A word of PF0 BAR0, as it reads without a latch. -/
def State.pf0Word (s : State) (off : Nat) : Nat :=
  if off = rLodgeCapState then s.shown (ofBool s.schedRun)
  else if off = rBeatStatus then s.beatStatus
  else if off = rBeatNumber then s.beat.number
  else if off = rBeatNumber + 4 then s.beat.number / 2 ^ 32
  else if off = rBeatPhase then s.beat.phase
  else if off = rBeatMinAdmittedNs then s.minAdmitted
  else if off = rBeatMinAdmittedNs + 4 then s.minAdmitted / 2 ^ 32
  else if off = rAdmPowerUsedW then s.powerUsed
  else if off = rAdmRotaCnt then s.rotas.length
  else if off = rCfgStatus then s.cfgStatus
  else if off = rMemZeroStatus then ofBool (!s.mem.zeroQ.isEmpty)
  else if off = rMemFree then s.memFree
  else if off = rStrmCtxFree then s.getF rLodgeCapLimits 15 0 - sumList (s.rotas.map (fun r => rhStreams r.bin))
  else if off = rHoopFree then s.getF rLodgeCapLimits 31 16 - sumList (s.rotas.map (fun r => rhHoops r.bin))
  else if off = rBwGrantFreeA then s.unitsFree 0 + s.unitsFree 1 * 0x10000
  else if off = rBwGrantFreeB then s.unitsFree 2
  else if off = rStakeFree then s.stakeFree
  else if off = rCoilCtxFree then s.shown s.coilFree
  else if off = rHostLinkStatus then s.linkStatus
  else if off = rHostState then s.host.state
  else if rTenState ≤ off ∧ off < rTenSeed + 16 ∧ off ≠ rTenWinInst then s.selectedWord off
  else if off = rImgSrc then s.imgSrc
  else if off = rLodgeRailRead then s.railRead
  else if off = rLodgeLogQueued then s.log.queue.length % 512
  else if rLodgeLogEntry ≤ off ∧ off < rLodgeLogEntry + 0x40000 then
    fieldAt (sparseGet [] s.log.ring ((off - rLodgeLogEntry) / 64)) ((off - rLodgeLogEntry) % 64) 4
  else match indexedTenant off with
    | some t => if s.exists? t then s.getN off else 0
    | none => s.getN off

/-! ### A tenant's VF -/

/-- Accepted tasks not yet started (Table 3-15). -/
def State.tasksWaiting (s : State) (t : Nat) : Nat :=
  ((s.tasksOf t).filter (fun x => x.nextCourse == 0 && !x.busy && !x.decided && x.abort.isNone)).length

/-- The region a VF's selectors name. -/
def State.viewedRegion (s : State) (t : Nat) : Option Region :=
  (s.namedRegion t (s.vgetN t vMemTUpdHandle) (bits (s.vgetN t vMemTUpdTable) 15 0)).map (fun p => p.2.2)

/-- The hoop a VF's selectors name, while its course runs (R201). -/
def State.viewedHoop (s : State) (t : Nat) : Option (Rota × Hoop) :=
  let h := s.vgetN t vHoopSelHandle
  if handleTenant h ≠ t then none
  else match s.running h with
    | none => none
    | some (r, c) => (c.hoop? (bits (s.vgetN t vHoopSel) 15 0)).map (fun k => (r, k))

/-- HOOP_STATE (Table 5-9). -/
def hoopState (r : Rota) (k : Hoop) : Nat :=
  1 + 2 * ofBool k.ended + 4 * ofBool (k.full (rpSlots r.bin k.idx)) + 8 * ofBool k.empty

/-- The physical pair a VF's selectors name (R236). -/
def State.viewedPair (s : State) (t : Nat) : Option Nat :=
  let h := s.vgetN t vStakeSelHandle
  if handleTenant h ≠ t then none else match s.rota? h with | none => none | some r => r.pairs[bits (s.vgetN t vStakeSel) 15 0]?

/-- Units of a bandwidth class in a tenant's spare account (Table 6-7). -/
def State.spareUnits (s : State) (t cls : Nat) (f : Bytes → Nat) : Nat := grantItem s.pf0 t cls - s.usedOf t f

/-- A register of the host queue pair that HOST_T_Q_SEL names (Table 17-9). -/
def HostQueue.word (k : HostQueue) (off : Nat) : Nat :=
  if off = vHostTSqBase then k.wSq
  else if off = vHostTSqBase + 4 then k.wSq / 2 ^ 32
  else if off = vHostTCqBase then k.wCq
  else if off = vHostTCqBase + 4 then k.wCq / 2 ^ 32
  else if off = vHostTQSize then k.wSize
  else if off = vHostTQCtrl then ofBool (k.enabled && !k.stopping)
  else if off = vHostTQStatus then ofBool k.enabled + 2 * ofBool k.fault + k.result % 0x10000 * 0x10000
  else if off = vHostTSqHead then k.sqHead % 4096
  else k.cqTail % 4096 + 2 ^ 31 * ofBool k.phase

/-- TEN_T_ID (Table 18-7; R663). -/
def State.tenId (s : State) (t : Nat) : Nat :=
  t + (match s.tenant? t with | some x => if s.exists? t then 0x10000 * ofBool x.standing + 0x20000 else 0 | none => 0)

/-- The registers a VF shows whether or not its tenant exists (R36, R663); none for any other. -/
def State.commonWord (s : State) (t off : Nat) : Option Nat :=
  if off ≤ rLodgeCapState then some (s.pf0Word off)
  else if off = vBeatTStatus then some s.beatStatus
  else if off = vBeatTNumber then some s.beat.number
  else if off = vBeatTNumber + 4 then some (s.beat.number / 2 ^ 32)
  else if off = vBeatTPhase then some s.beat.phase
  else if off = vTenTId then some (s.tenId t)
  else none

/-- A quota or grant with what the tenant's admitted Rotas use of it (Table 18-7). -/
def State.quotaWord (s : State) (t cls : Nat) (f : Bytes → Nat) : Nat := grantItem s.pf0 t cls % 0x10000 + s.usedOf t f % 0x10000 * 0x10000

/-- The registers of an existing tenant's VF. -/
def State.tenantWord (s : State) (t off : Nat) : Nat :=
  if off = vRotaTWaiting then Nat.min (s.tasksWaiting t) 0xFFFF
  else if off = vMemTHbmSize then runsLen (s.extents t .hbm) % 0x10000
  else if off = vMemTOrySize then runsLen (s.extents t .ory) % 0x10000
  else if off = vMemTFill then s.getN (rMemTenFill + 8 * t)
  else if off = vMemTCtrl then s.getN (rMemTenCtrl + 8 * t)
  else if off = vMemTUpdStatus then s.vgetN t off + (match s.viewedRegion t with | some g => g.state | none => 0)
  else if off = vMemTUpdGen then (match s.viewedRegion t with | some g => g.gen | none => 0)
  else if off = vHoopHead then (match s.viewedHoop t with | some p => p.2.head | none => 0)
  else if off = vHoopTail then (match s.viewedHoop t with | some p => p.2.tail | none => 0)
  else if off = vHoopRsv then (match s.viewedHoop t with | some p => p.2.rsv | none => 0)
  else if off = vHoopState then (match s.viewedHoop t with | some p => hoopState p.1 p.2 | none => 0)
  else if off = vBwTGrantA then s.getN (rBwTenGrantA + 16 * t)
  else if off = vBwTGrantB then s.getN (rBwTenGrantB + 16 * t)
  else if off = vBwTSpareA then s.spareUnits t 0 rhBwRead + s.spareUnits t 1 rhBwWrite * 0x10000
  else if off = vBwTSpareB then s.spareUnits t 2 rhBwRemote
  else if off = vStakeTQuota then grantItem s.pf0 t 3 + s.usedOf t rhStakes % 256 * 256
  else if off = vStakeFull then (match s.viewedPair t with | some p => (s.stake p).full | none => 0)
  else if off = vStakeEmpty then (match s.viewedPair t with | some p => (s.stake p).empty | none => 0)
  else if off = vStakePhys then (match s.viewedPair t with | some p => p + 2 ^ 31 | none => 0)
  else if off = vNetTQpQuota then grantItem s.pf0 t 5
  else if off = vNetTQpStatus then
    s.vgetN t off + (match s.qp? t (s.vgetN t vNetTQpSel) with | some k => k.st | none => 0)
  else if off = vNetTStaleUs then s.getN (rNetTenSensorStaleUs + 4 * t)
  else if vHostTSqBase ≤ off ∧ off ≤ vHostTCqTail then (s.queue t (s.pairSel t)).word off
  else if off = vHostTState then (match s.tenant? t with | some x => ofBool x.orphaned | none => 0)
  else if off = vTenTEpoch then (match s.tenant? t with | some x => x.epoch | none => 0)
  else if off = vTenTNextSeq then (match s.tenant? t with | some x => x.nextSeq | none => 0)
  else if off = vTenTWatts then s.quotaWord t 4 rhWatts
  else if off = vTenTStreams then s.quotaWord t 6 rhStreams
  else if off = vTenTHoops then s.quotaWord t 7 rhHoops
  else if off = vTenTWinMask ∨ off = vTenTWinMask + 4 then
    let w := s.vgetN t vTenTWinInst
    s.maskWord t (bits w 7 0) (bits w 15 8) (off == vTenTWinMask + 4)
  else s.vgetN t off

/-- A word of VF `t` + 1's BAR0, as it reads without a latch (R663). -/
def State.vfWord (s : State) (t off : Nat) : Nat :=
  match s.commonWord t off with
  | some v => v
  | none => if s.exists? t then s.tenantWord t off else 0

/-! ### BAR2 (R500, R514) -/

/-- BAR2 of a function begins here among the addresses of its register accesses. -/
def bar2 : Nat := 0x1000000

/-- MSI-X vectors of a function (R514). -/
def vectors (f : Nat) : Nat := if f = 0 then 64 else 16

/-- Where a function's PBA lies in BAR2 (Table 17-2). -/
def pbaAt (f : Nat) : Nat := if f = 0 then 0x8000 else 0x1000

/-- A word of BAR2: of the MSI-X table or of the pending bits. -/
def State.msixWord (s : State) (f o : Nat) : Nat :=
  if o < 16 * vectors f then
    if o % 16 = 12 then ofBool (!s.msix.unmasked.contains (msixKey f (o / 16)))
    else (sparseGet 0 s.msix.table (1024 * f + o)).toNat
  else if pbaAt f ≤ o ∧ o < pbaAt f + 8 then
    sumList ((List.range 32).map (fun i => ofBool (s.msix.pend.contains (msixKey f (8 * (o - pbaAt f) + i))) * 2 ^ i))
  else 0

/-- A word of a function's BAR0 or BAR2 (0 for PF0, n for VF n), as it reads without a latch. -/
def State.word (s : State) (fn off : Nat) : Nat :=
  if bar2 ≤ off then s.msixWord fn (off - bar2)
  else if fn = 0 then s.pf0Word off % 2 ^ 32
  else s.vfWord (fn - 1) off % 2 ^ 32

end Sys2Proof.Machine
end

