-- ==== Sys2Proof/Machine/Access.lean ====
section
/-! DEFINITION. Reads and writes of registers by the host (spec/00, R5 to R9; spec/23, R652 to R665): what a read latches, samples or clears, and
what a write changes. -/

namespace Sys2Proof.Machine

/-- The functions: PF0 and 128 VFs (R500). -/
def isFunction (fn : Nat) : Bool := decide (fn ≤ 128)

/-! ### Latches and samples (R80, R201, R236) -/

/-- Where a function's latched word lies among the latches. -/
def latchKey (fn off : Nat) : Nat := fn * 0x2000000 + off

/-- A word is latched: the next read of `off` returns it. -/
def State.latchWord (s : State) (fn off v : Nat) : State := { s with latch := sparseSet 0 s.latch (latchKey fn off) (v + 1) }

/-- A latch is dropped. -/
def State.unlatch (s : State) (fn off : Nat) : State := { s with latch := sparseSet 0 s.latch (latchKey fn off) 0 }

/-- `off` is the low word of a 64-bit pair of the function. -/
def isPairLow (fn off : Nat) : Bool := if fn = 0 then pf0Pairs.contains off || (List.range 4).any (fun p => off == portReg rNetPortMac p) else vfPairs.contains off

/-- The registers of the hoop that HOOP_HEAD samples along with it. -/
def hoopSamples : List Nat := [vHoopTail, vHoopRsv, vHoopState]

/-- The registers of the pair that STAKE_FULL samples along with it. -/
def stakeSamples : List Nat := [vStakeEmpty, vStakePhys]

/-- What a read of `off` latches for later reads. -/
def latchedBy (fn off : Nat) : List Nat :=
  if isPairLow fn off then [off + 4]
  else if fn = 0 then []
  else if off = vHoopHead then hoopSamples
  else if off = vStakeFull then stakeSamples
  else []

/-- A sample is void: its hoop's course no longer runs, or the pair is no longer mapped, so the register reads 0. -/
def State.sampleVoid (s : State) (fn off : Nat) : Bool :=
  fn != 0 && ((hoopSamples.contains off && (s.viewedHoop (fn - 1)).isNone) || (stakeSamples.contains off && (s.viewedPair (fn - 1)).isNone))

/-- A read of the 4 B word at `off`: its value, and the state after it (Table 0-4; R7, R80). -/
def State.read (s : State) (fn off : Nat) : State × Word :=
  let held := sparseGet 0 s.latch (latchKey fn off)
  let v := if held = 0 || s.sampleVoid fn off then s.word fn off else held - 1
  let s := s.unlatch fn off
  let s := (latchedBy fn off).foldl (fun s o => s.latchWord fn o (s.word fn o)) s
  (if fn = 0 ∧ off = rLodgePwrPeak then s.setN off 0 else s, BitVec.ofNat 32 v)

/-- A read completes on the link. -/
def State.answerRead (s : State) (fn off : Nat) : State :=
  if isFunction fn then let r := s.read fn (off / 4 * 4); r.1.emit (.readData r.2) else s

/-- LODGE_PWR_PEAK_READ: the peak is returned and cleared in one action (R7, R596). -/
def execLodgePwrPeakRead (s : State) : Host.Outcome State Fault Refusal := .next (s.answerRead 0 rLodgePwrPeak)

/-- PAIR_LOW_READ: a read of a word of function `fn`; the low word of a pair latches the high one (R80). A word that is no pair's low word is read
alike and latches nothing (notes/assumptions/85.md). -/
def execPairLowRead (fn off : Nat) (s : State) : Host.Outcome State Fault Refusal := .next (s.answerRead fn off)

/-- HOOP_HEAD_READ: a read of HOOP_HEAD on VF `t` + 1 samples the hoop's four registers (R201). -/
def execHoopHeadRead (t : Nat) (s : State) : Host.Outcome State Fault Refusal := .next (s.answerRead (t + 1) vHoopHead)

/-- STAKE_FULL_READ: a read of STAKE_FULL on VF `t` + 1 samples the pair's three registers (R236). -/
def execStakeFullRead (t : Nat) (s : State) : Host.Outcome State Fault Refusal := .next (s.answerRead (t + 1) vStakeFull)

/-! ### Writes -/

/-- The words a write covers whole, with their data (R654): no other word of it changes. -/
def wholeWords (addr : Nat) (d : Bytes) : List (Nat × Nat) :=
  let first := roundUp addr 4
  (List.range ((addr + d.length) / 4 - first / 4)).map (fun i => (first + 4 * i, fieldAt d (first + 4 * i - addr) 4))

/-- The row of the table of writable registers that holds an offset. -/
def descOf (l : List RegDesc) (off : Nat) : Option RegDesc := l.find? (fun d => d.covers off)

/-- A register with a row of its own among the commands: a write to it is that command. -/
def hasOwnRow (fn off : Nat) : Bool :=
  if fn = 0 then off == rBeatDoorbell || off == rCfgCommit || off == rMbxGo || off == rLodgeLogReadSeq
  else off == vMemTUpdGo || off == vCoilTCtxGo || off == vNetTQpCmd || off == vNetTMrCtrl || off == vHostTQCtrl || decide (vHostTSqTailDb ≤ off)

/-- The latches that describe a selection, by its selector: they are dropped when it is written (R657). -/
def selectedBy (fn off : Nat) : List Nat :=
  if fn = 0 then (if off = rTenSel ∨ off = rTenWinInst then [rTenWinMask + 4] else [])
  else if off = vHoopSelHandle ∨ off = vHoopSel then hoopSamples
  else if off = vStakeSelHandle ∨ off = vStakeSel then stakeSamples
  else if off = vHostTQSel then [vHostTSqBase + 4, vHostTCqBase + 4]
  else if off = vTenTWinInst then [vTenTWinMask + 4]
  else []

/-- A word with the bits of a mask replaced. -/
def maskedWord (old : Word) (mask v : Nat) : Word := (old &&& ~~~(BitVec.ofNat 32 mask)) ||| (BitVec.ofNat 32 v &&& BitVec.ofNat 32 mask)

/-- A word with the W1C bits that the data sets cleared (Table 0-4). -/
def clearedWord (old : Word) (mask v : Nat) : Word := old &&& ~~~(BitVec.ofNat 32 v &&& BitVec.ofNat 32 mask)

/-- A word of the shadow set. -/
def State.setShadow (s : State) (key mask v : Nat) : State :=
  { s with shadow := sparseSet 0 s.shadow key (maskedWord (sparseGet 0 s.shadow key) mask v) }

/-- The key in the shadow set of a shadow register of PF0: the selected tenant's own for the grant of Table 18-6. None where the selection names no
instance. -/
def State.shadowKey (s : State) (off : Nat) : Option Nat :=
  let t := s.getF rTenSel 6 0
  if off = rTenWinMask ∨ off = rTenWinMask + 4 then
    (winIdx (s.getF rTenWinInst 15 8) (s.getF rTenWinInst 7 0)).map (fun i => winKey t i + (off - rTenWinMask))
  else if rTenHbmGran ≤ off ∧ off < rTenSeed + 16 then some (tenKey t off)
  else some off

/-- A shadow write (Table 0-4); a tenant-indexed field of a tenant that does not exist ignores it (R663). -/
def State.writeShadow (s : State) (off mask v : Nat) : State :=
  match s.shadowKey off with
  | none => s
  | some k => match tenantOfKey k with
    | some t => if s.exists? t then s.setShadow k mask v else s
    | none => s.setShadow k mask v

/-- The registers of PF0 that take a write before READY (R664). -/
def isEarly (off : Nat) : Bool := decide (rMbxReq ≤ off ∧ off < rMbxReq + 64) || decide (rMbxData ≤ off ∧ off < rMbxData + 4096)

/-- A write of a word of PF0 BAR0. -/
def State.writePf0 (s : State) (off v : Nat) : State :=
  match descOf pf0Writable off with
  | none => s
  | some d =>
    let s := s.set off (clearedWord (s.get off) d.w1c v)
    if d.rw = 0 || (!s.mbx.ready && !isEarly off) then s
    else if d.shadow then s.writeShadow off d.rw v
    else ((selectedBy 0 off).foldl (fun s o => s.unlatch 0 o) s).set off (maskedWord (s.get off) d.rw v)

/-- A word of the configuration of the host queue pair that HOST_T_Q_SEL names. -/
def HostQueue.write (k : HostQueue) (off v : Nat) : HostQueue :=
  let low := fun (p : Nat) => p / 2 ^ 32 * 2 ^ 32 + v
  let high := fun (p : Nat) => p % 2 ^ 32 + v * 2 ^ 32
  if off = vHostTSqBase then { k with wSq := low k.wSq }
  else if off = vHostTSqBase + 4 then { k with wSq := high k.wSq }
  else if off = vHostTCqBase then { k with wCq := low k.wCq }
  else if off = vHostTCqBase + 4 then { k with wCq := high k.wCq }
  else { k with wSize := v % 0x2000 }

/-- A write of a word of VF `t` + 1's BAR0: ignored while the tenant does not exist (R663). -/
def State.writeVf (s : State) (t off v : Nat) : State :=
  if !s.exists? t then s
  else if vHostTSqBase ≤ off ∧ off ≤ vHostTQSize then s.updQueue t (s.pairSel t) (fun k => k.write off v)
  else match descOf vfWritable off with
    | none => s
    | some d =>
      let w := maskedWord (clearedWord (s.vget t off) d.w1c v) d.rw v
      ((selectedBy (t + 1) off).foldl (fun s o => s.unlatch (t + 1) o) s).vset t off w

/-- A write of a word of BAR2: a vector's address, data and mask bit; the PBA is read-only. -/
def State.writeMsix (s : State) (f o v : Nat) : State :=
  if 16 * vectors f ≤ o then s
  else if o % 16 = 12 then
    let k := msixKey f (o / 16)
    ({ s with msix := { s.msix with
        unmasked := if v % 2 = 0 then setInsert s.msix.unmasked k else s.msix.unmasked.filter (fun x => x != k) } } : State).msixRelease
  else
    let v := if o % 16 = 0 then v / 4 * 4 else v
    { s with msix := { s.msix with table := sparseSet 0 s.msix.table (1024 * f + o) (BitVec.ofNat 32 v) } }

/-- A write of one word of a function. -/
def State.writeWord (s : State) (fn off v : Nat) : State :=
  if bar2 ≤ off then s.writeMsix fn (off - bar2) v
  else if hasOwnRow fn off then s
  else if fn = 0 then s.writePf0 off v
  else s.writeVf (fn - 1) off v

/-- REGISTER_WRITE: a memory write of `data` at `addr` of function `fn` (0 for PF0, n for VF n): the words it covers whole are written in
ascending order, each field by its access code (R5, R6, R654, R661). A poisoned write is discarded (R662). BAR2 begins at 0x100_0000 here. -/
def execRegisterWrite (fn addr : Nat) (data : Bytes) (poisoned : Bool) (s : State) : Host.Outcome State Fault Refusal :=
  if poisoned || !isFunction fn then .next s
  else .next ((wholeWords addr data).foldl (fun s w => s.writeWord fn w.1 w.2) s)

/-- LODGE_LOG_READ_SEQ: software acknowledges the entries before ESEQ `value` (R601, R664). -/
def execLodgeLogReadSeq (value : Word) (s : State) : Host.Outcome State Fault Refusal := .next (s.set rLodgeLogReadSeq value)

end Sys2Proof.Machine
end

