-- ==== Sys2Proof/Machine/Flash.lean ====
section
/-! DEFINITION. The boot flash (spec/19, R557 to R565, R569, R574): reading and programming it, the factory page, the image slots, the journal, and the
user calibration copies. -/

namespace Sys2Proof.Machine

/-! ### Bytes of the flash -/

/-- `n` bytes from address `a` of bytes in canonical form; an unlisted byte is erased. -/
def flashRun : Nat → Nat → List Host.Cell → Bytes
  | 0, _, _ => []
  | n + 1, a, [] => 0xFF#8 :: flashRun n (a + 1) []
  | n + 1, a, (k, v) :: t => if k = a then v :: flashRun n (a + 1) t else 0xFF#8 :: flashRun n (a + 1) ((k, v) :: t)

/-- `n` bytes of the flash at `a`. -/
def Flash.read (f : Flash) (a n : Nat) : Bytes := flashRun n a (f.cells.filter (fun c => decide (a ≤ c.1 ∧ c.1 < a + n)))

/-- Bytes programmed at `a`. -/
def flashPut : List Host.Cell → Nat → Bytes → List Host.Cell
  | c, _, [] => c
  | c, a, b :: t => flashPut (sparseSet 0xFF#8 c a b) (a + 1) t

def Flash.program (f : Flash) (a : Nat) (b : Bytes) : Flash := { f with cells := flashPut f.cells a b }

/-- `n` bytes at `a` erased. -/
def Flash.erase (f : Flash) (a n : Nat) : Flash := { f with cells := sparseClear f.cells a (a + n) }

/-- The flash answers with tables that meet R557: capacity a power of two from 64 MiB to 256 MiB. -/
def Flash.good (f : Flash) : Bool := f.ok && (f.mib == 64 || f.mib == 128 || f.mib == 256)

/-- Z, the size of a slot in bytes (Table 19-1). -/
def Flash.slotBytes (f : Flash) : Nat := (f.mib - 4) / 2 * 0x100000

/-- Where a slot starts: 0 A, 1 B. -/
def Flash.slotAt (f : Flash) (k : Nat) : Nat := 0x400000 + k * f.slotBytes

/-- A flash as it was programmed outside the device. -/
def FlashImage.flash (x : FlashImage) : Flash :=
  x.runs.foldl (fun (f : Flash) r => f.program r.1 r.2) { ok := x.ok, mib := x.mib, cells := [] }

def allErased (b : Bytes) : Bool := b.all (fun x => x == 0xFF#8)

/-- The lowest offset of the named fields that break their rule, in the order given. -/
def firstBreak (l : List (Nat × Bool)) : Option Nat := match l.find? (fun p => !p.2) with | some p => some p.1 | none => none

/-! ### The factory page (Table 19-3, R560) -/

/-- ASCII, padded with 0. -/
def asciiPadded (b : Bytes) : Bool := b.all (fun x => decide (x.toNat < 128)) && allZero (b.dropWhile (fun x => x != 0))

def fpRecords (b : Bytes) : Nat := fieldAt b 0xE 2

/-- A factory page copy holds every value and rule of Table 19-3. -/
def State.factoryOk (s : State) (b : Bytes) : Bool :=
  let n := fpRecords b
  fieldAt b 0 4 == 0x50465A56 && fieldAt b 4 2 == 1 && fieldAt b 6 2 == s.chip.part.code && fieldAt b 8 1 == s.chip.stepping
    && allZero (slice b 9 3) && decide (n ≤ 160) && asciiPadded (slice b 0x10 16) && allZero (slice b 0x26 26)
    && allZero (slice b (0x40 + 24 * n) (0xFFC - 0x40 - 24 * n)) && fieldAt b 0xFFC 4 == (crc32c (b.take 0xFFC)).toNat

/-- The factory page copy in use, with its number. -/
def State.factoryPage (s : State) : Option (Nat × Bytes) :=
  let a := s.flash.read 0 4096
  let b := s.flash.read 0x8000 4096
  if s.factoryOk a then some (0, a) else if s.factoryOk b then some (1, b) else none

/-- SERIAL of the factory page. -/
def fpSerial (b : Bytes) : Bytes := slice b 0x10 16

/-- The factory's values: the page's VALUE records, and MAC_BASE + p for each port `ports` names (R560). -/
def factoryMacs (b : Bytes) (ports : List Nat) : List SetValue :=
  let base := leNat (slice b 0x20 6).reverse
  ports.map (fun p => { off := rNetPortMac + 0x100 * p, mask := 2 ^ 48 - 1, value := (base + p) % 2 ^ 48 })

/-! ### Image slots (Tables 19-4 to 19-6, R561) -/

def ihBytes (b : Bytes) : Nat := fieldAt b 8 4
def ihSeq (b : Bytes) : Nat := fieldAt b 0x10 4
def ihSections (b : Bytes) : Nat := fieldAt b 0x28 2
def ihTable (b : Bytes) : Nat := fieldAt b 0x2C 4
def ihAutoConfirm (b : Bytes) : Bool := bit (fieldAt b 0x16 2) 0

/-- Section `k` of an image: its table entry, its fields, its bytes. -/
def secOff (b : Bytes) (k : Nat) : Nat := ihTable b + 16 * k
def secType (b : Bytes) (k : Nat) : Nat := fieldAt b (secOff b k) 2
def secStart (b : Bytes) (k : Nat) : Nat := fieldAt b (secOff b k + 4) 4
def secLen (b : Bytes) (k : Nat) : Nat := fieldAt b (secOff b k + 8) 4
def section_ (b : Bytes) (k : Nat) : Bytes := slice b (secStart b k) (secLen b k)

/-- The sections of a type, in image order. -/
def secsOf (b : Bytes) (ty : Nat) : List Nat := (List.range (ihSections b)).filter (fun k => secType b k == ty)

/-- The offset of the first field of a header that breaks Table 19-4, its CRC apart. -/
def imageHeaderFault (b : Bytes) (z : Nat) : Option Nat :=
  let n := ihSections b
  firstBreak [(0, fieldAt b 0 4 == 0x4D495A56), (4, fieldAt b 4 2 == 1), (6, fieldAt b 6 2 == 128), (8, decide (128 ≤ ihBytes b ∧ ihBytes b ≤ z)),
    (0x10, decide (1 ≤ ihSeq b ∧ ihSeq b ≤ 0xFFFFFFFE)), (0x14, decide (fieldAt b 0x14 1 < 8)), (0x16, decide (fieldAt b 0x16 2 < 2)),
    (0x28, decide (1 ≤ n ∧ n ≤ 1024)), (0x2A, fieldAt b 0x2A 2 == 0), (0x2C, ihTable b % 64 == 0), (0x30, allZero (slice b 0x30 80))]

/-- A slot's header is well formed. -/
def imageHeaderOk (b : Bytes) (z : Nat) : Bool := (imageHeaderFault b z).isNone

/-- The part's bit of PART_MASK. -/
def Part.maskBit : Part → Nat
  | .vz960 => 0 | .vz940 => 1 | .vz920 => 2

/-- The most sections of a type (Table 19-6); none for a type it does not hold. -/
def secMost (ty : Nat) : Option Nat :=
  if ty = 1 ∨ ty = 2 ∨ ty = 3 then some 1 else if ty = 4 then some 128 else if ty = 5 ∨ ty = 6 ∨ ty = 7 then some 1024 else if ty = 8 then some 256
  else none

/-- The offset of the first wrong field of section `k`. -/
def sectionFault (b : Bytes) (k : Nat) : Option Nat :=
  let o := secOff b k
  let before := ((List.range k).filter (fun j => secType b j == secType b k)).length
  firstBreak [(o, (match secMost (secType b k) with | some m => decide (before < m) | none => false)), (o + 2, fieldAt b (o + 2) 2 == 0),
    (o + 4, secStart b k % 64 == 0 && decide (secStart b k ≤ ihBytes b)),
    (o + 8, decide (secStart b k + secLen b k ≤ ihBytes b) && (secType b k != 3 || decide (secLen b k ≤ 0x4000))),
    (o + 0xC, fieldAt b (o + 0xC) 4 == (crc32c (section_ b k)).toNat)]

/-- The CRC of a header and what follows it, with the CRC field at `o` taken as 0. -/
def crcWithout (b : Bytes) (o : Nat) : Nat := (crc32c (b.take o ++ List.replicate 4 0 ++ b.drop (o + 4))).toNat

/-- The first field of an image that breaks R561, as its byte offset: the header, what the part accepts, the image CRC, the section table, and the
count of STRAND_FW. `z` bounds its size. -/
def State.imageFault (s : State) (b : Bytes) (z : Nat) : Option Nat :=
  imageHeaderFault b z
  <|> firstBreak [(8, decide (ihBytes b ≤ b.length)), (0x14, bit (fieldAt b 0x14 1) s.chip.part.maskBit), (0x15, decide (fieldAt b 0x15 1 ≤ s.chip.stepping)),
    (0x18, decide (fieldAt b 0x18 4 ≤ s.getN rImgRomVersion)), (0xC, fieldAt b 0xC 4 == crcWithout (b.take (ihBytes b)) 0xC),
    (0x2C, decide (ihTable b + 16 * ihSections b ≤ ihBytes b))]
  <|> (List.range (ihSections b)).findSome? (sectionFault b)
  <|> firstBreak [(0x28, (secsOf b 3).length == 1)]

/-- The header of a slot, and its image as far as the header's size says. -/
def Flash.header (f : Flash) (k : Nat) : Bytes := f.read (f.slotAt k) 128
def Flash.image (f : Flash) (k : Nat) : Bytes := f.read (f.slotAt k) (Nat.min (ihBytes (f.header k)) f.slotBytes)

/-- SEQ of a slot's header; 0 when it is not well formed. -/
def Flash.seq (f : Flash) (k : Nat) : Nat := if imageHeaderOk (f.header k) f.slotBytes then ihSeq (f.header k) else 0

/-! ### The journal (Table 19-8, R562 to R564) -/

/-- A journal record where it stands. -/
structure JRec where
  half : Nat
  place : Nat
  type : Nat
  slot : Nat
  jseq : Nat
  seq : Nat
  trial : Bool
  deriving DecidableEq, Repr

/-- Where a place of a half lies. -/
def jAddr (half place : Nat) : Nat := 0x10000 + 0x10000 * half + 32 * place

/-- A record, when its MAGIC and CRC match. -/
def jRead (half place : Nat) (b : Bytes) : Option JRec :=
  if fieldAt b 0 2 = 0x4A56 ∧ fieldAt b 0x1C 4 = (crc32c (b.take 0x1C)).toNat then
    some { half := half, place := place, type := fieldAt b 2 1, slot := fieldAt b 3 1, jseq := fieldAt b 4 4, seq := fieldAt b 8 4,
           trial := bit (fieldAt b 0xC 2) 0 }
  else none

/-- The bytes of a record. -/
def jBytes (r : JRec) : Bytes :=
  let b := leBytes 2 0x4A56 ++ leBytes 1 r.type ++ leBytes 1 r.slot ++ leBytes 4 r.jseq ++ leBytes 4 r.seq ++ leBytes 2 (ofBool r.trial)
    ++ List.replicate 14 0
  b ++ leBytes 4 (crc32c b).toNat

/-- The bytes at each of the 2,048 places of a half. -/
def Flash.places (f : Flash) (half : Nat) : List Bytes :=
  let b := f.read (jAddr half 0) 0x10000
  (List.range 2048).map (fun i => slice b (32 * i) 32)

/-- The matching records of a half. -/
def Flash.halfRecs (f : Flash) (half : Nat) : List JRec := ((f.places half).zipIdx).filterMap (fun p => jRead half p.2 p.1)

/-- The journal: every matching record, in ascending JSEQ. -/
def Flash.journal (f : Flash) : List JRec := (f.halfRecs 0 ++ f.halfRecs 1).foldl (fun l r => insertBy (·.jseq) r l) []

/-- The half that holds the highest JSEQ. -/
def Flash.currentHalf (f : Flash) : Nat := match f.journal.getLast? with | some r => r.half | none => 0

/-- The journal's state (R564): the active slot, whether it is on trial, and its attempts. -/
structure JState where
  active : Option Nat
  trial : Bool
  attempts : Nat
  deriving DecidableEq, Repr

/-- One record after the last ACTIVATE. -/
def JState.after (j : JState) (r : JRec) : JState :=
  if j.active ≠ some r.slot then j
  else if r.type = 2 then { active := none, trial := false, attempts := 0 }
  else if r.type = 3 then { j with attempts := j.attempts + 1 }
  else if r.type = 4 then { j with trial := false }
  else j

/-- One record, in JSEQ order. -/
def JState.step (j : JState) (r : JRec) : JState :=
  if r.type = 1 then { active := some r.slot, trial := r.trial, attempts := 0 } else j.after r

def Flash.jstate (f : Flash) : JState := f.journal.foldl JState.step { active := none, trial := false, attempts := 0 }

/-- An INVALIDATE after a slot's last ACTIVATE has invalidated it (R569). -/
def Flash.invalidated (f : Flash) (k : Nat) : Bool :=
  f.journal.foldl (fun b r => if r.slot ≠ k then b else if r.type = 1 then false else if r.type = 2 then true else b) false

/-- The records that carry the journal's state (R563). -/
def carried (l : List JRec) : List JRec :=
  let lastAct := maxList ((l.filter (fun r => r.type == 1)).map (·.jseq))
  let lastCal := maxList ((l.filter (fun r => r.type == 5)).map (·.jseq))
  l.filter (fun r => (r.type == 1 && r.jseq == lastAct) || ((r.type == 2 || r.type == 3 || r.type == 4) && decide (lastAct ≤ r.jseq))
    || (r.type == 5 && r.jseq == lastCal))

/-- A record written at a place with a JSEQ. -/
def Flash.writeRec (f : Flash) (half place jseq : Nat) (r : JRec) : Flash := f.program (jAddr half place) (jBytes { r with jseq := jseq })

/-- The free places of the current half after its last matching record. -/
def Flash.freePlaces (f : Flash) : List Nat :=
  let h := f.currentHalf
  let last := maxList ((f.halfRecs h).map (fun r => r.place + 1))
  ((f.places h).zipIdx.filter (fun p => decide (last ≤ p.2) && allErased p.1)).map (·.2)

/-- A new record is appended, after a compaction when the current half is full (R562, R563). -/
def Flash.append (f : Flash) (type slot seq : Nat) (trial : Bool) : Flash :=
  let next := (match f.journal.getLast? with | some r => r.jseq | none => 0) + 1
  let r : JRec := { half := 0, place := 0, type := type, slot := slot, jseq := 0, seq := seq, trial := trial }
  match f.freePlaces with
  | p :: _ => f.writeRec f.currentHalf p next r
  | [] =>
    let h := 1 - f.currentHalf
    let keep := carried f.journal ++ [r]
    (keep.zipIdx).foldl (fun f e => f.writeRec h e.2 (next + e.2) e.1) (f.erase (jAddr h 0) 0x10000)

/-- IMG_STATUS.TRIAL and ATTEMPTS, and IMG_JOURNAL_FREE, follow the journal. -/
def State.showJournal (s : State) : State :=
  let j := s.flash.jstate
  let trial := s.boot.slot.isSome && j.active == s.boot.slot && j.trial
  let s := (s.setF rImgStatus 2 2 (ofBool trial)).setF rImgStatus 23 16 j.attempts
  s.setN rImgJournalFree (((s.flash.places s.flash.currentHalf).filter allErased).length)

/-- The Lodge appends a record. -/
def State.journalAdd (s : State) (type slot seq : Nat) (trial : Bool) : State :=
  ({ s with flash := s.flash.append type slot seq trial } : State).showJournal

/-! ### User calibration (Table 19-9, R565) -/

def calGen (b : Bytes) : Nat := fieldAt b 8 4
def calRecords (b : Bytes) : Nat := fieldAt b 6 2

/-- The offset of the first field of a calibration copy that breaks Table 19-9, against the factory page's SERIAL. -/
def calFault (b : Bytes) (serial : Option Bytes) : Option Nat :=
  let n := calRecords b
  firstBreak [(0, fieldAt b 0 4 == 0x4C414356), (4, fieldAt b 4 2 == 1), (6, decide (n ≤ 1360)), (8, decide (1 ≤ calGen b ∧ calGen b ≤ 0xFFFFFFFE)),
    (0x10, serial == some (slice b 0x10 16)), (0x20 + 24 * n, allZero (slice b (0x20 + 24 * n) (32768 - 0x20 - 24 * n))),
    (0xC, fieldAt b 0xC 4 == crcWithout b 0xC)]

/-- Where a calibration copy lies. -/
def calAddr (k : Nat) : Nat := 0x30000 + 0x8000 * k

/-- The calibration copy in use, with its number: of those that hold Table 19-9, the one of the higher GEN. -/
def Flash.calibration (f : Flash) (serial : Option Bytes) : Option (Nat × Bytes) :=
  let a := f.read (calAddr 0) 32768
  let b := f.read (calAddr 1) 32768
  match (calFault a serial).isNone, (calFault b serial).isNone with
  | true, true => if calGen a < calGen b then some (1, b) else some (0, a)
  | true, false => some (0, a)
  | false, true => some (1, b)
  | false, false => none

/-- Both copies are erased. -/
def Flash.calErased (f : Flash) : Bool := allErased (f.read (calAddr 0) 32768) && allErased (f.read (calAddr 1) 32768)

end Sys2Proof.Machine
end

