-- ==== Sys2Proof/Machine/Images.lean ====
section
/-! DEFINITION. Updating the image and the calibration (spec/19, R574 to R580), and how a running long command ends (spec/20, R585, R589). -/

namespace Sys2Proof.Machine

/-! ### Writing a slot (R574, R575) -/

/-- The target of IMG_WRITE (R574). -/
def State.imageTarget (s : State) : Nat :=
  match s.boot.slot with
  | some k => 1 - k
  | none => if s.flash.seq 1 < s.flash.seq 0 then 1 else 0

/-- IMG_SLOT_A_SEQ and IMG_SLOT_B_SEQ follow the headers. -/
def State.showSlots (s : State) : State := (s.setN rImgSlotASeq (s.flash.seq 0)).setN rImgSlotBSeq (s.flash.seq 1)

/-- The flash with other content. -/
def State.withFlash (s : State) (f : Flash) : State := ({ s with flash := f } : State).showSlots

/-- Steps 3 and 4 of R575 up to the programming: INVALIDATE, then the sectors that the checked image needs are erased. -/
def State.startImage (s : State) (k : Nat) (b : Bytes) : State :=
  let s := s.journalAdd 2 k (s.flash.seq k) false
  s.withFlash (s.flash.erase (s.flash.slotAt k) (roundUp (ihBytes b) 0x10000))

/-- Programming ends (step 4): `back` is what the flash reads where that is not what was programmed. ACTIVATE follows unless NO_ACTIVATE (step 5). -/
def State.endImage (s : State) (k : Nat) (b : Bytes) (noActivate : Bool) (back : Option Bytes) : State × MbxResult :=
  let want := b.take (ihBytes b)
  let got := back.getD want
  let s := s.withFlash (s.flash.program (s.flash.slotAt k) (got.take want.length))
  if got ≠ want then (s, MbxResult.bad errImgFlashError 0)
  else if noActivate then (s, MbxResult.ok)
  else (s.journalAdd 1 k (ihSeq b) true, MbxResult.ok)

/-- The source of a command as the Lodge copied it, or the code that ends the command (R588, R634). -/
def State.copied (s : State) (r : MbxReq) : Except Nat Bytes :=
  if !s.flash.good then .error errImgFlashError
  else match mbxSource r with
    | none => .error s.sourceCode
    | some b => if r.ecc then .error errMemEccUncorrectable else .ok b

/-- IMG_WRITE (R575): copied into the Lodge area, checked, and programming begins; it ends by LONG_COMMAND_COMPLETE. -/
def execImgWrite (r : MbxReq) (s : State) : Host.Outcome State Fault Refusal :=
  .next (s.command (fun o => o == 0x0050) r (fun s r =>
    match s.copied r with
    | .error c => .done s (MbxResult.bad c 0)
    | .ok b =>
      let s := { s with boot := { s.boot with area := b } }
      match s.imageFault b s.flash.slotBytes with
      | some off => .done s (MbxResult.bad errImgUpdateInvalid off)
      | none =>
        let k := s.imageTarget
        .runs (s.startImage k b) { longFor r none with slot := k }))

/-! ### Activating and confirming (R576) -/

/-- ACTIVATE is appended for a slot that is valid; else the offset of its first wrong field. -/
def State.activate (s : State) (k : Nat) (trial : Bool) : State × MbxResult :=
  let b := s.flash.image k
  if !s.flash.good then (s, MbxResult.bad errImgFlashError 0)
  else match s.imageFault b s.flash.slotBytes with
    | some off => (s, MbxResult.bad errImgUpdateInvalid off)
    | none => (s.journalAdd 1 k (ihSeq b) trial, MbxResult.ok)

/-- IMG_ACTIVATE. -/
def execImgActivate (r : MbxReq) (s : State) : Host.Outcome State Fault Refusal :=
  .next (s.command (fun o => o == 0x0051) r (fun s r =>
    if 1 < r.arg0 then .done s (MbxResult.bad errMbxArgInvalid 0)
    else
      let a := s.activate r.arg0 (bit r.flags 0)
      if a.2.code = 0 then .runs a.1 (longFor r (some a.2)) else .done a.1 a.2))

/-- IMG_CONFIRM: CONFIRM is appended for the active slot when it is on trial. -/
def execImgConfirm (r : MbxReq) (s : State) : Host.Outcome State Fault Refusal :=
  .next (s.command (fun o => o == 0x0052) r (fun s r =>
    let j := s.flash.jstate
    if !s.flash.good then .done s (MbxResult.bad errImgFlashError 0)
    else match j.active with
      | some k => .runs (if j.trial then s.journalAdd 4 k (s.flash.seq k) false else s) (longFor r (some MbxResult.ok))
      | none => .runs s (longFor r (some MbxResult.ok))))

/-! ### User calibration (R577) -/

/-- Why a calibration source is refused: the first wrong field of Table 19-9, or a GEN not above the one in use. -/
def State.calRefusal (s : State) (b : Bytes) : Option Nat :=
  calFault b (s.boot.factory.map fpSerial) <|> (if s.getN rImgCalGen < calGen b then none else some 8)

/-- The copy not in use; copy 0 when none is. -/
def State.calTarget (s : State) : Nat := match s.boot.calCopy with | some k => 1 - k | none => 0

/-- IMG_CAL_WRITE: copied, checked, the copy not in use erased; the programming ends by LONG_COMMAND_COMPLETE. -/
def execImgCalWrite (r : MbxReq) (s : State) : Host.Outcome State Fault Refusal :=
  .next (s.command (fun o => o == 0x0053) r (fun s r =>
    match s.copied r with
    | .error c => .done s (MbxResult.bad c 0)
    | .ok b =>
      match s.calRefusal b with
      | some off => .done s (MbxResult.bad errImgUpdateInvalid off)
      | none =>
        let k := s.calTarget
        .runs { s with flash := s.flash.erase (calAddr k) 32768 } { longFor { r with src := some b } none with slot := k }))

/-- The programming of a calibration copy ends. -/
def State.endCal (s : State) (k : Nat) (b : Bytes) (back : Option Bytes) : State × MbxResult :=
  let got := back.getD b
  let s := { s with flash := s.flash.program (calAddr k) (got.take 32768) }
  if got ≠ b then (s, MbxResult.bad errImgFlashError 0) else (s.journalAdd 5 k (calGen b) false, MbxResult.ok)

/-! ### Completion -/

/-- LONG_COMMAND_COMPLETE: the running long command ends. A write to the flash ends with its programming, of which `back` is what the flash then
reads where that is not what was programmed; a destruction once its reset is over (R547); a command that waits for another event is left alone. -/
def execLongCommandComplete (back : Option Bytes) (s : State) : Host.Outcome State Fault Refusal :=
  match s.mbx.long with
  | none => .next s
  | some l =>
    if l.req.opcode = 0x0050 then
      let e := s.endImage l.slot (l.req.src.getD []) (bit l.req.flags 0) back
      .next (e.1.endLong e.2)
    else if l.req.opcode = 0x0053 then
      let e := s.endCal l.slot (l.req.src.getD []) back
      .next (e.1.endLong e.2)
    else match l.result with
      | none => .next s
      | some x => if l.req.opcode = 0x0012 then .next ((s.destroyTenant l.req.arg0).endLong x) else .next (s.endLong x)

end Sys2Proof.Machine
end

