-- ==== Sys2Proof/Machine/Mctp.lean ====
section
/-! DEFINITION. MCTP and PLDM (spec/20, R592, R594, R595). The bodies of the messages are those of DSP0236, DSP0240, DSP0248 and DSP0267
(notes/assumptions/80.md); bytes that neither they nor the spec fix are free values. -/

namespace Sys2Proof.Machine

/-! ### Messages -/

/-- A message of the MCTP endpoint reaches it: by SMBus or VDM, where the Lodge hears that channel. -/
def State.hearsMctp (s : State) (c : Channel) : Bool := c != Channel.pf0 && s.hears c

/-- The answer to a control message: its instance, its command, a completion code and data. -/
def State.answerControl (s : State) (c : Channel) (inst cmd code : Nat) (data : Bytes) : State :=
  s.emit (.mctp c 0 (leBytes 1 (inst % 32) ++ leBytes 1 cmd ++ leBytes 1 code ++ data))

/-- The answer to a PLDM message of a type. -/
def State.answerPldm (s : State) (c : Channel) (inst type cmd code : Nat) (data : Bytes) : State :=
  s.emit (.mctp c 1 (leBytes 1 (inst % 32) ++ leBytes 1 (type % 64) ++ leBytes 1 cmd ++ leBytes 1 code ++ data))

/-- A PLDM request of the device's own; its instance is a free value. -/
def State.requestPldm (s : State) (c : Channel) (type cmd : Nat) (data : Bytes) : State :=
  let i := s.free 5
  i.2.emit (.mctp c 1 (leBytes 1 (128 + i.1.toNat) ++ leBytes 1 (type % 64) ++ leBytes 1 cmd ++ data))

/-- The vendor identifier in force: the factory page's, else the ROM's (R560). -/
def State.vendorId (s : State) : Nat := match s.boot.factory with | some b => fieldAt b 0xC 2 | none => (Config.builtIn 16 1).toNat

/-! ### MCTP control (R592) -/

/-- Set Endpoint ID: an assignment of an identifier of its own is taken. -/
def State.setEid (s : State) (c : Channel) (inst op eid : Nat) : State :=
  if op ≤ 1 ∧ 1 ≤ eid ∧ eid ≤ 254 then (s.setN rMbxMctpEid eid).answerControl c inst 1 0 (leBytes 1 0 ++ leBytes 1 eid ++ leBytes 1 0)
  else s.answerControl c inst 1 2 []

/-- MCTP_SET_ENDPOINT_ID. -/
def execMctpSetEndpointId (chan : Channel) (inst op eid : Nat) (s : State) : Host.Outcome State Fault Refusal :=
  .next (if s.hearsMctp chan then s.setEid chan inst op eid else s)

/-- MCTP_GET_ENDPOINT_ID: a simple endpoint; the medium's own byte is open. -/
def execMctpGetEndpointId (chan : Channel) (inst : Nat) (s : State) : Host.Outcome State Fault Refusal :=
  if !s.hearsMctp chan then .next s
  else
    let m := s.freeBytes 1
    .next (m.1.answerControl chan inst 2 0 (leBytes 1 (s.getN rMbxMctpEid) ++ leBytes 1 0 ++ m.2))

/-- MCTP_GET_VERSION_SUPPORT: 1.3 for the base and control; the versions of the other types it accepts are open; a type it does not accept is refused. -/
def State.versionSupport (s : State) (c : Channel) (inst type : Nat) : State :=
  if type = 0xFF ∨ type = 0 then s.answerControl c inst 4 0 (leBytes 1 1 ++ [0xF1, 0xF3, 0xF0, 0x00])
  else if type = 1 ∨ type = 0x7E then let v := s.freeBytes 4; v.1.answerControl c inst 4 0 (leBytes 1 1 ++ v.2)
  else s.answerControl c inst 4 0x80 []

def execMctpGetVersionSupport (chan : Channel) (inst type : Nat) (s : State) : Host.Outcome State Fault Refusal :=
  .next (if s.hearsMctp chan then s.versionSupport chan inst type else s)

/-- MCTP_GET_MESSAGE_TYPE_SUPPORT: the types of R592 beside control. -/
def execMctpGetMessageTypeSupport (chan : Channel) (inst : Nat) (s : State) : Host.Outcome State Fault Refusal :=
  .next (if s.hearsMctp chan then s.answerControl chan inst 5 0 (leBytes 1 2 ++ leBytes 1 1 ++ leBytes 1 0x7E) else s)

/-- MCTP_GET_VENDOR_MESSAGE_SUPPORT: one set, of the PCI vendor identifier; its command set type is open. -/
def State.vendorSupport (s : State) (c : Channel) (inst sel : Nat) : State :=
  if sel ≠ 0 then s.answerControl c inst 6 2 []
  else
    let v := s.freeBytes 2
    v.1.answerControl c inst 6 0 (leBytes 1 0xFF ++ leBytes 1 0 ++ (leBytes 2 s.vendorId).reverse ++ v.2)

def execMctpGetVendorMessageSupport (chan : Channel) (inst sel : Nat) (s : State) : Host.Outcome State Fault Refusal :=
  .next (if s.hearsMctp chan then s.vendorSupport chan inst sel else s)

/-! ### PLDM types 0 and 2 (R594) -/

/-- A bitBytes of `n` bytes with the bits of a list set. -/
def bitBytes (n : Nat) (l : List Nat) : Bytes := leBytes n (sumList (l.map (fun i => 2 ^ i)))

/-- The base messages: SetTID, GetTID, GetPLDMVersion, GetPLDMTypes, GetPLDMCommands; `arg` is the TID or the type asked for. -/
def State.pldmBase (s : State) (c : Channel) (inst cmd arg : Nat) : State :=
  let ans := fun (s : State) (code : Nat) (d : Bytes) => s.answerPldm c inst 0 cmd code d
  let known := arg == 0 || arg == 2 || arg == 5
  if cmd = 1 then (if arg = 0 ∨ 255 ≤ arg then ans s 2 [] else ans { s with pldm := { s.pldm with tid := arg } } 0 [])
  else if cmd = 2 then ans s 0 (leBytes 1 s.pldm.tid)
  else if cmd = 3 then
    if known then let v := s.freeBytes 8; ans v.1 0 (leBytes 4 0 ++ leBytes 1 5 ++ v.2) else ans s 0x83 []
  else if cmd = 4 then ans s 0 (bitBytes 8 [0, 2, 5])
  else if cmd = 5 then
    if arg = 0 then ans s 0 (bitBytes 32 [1, 2, 3, 4, 5])
    else if arg = 2 then ans s 0 (bitBytes 32 [0x04, 0x11, 0x21, 0x50, 0x51])
    else if arg = 5 then let v := s.freeBytes 32; ans v.1 0 v.2
    else ans s 0x83 []
  else ans s 5 []

/-- PLDM_TYPE_0_MESSAGE. -/
def execPldmType0Message (chan : Channel) (inst cmd arg : Nat) (s : State) : Host.Outcome State Fault Refusal :=
  .next (if s.hearsMctp chan then s.pldmBase chan inst cmd arg else s)

/-- Rails of Table 24-2. -/
def railCount : Nat := 12

/-- Numeric sensors: one for each reading of Table 20-5 (the die, each stack, the module of each present port, board power, and each rail's voltage
and current), and the state sensor of LEVEL. -/
def State.pdrCount (s : State) : Nat := 1 + s.chip.part.stacks + s.portsPresent + 1 + 2 * railCount + 1

/-- PLDM_GET_PDR_REPOSITORY_INFO: available, with its count of records; times and sizes are open. -/
def execPldmGetPdrRepositoryInfo (chan : Channel) (inst : Nat) (s : State) : Host.Outcome State Fault Refusal :=
  if !s.hearsMctp chan then .next s
  else
    let a := s.freeBytes 26
    let b := a.1.freeBytes 9
    .next (b.1.answerPldm chan inst 2 0x50 0 (leBytes 1 0 ++ a.2 ++ leBytes 4 s.pdrCount ++ b.2))

/-- The record of handle `k`, of those numbered from 1; handle 0 asks for the first. Which record describes which sensor, and what it says beyond its
header, is open. -/
def State.getPdr (s : State) (c : Channel) (inst k : Nat) : State :=
  let k := Nat.max 1 k
  if s.pdrCount < k then s.answerPldm c inst 2 0x51 0x82 []
  else
    let n := s.free 6
    let d := n.2.freeBytes n.1.toNat
    let ty := d.1.freeBytes 3
    let rec_ := leBytes 4 k ++ leBytes 1 1 ++ ty.2 ++ leBytes 2 n.1.toNat ++ d.2
    ty.1.answerPldm c inst 2 0x51 0
      (leBytes 4 (if k = s.pdrCount then 0 else k + 1) ++ leBytes 4 0 ++ leBytes 1 5 ++ leBytes 2 rec_.length ++ rec_)

/-- PLDM_GET_PDR. -/
def execPldmGetPdr (chan : Channel) (inst record : Nat) (s : State) : Host.Outcome State Fault Refusal :=
  .next (if s.hearsMctp chan then s.getPdr chan inst record else s)

/-- A rail's last reading; 0 before the first. -/
def Telemetry.rail (x : Telemetry) (k : Nat) : Nat × Nat := nth x.rails k (0, 0)

/-- The reading of a numeric sensor, of 16 bits, and whether it is signed; none for a unit the part has not. -/
def State.sensorReading (s : State) (x : PldmSensor) : Option (Nat × Bool) :=
  match x with
  | .die => some (s.getN rLodgeTempDie, true)
  | .hbm k => if k < s.chip.part.stacks then some (s.getN (rLodgeTempHbm + 4 * k), true) else none
  | .osfp p => if s.portPresent p then some (s.getN (rLodgeTempOsfp + 4 * p), true) else none
  | .board => some (s.getN rLodgePwrBoard, false)
  | .railMv k => if k < railCount then some ((s.tele.rail k).1, false) else none
  | .railCurrent k => if k < railCount then some ((s.tele.rail k).2, false) else none
  | .unknown => none

/-- PLDM_GET_SENSOR_READING. The states of the sensor are open. -/
def execPldmGetSensorReading (chan : Channel) (inst : Nat) (sensor : PldmSensor) (s : State) : Host.Outcome State Fault Refusal :=
  if !s.hearsMctp chan then .next s
  else match s.sensorReading sensor with
    | none => .next (s.answerPldm chan inst 2 0x11 0x80 [])
    | some (v, signed) =>
      let f := s.freeBytes 5
      .next (f.1.answerPldm chan inst 2 0x11 0 (leBytes 1 (if signed then 3 else 2) ++ f.2 ++ leBytes 2 v))

/-- LEVEL of LODGE_THERMAL_STATUS. -/
def State.level (s : State) : Nat := s.getF rLodgeThermalStatus 1 0

/-- PLDM_GET_STATE_SENSOR_READINGS: one sensor, whose present state is LEVEL. -/
def execPldmGetStateSensorReadings (chan : Channel) (inst : Nat) (s : State) : Host.Outcome State Fault Refusal :=
  if !s.hearsMctp chan then .next s
  else
    let f := s.freeBytes 3
    .next (f.1.answerPldm chan inst 2 0x21 0 (leBytes 1 1 ++ f.2.take 1 ++ leBytes 1 s.level ++ f.2.drop 1))

/-- PLDM_SET_EVENT_RECEIVER: the receiver of PlatformEventMessage; with `enable` 0 there is none. -/
def execPldmSetEventReceiver (chan : Channel) (inst enable eid : Nat) (s : State) : Host.Outcome State Fault Refusal :=
  if !s.hearsMctp chan then .next s
  else .next (({ s with pldm := { s.pldm with receiver := if enable = 0 then none else some (chan, eid) } } : State).answerPldm chan inst 2 4 0 [])

/-- LEVEL changes: PlatformEventMessage goes to the receiver set (R594). The sensor's number is open. -/
def State.levelEvent (s : State) (was : Nat) : State :=
  match s.pldm.receiver with
  | none => s
  | some (c, _) =>
    let f := s.freeBytes 2
    if s.hears c then
      f.1.requestPldm c 2 0x0A (leBytes 1 1 ++ leBytes 1 s.pldm.tid ++ leBytes 1 0 ++ f.2 ++ leBytes 1 1 ++ leBytes 1 0 ++ leBytes 1 s.level ++ leBytes 1 was)
    else s

/-! ### PLDM type 5: firmware update (R595) -/

/-- The CLASS 1 entry of a refused or failed update. It has no opcode and no tag of Table 20-1: free values. -/
def State.logPldm (s : State) (c : Channel) (code detail : Nat) : State :=
  let o := s.free 32
  let a := o.2.free 64
  a.2.logEntry { code := code, cls := clsCommand, tenant := noTenant, detail := detail, arg0 := o.1.toNat + chanCode c * 2 ^ 32, arg1 := a.1.toNat }

/-- The update that runs over a channel. -/
def State.updateOn (s : State) (c : Channel) : Option PldmUpdate :=
  match s.pldm.update with
  | some u => if s.hearsMctp c && u.chan == c then some u else none
  | none => none

/-- The update changes. -/
def State.setUpdate (s : State) (u : Option PldmUpdate) : State := { s with pldm := { s.pldm with update := u } }

/-- The update ends (R585, R595). -/
def State.endUpdate (s : State) : State := ((s.setUpdate none).setF rMbxStatus 1 0 3).setF rMbxStatus 15 8 100

/-- The Lodge answers a PLDM update as busy (R586, R599, R608, R609). -/
def State.updateBusy (s : State) : Bool := s.mbx.tripped || (!s.mbx.ready && !s.mbx.stopped) || s.longRuns

/-- The Lodge pulls the next of the component, how much at a time being open; after its last byte it reports the transfer complete by
PLDM_TRANSFER_COMPLETE. -/
def State.pullData (s : State) (u : PldmUpdate) : State :=
  if u.size ≤ u.data.length then s
  else let n := s.freeBytes 4; n.1.requestPldm u.chan 5 0x15 (leBytes 4 u.data.length ++ n.2)

/-- An update begins: it runs as a long command without an opcode of Table 20-2. -/
def State.beginUpdate (s : State) (c : Channel) (inst now size : Nat) : State :=
  let p := s.free 8
  let o := p.2.free 16
  let s := ((o.2.setF rMbxStatus 1 0 2).setF rMbxStatus 15 8 (p.1.toNat % 100)).setF rMbxStatus 31 16 o.1.toNat
  let u : PldmUpdate := { chan := c, size := size, data := [], last := now, slot := none }
  let s := s.answerPldm c inst 5 0x10 0 (leBytes 2 0 ++ leBytes 1 0)
  (s.setUpdate (some u)).pullData u

/-- PLDM_REQUEST_UPDATE, of a component of `size` bytes. -/
def execPldmRequestUpdate (chan : Channel) (inst now size : Nat) (s : State) : Host.Outcome State Fault Refusal :=
  if !s.hearsMctp chan then .next s
  else if s.updateBusy then
    .next ((s.logPldm chan errMbxBusy 0).answerPldm chan inst 5 0x10 (if s.pldm.update.isSome then 0x81 else 4) [])
  else .next (s.beginUpdate chan inst now size)

/-- PLDM_FIRMWARE_DATA: the response to RequestFirmwareData brings the next bytes into the Lodge area. -/
def execPldmFirmwareData (chan : Channel) (now : Nat) (data : Bytes) (s : State) : Host.Outcome State Fault Refusal :=
  match s.updateOn chan with
  | none => .next s
  | some u =>
    let u := { u with data := (u.data ++ data).take u.size, last := now }
    .next ((s.setUpdate (some u)).pullData u)

/-- The component is checked and written as IMG_WRITE with NO_ACTIVATE does (R575). -/
def State.writeComponent (s : State) (u : PldmUpdate) (back : Option Bytes) (ecc : Bool) : State × MbxResult × Option Nat :=
  if !s.flash.good then (s, MbxResult.bad errImgFlashError 0, none)
  else if ecc then (s, MbxResult.bad errMemEccUncorrectable 0, none)
  else
    let s := { s with boot := { s.boot with area := u.data } }
    match s.imageFault u.data s.flash.slotBytes with
    | some off => (s, MbxResult.bad errImgUpdateInvalid off, none)
    | none =>
      let k := s.imageTarget
      let e := (s.startImage k u.data).endImage k u.data true back
      (e.1, e.2, if e.2.code = 0 then some k else none)

/-- PLDM_TRANSFER_COMPLETE: the whole component is in the Lodge area; it is checked and written, and TransferComplete tells the requester, a failure by a
result that is not 0. `back` and `ecc` are as in IMG_WRITE. -/
def execPldmTransferComplete (chan : Channel) (now : Nat) (back : Option Bytes) (ecc : Bool) (s : State) : Host.Outcome State Fault Refusal :=
  match s.updateOn chan with
  | none => .next s
  | some u =>
    if u.data.length < u.size || u.slot.isSome then .next s
    else
      let w := s.writeComponent u back ecc
      let s := (if w.2.1.code = 0 then w.1 else w.1.logPldm chan w.2.1.code w.2.1.detail)
      let r := s.free 8
      let s := (if w.2.1.code = 0 then s.requestPldm chan 5 0x16 (leBytes 1 0) else r.2.requestPldm chan 5 0x16 (leBytes 1 (Nat.max 1 r.1.toNat)))
      .next (s.setUpdate (some { u with last := now, slot := w.2.2 }))

/-- PLDM_ACTIVATE_FIRMWARE: IMG_ACTIVATE with TRIAL on the written slot, and the update ends; self-contained activation is refused. The time it
estimates is open. -/
def execPldmActivateFirmware (chan : Channel) (inst now : Nat) (selfContained : Bool) (s : State) : Host.Outcome State Fault Refusal :=
  if !s.hearsMctp chan then .next s
  else match s.updateOn chan with
    | none => .next (s.answerPldm chan inst 5 0x1A 0x80 [])
    | some u =>
      let s := s.setUpdate (some { u with last := now })
      if selfContained then .next (s.answerPldm chan inst 5 0x1A 0x8C [])
      else match u.slot with
        | none => .next (s.answerPldm chan inst 5 0x1A 0x85 [])
        | some k =>
          let a := s.activate k true
          let s := a.1
          let t := s.freeBytes 2
          .next (if a.2.code = 0 then (t.1.answerPldm chan inst 5 0x1A 0 t.2).endUpdate
            else ((s.logPldm chan a.2.code a.2.detail).answerPldm chan inst 5 0x1A 1 []).endUpdate)

/-- PLDM_CANCEL_UPDATE: the update ends; a target already invalidated stays so (R595, R578). -/
def execPldmCancelUpdate (chan : Channel) (inst : Nat) (s : State) : Host.Outcome State Fault Refusal :=
  if !s.hearsMctp chan then .next s
  else match s.updateOn chan with
    | none => .next (s.answerPldm chan inst 5 0x1D 0x80 [])
    | some _ => .next (s.answerPldm chan inst 5 0x1D 0 (List.replicate 9 0)).endUpdate

/-- PLDM_UPDATE_TIMEOUT: 60 s without a message of the update (R595). -/
def execPldmUpdateTimeout (now : Nat) (s : State) : Host.Outcome State Fault Refusal :=
  match s.pldm.update with
  | none => .next s
  | some u => if now < u.last + 60000000000 then .next s else .next s.endUpdate

end Sys2Proof.Machine
end

