-- ==== Sys2Proof/Machine/Lodge.lean ====
section
/-! DEFINITION. The Lodge's own clockwork (spec/20, R596 to R601; spec/22, R643): the 1 ms tick, the recomputation of power every 100 ms, the thermal
trip, and the writing of the event log. -/

namespace Sys2Proof.Machine

/-! ### Readings (R596) -/

/-- A temperature as its register shows it: i16, or 0x8000 for none. -/
def tempWord (t : Option Int) : Nat := match t with | some v => ofSigned 16 v | none => 0x8000

/-- The largest of a list of readings; none when the list is empty or a reading is missing. -/
def largestOf : List (Option Int) → Option Int
  | [] => none
  | [a] => a
  | a :: t => match a, largestOf t with
    | some x, some y => some (if x < y then y else x)
    | _, _ => none

/-- The die temperature: the largest diode plus LODGE_TEMP_OFFSET. -/
def State.dieTemp (s : State) (x : LodgeSample) : Option Int := (largestOf x.die).map (fun v => v + toSigned 16 (s.getF rLodgeTempOffset 15 0))

/-- The stacks' temperatures, one for each stack of the part. -/
def State.stackTemps (s : State) (x : LodgeSample) : List (Option Int) := (List.range s.chip.part.stacks).map (fun k => nth x.hbm k none)

/-- A sample of the input power after the gain. -/
def State.powerSample (s : State) (x : LodgeSample) : Option Nat := x.power.map (fun p => p * s.getF rLodgePwrGain 15 0 / 32768)

/-- The network ports the part and its fuses have. -/
def State.builtPorts (s : State) : List Nat := (List.range 4).filter (fun p => bit (s.chip.side &&& s.chip.part.sideMap) (14 + p))

/-- The temperature registers. -/
def State.showTemps (s : State) (x : LodgeSample) : State :=
  let s := s.setN rLodgeTempDie (tempWord (s.dieTemp x))
  let s := (List.range s.chip.part.stacks).foldl (fun s k => s.setN (rLodgeTempHbm + 4 * k) (tempWord (nth x.hbm k none))) s
  s.builtPorts.foldl (fun s p => s.setN (rLodgeTempOsfp + 4 * p) (tempWord (nth x.osfp p none))) s

/-- The mean of the samples held, rounded down. -/
def meanOf (l : List Nat) : Nat := sumList l / Nat.max 1 l.length

/-- The samples move on by one tick. -/
def State.noteSample (s : State) (x : LodgeSample) : State :=
  let t := s.tele
  let power := match s.powerSample x with | some p => (p :: t.power).take 10 | none => t.power
  let exc := if (s.powerSample x).isSome then ceilDiv (meanOf power - 8 * s.chip.part.boardW) 8 else 0
  { s with tele := { t with die := (s.dieTemp x :: t.die).take 100, hbm := (s.stackTemps x :: t.hbm).take 100, power := power,
                            excess := (exc :: t.excess).take 1000, rails := x.rails } }

/-- Board power, its peak, and its excess over BOARD_W in the last second, logged when it first rises above 0 (R596, R598). -/
def State.showPower (s : State) (x : LodgeSample) : State :=
  match s.powerSample x with
  | none => s.setN rLodgePwrBoard 0x8000
  | some p =>
    let mean := meanOf s.tele.power
    (s.setN rLodgePwrBoard (Nat.min mean 0xFFFF)).setN rLodgePwrPeak (Nat.max (s.getN rLodgePwrPeak) (Nat.min p 0xFFFF))

/-- A telemetry event of CLASS 3 with its reading. -/
def State.logReading (s : State) (code reading : Nat) : State :=
  let a := s.free 64
  a.2.logEntry { code := code, cls := clsTelemetry, tenant := noTenant, detail := 0, arg0 := reading, arg1 := a.1.toNat }

/-- LODGE_PWR_OVER_W. -/
def State.showOver (s : State) : State :=
  let was := s.getN rLodgePwrOverW
  let now := maxList s.tele.excess
  let s := s.setN rLodgePwrOverW now
  if was = 0 ∧ 0 < now then (s.raise rLodgeThermalEvent 8).logReading errLodgePowerOver (s.getN rLodgePwrBoard) else s

/-! ### The thermal trip (R599) -/

/-- The last two samples of a sensor both reach a limit. -/
def twiceAt (l : List (Option Int)) (limit : Int) : Bool :=
  match l with
  | some a :: some b :: _ => decide (limit ≤ a) && decide (limit ≤ b)
  | _ => false

/-- The reading that trips: of the die at 120 °C, or of a stack at 105 °C. -/
def State.tripReading (s : State) : Option Int :=
  if twiceAt s.tele.die 1920 then (s.tele.die.head?).join
  else match (List.range s.chip.part.stacks).find? (fun k => twiceAt (s.tele.hbm.map (fun l => nth l k none)) 1680) with
    | some k => match s.tele.hbm with | l :: _ => nth l k none | [] => none
    | none => none

/-- Everything that runs stops, without records: tasks, courses, host accesses, links. -/
def State.stopAll (s : State) : State :=
  let s := s.builtPorts.foldl (fun s p => s.setF (portReg rNetPortStatus p) 0 0 0) s
  { s with tasks := [], waits := [], held := [], reads := [], tenants := s.tenants.map (fun x => { x with fetched := [] }),
           rotas := s.rotas.map (fun r => { r with course := none }) }

/-- The running long command, a PLDM update too, ends with MBX_ABANDONED. -/
def State.abandon (s : State) : State :=
  let s := s.endLong (MbxResult.bad errMbxAbandoned 0)
  match s.pldm.update with
  | some u => (s.logPldm u.chan errMbxAbandoned 0).endUpdate
  | none => s

/-- The trip. -/
def State.trip (s : State) (reading : Int) : State :=
  let was := s.level
  let s := (s.stopAll.abandon.emit (.thermtrip true)).setF rLodgeThermalStatus 1 0 3
  let s := { s with mbx := { s.mbx with tripped := true }, power := { s.power with thermtrip := true } }
  (s.logReading errLodgeThermalTrip (ofSigned 16 reading)).levelEvent was

/-- A trip that is due. -/
def State.tripCheck (s : State) : State := if s.mbx.tripped then s else match s.tripReading with | some v => s.trip v | none => s

/-- LODGE_TICK: a 1 ms tick of the Lodge: every sensor is sampled (R596), the trip judged (R599), the sources applied again (R39, R73, R77). -/
def execLodgeTick (now ptp : Nat) (x : LodgeSample) (s : State) : Host.Outcome State Fault Refusal :=
  if !s.lodgeRuns then .next s
  else
    let s := ((s.tickTo now ptp).count64 rLodgeUpMs 1).showTemps x
    .next ((((s.noteSample x).showPower x).showOver).tripCheck).applySources

/-! ### Power every 100 ms (R597) -/

/-- A reading of the last 100 ticks is missing. -/
def Telemetry.missing (t : Telemetry) : Bool := t.die.any (·.isNone) || t.hbm.any (fun l => l.any (·.isNone))

/-- The largest reading of a list, in 1/16 °C; none without a reading. -/
def hottest (l : List (Option Int)) : Option Int := (l.filterMap id).foldl (fun (m : Option Int) v => match m with | some w => some (if w < v then v else w) | none => some v) none

/-- The largest die and HBM samples of the last 100 ticks. -/
def Telemetry.dieMax (t : Telemetry) : Option Int := hottest t.die
def Telemetry.hbmMax (t : Telemetry) : Option Int := hottest (t.hbm.flatMap id)

/-- A temperature in whole °C, rounded down; without a sample nothing is over a limit. -/
def wholeDeg (v : Option Int) : Int := match v with | some x => x / 16 | none => -2048

/-- The watts and the level that R597 computes. -/
def State.recompute (s : State) : Nat × Nat :=
  let td := wholeDeg s.tele.dieMax
  let th := wholeDeg s.tele.hbmMax
  let lim := fun (r hi lo : Nat) => (s.getF r hi lo : Int)
  if s.tele.missing || decide (lim rLodgeDieLimits 15 8 ≤ td) || decide (lim rLodgeHbmLimits 15 8 ≤ th) then (0, 2)
  else
    let x := max 0 (max (td - lim rLodgeDieLimits 7 0) (th - lim rLodgeHbmLimits 7 0))
    let exc := s.getN rLodgePwrOverW
    let a := (s.getF rAdmPowerBudgetW 15 0 : Int) - x * (s.getF rLodgeDerateWPerC 7 0 : Int) - (exc : Int)
    ((max 0 a).toNat, if 0 < x ∨ 0 < exc then 1 else 0)

/-- ADM_POWER_AVAIL_W: lowered at once, raised when the last 10 computations all exceeded it. -/
def State.setAvail (s : State) (a : Nat) : State :=
  let avail := s.getF rAdmPowerAvailW 15 0
  let past := (a :: s.tele.computed).take 10
  let s := { s with tele := { s.tele with computed := past } }
  if a < avail ∨ (past.length = 10 ∧ past.all (fun v => decide (avail < v))) then s.setN rAdmPowerAvailW a else s

/-- The reading a change of LEVEL is logged with: 0x8000 where a sensor gave none, else the sensor closer to its limit. -/
def State.thermalReading (s : State) : Nat :=
  let die := wholeDeg s.tele.dieMax - (s.getF rLodgeDieLimits 7 0 : Int)
  let hbm := wholeDeg s.tele.hbmMax - (s.getF rLodgeHbmLimits 7 0 : Int)
  if s.tele.missing then 0x8000 else tempWord (if die < hbm then s.tele.hbmMax else s.tele.dieMax)

/-- LEVEL is set; a change is logged, raises its bit, and is told to the event receiver (R597, R600, R594). -/
def State.setLevel (s : State) (l : Nat) : State :=
  let was := s.level
  if was = l then s
  else
    let s := (s.setF rLodgeThermalStatus 1 0 l).raise rLodgeThermalEvent (if l = 0 then 4 else if l = 1 then 1 else 2)
    let code := if l = 0 then errLodgeThermalClear else if l = 1 then errLodgeThermalDerate else errLodgeThermalCritical
    (s.logReading code s.thermalReading).levelEvent was

/-- POWER_RECOMPUTE: every 100 ms, from the time the Lodge has applied the limits; after a trip LEVEL stays 3 (R599). -/
def execPowerRecompute (s : State) : Host.Outcome State Fault Refusal :=
  if !s.lodgeRuns || !s.boot.begun || s.mbx.tripped then .next s
  else
    let r := s.recompute
    .next ((s.setAvail r.1).setLevel r.2)

/-! ### The event log (R600, R601, R643) -/

/-- The 64 B of entry `eseq`, with the beat and the local PTP time (Table 20-4). -/
def State.entryBytes (s : State) (eseq : Nat) (e : LogEntry) : Bytes :=
  leBytes 4 eseq ++ leBytes 2 e.code ++ leBytes 1 e.cls ++ leBytes 1 e.tenant ++ leBytes 8 s.beat.number ++ leBytes 6 (s.ptp.clock / 1000000000)
    ++ leBytes 2 0 ++ leBytes 4 (s.ptp.clock % 1000000000) ++ leBytes 4 e.detail ++ leBytes 8 e.arg0 ++ leBytes 8 e.arg1 ++ List.replicate 16 0

/-- The entry that slot `e` % 4096 held is unread when entry `e` takes its place (R601). -/
def State.overwrites (s : State) (e : Nat) : Bool := decide (4096 ≤ toSigned 32 (ofSigned 32 ((e : Int) - (s.getN rLodgeLogReadSeq : Int))))

/-- LOG_ENTRY_WRITE: the oldest waiting entry is written, at least 40 ns after the last (R643), and PF0 vector 1 is sent (R600). -/
def execLogEntryWrite (now ptp : Nat) (s : State) : Host.Outcome State Fault Refusal :=
  match s.log.queue with
  | [] => .next s
  | e :: rest =>
    if !s.lodgeRuns || (match s.log.last with | some l => decide (now < l + 40) | none => false) then .next s
    else
      let s := s.tickTo now ptp
      let n := s.getN rLodgeLogWriteSeq
      let s := (if s.overwrites n then s.count rLodgeLogLostCnt 1 else s)
      let s := { s with log := { queue := rest, ring := sparseSet [] s.log.ring (n % 4096) (s.entryBytes n e), last := some now } }
      .next ((s.setN rLodgeLogWriteSeq (n + 1)).msg 0 1)

end Sys2Proof.Machine
end

