-- ==== Sys2Proof/Machine/Power.lean ====
section
/-! DEFINITION. Supplies, resets and JTAG (spec/24, R676, R677, R679, R682, R684, R685; spec/20, R591). -/

namespace Sys2Proof.Machine

/-! ### Reset of the whole device -/

/-- The device as a reset leaves it: everything at its reset value, with the supplies and pins of `p`; THERMTRIP_N, when it was low, is released
(R670). The waiting commands, what has left the device, the chip and the flash stay. -/
def State.fresh (s : State) (p : Power) : State :=
  let r : State := { State.reset with
    pending := s.pending, freeNo := s.freeNo, chip := s.chip, flash := s.flash, out := s.out, power := p, beat := { Beat.reset with now := s.beat.now } }
  let r := r.setN rImgRomVersion (s.getN rImgRomVersion)
  if s.power.thermtrip then r.emit (.thermtrip false) else r

/-! ### Supplies -/

/-- AUX_POWER_ON: VDD_AON and VDD_IO come up, and the Lodge leaves reset (Table 24-8, steps 1 and 2). -/
def execAuxPowerOn (s : State) : Host.Outcome State Fault Refusal :=
  if s.power.aux then .next s else .next (s.fresh { Power.reset with main := false })

/-- VIN_POWER_ON: the main rails and HBM come up (Table 24-8, steps 3 to 6). A thermal trip stops the sequence (R682); without aux power the module
waits for both inputs (R685). -/
def execVinPowerOn (s : State) : Host.Outcome State Fault Refusal :=
  if !s.power.aux || s.power.main || s.mbx.tripped then .next s
  else .next { s with power := { s.power with main := true } }

/-- The main rails go down, and the device stops as at a power loss (R684). -/
def State.mainDown (s : State) : State :=
  if s.power.main then s.fresh { aux := s.power.aux, main := false, jtag := s.power.jtag, held := false, thermtrip := false } else s

/-- VIN_FAILURE: VIN is out of range for more than 1 ms (R684). -/
def execVinFailure (s : State) : Host.Outcome State Fault Refusal := .next s.mainDown

/-- POWER_GOOD_LOSS: a main-domain power-good falls (R684). -/
def execPowerGoodLoss (s : State) : Host.Outcome State Fault Refusal := .next s.mainDown

/-- AUX_FAILURE: every rail goes down (R685). -/
def execAuxFailure (s : State) : Host.Outcome State Fault Refusal :=
  if s.power.aux then .next (s.fresh { Power.reset with aux := false, main := false }) else .next s

/-- DEVICE_RESET: what an accepted DEV_RESET brings within 10 ms (R591). START_UP follows as a command of its own. -/
def execDeviceReset (s : State) : Host.Outcome State Fault Refusal :=
  if s.mbx.resetDue then .next (s.fresh { s.power with thermtrip := false }) else .next s

/-! ### JTAG (R676, R677) -/

/-- An instruction is loaded; the JTAG buffers need aux power. -/
def State.loadJtag (s : State) (i : JtagInstr) : State := if s.power.aux then { s with power := { s.power with jtag := i } } else s

/-- The IDCODE: STEPPING bits 3 to 0, the part code, Uzocor's JEP106 identity, and 1. -/
def Chip.idcode (c : Chip) : Nat := c.stepping % 16 * 2 ^ 28 + c.part.code * 2 ^ 12 + (Config.builtIn 11 0).toNat * 2 + 1

/-- JTAG_BYPASS: loaded. -/
def execJtagBypass (s : State) : Host.Outcome State Fault Refusal := .next (s.loadJtag .bypass)

/-- JTAG_IDCODE: loaded, and the identity comes out. -/
def execJtagIdcode (s : State) : Host.Outcome State Fault Refusal :=
  if s.power.aux then .next ((s.loadJtag .idcode).emit (.jtag s.chip.idcode)) else .next s

/-- JTAG_SAMPLE_PRELOAD: loaded; the pins' own values are not modelled (NOTES.md, Scope). -/
def execJtagSamplePreload (s : State) : Host.Outcome State Fault Refusal := .next (s.loadJtag .samplePreload)

/-- EXTEST or CLAMP holds every function in reset until the next power cycle (R677). -/
def State.holdReset (s : State) (i : JtagInstr) : State :=
  if !s.power.aux then s
  else if s.power.held then s.loadJtag i
  else s.fresh { aux := true, main := s.power.main, jtag := i, held := true, thermtrip := false }

/-- JTAG_EXTEST. -/
def execJtagExtest (s : State) : Host.Outcome State Fault Refusal := .next (s.holdReset .extest)

/-- JTAG_CLAMP. -/
def execJtagClamp (s : State) : Host.Outcome State Fault Refusal := .next (s.holdReset .clamp)

end Sys2Proof.Machine
end

