-- ==== Sys2Proof/Machine/StartUp.lean ====
section
/-! DEFINITION. Start-up (spec/01, R24 to R37; spec/19, R557 to R573, Table 19-11; spec/04, R154; spec/15, R461; spec/18, R556; spec/03, R111). -/

namespace Sys2Proof.Machine

/-! ### Orders 1 and 2: the flash and the factory page -/

/-- The SFDP tables, with what IMG_STATUS and IMG_FLASH_INFO show of them (R557). -/
def State.bootFlash (s : State) : State :=
  if s.flash.good then (s.setF rImgStatus 8 8 1).setN rImgFlashInfo (s.flash.mib + (s.flash.mib - 4) / 2 * 0x10000)
  else s.logOpen errImgFlashUnsupported noTenant 0

/-- The factory page in use (R560); from here on configuration is answered (R527). -/
def State.bootFactory (s : State) : State :=
  let s := { s with host := { s.host with pcie := true } }
  if !s.flash.good then s
  else match s.factoryPage with
    | none => s.logOpen errImgFactoryInvalid noTenant 0
    | some (k, b) =>
      let s := { s with boot := { s.boot with factory := some b } }
      let s := (s.setF rImgStatus 4 4 1).setF rImgStatus 5 5 k
      (List.range 4).foldl (fun s i => s.setN (rImgSerial + 4 * i) (fieldAt b (0x10 + 4 * i) 4)) s

/-! ### Orders 3 and 4: the journal and the slots (R569, R570) -/

/-- The slots to try, in order, with the slot that is passed over for its attempts. -/
def Flash.tries (f : Flash) : List Nat × Option Nat :=
  let j := f.jstate
  let all := match j.active with
    | some a => if j.trial && decide (3 ≤ j.attempts) then ([1 - a], some a) else ([a, 1 - a], none)
    | none => if f.seq 0 < f.seq 1 then ([1, 0], none) else ([0, 1], none)
  (all.1.filter (fun k => imageHeaderOk (f.header k) f.slotBytes && !f.invalidated k), all.2)

/-- A fallback is logged and shown. -/
def State.fellBack (s : State) (slot reason : Nat) : State := (s.logOpen errImgSlotFallback noTenant (slot + reason * 256)).setF rImgStatus 3 3 1

/-- One slot is read into the Lodge area and checked: true when it is valid. `ecc` says that a word of the area was uncorrectable (R634). -/
def State.trySlot (s : State) (k : Nat) (ecc : Bool) : State × Bool :=
  let j := s.flash.jstate
  let s := (if j.active == some k && j.trial then s.journalAdd 3 k (s.flash.seq k) false else s)
  let b := s.flash.image k
  let o := s.free 24
  match (if ecc then some o.1.toNat else s.imageFault b s.flash.slotBytes) with
  | some off => ((if ecc then o.2 else s).logOpen errImgSlotInvalid noTenant (k + off % 2 ^ 24 * 256), false)
  | none => ({ s with boot := { s.boot with slot := some k, area := b } }, true)

/-- The slots of a list are tried; `first` is the first that was read and not valid. -/
def State.trySlots (s : State) (ecc : List Nat) (first : Option Nat) : List Nat → State
  | [] => s.logOpen errImgNoValidSlot noTenant 0
  | k :: t => match s.trySlot k (ecc.contains k) with
    | (s, true) => (match first with | some a => s.fellBack a 1 | none => s)
    | (s, false) => s.trySlots ecc (first <|> some k) t

/-- The slot chosen, and what the image registers show of it. -/
def State.bootSlot (s : State) (ecc : List Nat) : State :=
  if !s.flash.good then s.setF rImgStatus 1 0 3
  else
    let s := (s.setN rImgSlotASeq (s.flash.seq 0)).setN rImgSlotBSeq (s.flash.seq 1)
    let c := s.flash.tries
    let s := (match c.2 with | some a => s.fellBack a 2 | none => s)
    let s := s.trySlots ecc none c.1
    match s.boot.slot with
    | none => (s.setF rImgStatus 1 0 3).showJournal
    | some k => (((s.setF rImgStatus 1 0 k).setN rImgActiveSeq (ihSeq s.boot.area)).set64 rImgBuildId (fieldAt s.boot.area 0x20 8)).showJournal

/-! ### Orders 5 and 6: calibration, values, mask and firmware (R565, R567, R461) -/

/-- The calibration copy in use; none without a factory page. -/
def State.bootCal (s : State) : State × List Bytes :=
  match s.boot.factory with
  | none => (s, [])
  | some p => match s.flash.calibration (some (fpSerial p)) with
    | some (k, b) =>
      let s := { s with boot := { s.boot with calCopy := some k } }
      (((s.setF rImgStatus 6 6 1).setF rImgStatus 7 7 k).setN rImgCalGen (calGen b), recordList (b.drop 0x20) (calRecords b))
    | none => (if s.flash.calErased then s else s.logOpen errImgCalInvalid noTenant 0, [])

/-- The content of the started image's section of a type that occurs at most once; empty without one. -/
def State.imageSection (s : State) (ty : Nat) : Bytes :=
  if s.boot.slot.isNone then [] else match secsOf s.boot.area ty with | k :: _ => section_ s.boot.area k | [] => []

/-- The staleness limit of every tenant number at its image default (Table 14-13). -/
def staleRegs : List (Nat × Nat) := (List.range 128).map (fun t => (rNetTenSensorStaleUs + 4 * t, staleDefault))

/-- The layers combine and take force, what their records break is logged; the values that follow from them: the power available, the BEAT_IN epoch
armed at start (R43), and the firmware's version. -/
def State.bootValues (s : State) (cal : List Bytes) : State :=
  let p := s.chip.part
  let fac := match s.boot.factory with | some b => readRecords p 1 (recordList (b.drop 0x40) (fpRecords b)) | none => Records.empty
  let macs := match s.boot.factory with | some b => factoryMacs b ((List.range 4).filter (fun k => bit (s.chip.side &&& p.sideMap) (14 + k))) | none => []
  let img := let b := s.imageSection 1; readRecords p 2 (recordList b (b.length / 24))
  let usr := readRecords p 3 cal
  let s := (fac.logs ++ img.logs ++ usr.logs).foldl (fun s e => s.logOpen e.1 noTenant e.2) s
  let s := s.applySettings (combine p fac.bounds (fac.values ++ macs) img.values usr.values)
  let s := s.putGrant staleRegs
  let s := s.setN rAdmPowerAvailW (s.getF rAdmPowerBudgetW 15 0)
  let s := (if bit (s.getN rBeatCtrl) 1 then { s with beat := { s.beat with inEpoch := true, inNext := some 0 } } else s)
  s.setN rStrFwVersion (if s.boot.slot.isSome then fieldAt s.boot.area 0x1C 4 else (Config.builtIn 32 2).toNat)

/-! ### Order 7: the self-test and what is present (R24 to R27, R32 to R37) -/

/-- The bits of `a` that `b` does not hold, of 18. -/
def without (a b : Nat) : Nat := a &&& (0x3FFFF ^^^ (b &&& 0x3FFFF))

/-- The units the image's mask names, of those the part has. -/
def State.maskOf (s : State) : Nat × Nat :=
  let b := s.imageSection 2
  (fieldAt b 0 2 &&& s.chip.part.weaveMap, fieldAt b 4 4 &&& s.chip.part.sideMap)

/-- The class code and physical instance of a bit of LODGE_CAP_SIDE_MAP. -/
def sideInst (i : Nat) : Nat × Nat := if i < 8 then (4, i) else if i < 12 then (6, i - 8) else if i < 14 then (7, i - 12) else (8, i - 14)

/-- Select units that serve a present group (R24). -/
def servedSelects (weave : Nat) : Nat := sumList ((List.range 8).map (fun k => if bit weave (2 * k) || bit weave (2 * k + 1) then 2 ^ k else 0))

/-- A failing unit group is logged. -/
def State.logBist (s : State) (weave side : Nat) : State :=
  let s := ((List.range 16).filter (bit weave)).foldl (fun s g => s.logOpen errLodgeUnitBistFail noTenant (1 + g * 256)) s
  ((List.range 18).filter (bit side)).foldl (fun s i => s.logOpen errLodgeUnitBistFail noTenant ((sideInst i).1 + (sideInst i).2 * 256)) s

/-- The capability registers, complete. -/
def State.putCaps (s : State) (weave side mw ms bw bs : Nat) : State :=
  let p := s.chip.part
  let w := popOf weave 16
  let n := fun lo k => popOf (side / 2 ^ lo) k
  { s with pf0 := putRegs s.pf0 [(rLodgeCapCountA, w + 4 * w * 0x100 + w * 0x10000 + w * 0x1000000),
    (rLodgeCapCountB, n 0 8 + n 8 4 * 0x100 + n 12 2 * 0x10000 + n 14 4 * 0x1000000), (rLodgeCapMem, p.banks + p.stacks * 0x100),
    (rLodgeCapWeaveMap, weave), (rLodgeCapSideMap, side), (rLodgeCapWeaveImg, mw), (rLodgeCapWeaveBist, bw), (rLodgeCapSideImg, ms),
    (rLodgeCapSideBist, bs), (rLodgeCapLimits, 4096 + 1024 * 0x10000), (rLodgeCapLimitsB, 192 + 128 * 0x100 + p.boardW * 0x10000),
    (rLodgeCapClocks, 1600 + 2000 * 0x10000), (rStrFwState, 1), (rLodgeCapId, p.code + s.chip.stepping % 256 * 0x10000 + 2 ^ 31)] }

/-- A memory that fails stops start-up (R33). -/
def State.stopStart (s : State) (x : SelfTest) : State :=
  let s := x.oryBanks.foldl (fun s k => s.logOpen errLodgeMemBistFail noTenant (k % 256 + 0x100)) s
  let s := x.hbmStacks.foldl (fun s k => s.logOpen errLodgeMemBistFail noTenant (k % 256)) s
  { (s.setF rMbxStatus 3 3 1) with mbx := { s.mbx with stopped := true }, boot := { s.boot with areaOk := x.hbmStacks.isEmpty } }

/-- The self-test, the mask and what remains; all HBM is held as freed, all of the Orangery is free, and no init tag is set (R154). -/
def State.bootUnits (s : State) (x : SelfTest) : State :=
  let fw := s.chip.weave &&& s.chip.part.weaveMap
  let fs := s.chip.side &&& s.chip.part.sideMap
  let bw := x.weave &&& fw
  let bs := x.side &&& fs
  let m := s.maskOf
  let void := without (without fw m.1) bw == 0 && m.1 != 0
  let s := (if void then s.logOpen errImgMaskInvalid noTenant 0 else s).logBist bw bs
  let mw := if void then 0 else m.1
  let ms := if void then 0 else m.2
  if !x.oryBanks.isEmpty || !x.hbmStacks.isEmpty then s.stopStart x
  else
    let weave := without (without fw mw) bw
    let side := without (without fs ms) bs
    let side := (side &&& 0x3FF00) ||| (side &&& servedSelects weave)
    let s := s.putCaps weave side mw ms bw bs
    { s with mem := { s.mem with tags := [], zeroQ := [(0, s.allocatable)], hbmFree := [], oryFree := [(0, s.chip.part.oryGranules)] } }

/-! ### Order 8: standing tenants (R571, R556) -/

/-- A section is skipped, with the code that refused it where there is one. -/
def State.skipSection (s : State) (k t : Nat) (code : Option Nat) : State :=
  match code with
  | some c => s.logOne errImgRecordInvalid t k c
  | none => s.logOpen errImgRecordInvalid t k

/-- A DATA section: its bytes are placed in tenant HBM. -/
def State.bootData (s : State) (k t : Nat) (b : Bytes) : State :=
  match s.writeMem t .hbm (fieldAt b 8 8) (b.drop 16) with
  | (s, none) => s
  | (s, some _) => s.skipSection k t none

/-- Why a context is refused for a queue pair that goes from RESET to RTS (R470). -/
def State.bootQpRefusal (s : State) (t q : Nat) (c : Bytes) : Option Nat :=
  match s.qp? t q with
  | none => some errNetQpInvalid
  | some x => if x.st ≠ 0 then some errNetQpState else if !s.ctxOk c then some errNetQpInvalid else none

/-- A QP section: the queue pair goes through INIT, RTR and RTS. -/
def State.bootQp (s : State) (k t : Nat) (b : Bytes) : State :=
  match s.bootQpRefusal t (fieldAt b 2 2) (slice b 8 64) with
  | some c => s.skipSection k t (some c)
  | none => s.updQp t (fieldAt b 2 2) (fun x => { x.loaded (slice b 8 64) with st := 3 })

/-- A REGION section: the region is registered. -/
def State.bootRegion (s : State) (k t : Nat) (b : Bytes) : State :=
  if 64 ≤ fieldAt b 1 1 then s.skipSection k t (some errNetMrInvalid)
  else
    let r := s.putRegion t (fieldAt b 1 1) (fieldAt b 8 8) (fieldAt b 0x10 8) (fieldAt b 4 4)
    if r.2 = 0 then r.1 else r.1.skipSection k t (some r.2)

/-- A DATA, QP or REGION section of a tenant. -/
def State.bootSection (s : State) (t k : Nat) : State :=
  let b := section_ s.boot.area k
  match secType s.boot.area k with
  | 5 => s.bootData k t b
  | 6 => s.bootQp k t b
  | 7 => s.bootRegion k t b
  | _ => s

/-- The sections that belong to tenants. -/
def isTenantPart (ty : Nat) : Bool := ty == 5 || ty == 6 || ty == 7

/-- The DATA, QP and REGION sections that name tenant `t`, in section order. -/
def partsOf (area : Bytes) (t : Nat) : List Nat :=
  (List.range (ihSections area)).filter (fun k => isTenantPart (secType area k) && fieldAt (section_ area k) 0 1 == t)

/-- A created standing tenant gets its sections. -/
def State.fillTenant (s : State) (t : Nat) : State := (partsOf s.boot.area t).foldl (fun s k => s.bootSection t k) s

/-- A standing tenant or Rota was refused. -/
def State.bootRefused (s : State) (code tenant detail : Nat) : State :=
  let s := s.logOpen code tenant detail
  { s with boot := { s.boot with allOk := false } }

/-- The TENANT sections of a list; the first whose creation has to wait for zeroed granules stops the list (R125). -/
def State.setupTenants (s : State) : List Nat → State × Bool
  | [] => (s, true)
  | k :: rest =>
    let b := section_ s.boot.area k
    match s.create b true with
    | .refused c d => (s.bootRefused c (gTenant b) d).setupTenants rest
    | .created s => (s.fillTenant (gTenant b)).setupTenants rest
    | .waits s => ({ s with boot := { s.boot with todo := some k } }, false)

/-! ### Order 8: standing Rotas (R572, R111) -/

/-- Fields of a standing Rota record (Table 19-7). -/
def srTenant (b : Bytes) : Nat := fieldAt b 0 1
def srBinds (b : Bytes) : Nat := fieldAt b 1 1
def srRotaBytes (b : Bytes) : Nat := fieldAt b 4 4
def srBindBytes (b : Bytes) : Nat := fieldAt b 8 4
def srBindAddr (b : Bytes) : Nat := fieldAt b 0x18 8
def srStride (b : Bytes) : Nat := roundUp (srBindBytes b) 64

/-- Binding table `i` of a record. -/
def srBind (b : Bytes) (i : Nat) : Bytes := slice b (0x40 + roundUp (srRotaBytes b) 64 + i * srStride b) (srBindBytes b)

/-- The record keeps Table 19-7, and its tables lie within the tenant's allocation. -/
def State.standingOk (s : State) (b : Bytes) : Bool :=
  decide (1 ≤ srBinds b ∧ srBinds b ≤ 4) && fieldAt b 2 2 == 0 && srBindAddr b % 64 == 0 && allZero (slice b 0x20 32)
    && decide (0x40 + roundUp (srRotaBytes b) 64 + (srBinds b - 1) * srStride b + srBindBytes b ≤ b.length)
    && decide (srBindAddr b + (srBinds b - 1) * srStride b + srBindBytes b ≤ runsLen (s.extents (srTenant b) .hbm) * 0x400000)

/-- A standing Rota whose tables are in place is admitted, or refused and logged. -/
def State.admitStanding (s : State) (x : Tenant) (b : Bytes) : State :=
  let bin := slice b 0x40 (srRotaBytes b)
  let st : Standing := { nBind := srBinds b, bindBytes := srBindBytes b, bindAddr := srBindAddr b, samples := fieldAt b 0xC 4, origin := fieldAt b 0x10 8 }
  match s.readMem x.id .hbm false (srBindAddr b) (srBindBytes b) with
  | (s, .error c) => s.bootRefused c x.id 0
  | (s, .ok bt) => match s.admitRefusal x bin (some bt) true with
    | some f => (s.noteLayout x.id f).bootRefused f.code x.id f.detail
    | none => (s.admitRota x bin (some bt) (some st)).1

/-- One STANDING section. -/
def State.bootStanding (s : State) (k : Nat) : State :=
  let b := section_ s.boot.area k
  match s.tenant? (srTenant b) with
  | none => s.bootRefused errImgRecordInvalid (srTenant b) k
  | some x =>
    if !s.standingOk b then s.bootRefused errImgRecordInvalid (srTenant b) k
    else
      let s := (List.range (srBinds b)).foldl (fun s i => (s.writeMem x.id .hbm (srBindAddr b + i * srStride b) (srBind b i)).1) s
      s.admitStanding x b

/-! ### The end of start-up -/

/-- The DATA, QP and REGION sections of tenants that no TENANT section created are skipped. -/
def State.skipOrphans (s : State) : State :=
  ((List.range (ihSections s.boot.area)).filter (fun k => isTenantPart (secType s.boot.area k)
      && (s.tenant? (fieldAt (section_ s.boot.area k) 0 1)).isNone)).foldl
    (fun s k => s.skipSection k (fieldAt (section_ s.boot.area k) 0 1) none) s

/-- Step 7 of Table 1-7: the mailbox takes commands, and a trial slot that asks for it is confirmed (R570, R608). -/
def State.ready (s : State) : State :=
  let s := { (s.setF rMbxStatus 2 2 1) with mbx := { s.mbx with ready := true }, beat := { s.beat with startDone := some s.beat.now }, boot := { s.boot with todo := none } }
  match s.boot.slot with
  | none => s
  | some k =>
    let j := s.flash.jstate
    if ihAutoConfirm s.boot.area && s.boot.allOk && j.active == some k && j.trial then s.journalAdd 4 k (ihSeq s.boot.area) false else s

/-- Standing tenants from a list of TENANT sections on, then standing Rotas and readiness, unless a creation waits. -/
def State.bootFrom (s : State) (l : List Nat) : State :=
  match s.setupTenants l with
  | (s, false) => s
  | (s, true) => ((secsOf s.boot.area 8).foldl State.bootStanding s.skipOrphans).ready

/-- START_UP: the single read of the flash, in the order of Table 19-11, and Table 1-7. `flash` is the module's flash where it was programmed outside
the device, `self` what the self-test finds. -/
def execStartUp (flash : Option FlashImage) (self : SelfTest) (now ptp : Nat) (s : State) : Host.Outcome State Fault Refusal :=
  if !s.power.aux || !s.power.main || s.power.held || s.mbx.tripped || s.boot.begun then .next s
  else
    let s := { s with boot := { s.boot with begun := true }, flash := match flash with | some x => FlashImage.flash x | none => s.flash }
    let s := (((s.noteTimes now ptp).bootFlash).bootFactory).bootSlot self.slotEcc
    let c := s.bootCal
    let s := (c.1.bootValues c.2).bootUnits self
    if s.mbx.stopped then .next s else .next (s.bootFrom (secsOf s.boot.area 4))

/-! ### A creation that waited (R125) -/

/-- TEN_CREATE_COMPLETE: the granules a creation waits for are there, or can no longer be had; the command ends, or start-up goes on from its section. -/
def execTenCreateComplete (s : State) : Host.Outcome State Fault Refusal :=
  match s.creating? with
  | none => .next s
  | some x => match s.retryCreate x with
    | none => .next s
    | some (s, r) => match s.boot.todo with
      | none => .next (s.endLong r)
      | some k =>
        let s := { s with boot := { s.boot with todo := none } }
        let s := (if r.code = 0 then s.fillTenant x.id else s.bootRefused r.code x.id r.detail)
        .next (s.bootFrom ((secsOf s.boot.area 4).filter (fun j => decide (k < j))))

end Sys2Proof.Machine
end

