-- ==== Sys2Proof/Machine/Dispatch.lean ====
section
/-! DEFINITION. One arm per command: the meaning it calls. -/

namespace Sys2Proof.Machine

def exec (i : Instr) (s : State) : Host.Outcome State Fault Refusal :=
  match i with
  | .auxPowerOn => Sys2Proof.Machine.execAuxPowerOn s
  | .vinPowerOn => Sys2Proof.Machine.execVinPowerOn s
  | .startUp flash self now ptp => Sys2Proof.Machine.execStartUp flash self now ptp s
  | .vinFailure => Sys2Proof.Machine.execVinFailure s
  | .powerGoodLoss => Sys2Proof.Machine.execPowerGoodLoss s
  | .auxFailure => Sys2Proof.Machine.execAuxFailure s
  | .deviceReset => Sys2Proof.Machine.execDeviceReset s
  | .lodgeTick now ptp x => Sys2Proof.Machine.execLodgeTick now ptp x s
  | .powerRecompute => Sys2Proof.Machine.execPowerRecompute s
  | .beatBoundary now ptp => Sys2Proof.Machine.execBeatBoundary now ptp s
  | .beatInPulse now ptp => Sys2Proof.Machine.execBeatInPulse now ptp s
  | .beatLost now ptp => Sys2Proof.Machine.execBeatLost now ptp s
  | .beatNoSource now ptp => Sys2Proof.Machine.execBeatNoSource now ptp s
  | .ptpHoldoverExpiry now ptp => Sys2Proof.Machine.execPtpHoldoverExpiry now ptp s
  | .ptpSync m origin twoStep => Sys2Proof.Machine.execPtpSync m origin twoStep s
  | .ptpAnnounce m attrs => Sys2Proof.Machine.execPtpAnnounce m attrs s
  | .ptpFollowUp m origin => Sys2Proof.Machine.execPtpFollowUp m origin s
  | .ptpDelayResponse m a b c d => Sys2Proof.Machine.execPtpDelayResponse m a b c d s
  | .netPtpUnlock now ptp => Sys2Proof.Machine.execNetPtpUnlock now ptp s
  | .ppsEdge now ptp => Sys2Proof.Machine.execPpsEdge now ptp s
  | .guardBand => Sys2Proof.Machine.execGuardBand s
  | .coilCtxPerform t => Sys2Proof.Machine.execCoilCtxPerform t s
  | .granuleZeroed => Sys2Proof.Machine.execGranuleZeroed s
  | .logEntryWrite now ptp => Sys2Proof.Machine.execLogEntryWrite now ptp s
  | .mbxNop r => Sys2Proof.Machine.execMbxNop r s
  | .mbxIdentify r => Sys2Proof.Machine.execMbxIdentify r s
  | .mbxUnknownCommand r => Sys2Proof.Machine.execMbxUnknownCommand r s
  | .tenCreate r => Sys2Proof.Machine.execTenCreate r s
  | .tenCreateComplete => Sys2Proof.Machine.execTenCreateComplete s
  | .tenReset r => Sys2Proof.Machine.execTenReset r s
  | .tenResetComplete t => Sys2Proof.Machine.execTenResetComplete t s
  | .tenDestroy r => Sys2Proof.Machine.execTenDestroy r s
  | .rotaAdmit r => Sys2Proof.Machine.execRotaAdmit r s
  | .rotaRetire r => Sys2Proof.Machine.execRotaRetire r s
  | .beatSetEpoch r => Sys2Proof.Machine.execBeatSetEpoch r s
  | .hostQuiesce r => Sys2Proof.Machine.execHostQuiesce r s
  | .hostQuiesceComplete => Sys2Proof.Machine.execHostQuiesceComplete s
  | .hostQuiesceAbort => Sys2Proof.Machine.execHostQuiesceAbort s
  | .hostResume r => Sys2Proof.Machine.execHostResume r s
  | .imgWrite r => Sys2Proof.Machine.execImgWrite r s
  | .imgActivate r => Sys2Proof.Machine.execImgActivate r s
  | .imgConfirm r => Sys2Proof.Machine.execImgConfirm r s
  | .imgCalWrite r => Sys2Proof.Machine.execImgCalWrite r s
  | .devReset r => Sys2Proof.Machine.execDevReset r s
  | .mctpSetEndpointId chan inst op eid => Sys2Proof.Machine.execMctpSetEndpointId chan inst op eid s
  | .mctpGetEndpointId chan inst => Sys2Proof.Machine.execMctpGetEndpointId chan inst s
  | .mctpGetVersionSupport chan inst type => Sys2Proof.Machine.execMctpGetVersionSupport chan inst type s
  | .mctpGetMessageTypeSupport chan inst => Sys2Proof.Machine.execMctpGetMessageTypeSupport chan inst s
  | .mctpGetVendorMessageSupport chan inst sel => Sys2Proof.Machine.execMctpGetVendorMessageSupport chan inst sel s
  | .pldmGetPdrRepositoryInfo chan inst => Sys2Proof.Machine.execPldmGetPdrRepositoryInfo chan inst s
  | .pldmGetPdr chan inst record => Sys2Proof.Machine.execPldmGetPdr chan inst record s
  | .pldmGetSensorReading chan inst sensor => Sys2Proof.Machine.execPldmGetSensorReading chan inst sensor s
  | .pldmGetStateSensorReadings chan inst => Sys2Proof.Machine.execPldmGetStateSensorReadings chan inst s
  | .pldmSetEventReceiver chan inst enable eid => Sys2Proof.Machine.execPldmSetEventReceiver chan inst enable eid s
  | .pldmRequestUpdate chan inst now size => Sys2Proof.Machine.execPldmRequestUpdate chan inst now size s
  | .pldmFirmwareData chan now data => Sys2Proof.Machine.execPldmFirmwareData chan now data s
  | .pldmTransferComplete chan now back ecc => Sys2Proof.Machine.execPldmTransferComplete chan now back ecc s
  | .pldmActivateFirmware chan inst now selfContained => Sys2Proof.Machine.execPldmActivateFirmware chan inst now selfContained s
  | .pldmCancelUpdate chan inst => Sys2Proof.Machine.execPldmCancelUpdate chan inst s
  | .pldmUpdateTimeout now => Sys2Proof.Machine.execPldmUpdateTimeout now s
  | .cfgCommit go => Sys2Proof.Machine.execCfgCommit go s
  | .memTUpdGo t go pinned => Sys2Proof.Machine.execMemTUpdGo t go pinned s
  | .coilCtxSave t => Sys2Proof.Machine.execCoilCtxSave t s
  | .coilCtxRestore t => Sys2Proof.Machine.execCoilCtxRestore t s
  | .beatDoorbell now ptp => Sys2Proof.Machine.execBeatDoorbell now ptp s
  | .hostTSqTailDb t q v => Sys2Proof.Machine.execHostTSqTailDb t q v s
  | .hostTCqHeadDb t q v => Sys2Proof.Machine.execHostTCqHeadDb t q v s
  | .queueEnable t => Sys2Proof.Machine.execQueueEnable t s
  | .queueDisable t => Sys2Proof.Machine.execQueueDisable t s
  | .qpInit t => Sys2Proof.Machine.execQpInit t s
  | .qpRtr t => Sys2Proof.Machine.execQpRtr t s
  | .qpRts t => Sys2Proof.Machine.execQpRts t s
  | .qpErr t => Sys2Proof.Machine.execQpErr t s
  | .qpReset t => Sys2Proof.Machine.execQpReset t s
  | .netTMrCtrl t value => Sys2Proof.Machine.execNetTMrCtrl t value s
  | .lodgeLogReadSeq value => Sys2Proof.Machine.execLodgeLogReadSeq value s
  | .lodgePwrPeakRead => Sys2Proof.Machine.execLodgePwrPeakRead s
  | .pairLowRead fn off => Sys2Proof.Machine.execPairLowRead fn off s
  | .hoopHeadRead t => Sys2Proof.Machine.execHoopHeadRead t s
  | .stakeFullRead t => Sys2Proof.Machine.execStakeFullRead t s
  | .registerWrite fn addr data poisoned => Sys2Proof.Machine.execRegisterWrite fn addr data poisoned s
  | .configRequest f r => Sys2Proof.Machine.execConfigRequest f r s
  | .dlDown => Sys2Proof.Machine.execDlDown s
  | .dlUp gen width flit => Sys2Proof.Machine.execDlUp gen width flit s
  | .pcieInterfaceReset => Sys2Proof.Machine.execPcieInterfaceReset s
  | .functionLevelReset f => Sys2Proof.Machine.execFunctionLevelReset f s
  | .linkRetrained gen width flit => Sys2Proof.Machine.execLinkRetrained gen width flit s
  | .atsInvalidationRequest t base log2 => Sys2Proof.Machine.execAtsInvalidationRequest t base log2 s
  | .translationCompletion t base log2 rd wr => Sys2Proof.Machine.execTranslationCompletion t base log2 rd wr s
  | .hostReadCompletion no r => Sys2Proof.Machine.execHostReadCompletion no r s
  | .hostCplTimeout no => Sys2Proof.Machine.execHostCplTimeout no s
  | .descriptorFetch t q r => Sys2Proof.Machine.execDescriptorFetch t q r s
  | .taskAccept t q r pinned => Sys2Proof.Machine.execTaskAccept t q r pinned s
  | .hostStagingStart h seq => Sys2Proof.Machine.execHostStagingStart h seq s
  | .courseStart h c => Sys2Proof.Machine.execCourseStart h c s
  | .courseFinish h => Sys2Proof.Machine.execCourseFinish h s
  | .rotaCourseOverrun h => Sys2Proof.Machine.execRotaCourseOverrun h s
  | .transferIssue h n => Sys2Proof.Machine.execTransferIssue h n s
  | .transferComplete h n no check => Sys2Proof.Machine.execTransferComplete h n no check s
  | .slotCommit h n => Sys2Proof.Machine.execSlotCommit h n s
  | .slotAcquire h n => Sys2Proof.Machine.execSlotAcquire h n s
  | .stakeWaitRelease p => Sys2Proof.Machine.execStakeWaitRelease p s
  | .coilFrameDecode h n => Sys2Proof.Machine.execCoilFrameDecode h n s
  | .coilFrameEncode h n => Sys2Proof.Machine.execCoilFrameEncode h n s
  | .filterCmp h n => Sys2Proof.Machine.execFilterCmp h n s
  | .maskAnd h n => Sys2Proof.Machine.execMaskAnd h n s
  | .maskOr h n => Sys2Proof.Machine.execMaskOr h n s
  | .maskNot h n => Sys2Proof.Machine.execMaskNot h n s
  | .filterMask h n => Sys2Proof.Machine.execFilterMask h n s
  | .hash h n => Sys2Proof.Machine.execHash h n s
  | .hashBucket h n => Sys2Proof.Machine.execHashBucket h n s
  | .widthBucket h n => Sys2Proof.Machine.execWidthBucket h n s
  | .boundBucket h n => Sys2Proof.Machine.execBoundBucket h n s
  | .clip h n => Sys2Proof.Machine.execClip h n s
  | .log1p h n => Sys2Proof.Machine.execLog1p h n s
  | .slog1p h n => Sys2Proof.Machine.execSlog1p h n s
  | .minmax h n => Sys2Proof.Machine.execMinmax h n s
  | .zscore h n => Sys2Proof.Machine.execZscore h n s
  | .stats h n => Sys2Proof.Machine.execStats h n s
  | .statsRecordEmit h n => Sys2Proof.Machine.execStatsRecordEmit h n s
  | .joinBuild h n => Sys2Proof.Machine.execJoinBuild h n s
  | .joinProbe h n => Sys2Proof.Machine.execJoinProbe h n s
  | .groupKey h n => Sys2Proof.Machine.execGroupKey h n s
  | .groupAgg h n => Sys2Proof.Machine.execGroupAgg h n s
  | .seqGather h n => Sys2Proof.Machine.execSeqGather h n s
  | .tileMatmul h n => Sys2Proof.Machine.execTileMatmul h n s
  | .embedBag h n => Sys2Proof.Machine.execEmbedBag h n s
  | .cross h n => Sys2Proof.Machine.execCross h n s
  | .onehotMm h n => Sys2Proof.Machine.execOnehotMm h n s
  | .div h n => Sys2Proof.Machine.execDiv h n s
  | .recip h n => Sys2Proof.Machine.execRecip h n s
  | .sqrt h n => Sys2Proof.Machine.execSqrt h n s
  | .rsqrt h n => Sys2Proof.Machine.execRsqrt h n s
  | .solveSpd h n => Sys2Proof.Machine.execSolveSpd h n s
  | .zparam h n => Sys2Proof.Machine.execZparam h n s
  | .mmparam h n => Sys2Proof.Machine.execMmparam h n s
  | .selectRow h n => Sys2Proof.Machine.execSelectRow h n s
  | .arbourScore h n => Sys2Proof.Machine.execArbourScore h n s
  | .arbourLeafIndex h n => Sys2Proof.Machine.execArbourLeafIndex h n s
  | .sampleSplit h n => Sys2Proof.Machine.execSampleSplit h n s
  | .sampleMerge h n => Sys2Proof.Machine.execSampleMerge h n s
  | .augDraw h n => Sys2Proof.Machine.execAugDraw h n s
  | .trellisJob h n => Sys2Proof.Machine.execTrellisJob h n s
  | .shuffleOut h n => Sys2Proof.Machine.execShuffleOut h n s
  | .strStakeSel h k => Sys2Proof.Machine.execStrStakeSel h k s
  | .strSignal h k => Sys2Proof.Machine.execStrSignal h k s
  | .strWait h k => Sys2Proof.Machine.execStrWait h k s
  | .strCount h k => Sys2Proof.Machine.execStrCount h k s
  | .strHoopSel h k => Sys2Proof.Machine.execStrHoopSel h k s
  | .strHoopReserve h k => Sys2Proof.Machine.execStrHoopReserve h k s
  | .strHoopCommit h k => Sys2Proof.Machine.execStrHoopCommit h k s
  | .strHoopAcquire h k => Sys2Proof.Machine.execStrHoopAcquire h k s
  | .strHoopLen h k => Sys2Proof.Machine.execStrHoopLen h k s
  | .strHoopRelease h k => Sys2Proof.Machine.execStrHoopRelease h k s
  | .strHoopState h k => Sys2Proof.Machine.execStrHoopState h k s
  | .strDrawStream h k => Sys2Proof.Machine.execStrDrawStream h k s
  | .strDrawIndex h k => Sys2Proof.Machine.execStrDrawIndex h k s
  | .strDraw h k => Sys2Proof.Machine.execStrDraw h k s
  | .strBeat h k => Sys2Proof.Machine.execStrBeat h k s
  | .strTaskSeq h k => Sys2Proof.Machine.execStrTaskSeq h k s
  | .strSampleBase h k => Sys2Proof.Machine.execStrSampleBase h k s
  | .strAbort h k => Sys2Proof.Machine.execStrAbort h k s
  | .strandMemoryAccess h k => Sys2Proof.Machine.execStrandMemoryAccess h k s
  | .strandInstruction h k => Sys2Proof.Machine.execStrandInstruction h k s
  | .routineEnd h k => Sys2Proof.Machine.execRoutineEnd h k s
  | .strandTrap h k => Sys2Proof.Machine.execStrandTrap h k s
  | .frameReceive p frame => Sys2Proof.Machine.execFrameReceive p frame s
  | .arpRequest p mac ip target => Sys2Proof.Machine.execArpRequest p mac ip target s
  | .neighbourSolicitation p mac ip target => Sys2Proof.Machine.execNeighbourSolicitation p mac ip target s
  | .pfcPauseReceive p prio quanta => Sys2Proof.Machine.execPfcPauseReceive p prio quanta s
  | .rdmaWriteReceive k rkey addr data first => Sys2Proof.Machine.execRdmaWriteReceive k rkey addr data first s
  | .rdmaReadReceive k rkey addr len => Sys2Proof.Machine.execRdmaReadReceive k rkey addr len s
  | .sendReceive k data => Sys2Proof.Machine.execSendReceive k data s
  | .atomicReceive k => Sys2Proof.Machine.execAtomicReceive k s
  | .ackReceive t q psn => Sys2Proof.Machine.execAckReceive t q psn s
  | .nakReceive t q psn rnr => Sys2Proof.Machine.execNakReceive t q psn rnr s
  | .retransmitTimeout t q => Sys2Proof.Machine.execRetransmitTimeout t q s
  | .cnpReceive t q => Sys2Proof.Machine.execCnpReceive t q s
  | .alphaTimer t q => Sys2Proof.Machine.execAlphaTimer t q s
  | .rateTimer t q byBytes => Sys2Proof.Machine.execRateTimer t q byBytes s
  | .netLinkDown p => Sys2Proof.Machine.execNetLinkDown p s
  | .netLinkUp p => Sys2Proof.Machine.execNetLinkUp p s
  | .sensorDatagram p udp d ptp => Sys2Proof.Machine.execSensorDatagram p udp d ptp s
  | .sensorFrameStale h n ptp => Sys2Proof.Machine.execSensorFrameStale h n ptp s
  | .jtagBypass => Sys2Proof.Machine.execJtagBypass s
  | .jtagIdcode => Sys2Proof.Machine.execJtagIdcode s
  | .jtagSamplePreload => Sys2Proof.Machine.execJtagSamplePreload s
  | .jtagExtest => Sys2Proof.Machine.execJtagExtest s
  | .jtagClamp => Sys2Proof.Machine.execJtagClamp s
  | .longCommandComplete back => Sys2Proof.Machine.execLongCommandComplete back s
  | .pldmType0Message chan inst cmd arg => Sys2Proof.Machine.execPldmType0Message chan inst cmd arg s
  | .osfpModulePresence p media => Sys2Proof.Machine.execOsfpModulePresence p media s

end Sys2Proof.Machine
end

