-- ==== Sys2Proof/Machine/Tick.lean ====
section
/-! DEFINITION. What a cycle of the schedule clock does by itself (spec/06, R210; spec/03, R110; spec/16, R464; spec/17, R510; spec/22,
LODGE_SCHED_CYCLES). No command stands for it: it is what the device does when no command waits (notes/assumptions/7.md). -/

namespace Sys2Proof.Machine

/-- An account's balance after a cycle: filled, up to the depth (R210). -/
def fillBal (depth bal rate : Nat) : Nat := Nat.min (bal + rate) (depth * 65536)

def Accounts.fill (depth : Nat) (a : Accounts) (rate : BwClass → Nat) : Accounts :=
  { read := fillBal depth a.read (rate .read), write := fillBal depth a.write (rate .write), remote := fillBal depth a.remote (rate .remote) }

/-- The rate of a Rota's account of a class (R210). -/
def State.rotaRate (s : State) (r : Rota) : BwClass → Nat
  | .read => s.admEnv.rate s.admEnv.read (rhBwRead r.bin)
  | .write => s.admEnv.rate s.admEnv.write (rhBwWrite r.bin)
  | .remote => s.admEnv.rate s.admEnv.remote (rhBwRemote r.bin)

/-- The rate of the zeroing account: MEM_ZERO_SHARE units, or the whole write class while no Rota is admitted (R123, R210). -/
def State.zeroRate (s : State) : Nat := s.admEnv.rate s.admEnv.write (if s.rotas.isEmpty then 4096 else s.getF rMemZeroShare 15 0)

/-- Every account fills (R210). -/
def State.fillAccounts (s : State) : State :=
  let depth := s.getN rBwBucketDepth
  { s with
    rotas := s.rotas.map (fun r => { r with acc := r.acc.fill depth (s.rotaRate r) })
    tenants := s.tenants.map (fun x => { x with spare := x.spare.fill depth (s.spareRate x.id) })
    mem := { s.mem with zeroAcc := fillBal depth s.mem.zeroAcc s.zeroRate } }

/-- Every running course has run one cycle more (R110). -/
def State.runCourses (s : State) : State :=
  { s with rotas := s.rotas.map (fun r => { r with course := r.course.map (fun c => { c with cycles := c.cycles + 1 }) }) }

/-- A cycle of a pause, in thousandths (R464): at its end the port sends what waits. -/
def State.tickPause (s : State) (p : Nat) : State :=
  let k := s.port p
  if k.paused = 0 then s
  else
    let s := s.updPort p (fun k => { k with paused := k.paused - 1000 })
    if k.paused ≤ 1000 then s.sendPort p else s

/-- The tasks whose staging goes on ask for what the accounts let through now (R510). -/
def State.tickStaging (s : State) : State :=
  (s.tasks.filter (fun x => x.staging && !x.decided && x.abort.isNone)).foldl (fun s x => s.stageTask x.handle x.seq) s

/-- One cycle of the schedule clock, while it runs (R18, R19). -/
def State.schedCycle (s : State) : State :=
  let s := (((s.count64 rLodgeSchedCycles 1).fillAccounts).runCourses).tickStaging
  (List.range 4).foldl (fun s p => s.serveRx p) s

/-- What passes when no command waits: one cycle, of the schedule clock too while that runs. -/
def State.idle (s : State) : State :=
  let s := (List.range 4).foldl (fun s p => s.tickPause p) s
  if s.schedRun then s.schedCycle else s

end Sys2Proof.Machine
end

