-- ==== Sys2Proof/WellFormed.lean ====
section
/-! DEFINITION. The ranges of the operands of the commands, and the check that a command keeps them. A function of the host is 0 for PF0 and n for
VF n; a tenant is numbered as in spec/18. -/

namespace Sys2Proof

/-! ### Numbers -/

/-- A tenant, 0 to 127 (R499). -/
def okTenant (t : Nat) : Bool := decide (t < 128)

/-- A function: PF0 or one of 128 VFs (R499). -/
def okFunction (f : Nat) : Bool := decide (f ≤ 128)

/-- A VF. -/
def okVf (f : Nat) : Bool := decide (1 ≤ f ∧ f ≤ 128)

/-- A register address of a function: in BAR0, or in BAR2 from 0x100_0000 on. -/
def okAddress (a : Nat) : Bool := decide (a < 0x2000000)

/-- A network port. -/
def okPort (p : Nat) : Bool := decide (p < 4)

/-- A host queue pair of a VF (R504). -/
def okHostPair (q : Nat) : Bool := decide (q < 8)

/-- A tenant queue pair number (Table 16-10). -/
def okQp (q : Nat) : Bool := decide (q < 4096)

/-- A packet sequence number. -/
def okPsn (n : Nat) : Bool := decide (n < 2 ^ 24)

/-- A number of 8, 16 or 32 bits. -/
def okByte (n : Nat) : Bool := decide (n < 256)
def okHalf (n : Nat) : Bool := decide (n < 65536)
def okWord (n : Nat) : Bool := decide (n < 2 ^ 32)

/-- A Rota handle: the tenant in bits 31 to 24 (R94). -/
def okHandle (h : Nat) : Bool := decide (h / 2 ^ 24 < 128)

/-- The number of a record of a Rota binary: a stream, a hoop, or an entry of an operation list. -/
def okRecord (i : Nat) : Bool := okHalf i

/-- A logical Strand core of a course (Table 1-5). -/
def okCore (k : Nat) : Bool := decide (k < 64)

/-- A physical stake pair (R219). -/
def okStake (p : Nat) : Bool := decide (p < 192)

/-- The OSFP module of a cage: none, CR4 or DR4 (Table 16-9). -/
def okMedia (m : Nat) : Bool := decide (m ≤ 2)

/-- An Ethernet priority. -/
def okPriority (p : Nat) : Bool := decide (p < 8)

/-- A speed and width of the host link (Table 17-8). -/
def okLink (gen width : Nat) : Bool := decide (4 ≤ gen ∧ gen ≤ 6) && (width == 4 || width == 8 || width == 16)

/-- A page of at least 4 KiB on a multiple of its size (R501). -/
def okPage (base log2 : Nat) : Bool := decide (12 ≤ log2 ∧ log2 < 64 ∧ base % 2 ^ log2 = 0 ∧ base + 2 ^ log2 ≤ 2 ^ 64)

/-- The instance ID of an MCTP control or PLDM message. -/
def okInst (n : Nat) : Bool := decide (n < 32)

/-- MCTP messages come by the two management channels (R592). -/
def okManagement (c : Channel) : Bool := decide (c ≠ .pf0)

/-- A MAC address, an IPv4 and an IPv6 address. -/
def okMac (b : Bytes) : Bool := decide (b.length = 6)
def okIp4 (b : Bytes) : Bool := decide (b.length = 4)
def okIp6 (b : Bytes) : Bool := decide (b.length = 16)

/-! ### Records -/

/-- What every packet carries. -/
def Pkt.ok? (k : Pkt) : Bool := okTenant k.tenant && okQp k.q && okPsn k.psn

/-- What every PTP message carries. -/
def PtpMsg.ok? (m : PtpMsg) : Bool := okPort m.port && okByte m.domain && okHalf m.seq

/-- The fields of Table 20-1. -/
def MbxReq.ok? (r : MbxReq) : Bool :=
  okHalf r.opcode && okHalf r.tag && okHalf r.flags && okWord r.arg0 && okWord r.arg1 && decide (r.addr < 2 ^ 64) && okWord r.bytes
    && decide (r.arg64 < 2 ^ 64) && decide (r.inlineData.length ≤ 4096)

/-- A temperature is an i16. -/
def okTemp (t : Option Int) : Bool := match t with | some v => decide (-32768 < v ∧ v < 32768) | none => true

/-- The readings of a tick: at least one diode, and the rails of Table 24-2. -/
def LodgeSample.ok? (x : LodgeSample) : Bool :=
  !x.die.isEmpty && x.die.all okTemp && x.hbm.all okTemp && x.osfp.all okTemp && (match x.power with | some p => okHalf p | none => true)
    && decide (x.rails.length = 12) && x.rails.all (fun r => okHalf r.1 && okHalf r.2)

/-- The masks of a self-test name units of Table 1-5. -/
def SelfTest.ok? (x : SelfTest) : Bool :=
  decide (x.weave < 2 ^ 16) && decide (x.side < 2 ^ 18) && x.oryBanks.all (fun b => decide (b < 32)) && x.hbmStacks.all (fun k => decide (k < 8))
    && x.slotEcc.all (fun k => decide (k < 2))

/-- The runs of a flash lie within its capacity. -/
def FlashImage.ok? (x : FlashImage) : Bool := x.runs.all (fun r => decide (r.1 + r.2.length ≤ x.mib * 0x100000))

/-- A word of configuration space. -/
def CfgReq.ok? (r : CfgReq) : Bool := match r with | .read off => decide (off < 4096 ∧ off % 4 = 0) | _ => true

/-- A unit class of Table 1-6, and the fields of Table 21-3. -/
def UnitCheck.ok? (k : UnitCheck) : Bool := decide (1 ≤ k.cls ∧ k.cls ≤ 8) && okByte k.inst && okHalf k.ctx

/-- A sensor of Table 20-5. -/
def PldmSensor.ok? (x : PldmSensor) : Bool :=
  match x with | .hbm k => decide (k < 8) | .osfp p => okPort p | .railMv r => decide (r < 12) | .railCurrent r => decide (r < 12) | _ => true

/-! ### Commands -/

/-- A command whose operands lie in the ranges the spec gives them. -/
def Instr.wf : Instr → Bool
  | .auxPowerOn => true
  | .vinPowerOn => true
  | .startUp flash self _ _ => (match flash with | some f => f.ok? | none => true) && self.ok?
  | .vinFailure => true
  | .powerGoodLoss => true
  | .auxFailure => true
  | .deviceReset => true
  | .lodgeTick _ _ x => x.ok?
  | .powerRecompute => true
  | .beatBoundary _ _ => true
  | .beatInPulse _ _ => true
  | .beatLost _ _ => true
  | .beatNoSource _ _ => true
  | .ptpHoldoverExpiry _ _ => true
  | .ptpSync m _ _ => m.ok?
  | .ptpAnnounce m _ => m.ok?
  | .ptpFollowUp m _ => m.ok?
  | .ptpDelayResponse m _ _ _ _ => m.ok?
  | .netPtpUnlock _ _ => true
  | .ppsEdge _ _ => true
  | .guardBand => true
  | .coilCtxPerform t => okTenant t
  | .granuleZeroed => true
  | .logEntryWrite _ _ => true
  | .mbxNop r => r.ok?
  | .mbxIdentify r => r.ok?
  | .mbxUnknownCommand r => r.ok?
  | .tenCreate r => r.ok?
  | .tenCreateComplete => true
  | .tenReset r => r.ok?
  | .tenResetComplete t => okTenant t
  | .tenDestroy r => r.ok?
  | .rotaAdmit r => r.ok?
  | .rotaRetire r => r.ok?
  | .beatSetEpoch r => r.ok?
  | .hostQuiesce r => r.ok?
  | .hostQuiesceComplete => true
  | .hostQuiesceAbort => true
  | .hostResume r => r.ok?
  | .imgWrite r => r.ok?
  | .imgActivate r => r.ok?
  | .imgConfirm r => r.ok?
  | .imgCalWrite r => r.ok?
  | .devReset r => r.ok?
  | .mctpSetEndpointId chan inst op eid => okManagement chan && okInst inst && okByte op && okByte eid
  | .mctpGetEndpointId chan inst => okManagement chan && okInst inst
  | .mctpGetVersionSupport chan inst type => okManagement chan && okInst inst && okByte type
  | .mctpGetMessageTypeSupport chan inst => okManagement chan && okInst inst
  | .mctpGetVendorMessageSupport chan inst sel => okManagement chan && okInst inst && okByte sel
  | .pldmGetPdrRepositoryInfo chan inst => okManagement chan && okInst inst
  | .pldmGetPdr chan inst record => okManagement chan && okInst inst && okWord record
  | .pldmGetSensorReading chan inst sensor => okManagement chan && okInst inst && sensor.ok?
  | .pldmGetStateSensorReadings chan inst => okManagement chan && okInst inst
  | .pldmSetEventReceiver chan inst enable eid => okManagement chan && okInst inst && okByte enable && okByte eid
  | .pldmRequestUpdate chan inst _ size => okManagement chan && okInst inst && okWord size
  | .pldmFirmwareData chan _ _ => okManagement chan
  | .pldmTransferComplete chan _ _ _ => okManagement chan
  | .pldmActivateFirmware chan inst _ _ => okManagement chan && okInst inst
  | .pldmCancelUpdate chan inst => okManagement chan && okInst inst
  | .pldmUpdateTimeout _ => true
  | .cfgCommit _ => true
  | .memTUpdGo t _ _ => okTenant t
  | .coilCtxSave t => okTenant t
  | .coilCtxRestore t => okTenant t
  | .beatDoorbell _ _ => true
  | .hostTSqTailDb t q v => okTenant t && okHostPair q && okWord v
  | .hostTCqHeadDb t q v => okTenant t && okHostPair q && okWord v
  | .queueEnable t => okTenant t
  | .queueDisable t => okTenant t
  | .qpInit t => okTenant t
  | .qpRtr t => okTenant t
  | .qpRts t => okTenant t
  | .qpErr t => okTenant t
  | .qpReset t => okTenant t
  | .netTMrCtrl t _ => okTenant t
  | .lodgeLogReadSeq _ => true
  | .lodgePwrPeakRead => true
  | .pairLowRead fn off => okFunction fn && okAddress off
  | .hoopHeadRead t => okTenant t
  | .stakeFullRead t => okTenant t
  | .registerWrite fn addr _ _ => okFunction fn && okAddress addr
  | .configRequest f r => okFunction f && r.ok?
  | .dlDown => true
  | .dlUp gen width _ => okLink gen width
  | .pcieInterfaceReset => true
  | .functionLevelReset f => okVf f
  | .linkRetrained gen width _ => okLink gen width
  | .atsInvalidationRequest t base log2 => okTenant t && okPage base log2
  | .translationCompletion t base log2 _ _ => okTenant t && okPage base log2
  | .hostReadCompletion _ _ => true
  | .hostCplTimeout _ => true
  | .descriptorFetch t q _ => okTenant t && okHostPair q
  | .taskAccept t q _ _ => okTenant t && okHostPair q
  | .hostStagingStart h seq => okHandle h && okWord seq
  | .courseStart h c => okHandle h && okByte c
  | .courseFinish h => okHandle h
  | .rotaCourseOverrun h => okHandle h
  | .transferIssue h i => okHandle h && okRecord i
  | .transferComplete h i _ check => okHandle h && okRecord i && (match check with | some k => k.ok? | none => true)
  | .slotCommit h i => okHandle h && okRecord i
  | .slotAcquire h i => okHandle h && okRecord i
  | .stakeWaitRelease p => okStake p
  | .coilFrameDecode h i => okHandle h && okRecord i
  | .coilFrameEncode h i => okHandle h && okRecord i
  | .filterCmp h i => okHandle h && okRecord i
  | .maskAnd h i => okHandle h && okRecord i
  | .maskOr h i => okHandle h && okRecord i
  | .maskNot h i => okHandle h && okRecord i
  | .filterMask h i => okHandle h && okRecord i
  | .hash h i => okHandle h && okRecord i
  | .hashBucket h i => okHandle h && okRecord i
  | .widthBucket h i => okHandle h && okRecord i
  | .boundBucket h i => okHandle h && okRecord i
  | .clip h i => okHandle h && okRecord i
  | .log1p h i => okHandle h && okRecord i
  | .slog1p h i => okHandle h && okRecord i
  | .minmax h i => okHandle h && okRecord i
  | .zscore h i => okHandle h && okRecord i
  | .stats h i => okHandle h && okRecord i
  | .statsRecordEmit h i => okHandle h && okRecord i
  | .joinBuild h i => okHandle h && okRecord i
  | .joinProbe h i => okHandle h && okRecord i
  | .groupKey h i => okHandle h && okRecord i
  | .groupAgg h i => okHandle h && okRecord i
  | .seqGather h i => okHandle h && okRecord i
  | .tileMatmul h i => okHandle h && okRecord i
  | .embedBag h i => okHandle h && okRecord i
  | .cross h i => okHandle h && okRecord i
  | .onehotMm h i => okHandle h && okRecord i
  | .div h i => okHandle h && okRecord i
  | .recip h i => okHandle h && okRecord i
  | .sqrt h i => okHandle h && okRecord i
  | .rsqrt h i => okHandle h && okRecord i
  | .solveSpd h i => okHandle h && okRecord i
  | .zparam h i => okHandle h && okRecord i
  | .mmparam h i => okHandle h && okRecord i
  | .selectRow h i => okHandle h && okRecord i
  | .arbourScore h i => okHandle h && okRecord i
  | .arbourLeafIndex h i => okHandle h && okRecord i
  | .sampleSplit h i => okHandle h && okRecord i
  | .sampleMerge h i => okHandle h && okRecord i
  | .augDraw h i => okHandle h && okRecord i
  | .trellisJob h i => okHandle h && okRecord i
  | .shuffleOut h i => okHandle h && okRecord i
  | .strStakeSel h k => okHandle h && okCore k
  | .strSignal h k => okHandle h && okCore k
  | .strWait h k => okHandle h && okCore k
  | .strCount h k => okHandle h && okCore k
  | .strHoopSel h k => okHandle h && okCore k
  | .strHoopReserve h k => okHandle h && okCore k
  | .strHoopCommit h k => okHandle h && okCore k
  | .strHoopAcquire h k => okHandle h && okCore k
  | .strHoopLen h k => okHandle h && okCore k
  | .strHoopRelease h k => okHandle h && okCore k
  | .strHoopState h k => okHandle h && okCore k
  | .strDrawStream h k => okHandle h && okCore k
  | .strDrawIndex h k => okHandle h && okCore k
  | .strDraw h k => okHandle h && okCore k
  | .strBeat h k => okHandle h && okCore k
  | .strTaskSeq h k => okHandle h && okCore k
  | .strSampleBase h k => okHandle h && okCore k
  | .strAbort h k => okHandle h && okCore k
  | .strandMemoryAccess h k => okHandle h && okCore k
  | .strandInstruction h k => okHandle h && okCore k
  | .routineEnd h k => okHandle h && okCore k
  | .strandTrap h k => okHandle h && okCore k
  | .frameReceive p _ => okPort p
  | .arpRequest p mac ip target => okPort p && okMac mac && okIp4 ip && okIp4 target
  | .neighbourSolicitation p mac ip target => okPort p && okMac mac && okIp6 ip && okIp6 target
  | .pfcPauseReceive p prio quanta => okPort p && okPriority prio && okHalf quanta
  | .rdmaWriteReceive k rkey _ _ _ => k.ok? && okWord rkey
  | .rdmaReadReceive k rkey _ _ => k.ok? && okWord rkey
  | .sendReceive k _ => k.ok?
  | .atomicReceive k => k.ok?
  | .ackReceive t q psn => okTenant t && okQp q && okPsn psn
  | .nakReceive t q psn _ => okTenant t && okQp q && okPsn psn
  | .retransmitTimeout t q => okTenant t && okQp q
  | .cnpReceive t q => okTenant t && okQp q
  | .alphaTimer t q => okTenant t && okQp q
  | .rateTimer t q _ => okTenant t && okQp q
  | .netLinkDown p => okPort p
  | .netLinkUp p => okPort p
  | .sensorDatagram p udp _ _ => okPort p && okHalf udp
  | .sensorFrameStale h i _ => okHandle h && okRecord i
  | .jtagBypass => true
  | .jtagIdcode => true
  | .jtagSamplePreload => true
  | .jtagExtest => true
  | .jtagClamp => true
  | .longCommandComplete _ => true
  | .pldmType0Message chan inst cmd arg => okManagement chan && okInst inst && okByte cmd && okByte arg
  | .osfpModulePresence p media => okPort p && okMedia media

/-- The tenant a command names, by itself or in a handle (R94); none where it names none. -/
def Instr.tenant? : Instr → Option Nat
  | .auxPowerOn => none
  | .vinPowerOn => none
  | .startUp _ _ _ _ => none
  | .vinFailure => none
  | .powerGoodLoss => none
  | .auxFailure => none
  | .deviceReset => none
  | .lodgeTick _ _ _ => none
  | .powerRecompute => none
  | .beatBoundary _ _ => none
  | .beatInPulse _ _ => none
  | .beatLost _ _ => none
  | .beatNoSource _ _ => none
  | .ptpHoldoverExpiry _ _ => none
  | .ptpSync _ _ _ => none
  | .ptpAnnounce _ _ => none
  | .ptpFollowUp _ _ => none
  | .ptpDelayResponse _ _ _ _ _ => none
  | .netPtpUnlock _ _ => none
  | .ppsEdge _ _ => none
  | .guardBand => none
  | .coilCtxPerform t => some t
  | .granuleZeroed => none
  | .logEntryWrite _ _ => none
  | .mbxNop _ => none
  | .mbxIdentify _ => none
  | .mbxUnknownCommand _ => none
  | .tenCreate _ => none
  | .tenCreateComplete => none
  | .tenReset _ => none
  | .tenResetComplete t => some t
  | .tenDestroy _ => none
  | .rotaAdmit _ => none
  | .rotaRetire _ => none
  | .beatSetEpoch _ => none
  | .hostQuiesce _ => none
  | .hostQuiesceComplete => none
  | .hostQuiesceAbort => none
  | .hostResume _ => none
  | .imgWrite _ => none
  | .imgActivate _ => none
  | .imgConfirm _ => none
  | .imgCalWrite _ => none
  | .devReset _ => none
  | .mctpSetEndpointId _ _ _ _ => none
  | .mctpGetEndpointId _ _ => none
  | .mctpGetVersionSupport _ _ _ => none
  | .mctpGetMessageTypeSupport _ _ => none
  | .mctpGetVendorMessageSupport _ _ _ => none
  | .pldmGetPdrRepositoryInfo _ _ => none
  | .pldmGetPdr _ _ _ => none
  | .pldmGetSensorReading _ _ _ => none
  | .pldmGetStateSensorReadings _ _ => none
  | .pldmSetEventReceiver _ _ _ _ => none
  | .pldmRequestUpdate _ _ _ _ => none
  | .pldmFirmwareData _ _ _ => none
  | .pldmTransferComplete _ _ _ _ => none
  | .pldmActivateFirmware _ _ _ _ => none
  | .pldmCancelUpdate _ _ => none
  | .pldmUpdateTimeout _ => none
  | .cfgCommit _ => none
  | .memTUpdGo t _ _ => some t
  | .coilCtxSave t => some t
  | .coilCtxRestore t => some t
  | .beatDoorbell _ _ => none
  | .hostTSqTailDb t _ _ => some t
  | .hostTCqHeadDb t _ _ => some t
  | .queueEnable t => some t
  | .queueDisable t => some t
  | .qpInit t => some t
  | .qpRtr t => some t
  | .qpRts t => some t
  | .qpErr t => some t
  | .qpReset t => some t
  | .netTMrCtrl t _ => some t
  | .lodgeLogReadSeq _ => none
  | .lodgePwrPeakRead => none
  | .pairLowRead _ _ => none
  | .hoopHeadRead t => some t
  | .stakeFullRead t => some t
  | .registerWrite _ _ _ _ => none
  | .configRequest _ _ => none
  | .dlDown => none
  | .dlUp _ _ _ => none
  | .pcieInterfaceReset => none
  | .functionLevelReset _ => none
  | .linkRetrained _ _ _ => none
  | .atsInvalidationRequest t _ _ => some t
  | .translationCompletion t _ _ _ _ => some t
  | .hostReadCompletion _ _ => none
  | .hostCplTimeout _ => none
  | .descriptorFetch t _ _ => some t
  | .taskAccept t _ _ _ => some t
  | .hostStagingStart h _ => some (h / 2 ^ 24)
  | .courseStart h _ => some (h / 2 ^ 24)
  | .courseFinish h => some (h / 2 ^ 24)
  | .rotaCourseOverrun h => some (h / 2 ^ 24)
  | .transferIssue h _ => some (h / 2 ^ 24)
  | .transferComplete h _ _ _ => some (h / 2 ^ 24)
  | .slotCommit h _ => some (h / 2 ^ 24)
  | .slotAcquire h _ => some (h / 2 ^ 24)
  | .stakeWaitRelease _ => none
  | .coilFrameDecode h _ => some (h / 2 ^ 24)
  | .coilFrameEncode h _ => some (h / 2 ^ 24)
  | .filterCmp h _ => some (h / 2 ^ 24)
  | .maskAnd h _ => some (h / 2 ^ 24)
  | .maskOr h _ => some (h / 2 ^ 24)
  | .maskNot h _ => some (h / 2 ^ 24)
  | .filterMask h _ => some (h / 2 ^ 24)
  | .hash h _ => some (h / 2 ^ 24)
  | .hashBucket h _ => some (h / 2 ^ 24)
  | .widthBucket h _ => some (h / 2 ^ 24)
  | .boundBucket h _ => some (h / 2 ^ 24)
  | .clip h _ => some (h / 2 ^ 24)
  | .log1p h _ => some (h / 2 ^ 24)
  | .slog1p h _ => some (h / 2 ^ 24)
  | .minmax h _ => some (h / 2 ^ 24)
  | .zscore h _ => some (h / 2 ^ 24)
  | .stats h _ => some (h / 2 ^ 24)
  | .statsRecordEmit h _ => some (h / 2 ^ 24)
  | .joinBuild h _ => some (h / 2 ^ 24)
  | .joinProbe h _ => some (h / 2 ^ 24)
  | .groupKey h _ => some (h / 2 ^ 24)
  | .groupAgg h _ => some (h / 2 ^ 24)
  | .seqGather h _ => some (h / 2 ^ 24)
  | .tileMatmul h _ => some (h / 2 ^ 24)
  | .embedBag h _ => some (h / 2 ^ 24)
  | .cross h _ => some (h / 2 ^ 24)
  | .onehotMm h _ => some (h / 2 ^ 24)
  | .div h _ => some (h / 2 ^ 24)
  | .recip h _ => some (h / 2 ^ 24)
  | .sqrt h _ => some (h / 2 ^ 24)
  | .rsqrt h _ => some (h / 2 ^ 24)
  | .solveSpd h _ => some (h / 2 ^ 24)
  | .zparam h _ => some (h / 2 ^ 24)
  | .mmparam h _ => some (h / 2 ^ 24)
  | .selectRow h _ => some (h / 2 ^ 24)
  | .arbourScore h _ => some (h / 2 ^ 24)
  | .arbourLeafIndex h _ => some (h / 2 ^ 24)
  | .sampleSplit h _ => some (h / 2 ^ 24)
  | .sampleMerge h _ => some (h / 2 ^ 24)
  | .augDraw h _ => some (h / 2 ^ 24)
  | .trellisJob h _ => some (h / 2 ^ 24)
  | .shuffleOut h _ => some (h / 2 ^ 24)
  | .strStakeSel h _ => some (h / 2 ^ 24)
  | .strSignal h _ => some (h / 2 ^ 24)
  | .strWait h _ => some (h / 2 ^ 24)
  | .strCount h _ => some (h / 2 ^ 24)
  | .strHoopSel h _ => some (h / 2 ^ 24)
  | .strHoopReserve h _ => some (h / 2 ^ 24)
  | .strHoopCommit h _ => some (h / 2 ^ 24)
  | .strHoopAcquire h _ => some (h / 2 ^ 24)
  | .strHoopLen h _ => some (h / 2 ^ 24)
  | .strHoopRelease h _ => some (h / 2 ^ 24)
  | .strHoopState h _ => some (h / 2 ^ 24)
  | .strDrawStream h _ => some (h / 2 ^ 24)
  | .strDrawIndex h _ => some (h / 2 ^ 24)
  | .strDraw h _ => some (h / 2 ^ 24)
  | .strBeat h _ => some (h / 2 ^ 24)
  | .strTaskSeq h _ => some (h / 2 ^ 24)
  | .strSampleBase h _ => some (h / 2 ^ 24)
  | .strAbort h _ => some (h / 2 ^ 24)
  | .strandMemoryAccess h _ => some (h / 2 ^ 24)
  | .strandInstruction h _ => some (h / 2 ^ 24)
  | .routineEnd h _ => some (h / 2 ^ 24)
  | .strandTrap h _ => some (h / 2 ^ 24)
  | .frameReceive _ _ => none
  | .arpRequest _ _ _ _ => none
  | .neighbourSolicitation _ _ _ _ => none
  | .pfcPauseReceive _ _ _ => none
  | .rdmaWriteReceive k _ _ _ _ => some k.tenant
  | .rdmaReadReceive k _ _ _ => some k.tenant
  | .sendReceive k _ => some k.tenant
  | .atomicReceive k => some k.tenant
  | .ackReceive t _ _ => some t
  | .nakReceive t _ _ _ => some t
  | .retransmitTimeout t _ => some t
  | .cnpReceive t _ => some t
  | .alphaTimer t _ => some t
  | .rateTimer t _ _ => some t
  | .netLinkDown _ => none
  | .netLinkUp _ => none
  | .sensorDatagram _ _ _ _ => none
  | .sensorFrameStale h _ _ => some (h / 2 ^ 24)
  | .jtagBypass => none
  | .jtagIdcode => none
  | .jtagSamplePreload => none
  | .jtagExtest => none
  | .jtagClamp => none
  | .longCommandComplete _ => none
  | .pldmType0Message _ _ _ _ => none
  | .osfpModulePresence _ _ => none

end Sys2Proof
end

