-- ==== Sys2Proof/Laws/PerInstr.lean ====
section
/-! SUPPORT. Statements about every command, one lemma a constructor. -/

namespace Sys2Proof

/-- A tenant that a command in range names is one of the 128. -/
def Laws.TenantInRange.Statement (i : Instr) : Prop := i.wf = true → ∀ t, i.tenant? = some t → t < 128

/-- A command that names no tenant. -/
theorem Laws.tenant_none {i : Instr} (h : i.tenant? = none) : Laws.TenantInRange.Statement i := by
  intro _ t ht
  rw [h] at ht
  cases ht

/-- A command whose range check begins with that of the tenant it names. -/
theorem Laws.tenant_some {i : Instr} {n : Nat} (h : i.tenant? = some n) (hw : i.wf = true → n < 128) : Laws.TenantInRange.Statement i := by
  intro w t ht
  rw [h] at ht
  cases ht
  exact hw w

/-- The tenant of a handle in range. -/
theorem Laws.okHandle_lt {h : Nat} (w : okHandle h = true) : h / 2 ^ 24 < 128 := of_decide_eq_true w

/-- A tenant in range. -/
theorem Laws.okTenant_lt {t : Nat} (w : okTenant t = true) : t < 128 := of_decide_eq_true w

/-- The first of two checks that both hold. -/
theorem Laws.and_left {a b : Bool} (h : (a && b) = true) : a = true := (Bool.and_eq_true _ _ ▸ h).1

/-- A packet in range names a tenant in range. -/
theorem Laws.pkt_lt {k : Pkt} (w : k.ok? = true) : k.tenant < 128 := by
  simp only [Pkt.ok?, Bool.and_eq_true] at w
  exact Laws.okTenant_lt w.1.1

theorem Laws.TenantInRange.auxPowerOn : Laws.TenantInRange.Statement (.auxPowerOn) :=
  Laws.tenant_none rfl

theorem Laws.TenantInRange.vinPowerOn : Laws.TenantInRange.Statement (.vinPowerOn) :=
  Laws.tenant_none rfl

theorem Laws.TenantInRange.startUp (flash : Option FlashImage) (self : SelfTest) (now : Nat) (ptp : Nat) : Laws.TenantInRange.Statement (.startUp flash self now ptp) :=
  Laws.tenant_none rfl

theorem Laws.TenantInRange.vinFailure : Laws.TenantInRange.Statement (.vinFailure) :=
  Laws.tenant_none rfl

theorem Laws.TenantInRange.powerGoodLoss : Laws.TenantInRange.Statement (.powerGoodLoss) :=
  Laws.tenant_none rfl

theorem Laws.TenantInRange.auxFailure : Laws.TenantInRange.Statement (.auxFailure) :=
  Laws.tenant_none rfl

theorem Laws.TenantInRange.deviceReset : Laws.TenantInRange.Statement (.deviceReset) :=
  Laws.tenant_none rfl

theorem Laws.TenantInRange.lodgeTick (now : Nat) (ptp : Nat) (x : LodgeSample) : Laws.TenantInRange.Statement (.lodgeTick now ptp x) :=
  Laws.tenant_none rfl

theorem Laws.TenantInRange.powerRecompute : Laws.TenantInRange.Statement (.powerRecompute) :=
  Laws.tenant_none rfl

theorem Laws.TenantInRange.beatBoundary (now : Nat) (ptp : Nat) : Laws.TenantInRange.Statement (.beatBoundary now ptp) :=
  Laws.tenant_none rfl

theorem Laws.TenantInRange.beatInPulse (now : Nat) (ptp : Nat) : Laws.TenantInRange.Statement (.beatInPulse now ptp) :=
  Laws.tenant_none rfl

theorem Laws.TenantInRange.beatLost (now : Nat) (ptp : Nat) : Laws.TenantInRange.Statement (.beatLost now ptp) :=
  Laws.tenant_none rfl

theorem Laws.TenantInRange.beatNoSource (now : Nat) (ptp : Nat) : Laws.TenantInRange.Statement (.beatNoSource now ptp) :=
  Laws.tenant_none rfl

theorem Laws.TenantInRange.ptpHoldoverExpiry (now : Nat) (ptp : Nat) : Laws.TenantInRange.Statement (.ptpHoldoverExpiry now ptp) :=
  Laws.tenant_none rfl

theorem Laws.TenantInRange.ptpSync (m : PtpMsg) (origin : Nat) (twoStep : Bool) : Laws.TenantInRange.Statement (.ptpSync m origin twoStep) :=
  Laws.tenant_none rfl

theorem Laws.TenantInRange.ptpAnnounce (m : PtpMsg) (attrs : List Nat) : Laws.TenantInRange.Statement (.ptpAnnounce m attrs) :=
  Laws.tenant_none rfl

theorem Laws.TenantInRange.ptpFollowUp (m : PtpMsg) (origin : Nat) : Laws.TenantInRange.Statement (.ptpFollowUp m origin) :=
  Laws.tenant_none rfl

theorem Laws.TenantInRange.ptpDelayResponse (m : PtpMsg) (a : Nat) (b : Nat) (c : Nat) (d : Nat) : Laws.TenantInRange.Statement (.ptpDelayResponse m a b c d) :=
  Laws.tenant_none rfl

theorem Laws.TenantInRange.netPtpUnlock (now : Nat) (ptp : Nat) : Laws.TenantInRange.Statement (.netPtpUnlock now ptp) :=
  Laws.tenant_none rfl

theorem Laws.TenantInRange.ppsEdge (now : Nat) (ptp : Nat) : Laws.TenantInRange.Statement (.ppsEdge now ptp) :=
  Laws.tenant_none rfl

theorem Laws.TenantInRange.guardBand : Laws.TenantInRange.Statement (.guardBand) :=
  Laws.tenant_none rfl

theorem Laws.TenantInRange.coilCtxPerform (t : Nat) : Laws.TenantInRange.Statement (.coilCtxPerform t) :=
  Laws.tenant_some rfl (fun w => Laws.okTenant_lt w)

theorem Laws.TenantInRange.granuleZeroed : Laws.TenantInRange.Statement (.granuleZeroed) :=
  Laws.tenant_none rfl

theorem Laws.TenantInRange.logEntryWrite (now : Nat) (ptp : Nat) : Laws.TenantInRange.Statement (.logEntryWrite now ptp) :=
  Laws.tenant_none rfl

theorem Laws.TenantInRange.mbxNop (r : MbxReq) : Laws.TenantInRange.Statement (.mbxNop r) :=
  Laws.tenant_none rfl

theorem Laws.TenantInRange.mbxIdentify (r : MbxReq) : Laws.TenantInRange.Statement (.mbxIdentify r) :=
  Laws.tenant_none rfl

theorem Laws.TenantInRange.mbxUnknownCommand (r : MbxReq) : Laws.TenantInRange.Statement (.mbxUnknownCommand r) :=
  Laws.tenant_none rfl

theorem Laws.TenantInRange.tenCreate (r : MbxReq) : Laws.TenantInRange.Statement (.tenCreate r) :=
  Laws.tenant_none rfl

theorem Laws.TenantInRange.tenCreateComplete : Laws.TenantInRange.Statement (.tenCreateComplete) :=
  Laws.tenant_none rfl

theorem Laws.TenantInRange.tenReset (r : MbxReq) : Laws.TenantInRange.Statement (.tenReset r) :=
  Laws.tenant_none rfl

theorem Laws.TenantInRange.tenResetComplete (t : Nat) : Laws.TenantInRange.Statement (.tenResetComplete t) :=
  Laws.tenant_some rfl (fun w => Laws.okTenant_lt w)

theorem Laws.TenantInRange.tenDestroy (r : MbxReq) : Laws.TenantInRange.Statement (.tenDestroy r) :=
  Laws.tenant_none rfl

theorem Laws.TenantInRange.rotaAdmit (r : MbxReq) : Laws.TenantInRange.Statement (.rotaAdmit r) :=
  Laws.tenant_none rfl

theorem Laws.TenantInRange.rotaRetire (r : MbxReq) : Laws.TenantInRange.Statement (.rotaRetire r) :=
  Laws.tenant_none rfl

theorem Laws.TenantInRange.beatSetEpoch (r : MbxReq) : Laws.TenantInRange.Statement (.beatSetEpoch r) :=
  Laws.tenant_none rfl

theorem Laws.TenantInRange.hostQuiesce (r : MbxReq) : Laws.TenantInRange.Statement (.hostQuiesce r) :=
  Laws.tenant_none rfl

theorem Laws.TenantInRange.hostQuiesceComplete : Laws.TenantInRange.Statement (.hostQuiesceComplete) :=
  Laws.tenant_none rfl

theorem Laws.TenantInRange.hostQuiesceAbort : Laws.TenantInRange.Statement (.hostQuiesceAbort) :=
  Laws.tenant_none rfl

theorem Laws.TenantInRange.hostResume (r : MbxReq) : Laws.TenantInRange.Statement (.hostResume r) :=
  Laws.tenant_none rfl

theorem Laws.TenantInRange.imgWrite (r : MbxReq) : Laws.TenantInRange.Statement (.imgWrite r) :=
  Laws.tenant_none rfl

theorem Laws.TenantInRange.imgActivate (r : MbxReq) : Laws.TenantInRange.Statement (.imgActivate r) :=
  Laws.tenant_none rfl

theorem Laws.TenantInRange.imgConfirm (r : MbxReq) : Laws.TenantInRange.Statement (.imgConfirm r) :=
  Laws.tenant_none rfl

theorem Laws.TenantInRange.imgCalWrite (r : MbxReq) : Laws.TenantInRange.Statement (.imgCalWrite r) :=
  Laws.tenant_none rfl

theorem Laws.TenantInRange.devReset (r : MbxReq) : Laws.TenantInRange.Statement (.devReset r) :=
  Laws.tenant_none rfl

theorem Laws.TenantInRange.mctpSetEndpointId (chan : Channel) (inst : Nat) (op : Nat) (eid : Nat) : Laws.TenantInRange.Statement (.mctpSetEndpointId chan inst op eid) :=
  Laws.tenant_none rfl

theorem Laws.TenantInRange.mctpGetEndpointId (chan : Channel) (inst : Nat) : Laws.TenantInRange.Statement (.mctpGetEndpointId chan inst) :=
  Laws.tenant_none rfl

theorem Laws.TenantInRange.mctpGetVersionSupport (chan : Channel) (inst : Nat) (type : Nat) : Laws.TenantInRange.Statement (.mctpGetVersionSupport chan inst type) :=
  Laws.tenant_none rfl

theorem Laws.TenantInRange.mctpGetMessageTypeSupport (chan : Channel) (inst : Nat) : Laws.TenantInRange.Statement (.mctpGetMessageTypeSupport chan inst) :=
  Laws.tenant_none rfl

theorem Laws.TenantInRange.mctpGetVendorMessageSupport (chan : Channel) (inst : Nat) (sel : Nat) : Laws.TenantInRange.Statement (.mctpGetVendorMessageSupport chan inst sel) :=
  Laws.tenant_none rfl

theorem Laws.TenantInRange.pldmGetPdrRepositoryInfo (chan : Channel) (inst : Nat) : Laws.TenantInRange.Statement (.pldmGetPdrRepositoryInfo chan inst) :=
  Laws.tenant_none rfl

theorem Laws.TenantInRange.pldmGetPdr (chan : Channel) (inst : Nat) (record : Nat) : Laws.TenantInRange.Statement (.pldmGetPdr chan inst record) :=
  Laws.tenant_none rfl

theorem Laws.TenantInRange.pldmGetSensorReading (chan : Channel) (inst : Nat) (sensor : PldmSensor) : Laws.TenantInRange.Statement (.pldmGetSensorReading chan inst sensor) :=
  Laws.tenant_none rfl

theorem Laws.TenantInRange.pldmGetStateSensorReadings (chan : Channel) (inst : Nat) : Laws.TenantInRange.Statement (.pldmGetStateSensorReadings chan inst) :=
  Laws.tenant_none rfl

theorem Laws.TenantInRange.pldmSetEventReceiver (chan : Channel) (inst : Nat) (enable : Nat) (eid : Nat) : Laws.TenantInRange.Statement (.pldmSetEventReceiver chan inst enable eid) :=
  Laws.tenant_none rfl

theorem Laws.TenantInRange.pldmRequestUpdate (chan : Channel) (inst : Nat) (now : Nat) (size : Nat) : Laws.TenantInRange.Statement (.pldmRequestUpdate chan inst now size) :=
  Laws.tenant_none rfl

theorem Laws.TenantInRange.pldmFirmwareData (chan : Channel) (now : Nat) (data : Bytes) : Laws.TenantInRange.Statement (.pldmFirmwareData chan now data) :=
  Laws.tenant_none rfl

theorem Laws.TenantInRange.pldmTransferComplete (chan : Channel) (now : Nat) (back : Option Bytes) (ecc : Bool) : Laws.TenantInRange.Statement (.pldmTransferComplete chan now back ecc) :=
  Laws.tenant_none rfl

theorem Laws.TenantInRange.pldmActivateFirmware (chan : Channel) (inst : Nat) (now : Nat) (selfContained : Bool) : Laws.TenantInRange.Statement (.pldmActivateFirmware chan inst now selfContained) :=
  Laws.tenant_none rfl

theorem Laws.TenantInRange.pldmCancelUpdate (chan : Channel) (inst : Nat) : Laws.TenantInRange.Statement (.pldmCancelUpdate chan inst) :=
  Laws.tenant_none rfl

theorem Laws.TenantInRange.pldmUpdateTimeout (now : Nat) : Laws.TenantInRange.Statement (.pldmUpdateTimeout now) :=
  Laws.tenant_none rfl

theorem Laws.TenantInRange.cfgCommit (go : Bool) : Laws.TenantInRange.Statement (.cfgCommit go) :=
  Laws.tenant_none rfl

theorem Laws.TenantInRange.memTUpdGo (t : Nat) (go : Bool) (p : Ranges) : Laws.TenantInRange.Statement (.memTUpdGo t go p) :=
  Laws.tenant_some rfl (fun w => Laws.okTenant_lt w)

theorem Laws.TenantInRange.coilCtxSave (t : Nat) : Laws.TenantInRange.Statement (.coilCtxSave t) :=
  Laws.tenant_some rfl (fun w => Laws.okTenant_lt w)

theorem Laws.TenantInRange.coilCtxRestore (t : Nat) : Laws.TenantInRange.Statement (.coilCtxRestore t) :=
  Laws.tenant_some rfl (fun w => Laws.okTenant_lt w)

theorem Laws.TenantInRange.beatDoorbell (now : Nat) (ptp : Nat) : Laws.TenantInRange.Statement (.beatDoorbell now ptp) :=
  Laws.tenant_none rfl

theorem Laws.TenantInRange.hostTSqTailDb (t : Nat) (q : Nat) (v : Nat) : Laws.TenantInRange.Statement (.hostTSqTailDb t q v) :=
  Laws.tenant_some rfl (fun w => Laws.okTenant_lt (Laws.and_left (Laws.and_left w)))

theorem Laws.TenantInRange.hostTCqHeadDb (t : Nat) (q : Nat) (v : Nat) : Laws.TenantInRange.Statement (.hostTCqHeadDb t q v) :=
  Laws.tenant_some rfl (fun w => Laws.okTenant_lt (Laws.and_left (Laws.and_left w)))

theorem Laws.TenantInRange.queueEnable (t : Nat) : Laws.TenantInRange.Statement (.queueEnable t) :=
  Laws.tenant_some rfl (fun w => Laws.okTenant_lt w)

theorem Laws.TenantInRange.queueDisable (t : Nat) : Laws.TenantInRange.Statement (.queueDisable t) :=
  Laws.tenant_some rfl (fun w => Laws.okTenant_lt w)

theorem Laws.TenantInRange.qpInit (t : Nat) : Laws.TenantInRange.Statement (.qpInit t) :=
  Laws.tenant_some rfl (fun w => Laws.okTenant_lt w)

theorem Laws.TenantInRange.qpRtr (t : Nat) : Laws.TenantInRange.Statement (.qpRtr t) :=
  Laws.tenant_some rfl (fun w => Laws.okTenant_lt w)

theorem Laws.TenantInRange.qpRts (t : Nat) : Laws.TenantInRange.Statement (.qpRts t) :=
  Laws.tenant_some rfl (fun w => Laws.okTenant_lt w)

theorem Laws.TenantInRange.qpErr (t : Nat) : Laws.TenantInRange.Statement (.qpErr t) :=
  Laws.tenant_some rfl (fun w => Laws.okTenant_lt w)

theorem Laws.TenantInRange.qpReset (t : Nat) : Laws.TenantInRange.Statement (.qpReset t) :=
  Laws.tenant_some rfl (fun w => Laws.okTenant_lt w)

theorem Laws.TenantInRange.netTMrCtrl (t : Nat) (value : Word) : Laws.TenantInRange.Statement (.netTMrCtrl t value) :=
  Laws.tenant_some rfl (fun w => Laws.okTenant_lt w)

theorem Laws.TenantInRange.lodgeLogReadSeq (value : Word) : Laws.TenantInRange.Statement (.lodgeLogReadSeq value) :=
  Laws.tenant_none rfl

theorem Laws.TenantInRange.lodgePwrPeakRead : Laws.TenantInRange.Statement (.lodgePwrPeakRead) :=
  Laws.tenant_none rfl

theorem Laws.TenantInRange.pairLowRead (fn : Nat) (off : Nat) : Laws.TenantInRange.Statement (.pairLowRead fn off) :=
  Laws.tenant_none rfl

theorem Laws.TenantInRange.hoopHeadRead (t : Nat) : Laws.TenantInRange.Statement (.hoopHeadRead t) :=
  Laws.tenant_some rfl (fun w => Laws.okTenant_lt w)

theorem Laws.TenantInRange.stakeFullRead (t : Nat) : Laws.TenantInRange.Statement (.stakeFullRead t) :=
  Laws.tenant_some rfl (fun w => Laws.okTenant_lt w)

theorem Laws.TenantInRange.registerWrite (fn : Nat) (addr : Nat) (data : Bytes) (poisoned : Bool) : Laws.TenantInRange.Statement (.registerWrite fn addr data poisoned) :=
  Laws.tenant_none rfl

theorem Laws.TenantInRange.configRequest (f : Nat) (r : CfgReq) : Laws.TenantInRange.Statement (.configRequest f r) :=
  Laws.tenant_none rfl

theorem Laws.TenantInRange.dlDown : Laws.TenantInRange.Statement (.dlDown) :=
  Laws.tenant_none rfl

theorem Laws.TenantInRange.dlUp (gen : Nat) (width : Nat) (flit : Bool) : Laws.TenantInRange.Statement (.dlUp gen width flit) :=
  Laws.tenant_none rfl

theorem Laws.TenantInRange.pcieInterfaceReset : Laws.TenantInRange.Statement (.pcieInterfaceReset) :=
  Laws.tenant_none rfl

theorem Laws.TenantInRange.functionLevelReset (f : Nat) : Laws.TenantInRange.Statement (.functionLevelReset f) :=
  Laws.tenant_none rfl

theorem Laws.TenantInRange.linkRetrained (gen : Nat) (width : Nat) (flit : Bool) : Laws.TenantInRange.Statement (.linkRetrained gen width flit) :=
  Laws.tenant_none rfl

theorem Laws.TenantInRange.atsInvalidationRequest (t : Nat) (base : Nat) (log2 : Nat) : Laws.TenantInRange.Statement (.atsInvalidationRequest t base log2) :=
  Laws.tenant_some rfl (fun w => Laws.okTenant_lt (Laws.and_left w))

theorem Laws.TenantInRange.translationCompletion (t : Nat) (base : Nat) (log2 : Nat) (rd : Bool) (wr : Bool) : Laws.TenantInRange.Statement (.translationCompletion t base log2 rd wr) :=
  Laws.tenant_some rfl (fun w => Laws.okTenant_lt (Laws.and_left w))

theorem Laws.TenantInRange.hostReadCompletion (no : Nat) (r : HostRead) : Laws.TenantInRange.Statement (.hostReadCompletion no r) :=
  Laws.tenant_none rfl

theorem Laws.TenantInRange.hostCplTimeout (no : Nat) : Laws.TenantInRange.Statement (.hostCplTimeout no) :=
  Laws.tenant_none rfl

theorem Laws.TenantInRange.descriptorFetch (t : Nat) (q : Nat) (r : HostRead) : Laws.TenantInRange.Statement (.descriptorFetch t q r) :=
  Laws.tenant_some rfl (fun w => Laws.okTenant_lt (Laws.and_left w))

theorem Laws.TenantInRange.taskAccept (t : Nat) (q : Nat) (r : HostRead) (p : Ranges) : Laws.TenantInRange.Statement (.taskAccept t q r p) :=
  Laws.tenant_some rfl (fun w => Laws.okTenant_lt (Laws.and_left w))

theorem Laws.TenantInRange.hostStagingStart (h : Nat) (seq : Nat) : Laws.TenantInRange.Statement (.hostStagingStart h seq) :=
  Laws.tenant_some rfl (fun w => Laws.okHandle_lt (Laws.and_left w))

theorem Laws.TenantInRange.courseStart (h : Nat) (c : Nat) : Laws.TenantInRange.Statement (.courseStart h c) :=
  Laws.tenant_some rfl (fun w => Laws.okHandle_lt (Laws.and_left w))

theorem Laws.TenantInRange.courseFinish (h : Nat) : Laws.TenantInRange.Statement (.courseFinish h) :=
  Laws.tenant_some rfl (fun w => Laws.okHandle_lt w)

theorem Laws.TenantInRange.rotaCourseOverrun (h : Nat) : Laws.TenantInRange.Statement (.rotaCourseOverrun h) :=
  Laws.tenant_some rfl (fun w => Laws.okHandle_lt w)

theorem Laws.TenantInRange.transferIssue (h : Nat) (i : Nat) : Laws.TenantInRange.Statement (.transferIssue h i) :=
  Laws.tenant_some rfl (fun w => Laws.okHandle_lt (Laws.and_left w))

theorem Laws.TenantInRange.transferComplete (h : Nat) (i : Nat) (no : Nat) (check : Option UnitCheck) : Laws.TenantInRange.Statement (.transferComplete h i no check) :=
  Laws.tenant_some rfl (fun w => Laws.okHandle_lt (Laws.and_left (Laws.and_left w)))

theorem Laws.TenantInRange.slotCommit (h : Nat) (i : Nat) : Laws.TenantInRange.Statement (.slotCommit h i) :=
  Laws.tenant_some rfl (fun w => Laws.okHandle_lt (Laws.and_left w))

theorem Laws.TenantInRange.slotAcquire (h : Nat) (i : Nat) : Laws.TenantInRange.Statement (.slotAcquire h i) :=
  Laws.tenant_some rfl (fun w => Laws.okHandle_lt (Laws.and_left w))

theorem Laws.TenantInRange.stakeWaitRelease (p : Nat) : Laws.TenantInRange.Statement (.stakeWaitRelease p) :=
  Laws.tenant_none rfl

theorem Laws.TenantInRange.coilFrameDecode (h : Nat) (i : Nat) : Laws.TenantInRange.Statement (.coilFrameDecode h i) :=
  Laws.tenant_some rfl (fun w => Laws.okHandle_lt (Laws.and_left w))

theorem Laws.TenantInRange.coilFrameEncode (h : Nat) (i : Nat) : Laws.TenantInRange.Statement (.coilFrameEncode h i) :=
  Laws.tenant_some rfl (fun w => Laws.okHandle_lt (Laws.and_left w))

theorem Laws.TenantInRange.filterCmp (h : Nat) (i : Nat) : Laws.TenantInRange.Statement (.filterCmp h i) :=
  Laws.tenant_some rfl (fun w => Laws.okHandle_lt (Laws.and_left w))

theorem Laws.TenantInRange.maskAnd (h : Nat) (i : Nat) : Laws.TenantInRange.Statement (.maskAnd h i) :=
  Laws.tenant_some rfl (fun w => Laws.okHandle_lt (Laws.and_left w))

theorem Laws.TenantInRange.maskOr (h : Nat) (i : Nat) : Laws.TenantInRange.Statement (.maskOr h i) :=
  Laws.tenant_some rfl (fun w => Laws.okHandle_lt (Laws.and_left w))

theorem Laws.TenantInRange.maskNot (h : Nat) (i : Nat) : Laws.TenantInRange.Statement (.maskNot h i) :=
  Laws.tenant_some rfl (fun w => Laws.okHandle_lt (Laws.and_left w))

theorem Laws.TenantInRange.filterMask (h : Nat) (i : Nat) : Laws.TenantInRange.Statement (.filterMask h i) :=
  Laws.tenant_some rfl (fun w => Laws.okHandle_lt (Laws.and_left w))

theorem Laws.TenantInRange.hash (h : Nat) (i : Nat) : Laws.TenantInRange.Statement (.hash h i) :=
  Laws.tenant_some rfl (fun w => Laws.okHandle_lt (Laws.and_left w))

theorem Laws.TenantInRange.hashBucket (h : Nat) (i : Nat) : Laws.TenantInRange.Statement (.hashBucket h i) :=
  Laws.tenant_some rfl (fun w => Laws.okHandle_lt (Laws.and_left w))

theorem Laws.TenantInRange.widthBucket (h : Nat) (i : Nat) : Laws.TenantInRange.Statement (.widthBucket h i) :=
  Laws.tenant_some rfl (fun w => Laws.okHandle_lt (Laws.and_left w))

theorem Laws.TenantInRange.boundBucket (h : Nat) (i : Nat) : Laws.TenantInRange.Statement (.boundBucket h i) :=
  Laws.tenant_some rfl (fun w => Laws.okHandle_lt (Laws.and_left w))

theorem Laws.TenantInRange.clip (h : Nat) (i : Nat) : Laws.TenantInRange.Statement (.clip h i) :=
  Laws.tenant_some rfl (fun w => Laws.okHandle_lt (Laws.and_left w))

theorem Laws.TenantInRange.log1p (h : Nat) (i : Nat) : Laws.TenantInRange.Statement (.log1p h i) :=
  Laws.tenant_some rfl (fun w => Laws.okHandle_lt (Laws.and_left w))

theorem Laws.TenantInRange.slog1p (h : Nat) (i : Nat) : Laws.TenantInRange.Statement (.slog1p h i) :=
  Laws.tenant_some rfl (fun w => Laws.okHandle_lt (Laws.and_left w))

theorem Laws.TenantInRange.minmax (h : Nat) (i : Nat) : Laws.TenantInRange.Statement (.minmax h i) :=
  Laws.tenant_some rfl (fun w => Laws.okHandle_lt (Laws.and_left w))

theorem Laws.TenantInRange.zscore (h : Nat) (i : Nat) : Laws.TenantInRange.Statement (.zscore h i) :=
  Laws.tenant_some rfl (fun w => Laws.okHandle_lt (Laws.and_left w))

theorem Laws.TenantInRange.stats (h : Nat) (i : Nat) : Laws.TenantInRange.Statement (.stats h i) :=
  Laws.tenant_some rfl (fun w => Laws.okHandle_lt (Laws.and_left w))

theorem Laws.TenantInRange.statsRecordEmit (h : Nat) (i : Nat) : Laws.TenantInRange.Statement (.statsRecordEmit h i) :=
  Laws.tenant_some rfl (fun w => Laws.okHandle_lt (Laws.and_left w))

theorem Laws.TenantInRange.joinBuild (h : Nat) (i : Nat) : Laws.TenantInRange.Statement (.joinBuild h i) :=
  Laws.tenant_some rfl (fun w => Laws.okHandle_lt (Laws.and_left w))

theorem Laws.TenantInRange.joinProbe (h : Nat) (i : Nat) : Laws.TenantInRange.Statement (.joinProbe h i) :=
  Laws.tenant_some rfl (fun w => Laws.okHandle_lt (Laws.and_left w))

theorem Laws.TenantInRange.groupKey (h : Nat) (i : Nat) : Laws.TenantInRange.Statement (.groupKey h i) :=
  Laws.tenant_some rfl (fun w => Laws.okHandle_lt (Laws.and_left w))

theorem Laws.TenantInRange.groupAgg (h : Nat) (i : Nat) : Laws.TenantInRange.Statement (.groupAgg h i) :=
  Laws.tenant_some rfl (fun w => Laws.okHandle_lt (Laws.and_left w))

theorem Laws.TenantInRange.seqGather (h : Nat) (i : Nat) : Laws.TenantInRange.Statement (.seqGather h i) :=
  Laws.tenant_some rfl (fun w => Laws.okHandle_lt (Laws.and_left w))

theorem Laws.TenantInRange.tileMatmul (h : Nat) (i : Nat) : Laws.TenantInRange.Statement (.tileMatmul h i) :=
  Laws.tenant_some rfl (fun w => Laws.okHandle_lt (Laws.and_left w))

theorem Laws.TenantInRange.embedBag (h : Nat) (i : Nat) : Laws.TenantInRange.Statement (.embedBag h i) :=
  Laws.tenant_some rfl (fun w => Laws.okHandle_lt (Laws.and_left w))

theorem Laws.TenantInRange.cross (h : Nat) (i : Nat) : Laws.TenantInRange.Statement (.cross h i) :=
  Laws.tenant_some rfl (fun w => Laws.okHandle_lt (Laws.and_left w))

theorem Laws.TenantInRange.onehotMm (h : Nat) (i : Nat) : Laws.TenantInRange.Statement (.onehotMm h i) :=
  Laws.tenant_some rfl (fun w => Laws.okHandle_lt (Laws.and_left w))

theorem Laws.TenantInRange.div (h : Nat) (i : Nat) : Laws.TenantInRange.Statement (.div h i) :=
  Laws.tenant_some rfl (fun w => Laws.okHandle_lt (Laws.and_left w))

theorem Laws.TenantInRange.recip (h : Nat) (i : Nat) : Laws.TenantInRange.Statement (.recip h i) :=
  Laws.tenant_some rfl (fun w => Laws.okHandle_lt (Laws.and_left w))

theorem Laws.TenantInRange.sqrt (h : Nat) (i : Nat) : Laws.TenantInRange.Statement (.sqrt h i) :=
  Laws.tenant_some rfl (fun w => Laws.okHandle_lt (Laws.and_left w))

theorem Laws.TenantInRange.rsqrt (h : Nat) (i : Nat) : Laws.TenantInRange.Statement (.rsqrt h i) :=
  Laws.tenant_some rfl (fun w => Laws.okHandle_lt (Laws.and_left w))

theorem Laws.TenantInRange.solveSpd (h : Nat) (i : Nat) : Laws.TenantInRange.Statement (.solveSpd h i) :=
  Laws.tenant_some rfl (fun w => Laws.okHandle_lt (Laws.and_left w))

theorem Laws.TenantInRange.zparam (h : Nat) (i : Nat) : Laws.TenantInRange.Statement (.zparam h i) :=
  Laws.tenant_some rfl (fun w => Laws.okHandle_lt (Laws.and_left w))

theorem Laws.TenantInRange.mmparam (h : Nat) (i : Nat) : Laws.TenantInRange.Statement (.mmparam h i) :=
  Laws.tenant_some rfl (fun w => Laws.okHandle_lt (Laws.and_left w))

theorem Laws.TenantInRange.selectRow (h : Nat) (i : Nat) : Laws.TenantInRange.Statement (.selectRow h i) :=
  Laws.tenant_some rfl (fun w => Laws.okHandle_lt (Laws.and_left w))

theorem Laws.TenantInRange.arbourScore (h : Nat) (i : Nat) : Laws.TenantInRange.Statement (.arbourScore h i) :=
  Laws.tenant_some rfl (fun w => Laws.okHandle_lt (Laws.and_left w))

theorem Laws.TenantInRange.arbourLeafIndex (h : Nat) (i : Nat) : Laws.TenantInRange.Statement (.arbourLeafIndex h i) :=
  Laws.tenant_some rfl (fun w => Laws.okHandle_lt (Laws.and_left w))

theorem Laws.TenantInRange.sampleSplit (h : Nat) (i : Nat) : Laws.TenantInRange.Statement (.sampleSplit h i) :=
  Laws.tenant_some rfl (fun w => Laws.okHandle_lt (Laws.and_left w))

theorem Laws.TenantInRange.sampleMerge (h : Nat) (i : Nat) : Laws.TenantInRange.Statement (.sampleMerge h i) :=
  Laws.tenant_some rfl (fun w => Laws.okHandle_lt (Laws.and_left w))

theorem Laws.TenantInRange.augDraw (h : Nat) (i : Nat) : Laws.TenantInRange.Statement (.augDraw h i) :=
  Laws.tenant_some rfl (fun w => Laws.okHandle_lt (Laws.and_left w))

theorem Laws.TenantInRange.trellisJob (h : Nat) (i : Nat) : Laws.TenantInRange.Statement (.trellisJob h i) :=
  Laws.tenant_some rfl (fun w => Laws.okHandle_lt (Laws.and_left w))

theorem Laws.TenantInRange.shuffleOut (h : Nat) (i : Nat) : Laws.TenantInRange.Statement (.shuffleOut h i) :=
  Laws.tenant_some rfl (fun w => Laws.okHandle_lt (Laws.and_left w))

theorem Laws.TenantInRange.strStakeSel (h : Nat) (k : Nat) : Laws.TenantInRange.Statement (.strStakeSel h k) :=
  Laws.tenant_some rfl (fun w => Laws.okHandle_lt (Laws.and_left w))

theorem Laws.TenantInRange.strSignal (h : Nat) (k : Nat) : Laws.TenantInRange.Statement (.strSignal h k) :=
  Laws.tenant_some rfl (fun w => Laws.okHandle_lt (Laws.and_left w))

theorem Laws.TenantInRange.strWait (h : Nat) (k : Nat) : Laws.TenantInRange.Statement (.strWait h k) :=
  Laws.tenant_some rfl (fun w => Laws.okHandle_lt (Laws.and_left w))

theorem Laws.TenantInRange.strCount (h : Nat) (k : Nat) : Laws.TenantInRange.Statement (.strCount h k) :=
  Laws.tenant_some rfl (fun w => Laws.okHandle_lt (Laws.and_left w))

theorem Laws.TenantInRange.strHoopSel (h : Nat) (k : Nat) : Laws.TenantInRange.Statement (.strHoopSel h k) :=
  Laws.tenant_some rfl (fun w => Laws.okHandle_lt (Laws.and_left w))

theorem Laws.TenantInRange.strHoopReserve (h : Nat) (k : Nat) : Laws.TenantInRange.Statement (.strHoopReserve h k) :=
  Laws.tenant_some rfl (fun w => Laws.okHandle_lt (Laws.and_left w))

theorem Laws.TenantInRange.strHoopCommit (h : Nat) (k : Nat) : Laws.TenantInRange.Statement (.strHoopCommit h k) :=
  Laws.tenant_some rfl (fun w => Laws.okHandle_lt (Laws.and_left w))

theorem Laws.TenantInRange.strHoopAcquire (h : Nat) (k : Nat) : Laws.TenantInRange.Statement (.strHoopAcquire h k) :=
  Laws.tenant_some rfl (fun w => Laws.okHandle_lt (Laws.and_left w))

theorem Laws.TenantInRange.strHoopLen (h : Nat) (k : Nat) : Laws.TenantInRange.Statement (.strHoopLen h k) :=
  Laws.tenant_some rfl (fun w => Laws.okHandle_lt (Laws.and_left w))

theorem Laws.TenantInRange.strHoopRelease (h : Nat) (k : Nat) : Laws.TenantInRange.Statement (.strHoopRelease h k) :=
  Laws.tenant_some rfl (fun w => Laws.okHandle_lt (Laws.and_left w))

theorem Laws.TenantInRange.strHoopState (h : Nat) (k : Nat) : Laws.TenantInRange.Statement (.strHoopState h k) :=
  Laws.tenant_some rfl (fun w => Laws.okHandle_lt (Laws.and_left w))

theorem Laws.TenantInRange.strDrawStream (h : Nat) (k : Nat) : Laws.TenantInRange.Statement (.strDrawStream h k) :=
  Laws.tenant_some rfl (fun w => Laws.okHandle_lt (Laws.and_left w))

theorem Laws.TenantInRange.strDrawIndex (h : Nat) (k : Nat) : Laws.TenantInRange.Statement (.strDrawIndex h k) :=
  Laws.tenant_some rfl (fun w => Laws.okHandle_lt (Laws.and_left w))

theorem Laws.TenantInRange.strDraw (h : Nat) (k : Nat) : Laws.TenantInRange.Statement (.strDraw h k) :=
  Laws.tenant_some rfl (fun w => Laws.okHandle_lt (Laws.and_left w))

theorem Laws.TenantInRange.strBeat (h : Nat) (k : Nat) : Laws.TenantInRange.Statement (.strBeat h k) :=
  Laws.tenant_some rfl (fun w => Laws.okHandle_lt (Laws.and_left w))

theorem Laws.TenantInRange.strTaskSeq (h : Nat) (k : Nat) : Laws.TenantInRange.Statement (.strTaskSeq h k) :=
  Laws.tenant_some rfl (fun w => Laws.okHandle_lt (Laws.and_left w))

theorem Laws.TenantInRange.strSampleBase (h : Nat) (k : Nat) : Laws.TenantInRange.Statement (.strSampleBase h k) :=
  Laws.tenant_some rfl (fun w => Laws.okHandle_lt (Laws.and_left w))

theorem Laws.TenantInRange.strAbort (h : Nat) (k : Nat) : Laws.TenantInRange.Statement (.strAbort h k) :=
  Laws.tenant_some rfl (fun w => Laws.okHandle_lt (Laws.and_left w))

theorem Laws.TenantInRange.strandMemoryAccess (h : Nat) (k : Nat) : Laws.TenantInRange.Statement (.strandMemoryAccess h k) :=
  Laws.tenant_some rfl (fun w => Laws.okHandle_lt (Laws.and_left w))

theorem Laws.TenantInRange.strandInstruction (h : Nat) (k : Nat) : Laws.TenantInRange.Statement (.strandInstruction h k) :=
  Laws.tenant_some rfl (fun w => Laws.okHandle_lt (Laws.and_left w))

theorem Laws.TenantInRange.routineEnd (h : Nat) (k : Nat) : Laws.TenantInRange.Statement (.routineEnd h k) :=
  Laws.tenant_some rfl (fun w => Laws.okHandle_lt (Laws.and_left w))

theorem Laws.TenantInRange.strandTrap (h : Nat) (k : Nat) : Laws.TenantInRange.Statement (.strandTrap h k) :=
  Laws.tenant_some rfl (fun w => Laws.okHandle_lt (Laws.and_left w))

theorem Laws.TenantInRange.frameReceive (p : Nat) (frame : Bytes) : Laws.TenantInRange.Statement (.frameReceive p frame) :=
  Laws.tenant_none rfl

theorem Laws.TenantInRange.arpRequest (p : Nat) (mac : Bytes) (ip : Bytes) (target : Bytes) : Laws.TenantInRange.Statement (.arpRequest p mac ip target) :=
  Laws.tenant_none rfl

theorem Laws.TenantInRange.neighbourSolicitation (p : Nat) (mac : Bytes) (ip : Bytes) (target : Bytes) : Laws.TenantInRange.Statement (.neighbourSolicitation p mac ip target) :=
  Laws.tenant_none rfl

theorem Laws.TenantInRange.pfcPauseReceive (p : Nat) (prio : Nat) (quanta : Nat) : Laws.TenantInRange.Statement (.pfcPauseReceive p prio quanta) :=
  Laws.tenant_none rfl

theorem Laws.TenantInRange.rdmaWriteReceive (k : Pkt) (rkey : Nat) (addr : Nat) (data : Bytes) (first : Bool) : Laws.TenantInRange.Statement (.rdmaWriteReceive k rkey addr data first) :=
  Laws.tenant_some rfl (fun w => Laws.pkt_lt (Laws.and_left w))

theorem Laws.TenantInRange.rdmaReadReceive (k : Pkt) (rkey : Nat) (addr : Nat) (len : Nat) : Laws.TenantInRange.Statement (.rdmaReadReceive k rkey addr len) :=
  Laws.tenant_some rfl (fun w => Laws.pkt_lt (Laws.and_left w))

theorem Laws.TenantInRange.sendReceive (k : Pkt) (data : Bytes) : Laws.TenantInRange.Statement (.sendReceive k data) :=
  Laws.tenant_some rfl (fun w => Laws.pkt_lt w)

theorem Laws.TenantInRange.atomicReceive (k : Pkt) : Laws.TenantInRange.Statement (.atomicReceive k) :=
  Laws.tenant_some rfl (fun w => Laws.pkt_lt w)

theorem Laws.TenantInRange.ackReceive (t : Nat) (q : Nat) (psn : Nat) : Laws.TenantInRange.Statement (.ackReceive t q psn) :=
  Laws.tenant_some rfl (fun w => Laws.okTenant_lt (Laws.and_left (Laws.and_left w)))

theorem Laws.TenantInRange.nakReceive (t : Nat) (q : Nat) (psn : Nat) (rnr : Bool) : Laws.TenantInRange.Statement (.nakReceive t q psn rnr) :=
  Laws.tenant_some rfl (fun w => Laws.okTenant_lt (Laws.and_left (Laws.and_left w)))

theorem Laws.TenantInRange.retransmitTimeout (t : Nat) (q : Nat) : Laws.TenantInRange.Statement (.retransmitTimeout t q) :=
  Laws.tenant_some rfl (fun w => Laws.okTenant_lt (Laws.and_left w))

theorem Laws.TenantInRange.cnpReceive (t : Nat) (q : Nat) : Laws.TenantInRange.Statement (.cnpReceive t q) :=
  Laws.tenant_some rfl (fun w => Laws.okTenant_lt (Laws.and_left w))

theorem Laws.TenantInRange.alphaTimer (t : Nat) (q : Nat) : Laws.TenantInRange.Statement (.alphaTimer t q) :=
  Laws.tenant_some rfl (fun w => Laws.okTenant_lt (Laws.and_left w))

theorem Laws.TenantInRange.rateTimer (t : Nat) (q : Nat) (byBytes : Bool) : Laws.TenantInRange.Statement (.rateTimer t q byBytes) :=
  Laws.tenant_some rfl (fun w => Laws.okTenant_lt (Laws.and_left w))

theorem Laws.TenantInRange.netLinkDown (p : Nat) : Laws.TenantInRange.Statement (.netLinkDown p) :=
  Laws.tenant_none rfl

theorem Laws.TenantInRange.netLinkUp (p : Nat) : Laws.TenantInRange.Statement (.netLinkUp p) :=
  Laws.tenant_none rfl

theorem Laws.TenantInRange.sensorDatagram (p : Nat) (udp : Nat) (d : Bytes) (ptp : Nat) : Laws.TenantInRange.Statement (.sensorDatagram p udp d ptp) :=
  Laws.tenant_none rfl

theorem Laws.TenantInRange.sensorFrameStale (h : Nat) (i : Nat) (ptp : Nat) : Laws.TenantInRange.Statement (.sensorFrameStale h i ptp) :=
  Laws.tenant_some rfl (fun w => Laws.okHandle_lt (Laws.and_left w))

theorem Laws.TenantInRange.jtagBypass : Laws.TenantInRange.Statement (.jtagBypass) :=
  Laws.tenant_none rfl

theorem Laws.TenantInRange.jtagIdcode : Laws.TenantInRange.Statement (.jtagIdcode) :=
  Laws.tenant_none rfl

theorem Laws.TenantInRange.jtagSamplePreload : Laws.TenantInRange.Statement (.jtagSamplePreload) :=
  Laws.tenant_none rfl

theorem Laws.TenantInRange.jtagExtest : Laws.TenantInRange.Statement (.jtagExtest) :=
  Laws.tenant_none rfl

theorem Laws.TenantInRange.jtagClamp : Laws.TenantInRange.Statement (.jtagClamp) :=
  Laws.tenant_none rfl

theorem Laws.TenantInRange.longCommandComplete (back : Option Bytes) : Laws.TenantInRange.Statement (.longCommandComplete back) :=
  Laws.tenant_none rfl

theorem Laws.TenantInRange.pldmType0Message (chan : Channel) (inst : Nat) (cmd : Nat) (arg : Nat) : Laws.TenantInRange.Statement (.pldmType0Message chan inst cmd arg) :=
  Laws.tenant_none rfl

theorem Laws.TenantInRange.osfpModulePresence (p : Nat) (media : Nat) : Laws.TenantInRange.Statement (.osfpModulePresence p media) :=
  Laws.tenant_none rfl

end Sys2Proof
end

