-- ==== Sys2Proof/Safety.lean ====
section
/-! DEFINITION. What it is for a state to be well kept: every sparse file in its canonical form, so that equal contents are equal data; and
what a run without a stop is. -/

namespace Sys2Proof.Machine

/-- The memories are in canonical form: addresses strictly rising, no byte equal to the 0 that an unlisted address reads as; the tagged lines
strictly rising; no word listed with 0 bits in error. -/
def Mem.wf (m : Mem) : Bool :=
  sparseWf 0 m.hbm && sparseWf 0 m.ory && setWf m.tags && sparseWf 0 m.hbmErr && sparseWf 0 m.oryErr

/-- The flash is in canonical form: addresses strictly rising, no byte listed that is erased. -/
def Flash.wf (f : Flash) : Bool := sparseWf 0xFF#8 f.cells

/-- The snapshot of a commit is in canonical form. -/
def commitWf (c : Option Commit) : Bool := match c with | some c => sparseWf 0 c.snap | none => true

/-- Every sparse file of the device is in canonical form: the registers of PF0 and of the VFs, the shadow set and the snapshot of a commit, the
latched halves, the MSI-X tables, the memories, the flash and the written slots of the event log. -/
def State.wf (s : State) : Bool :=
  sparseWf 0 s.pf0 && sparseWf 0 s.shadow && sparseWf 0 s.vf && sparseWf 0 s.latch && commitWf s.commit && sparseWf 0 s.msix.table
    && s.mem.wf && s.flash.wf && sparseWf [] s.log.ring

/-- A step that goes on. -/
def goesOn (o : Host.Outcome State Fault Refusal) : Bool := match o with | .next _ => true | _ => false

/-- What every effect keeps, whatever else it does: the queue and the chip as they were, no free value drawn twice, nothing that has left the
device taken back, and the canonical forms. -/
structure Keeps (s t : State) : Prop where
  pending : t.pending = s.pending
  chip : t.chip = s.chip
  free : s.freeNo ≤ t.freeNo
  out : s.out <+: t.out
  wf : s.wf = true → t.wf = true

/-- A command answers a next state, and that keeps what `Keeps` says. -/
def Sound (c : Instr) : Prop := ∀ s : State, ∃ t, exec c s = .next t ∧ Keeps s t

/-- A byte that a write changes alone: its word has no bit in error, and in the Orangery its line has been written before. -/
def State.clean (s : State) (sp : Space) (a : Nat) : Bool := s.errOf sp (a / 8) == 0 && (sp == .hbm || s.tagged (a / 128))

/-- The Lodge takes the command of opcode `op` that request `r` makes: the request, as it is snapshotted, names that opcode; it reaches the Lodge; no
earlier command of PF0 stands before it; the Lodge is not busy for it; and its arguments meet Table 20-2. -/
structure Takes (s : State) (r : MbxReq) (op : Nat) : Prop where
  named : (s.snapshot r).opcode = op
  heard : s.hears r.chan = true
  alone : ((s.snapshot r).chan == Channel.pf0 && s.pf0Running) = false
  ready : s.busyFor op = false
  args : argFault (s.snapshot r) = none

/-- Operation `i` of list `l` is ready to run on one batch of every input: nothing it made waits to go out, its input goes on, the front slots of
the input hoops `ins` are `slots`, not all of them empty and none the last, and they read as `bs`. -/
structure BatchReady (s : State) (h : Nat) (l : OpList) (i : Nat) (e : OpEnv) (ins : List Nat) (slots : List (Hoop × Slot)) (u : State)
    (bs : List Bytes) : Prop where
  env : s.opEnv h l i = some e
  sent : e.o.outQ = []
  going : e.o.stage < 2
  got : e.c.inputs e.o.key ins = .got slots
  body : slots.all (fun p => p.2.bare) = false
  more : slots.any (fun p => p.2.fin) = false
  read : s.readInputs e.r slots = (u, .ok bs)

/-- What a run on a batch leaves: the operation's own state, its input slots released, and what it made in its output hoops, as far as they have
room. -/
def OpEnv.ran (e : OpEnv) (a : Agent) (slots : List (Hoop × Slot)) (stage : Nat) (k : KernOut) : State :=
  ((k.s.updOp e.h e.o.key (fun _ => { k.o with stage := stage, outQ := k.out.filter (fun b => b.hoop != 0xFFFF) })).finishInputs e slots).flushAll e a

/-- From core `m` to core `n` an instruction of `len` bytes has retired that gave `v` to register `rd`, and changed no other register and no byte of
local SRAM: the pc is past it and instret one up. -/
structure Retired (m n : Core) (len rd : Nat) (v : BitVec 64) : Prop where
  pc : n.pc = (m.pc + len) % 2 ^ 64
  instret : n.instret = (m.instret + 1) % 2 ^ 64
  x : n.x = (m.setReg rd v).x
  f : n.f = m.f
  sram : n.sram = m.sram
  stores : n.stores = m.stores
  resv : n.resv = m.resv
  ended : n.ended = m.ended

/-- The request a mailbox command makes, and the opcodes that are it. -/
def mailboxOf : Instr → Option (MbxReq × (Nat → Bool))
  | .mbxNop r => some (r, fun o => o == 0x0001)
  | .mbxIdentify r => some (r, fun o => o == 0x0002)
  | .mbxUnknownCommand r => some (r, fun o => (commandRow o).isNone)
  | .tenCreate r => some (r, fun o => o == 0x0010)
  | .tenReset r => some (r, fun o => o == 0x0011)
  | .tenDestroy r => some (r, fun o => o == 0x0012)
  | .rotaAdmit r => some (r, fun o => o == 0x0020)
  | .rotaRetire r => some (r, fun o => o == 0x0021)
  | .beatSetEpoch r => some (r, fun o => o == 0x0030)
  | .hostQuiesce r => some (r, fun o => o == 0x0040)
  | .hostResume r => some (r, fun o => o == 0x0041)
  | .imgWrite r => some (r, fun o => o == 0x0050)
  | .imgActivate r => some (r, fun o => o == 0x0051)
  | .imgConfirm r => some (r, fun o => o == 0x0052)
  | .imgCalWrite r => some (r, fun o => o == 0x0053)
  | .devReset r => some (r, fun o => o == 0x0060)
  | _ => none

end Sys2Proof.Machine
end

