-- ==== Sys2Proof/Certificates/Slice0/Obligations.lean ====
section
/-! DEFINITION. The statements for the provers: what a step is, what each command does and leaves as it was, and what every command keeps. -/

open Sys2Proof Sys2Proof.Machine

/-! ### The machine and its queue -/

/-- A step with a command at the front of the queue is that command's meaning on the state with the queue's rest. -/
def Obligations.StepRunsTheFrontCommand : Prop :=
  ∀ (c : Instr) (rest : List Instr) (s : State), s.pending = c :: rest → step s = exec c { s with pending := rest }

/-- With no command waiting one cycle passes (the model's choice, notes/assumptions/7.md), which changes nothing while the schedule clock is stopped
and no port is paused. -/
def Obligations.EmptyQueuePassesACycle : Prop :=
  ∀ s : State, s.pending = [] → step s = .next s.idle
    ∧ (s.schedRun = false → (∀ p, p < 4 → (s.port p).paused = 0) → s.idle = s)

/-- The canonical forms hold at reset. -/
def Obligations.ResetIsWellKept : Prop :=
  State.reset.wf = true

/-- Every command answers a next state, whatever the state it meets, and keeps the queue, the chip, what has left the device and the canonical
forms. -/
def Obligations.EveryCommandIsSound : Prop :=
  ∀ c : Instr, Sound c

/-- At reset every word of PF0 BAR0 reads 0 but IMG_ROM_VERSION and MBX_MCTP_CTRL, and every register of a VF holds 0 but BEAT_T_LAST_SEQ (R656). That
IMG_ROM_VERSION reads 0x0001_0000 rests on the model's choice of a chip of stepping 1 (notes/assumptions/3.md). -/
def Obligations.RegistersAtReset : Prop :=
  (∀ off, off < 0x1000000 → State.reset.word 0 off = if off = 0xC018 then 0x00010000 else if off = 0x10070 then 0x34C else 0)
    ∧ (∀ t off, t < 128 → off < 0x40000 → State.reset.vgetN t off = if off = 0x1014 then 0xFFFFFFFF else 0)

/-- A command in its ranges names one of the 128 tenants, if it names one. -/
def Obligations.TenantsAreInRange : Prop :=
  ∀ i : Instr, Laws.TenantInRange.Statement i

/-! ### Supplies, reset and JTAG (spec/24) -/

/-- What a loss or return of a supply, and an accepted DEV_RESET, do: the device stands as after reset, with its supplies as named.
A reset of the whole device: every Rota, tenant, task and entry of the log is gone and the memories are empty; the queue, the chip, the flash and
the ROM's version stay, and THERMTRIP_N goes up if it was low.
What a loss of power keeps is notes/assumptions/13.md, and how long JTAG's hold lasts 12.md.
The JTAG instructions: each is loaded; IDCODE gives STEPPING bits 3 to 0, the part code, the JEP106 identity and 1; EXTEST and CLAMP hold the
device in reset. -/
def Obligations.SuppliesResetAndJtag : Prop :=
  (∀ s : State,
      (s.power.aux = false → exec .auxPowerOn s = .next (s.fresh { Power.reset with main := false }))
      ∧ (s.power.aux = true → s.power.main = false → s.mbx.tripped = false →
          exec .vinPowerOn s = .next { s with power := { s.power with main := true } })
      ∧ (s.power.main = true → exec .vinFailure s
          = .next (s.fresh { aux := s.power.aux, main := false, jtag := s.power.jtag, held := false, thermtrip := false }))
      ∧ (s.power.main = true → exec .powerGoodLoss s
          = .next (s.fresh { aux := s.power.aux, main := false, jtag := s.power.jtag, held := false, thermtrip := false }))
      ∧ (s.power.aux = true → exec .auxFailure s = .next (s.fresh { Power.reset with aux := false, main := false }))
      ∧ (s.mbx.resetDue = true → exec .deviceReset s = .next (s.fresh { s.power with thermtrip := false })))
  ∧ (∀ (s : State) (p : Power), (s.fresh p).power = p ∧ (s.fresh p).tenants = [] ∧ (s.fresh p).rotas = [] ∧ (s.fresh p).tasks = []
      ∧ (s.fresh p).qps = [] ∧ (s.fresh p).mem = Mem.reset ∧ (s.fresh p).log = EventLog.reset ∧ (s.fresh p).mbx = Mailbox.reset
      ∧ (s.fresh p).host = HostLink.reset ∧ (s.fresh p).commit = none
      ∧ (s.fresh p).pending = s.pending ∧ (s.fresh p).chip = s.chip ∧ (s.fresh p).flash = s.flash
      ∧ (∀ off, (s.fresh p).get off = if off = rImgRomVersion then s.get off else State.reset.get off)
      ∧ (s.fresh p).out = s.out ++ (if s.power.thermtrip then [Out.thermtrip false] else []))
  ∧ (∀ s : State, s.power.aux = true →
      exec .jtagBypass s = .next { s with power := { s.power with jtag := .bypass } }
      ∧ exec .jtagSamplePreload s = .next { s with power := { s.power with jtag := .samplePreload } }
      ∧ exec .jtagIdcode s = .next { s with
          power := { s.power with jtag := .idcode },
          out := s.out ++ [Out.jtag (s.chip.stepping % 16 * 2 ^ 28 + s.chip.part.code * 2 ^ 12 + (Config.builtIn 11 0).toNat * 2 + 1)] }
      ∧ (s.power.held = false → exec .jtagExtest s
          = .next (s.fresh { aux := true, main := s.power.main, jtag := .extest, held := true, thermtrip := false }))
      ∧ (s.power.held = false → exec .jtagClamp s
          = .next (s.fresh { aux := true, main := s.power.main, jtag := .clamp, held := true, thermtrip := false })))

/-! ### The beat and time (spec/02, spec/16) -/

/-- R42: under PTP-scheduled the boundary of beat n is taken when local PTP time equals the epoch plus n periods, n above the last number taken; at
any other time nothing but the times changes.
R43: on the active source the first pulse after arming begins the beat whose number the arming gave, and each later one begins the next beat.
R78: no source for 1.5 times the declared maximum period after start-up is logged, once. -/
def Obligations.BeatBoundariesAreNumbered : Prop :=
  (∀ (s : State) (now ptp : Nat), (s.tickTo now ptp).qualified .ptp = true →
      (if (s.tickTo now ptp).searching then s.beat.chosen = .ptp else s.beat.src = .ptp) →
      (∀ n, (s.tickTo now ptp).ptp.clock = s.epochNs + n * s.period → (s.beat.started = true → s.beat.number < n) →
        exec (.beatBoundary now ptp) s = .next ((s.tickTo now ptp).boundary .ptp n false))
      ∧ ((∀ n, (s.tickTo now ptp).ptp.clock = s.epochNs + n * s.period → s.beat.started = true ∧ n ≤ s.beat.number) →
        exec (.beatBoundary now ptp) s = .next (s.tickTo now ptp)))
  ∧ (∀ (s : State) (src : BeatSrc), src = .beatIn ∨ src = .doorbell → s.beat.started = true → s.beat.lost = false → s.beat.src = src →
      (∀ n, (if src = .beatIn then s.beat.inNext else s.beat.dbNext) = some n → s.pulse src = s.boundary src n true)
      ∧ ((if src = .beatIn then s.beat.inNext else s.beat.dbNext) = none → s.pulse src = s.boundary src (s.beat.number + 1) false))
  ∧ (∀ (s : State) (now ptp t : Nat), s.beat.startDone = some t → s.beat.noSource = false → s.beat.src = .none → s.beat.started = false →
      2 * t + 3 * s.maxPeriod s.thresholdSrc ≤ 2 * now →
      exec (.beatNoSource now ptp) s
        = .next (({ s.tickTo now ptp with beat := { (s.tickTo now ptp).beat with noSource := true } } : State).logOpen 0x0204 0xFF 0))

/-- R671: a rising edge of BEAT_IN is taken as the pulse of R43, and every edge within 10 µs of one taken is ignored. -/
def Obligations.BeatInEdgesAreTakenTenMicrosecondsApart : Prop :=
  ∀ (s : State) (now ptp : Nat),
    (∀ p, s.beat.lastPulse = some p → now < p + 10000 → exec (.beatInPulse now ptp) s = .next (s.tickTo now ptp))
    ∧ ((∀ p, s.beat.lastPulse = some p → p + 10000 ≤ now) →
      ∀ u, u = { s.tickTo now ptp with beat := { (s.tickTo now ptp).beat with lastPulse := some now } } →
        exec (.beatInPulse now ptp) s = .next (if s.beat.inEpoch then u.pulse .beatIn else u))

/-- R45: a write of any value to BEAT_DOORBELL acts as a pulse once the doorbell's epoch is armed, and BEAT_SET_EPOCH arms it with the number its
request carries, exactly as it arms BEAT_IN. -/
def Obligations.TheDoorbellIsAPulse : Prop :=
  (∀ (s : State) (now ptp : Nat), s.mbx.ready = true → s.beat.dbEpoch = true →
    exec (.beatDoorbell now ptp) s = .next ((s.tickTo now ptp).pulse .doorbell))
  ∧ (∀ (s : State) (r : MbxReq), Takes s r 0x0030 → (s.snapshot r).arg0 = 3 → s.epochHeld .doorbell = false →
    exec (.beatSetEpoch r) s = .next (({ s with beat := { s.beat with dbEpoch := true, dbNext := some (s.snapshot r).arg64 } } : State).finishCmd
      (s.snapshot r) MbxResult.ok))
  ∧ (∀ (s : State) (r : MbxReq), Takes s r 0x0030 → (s.snapshot r).arg0 = 2 → s.epochHeld .beatIn = false →
    exec (.beatSetEpoch r) s = .next (({ s with beat := { s.beat with inEpoch := true, inNext := some (s.snapshot r).arg64 } } : State).finishCmd
      (s.snapshot r) MbxResult.ok))

/-- R71 and R72: no boundary for 1.5 times the declared maximum period is the loss of the beat: BEAT_STATUS.LOST, BEAT_EVENT.LOST, BEAT_LOST_CNT, the
entry in the log with the last beat number, and BEAT_PHASE at 65,535. Before that time nothing but the times changes. -/
def Obligations.BeatLossIsRaised : Prop :=
  ∀ (s : State) (now ptp : Nat), s.wf = true → s.beat.started = true → s.beat.lost = false → s.beat.src ≠ .none →
    (2 * now < 2 * s.beat.lastBoundary + 3 * s.maxPeriod s.beat.src → exec (.beatLost now ptp) s = .next (s.tickTo now ptp))
    ∧ (2 * s.beat.lastBoundary + 3 * s.maxPeriod s.beat.src ≤ 2 * now → ∃ t, exec (.beatLost now ptp) s = .next t
      ∧ bit (t.word 0 rBeatStatus) 4 = true ∧ bit (t.getN rBeatEvent) 1 = true
      ∧ t.getN rBeatLostCnt = Nat.min (s.getN rBeatLostCnt + 1) 0xFFFFFFFF
      ∧ t.word 0 rBeatPhase = 65535
      ∧ (s.log.queue.length < 256 → ∃ a, t.log.queue = s.log.queue
          ++ [{ code := 0x0202, cls := 0, tenant := 0xFF, detail := 0, arg0 := s.beat.number, arg1 := a }]))

/-- The messages of the master (R465 to R467): a one-step Sync and the Follow_Up of a two-step one give a result, a two-step Sync waits for its
Follow_Up, and a delay response of the end-to-end mechanism gives the mean path delay.
R465 and R467: a better master is followed, three Sync intervals without one end lock and give the master up, and PTP-scheduled is qualified no
more BEAT_HOLDOVER_MS after that.
R468: a 1PPS edge is reported as local time less the nearest whole second; under PPS_MODE 2 it steers the clock in holdover. -/
def Obligations.ThePtpClockFollowsItsMaster : Prop :=
  (∀ (s : State) (m : PtpMsg) (origin a b c d : Nat), s.fromMaster m = true →
      exec (.ptpSync m origin false) s = .next ((s.tickTo m.now m.ptp).syncResult origin (s.ptpAt m.ptp) m.correction)
      ∧ exec (.ptpSync m origin true) s = .next { s.tickTo m.now m.ptp with
          ptp := { (s.tickTo m.now m.ptp).ptp with awaitFollowUp := some (m.seq, s.ptpAt m.ptp, m.correction) } }
      ∧ (∀ t2 cf, s.ptp.awaitFollowUp = some (m.seq, t2, cf) →
          exec (.ptpFollowUp m origin) s = .next ((s.tickTo m.now m.ptp).syncResult origin t2 (cf + m.correction)))
      ∧ (∀ o t2 cf, s.ptp.lastSync = some (o, t2, cf) → bit (s.getN rNetPtpCtrl) 10 = false →
          exec (.ptpDelayResponse m a b c d) s = .next { s.tickTo m.now m.ptp with
            ptp := { (s.tickTo m.now m.ptp).ptp with pathDelay := (((t2 : Int) - o) + ((d : Int) - s.ptpAt a) - cf - m.correction) / 2 } }))
  ∧ ((∀ (s : State) (m : PtpMsg) (attrs : List Nat), s.ptpHears m = true → attrs.length = 7 → nth attrs 6 0 < 255 → s.ptp.master = none →
      exec (.ptpAnnounce m attrs) s = .next { s.tickTo m.now m.ptp with
        ptp := { (s.tickTo m.now m.ptp).ptp with master := some (attrs ++ [m.source]), awaitFollowUp := none, lastSync := none } })
    ∧ (∀ (s : State) (now ptp : Nat), ∀ u, u = { s.tickTo now ptp with
        ptp := { (s.tickTo now ptp).ptp with awaitFollowUp := none, lastSync := none, master := none, lockRun := 0 } } →
      exec (.netPtpUnlock now ptp) s = .next (if s.ptp.locked then u.ptpUnlock else u))
    ∧ (∀ (s : State) (now ptp : Nat), s.ptp.holdover = true → s.ptp.holdoverSince + s.getN rBeatHoldoverMs * 1000000 ≤ now →
      exec (.ptpHoldoverExpiry now ptp) s = .next { s.tickTo now ptp with beat := { (s.tickTo now ptp).beat with ptpQual := false } }))
  ∧ (∀ (s : State) (now ptp : Nat), s.wf = true → s.getF rNetPtpCtrl 12 11 = 1 ∨ (s.getF rNetPtpCtrl 12 11 = 2 ∧ s.ptp.holdover = false) →
      ∃ t, exec (.ppsEdge now ptp) s = .next t
        ∧ ∃ k e : Int, (s.ptpAt ptp : Int) = k * 1000000000 + e ∧ -500000000 ≤ e ∧ e < 500000000
          ∧ (t.getN rNetPtpPpsOffsetNs : Int) % 2 ^ 32 = e % 2 ^ 32 ∧ t.ptp.rateAdj = s.ptp.rateAdj)

/-! ### The management mailbox, MCTP and PLDM (spec/20) -/

/-- R589: the short commands that are not refused complete: MBX_NOP with no effect, MBX_IDENTIFY with the part, stepping, ROM and firmware versions,
HOST_RESUME with HOST_STATE 0 while the link is up, DEV_RESET with the reset due.
R589, R600: what completion shows of a PF0 command that went through: RESULT 0 with the TAG, DETAIL, VALUE0 and VALUE1, and STATE 3. -/
def Obligations.ShortCommandsComplete : Prop :=
  (∀ (s : State) (r : MbxReq),
      (Takes s r 0x0001 → exec (.mbxNop r) s = .next (s.finishCmd (s.snapshot r) { code := 0, detail := 0, value0 := 0, value1 := 0 }))
      ∧ (Takes s r 0x0002 → exec (.mbxIdentify r) s = .next (s.finishCmd (s.snapshot r) { MbxResult.ok with
          value0 := s.chip.part.code + s.chip.stepping % 256 * 0x10000 + s.getN rImgRomVersion * 2 ^ 32, value1 := s.getN rStrFwVersion }))
      ∧ (Takes s r 0x0041 → exec (.hostResume r) s = .next (({ s with host := { s.host with
          state := if s.host.dlUp then 0 else s.host.state } } : State).finishCmd (s.snapshot r) MbxResult.ok))
      ∧ (Takes s r 0x0060 → s.resetRefused (bit (s.snapshot r).flags 0) = false →
          exec (.devReset r) s = .next (({ s with mbx := { s.mbx with resetDue := true } } : State).finishCmd (s.snapshot r) MbxResult.ok)))
  ∧ (∀ (s : State) (r : MbxReq) (x : MbxResult), s.wf = true → r.chan = .pf0 → x.code = 0 →
      (s.finishCmd r x).getN rMbxResult = r.tag % 0x10000 * 0x10000
      ∧ (s.finishCmd r x).getN rMbxDetail = x.detail % 2 ^ 32
      ∧ (s.finishCmd r x).get64 rMbxValue0 = x.value0 % 2 ^ 64 ∧ (s.finishCmd r x).get64 rMbxValue1 = x.value1 % 2 ^ 64
      ∧ (s.finishCmd r x).getF rMbxStatus 1 0 = 3 ∧ (s.finishCmd r x).log = s.log ∧ (s.finishCmd r x).mem = s.mem)

/-- R590: an opcode not in Table 20-2 is answered with MBX_UNKNOWN_COMMAND, and a request whose reserved field, unnamed FLAGS bit or BYTES breaks the
table with MBX_ARG_INVALID; nothing else happens. -/
def Obligations.RequestsThatBreakTheTableAreRefused : Prop :=
  (∀ (s : State) (r : MbxReq), s.hears r.chan = true → (r.chan = .pf0 → s.pf0Running = false) → s.busyFor (s.snapshot r).opcode = false →
    commandRow (s.snapshot r).opcode = none →
    exec (.mbxUnknownCommand r) s = .next (s.finishCmd (s.snapshot r) { code := 0x1402, detail := 0, value0 := 0, value1 := 0 }))
  ∧ ∀ (s : State) (c : Instr) (r : MbxReq) (p : Nat → Bool), mailboxOf c = some (r, p) → p (s.snapshot r).opcode = true → s.hears r.chan = true →
    (r.chan = .pf0 → s.pf0Running = false) → s.busyFor (s.snapshot r).opcode = false →
    ∀ mask len addr, commandRow (s.snapshot r).opcode = some (mask, len, addr) → (addr = true → r.chan = .pf0) →
      ((s.snapshot r).reserved = true ∨ (s.snapshot r).flags / (mask + 1) ≠ 0 ∨ (∃ n, len = some n ∧ (s.snapshot r).bytes ≠ n)) →
      exec c s = .next (s.finishCmd (s.snapshot r) { code := 0x1403, detail := 0, value0 := 0, value1 := 0 })

/-- R586: while a long command runs every other command is answered with MBX_BUSY at once, recorded on PF0 in MBX_REFUSED and MBX_REFUSED_CNT, and
the running command and its result stay untouched. -/
def Obligations.BusyIsAnsweredAtOnce : Prop :=
  ∀ (s : State) (c : Instr) (r : MbxReq) (p : Nat → Bool), s.wf = true → mailboxOf c = some (r, p) → p (s.snapshot r).opcode = true →
    s.hears r.chan = true → (r.chan = .pf0 → s.pf0Running = false) → s.mbx.tripped = false → s.mbx.stopped = false → s.mbx.ready = true →
    s.longRuns = true →
    ∃ t, exec c s = .next t ∧ t.mbx = s.mbx ∧ t.pldm = s.pldm ∧ t.tenants = s.tenants ∧ t.rotas = s.rotas ∧ t.flash = s.flash
      ∧ t.get rMbxStatus = s.get rMbxStatus ∧ t.get rMbxResult = s.get rMbxResult
      ∧ (r.chan = .pf0 → t.getN rMbxRefusedCnt = Nat.min (s.getN rMbxRefusedCnt + 1) 0xFFFFFFFF
          ∧ t.getN rMbxRefused = ((s.snapshot r).opcode + (s.snapshot r).tag * 0x10000) % 2 ^ 32)

/-- R532: HOST_QUIESCE bounds itself to T boundaries and runs; once no affected task and no record remains HOST_STATE is 2 and it completes; when T
boundaries have passed the affected tasks are aborted. -/
def Obligations.QuiesceRunsAndEnds : Prop :=
  ∀ (s : State) (r : MbxReq),
    (Takes s r 0x0040 → 1 ≤ (s.snapshot r).arg0 → (s.snapshot r).arg0 ≤ 65535 → exec (.hostQuiesce r) s
      = .next (({ s with host := { s.host with state := if s.host.dlUp then 1 else s.host.state, quiesceLeft := some (s.snapshot r).arg0 } } : State).begins
          (s.snapshot r) (longFor (s.snapshot r) none)))
    ∧ (∀ l, s.mbx.long = some l → l.req.opcode = 0x0040 → s.quiesced = true → exec .hostQuiesceComplete s
      = .next ((({ s with host := { s.host with state := if s.host.dlUp then 2 else s.host.state, quiesceLeft := none } } : State).hostEvent 3).endLong
          MbxResult.ok))
    ∧ (∀ l, s.mbx.long = some l → l.req.opcode = 0x0040 → s.host.quiesceLeft = some 0 → exec .hostQuiesceAbort s
      = .next (({ s with host := { s.host with quiesceLeft := none } } : State).abortHostTasks 0x1008))

/-- The commands of the boot image (R574 to R577): IMG_WRITE and IMG_CAL_WRITE copy and check the source, erase their target and run on;
IMG_ACTIVATE and IMG_CONFIRM write the journal; each completes with its result. -/
def Obligations.ImageCommandsRun : Prop :=
  ∀ (s : State) (r : MbxReq) (b : Bytes),
    (Takes s r 0x0050 → s.copied (s.snapshot r) = .ok b →
      ({ s with boot := { s.boot with area := b } } : State).imageFault b s.flash.slotBytes = none →
      ∃ k, k = ({ s with boot := { s.boot with area := b } } : State).imageTarget ∧ exec (.imgWrite r) s
        = .next ((({ s with boot := { s.boot with area := b } } : State).startImage k b).begins (s.snapshot r)
            { longFor (s.snapshot r) none with slot := k }))
    ∧ (Takes s r 0x0051 → (s.snapshot r).arg0 ≤ 1 → (s.activate (s.snapshot r).arg0 (bit (s.snapshot r).flags 0)).2.code = 0 →
      exec (.imgActivate r) s = .next ((s.activate (s.snapshot r).arg0 (bit (s.snapshot r).flags 0)).1.begins (s.snapshot r)
        (longFor (s.snapshot r) (some (s.activate (s.snapshot r).arg0 (bit (s.snapshot r).flags 0)).2))))
    ∧ (∀ k, Takes s r 0x0052 → s.flash.good = true → s.flash.jstate.active = some k → s.flash.jstate.trial = true →
      exec (.imgConfirm r) s = .next ((s.journalAdd 4 k (s.flash.seq k) false).begins (s.snapshot r) (longFor (s.snapshot r) (some MbxResult.ok))))
    ∧ (Takes s r 0x0053 → s.copied (s.snapshot r) = .ok b → s.calRefusal b = none →
      exec (.imgCalWrite r) s = .next (({ s with flash := s.flash.erase (calAddr s.calTarget) 32768 } : State).begins (s.snapshot r)
        { longFor { s.snapshot r with src := some b } none with slot := s.calTarget }))
    ∧ (∀ l back, s.mbx.long = some l → l.req.opcode = 0x0050 → exec (.longCommandComplete back) s
      = .next ((s.endImage l.slot (l.req.src.getD []) (bit l.req.flags 0) back).1.endLong
          (s.endImage l.slot (l.req.src.getD []) (bit l.req.flags 0) back).2))
    ∧ (∀ l back, s.mbx.long = some l → l.req.opcode = 0x0053 → exec (.longCommandComplete back) s
      = .next ((s.endCal l.slot (l.req.src.getD []) back).1.endLong (s.endCal l.slot (l.req.src.getD []) back).2))
    ∧ (∀ l x back, s.mbx.long = some l → l.req.opcode ≠ 0x0050 → l.req.opcode ≠ 0x0053 → l.req.opcode ≠ 0x0012 → l.result = some x →
      exec (.longCommandComplete back) s = .next (s.endLong x))

/-- The control messages of R592 are answered on their channel, and Set Endpoint ID takes the identifier.
PLDM types 0 and 2 (R594): the base messages, the repository, the readings of the sensors and of LEVEL, and the event receiver. -/
def Obligations.ManagementMessagesAreAnswered : Prop :=
  (∀ (s : State) (chan : Channel) (inst : Nat), s.hearsMctp chan = true →
      (∀ op eid, op ≤ 1 → 1 ≤ eid → eid ≤ 254 → exec (.mctpSetEndpointId chan inst op eid) s
        = .next ((s.setN rMbxMctpEid eid).answerControl chan inst 1 0 (leBytes 1 0 ++ leBytes 1 eid ++ leBytes 1 0)))
      ∧ (∃ m, exec (.mctpGetEndpointId chan inst) s
        = .next ((s.freeBytes 1).1.answerControl chan inst 2 0 (leBytes 1 (s.getN rMbxMctpEid) ++ leBytes 1 0 ++ m)))
      ∧ exec (.mctpGetVersionSupport chan inst 0) s = .next (s.answerControl chan inst 4 0 (leBytes 1 1 ++ [0xF1, 0xF3, 0xF0, 0x00]))
      ∧ exec (.mctpGetMessageTypeSupport chan inst) s = .next (s.answerControl chan inst 5 0 (leBytes 1 2 ++ leBytes 1 1 ++ leBytes 1 0x7E))
      ∧ (∃ m, exec (.mctpGetVendorMessageSupport chan inst 0) s
        = .next ((s.freeBytes 2).1.answerControl chan inst 6 0 (leBytes 1 0xFF ++ leBytes 1 0 ++ (leBytes 2 s.vendorId).reverse ++ m))))
  ∧ (∀ (s : State) (chan : Channel) (inst : Nat), s.hearsMctp chan = true →
      (∀ tid, 1 ≤ tid → tid < 255 → exec (.pldmType0Message chan inst 1 tid) s
        = .next (({ s with pldm := { s.pldm with tid := tid } } : State).answerPldm chan inst 0 1 0 []))
      ∧ exec (.pldmType0Message chan inst 2 0) s = .next (s.answerPldm chan inst 0 2 0 (leBytes 1 s.pldm.tid))
      ∧ (∃ a b, a.length = 26 ∧ b.length = 9 ∧ ∃ n, exec (.pldmGetPdrRepositoryInfo chan inst) s
        = .next (({ s with freeNo := n } : State).answerPldm chan inst 2 0x50 0 (leBytes 1 0 ++ a ++ leBytes 4 s.pdrCount ++ b)))
      ∧ (∀ k, k ≤ s.pdrCount → 1 ≤ k → ∃ n d, exec (.pldmGetPdr chan inst k) s
        = .next (({ s with freeNo := n } : State).answerPldm chan inst 2 0x51 0 (leBytes 4 (if k = s.pdrCount then 0 else k + 1) ++ d)))
      ∧ (∀ x v signed, s.sensorReading x = some (v, signed) → ∃ n f, f.length = 5 ∧ exec (.pldmGetSensorReading chan inst x) s
        = .next (({ s with freeNo := n } : State).answerPldm chan inst 2 0x11 0 (leBytes 1 (if signed then 3 else 2) ++ f ++ leBytes 2 v)))
      ∧ (∃ n a b, exec (.pldmGetStateSensorReadings chan inst) s
        = .next (({ s with freeNo := n } : State).answerPldm chan inst 2 0x21 0 (leBytes 1 1 ++ a ++ leBytes 1 s.level ++ b)))
      ∧ (∀ enable eid, exec (.pldmSetEventReceiver chan inst enable eid) s
        = .next (({ s with pldm := { s.pldm with receiver := if enable = 0 then none else some (chan, eid) } } : State).answerPldm chan inst 2 4 0 [])))

/-- A PLDM update (R595): it begins, takes the component's bytes, checks and writes it at its end, and ends at ActivateFirmware, at CancelUpdate and
after 60 s without a message. -/
def Obligations.PldmUpdateRunsAndEnds : Prop :=
  ∀ (s : State) (chan : Channel) (inst now : Nat), s.hearsMctp chan = true →
    (∀ size, s.updateBusy = false → exec (.pldmRequestUpdate chan inst now size) s = .next (s.beginUpdate chan inst now size))
    ∧ (∀ u, s.pldm.update = some u → u.chan = chan →
      (∀ data, exec (.pldmFirmwareData chan now data) s
        = .next ((s.setUpdate (some { u with data := (u.data ++ data).take u.size, last := now })).pullData
            { u with data := (u.data ++ data).take u.size, last := now }))
      ∧ (∀ back ecc t k, u.size ≤ u.data.length → u.slot = none → s.writeComponent u back ecc = (t, MbxResult.ok, k) →
        exec (.pldmTransferComplete chan now back ecc) s = .next ((t.requestPldm chan 5 0x16 (leBytes 1 0)).setUpdate (some { u with last := now, slot := k })))
      ∧ (∀ k, u.slot = some k → ((s.setUpdate (some { u with last := now })).activate k true).2.code = 0 →
        ∃ e, exec (.pldmActivateFirmware chan inst now false) s = .next
          (((((s.setUpdate (some { u with last := now })).activate k true).1.freeBytes 2).1.answerPldm chan inst 5 0x1A 0 e).endUpdate))
      ∧ exec (.pldmCancelUpdate chan inst) s = .next (s.answerPldm chan inst 5 0x1D 0 (List.replicate 9 0)).endUpdate
      ∧ (u.last + 60000000000 ≤ now → exec (.pldmUpdateTimeout now) s = .next s.endUpdate)
      ∧ (now < u.last + 60000000000 → exec (.pldmUpdateTimeout now) s = .next s))

/-! ### Tenants and Rotas (spec/03, spec/18) -/

/-- The life of a tenant (R539, R543, R544, R547, R521): created at once or when its granules are free, reset and active again, destroyed. -/
def Obligations.TenantsLiveAndDie : Prop :=
  ∀ (s : State) (r : MbxReq),
    (∀ t, Takes s r 0x0010 → s.create (s.snapshot r).inlineData false = .created t →
      exec (.tenCreate r) s = .next (t.begins (s.snapshot r) (longFor (s.snapshot r) (some MbxResult.ok))))
    ∧ (∀ t, Takes s r 0x0010 → s.create (s.snapshot r).inlineData false = .waits t →
      exec (.tenCreate r) s = .next (t.begins (s.snapshot r) (longFor (s.snapshot r) none)))
    ∧ (∀ x t y, s.creating? = some x → s.retryCreate x = some (t, y) → t.boot.todo = none → exec .tenCreateComplete s = .next (t.endLong y))
    ∧ (Takes s r 0x0011 → s.exists? (s.snapshot r).arg0 = true →
      exec (.tenReset r) s = .next ((s.beginReset (s.snapshot r).arg0 .resetting).finishCmd (s.snapshot r) MbxResult.ok))
    ∧ (∀ t x, s.tenant? t = some x → x.phase = .resetting → exec (.tenResetComplete t) s = .next (s.endReset t .active))
    ∧ (Takes s r 0x0012 → s.exists? (s.snapshot r).arg0 = true →
      exec (.tenDestroy r) s = .next ((s.beginReset (s.snapshot r).arg0 .destroying).begins (s.snapshot r) (longFor (s.snapshot r) none)))
    ∧ (∀ l x back, s.mbx.long = some l → l.req.opcode = 0x0012 → l.result = some x →
      exec (.longCommandComplete back) s = .next ((s.destroyTenant l.req.arg0).endLong x))
    ∧ (∀ t, s.host.dlUp = true → s.host.vfEnable = true → t < 128 →
      ∃ m h, exec (.functionLevelReset (t + 1)) s = .next (({ s with msix := m, host := h } : State).beginReset t .resetting))
    ∧ (s.host.dlUp = true → exec (.functionLevelReset 0) s = .next s.pcieReset)

/-- R540: a new tenant has epoch 0 when none of its number has existed since start, and the epoch after the last one's otherwise; every reset adds 1,
modulo 2^16. -/
def Obligations.EpochsRise : Prop :=
  (∀ (s t : State) (b : Bytes) (standing : Bool), s.create b standing = .created t → s.tenant? (gTenant b) = none →
    ∃ x, t.tenant? (gTenant b) = some x ∧ x.phase = .active
      ∧ x.epoch = (match s.epochs.find? (fun p => p.1 == gTenant b) with | none => 0 | some p => (p.2 + 1) % 0x10000))
  ∧ (∀ (s : State) (t : Nat) (x : Tenant), s.tenant? t = some x → x.phase = .resetting →
    ∃ u y, exec (.tenResetComplete t) s = .next u ∧ u.tenant? t = some y ∧ y.epoch = (x.epoch + 1) % 0x10000 ∧ y.phase = .active
      ∧ y.nextSeq = 0 ∧ y.orphaned = false)

/-- R551: a reset requested while one of the same tenant is in progress joins it: the request completes and changes no tenant and no task, and the epoch rises
by 1 only once, when that reset completes. -/
def Obligations.ResetsJoin : Prop :=
  ∀ (s : State) (r : MbxReq) (n : Nat) (x : Tenant), Takes s r 0x0011 → n = (s.snapshot r).arg0 → s.tenant? n = some x → x.phase = .resetting →
    ∃ t : State, exec (.tenReset r) s = .next (t.finishCmd (s.snapshot r) MbxResult.ok) ∧ (∀ n, t.tenant? n = s.tenant? n) ∧ t.tasks = s.tasks
      ∧ ∃ u y, exec (.tenResetComplete n) (t.finishCmd (s.snapshot r) MbxResult.ok) = .next u ∧ u.tenant? n = some y
        ∧ y.epoch = (x.epoch + 1) % 0x10000

/-- R93, R94, R108: an admission that no check refuses gives the Rota a handle of its tenant's number and the next count of its epoch, and runs on; a
retirement marks the Rota, which is freed at a boundary. -/
def Obligations.RotasAreAdmittedAndRetired : Prop :=
  ∀ (s : State) (r : MbxReq),
    (∀ x b, Takes s r 0x0020 → s.exists? (s.snapshot r).arg0 = true → s.tenant? (s.snapshot r).arg0 = some x → mbxSource (s.snapshot r) = some b →
      s.admitRefusal x b (mbxBinding (s.snapshot r)) false = none →
      exec (.rotaAdmit r) s = .next ((s.admitRota x b (mbxBinding (s.snapshot r)) none).1.begins (s.snapshot r)
        (longFor (s.snapshot r) (some (s.admitRota x b (mbxBinding (s.snapshot r)) none).2))))
    ∧ (∀ x b bind st, s.tenant? x.id = some x → x.handleCount < 0xFFFFFF →
      (s.admitRota x b bind st).1.rotas.map Rota.handle = s.rotas.map Rota.handle ++ [x.id * 2 ^ 24 + (x.handleCount + 1)]
      ∧ ((s.admitRota x b bind st).1.tenant? x.id).map Tenant.handleCount = some (x.handleCount + 1))
    ∧ (∀ q, Takes s r 0x0021 → s.rota? (s.snapshot r).arg0 = some q → q.retiring = false →
      exec (.rotaRetire r) s = .next ((s.updRota (s.snapshot r).arg0 (fun q => { q with retiring := true })).finishCmd (s.snapshot r) MbxResult.ok))

/-! ### Registers of the host (spec/00, spec/02, spec/20, spec/23) -/

/-- R80: a read of the low word of a 64-bit pair of Table 2-9 latches the high word, and the next read of the high word returns it, whatever has changed
in between. -/
def Obligations.PairReadsBelongTogether : Prop :=
  ∀ (s : State) (off : Nat), s.wf = true →
    off ∈ [rBeatPeriodNs, rBeatMaxPeriodNs, rBeatEpochSec, rBeatNumber, rBeatMeasPeriodNs, rBeatMinAdmittedNs] →
    ∃ t, exec (.pairLowRead 0 off) s = .next t
      ∧ (sparseGet 0 s.latch (latchKey 0 off) = 0 → t.out = s.out ++ [Out.readData (BitVec.ofNat 32 (s.word 0 off))])
      ∧ ∀ u : State, u.latch = t.latch → ∃ v, exec (.pairLowRead 0 (off + 4)) u = .next v
          ∧ v.out = u.out ++ [Out.readData (BitVec.ofNat 32 (s.word 0 (off + 4)))]

/-- A read of a register that nothing has latched returns its value and changes no register (R659); LODGE_PWR_PEAK is cleared by the read that returns it
(R7, R649).
R661, R662 and R663: a write to an address of BAR0 that holds no register, a poisoned write, and a write to a VF whose tenant does not exist
change nothing. -/
def Obligations.RegisterAccesses : Prop :=
  (∀ (s : State) (fn off : Nat), fn ≤ 128 → sparseGet 0 s.latch (latchKey fn (off / 4 * 4)) = 0 →
      (¬ (fn = 0 ∧ off / 4 * 4 = rLodgePwrPeak) → ∃ l, exec (.pairLowRead fn off) s
        = .next { s with latch := l, out := s.out ++ [Out.readData (BitVec.ofNat 32 (s.word fn (off / 4 * 4)))] })
      ∧ (fn = 0 → off = rLodgePwrPeak → ∃ l, exec .lodgePwrPeakRead s
        = .next { s.setN rLodgePwrPeak 0 with latch := l, out := s.out ++ [Out.readData (s.get rLodgePwrPeak)] }))
  ∧ (∀ (s : State) (fn off : Nat) (d : Bytes), fn ≤ 128 →
      exec (.registerWrite fn off d true) s = .next s
      ∧ (d.length = 4 → off % 4 = 0 → off < 0x1000000 → fn = 0 → descOf pf0Writable off = none → exec (.registerWrite fn off d false) s = .next s)
      ∧ (d.length = 4 → off % 4 = 0 → off < 0x1000000 → fn ≠ 0 → s.exists? (fn - 1) = false → exec (.registerWrite fn off d false) s = .next s))

/-- R201 and R236: a read of HOOP_HEAD samples HOOP_TAIL, HOOP_RSV and HOOP_STATE with it while the hoop's course runs, and a read of STAKE_FULL samples
STAKE_EMPTY and STAKE_PHYS while the pair is mapped; else the four, and the three, read 0. -/
def Obligations.SamplesAreTakenTogether : Prop :=
  ∀ (s : State) (t : Nat), s.wf = true → t < 128 → s.exists? t = true →
    (sparseGet 0 s.latch (latchKey (t + 1) vHoopHead) = 0 → ∃ u, exec (.hoopHeadRead t) s = .next u
      ∧ (∀ p, s.viewedHoop t = some p → u.out = s.out ++ [Out.readData (BitVec.ofNat 32 p.2.head)]
          ∧ ∀ w : State, w.latch = u.latch → (w.viewedHoop t).isSome = true → ∀ off ∈ [vHoopTail, vHoopRsv, vHoopState],
              (w.read (t + 1) off).2 = BitVec.ofNat 32 (s.word (t + 1) off))
      ∧ (s.viewedHoop t = none → u.out = s.out ++ [Out.readData 0]
          ∧ ∀ off ∈ [vHoopTail, vHoopRsv, vHoopState], (u.read (t + 1) off).2 = 0))
    ∧ (sparseGet 0 s.latch (latchKey (t + 1) vStakeFull) = 0 → ∃ u, exec (.stakeFullRead t) s = .next u
      ∧ (∀ p, s.viewedPair t = some p → u.out = s.out ++ [Out.readData (BitVec.ofNat 32 (s.stake p).full)]
          ∧ ∀ w : State, w.latch = u.latch → (w.viewedPair t).isSome = true →
              (w.read (t + 1) vStakeEmpty).2 = BitVec.ofNat 32 (s.stake p).empty ∧ (w.read (t + 1) vStakePhys).2 = BitVec.ofNat 32 (p + 2 ^ 31))
      ∧ (s.viewedPair t = none → u.out = s.out ++ [Out.readData 0]
          ∧ ∀ off ∈ [vStakeEmpty, vStakePhys], (u.read (t + 1) off).2 = 0))

/-- R5, R6 and R654: a write of one word to a PF0 register after READY changes the fields that take it, by their access codes, and no other register,
no memory and no tenant; a write of LODGE_LOG_READ_SEQ sets it. -/
def Obligations.RegisterWritesChangeOneRegister : Prop :=
  (∀ (s : State) (off v : Nat) (d : RegDesc), s.wf = true → s.mbx.ready = true → off < 0x1000000 → off % 4 = 0 → v < 2 ^ 32 →
    hasOwnRow 0 off = false → descOf pf0Writable off = some d → d.shadow = false →
    ∃ t, exec (.registerWrite 0 off (leBytes 4 v) false) s = .next t
      ∧ t.get off = (if d.rw = 0 then clearedWord (s.get off) d.w1c v else maskedWord (clearedWord (s.get off) d.w1c v) d.rw v)
      ∧ (∀ o, o ≠ off → t.get o = s.get o)
      ∧ t.vf = s.vf ∧ t.shadow = s.shadow ∧ t.mem = s.mem ∧ t.tenants = s.tenants ∧ t.rotas = s.rotas ∧ t.tasks = s.tasks ∧ t.out = s.out)
  ∧ (∀ (s : State) (v : Word), exec (.lodgeLogReadSeq v) s = .next (s.set rLodgeLogReadSeq v))

/-! ### Commits, region updates and Coil contexts (spec/03, spec/04, spec/11) -/

/-- R99, R100 and R106: a commit that no check refuses waits as the snapshot of the shadow set for the boundary of the next beat, or the one after when
its slowest kind is drain; a refused one gives its code and applies nothing.
R135, R138 and R153: an update of a region of an admitted Rota is pending from the request, and replaces and counts one that was.
R358 and R363: a request on the Coil context of a PERSISTENT Coil stream of the tenant's own Rota is accepted and replaces a pending one. -/
def Obligations.CommitsRegionsAndContextsAreRequested : Prop :=
  (∀ s : State, s.mbx.ready = true →
      (∀ code, s.commitRefusal s.shadow (changedKeys s.shadow s.pf0) = some code →
        exec (.cfgCommit true) s = .next ((s.setF rCfgStatus 31 16 code).cfgEvent 3))
      ∧ (s.commitRefusal s.shadow (changedKeys s.shadow s.pf0) = none → (changedKeys s.shadow s.pf0).any isBeatKey = false →
        ∃ t, exec (.cfgCommit true) s = .next t
          ∧ t.commit = some { snap := s.shadow, beat := s.beat.number + (if (changedKeys s.shadow s.pf0).any isDrain then 2 else 1),
                              drain := (changedKeys s.shadow s.pf0).any isDrain }
          ∧ t.shadow = s.shadow ∧ t.vf = s.vf ∧ t.mem = s.mem ∧ t.tenants = s.tenants ∧ t.rotas = s.rotas))
  ∧ (∀ (s : State) (t h sel : Nat) (pinned : Ranges) (r : Rota) (i : Nat) (g : Region),
      s.exists? t = true → h = s.vgetN t vMemTUpdHandle → sel = s.vgetN t vMemTUpdTable → bit sel 16 = false →
      s.namedRegion t h (bits sel 15 0) = some (r, i, g) → r.retiring = false →
      s.vget64 t vMemTUpdSrc + roBytes r.bin i ≤ runsLen (s.extents t .hbm) * 0x400000 →
      exec (.memTUpdGo t true pinned) s = .next
        (((if g.pend.isSome then s.vcount t vMemTUpdReplacedCnt 1 else s).updRegion h g.table
            (fun g => { g with pend := some { host := false, addr := s.vget64 t vMemTUpdSrc } })).updResult t 0))
  ∧ (∀ (s : State) (t h i : Nat) (r : Rota), s.exists? t = true → h = s.vgetN t vCoilTCtxHandle → i = bits (s.vgetN t vCoilTCtxStream) 15 0 →
      s.rota? h = some r → handleTenant h = t → r.retiring = false → i < rhNStream r.bin → rsCoil r.bin i = true → rsPersistent r.bin i = true →
      s.vget64 t vCoilTCtxAddr % 64 = 0 → s.vget64 t vCoilTCtxAddr + 16384 ≤ runsLen (s.extents t .hbm) * 0x400000 →
      ∀ u, u = s.vsetF t vCoilTCtxStatus 0 0 1 →
      exec (.coilCtxSave t) s = .next { u with coilReqs := s.coilReqs.filter (fun x => x.tenant != t)
          ++ [{ tenant := t, handle := h, stream := i, addr := s.vget64 t vCoilTCtxAddr, restore := false }] }
      ∧ exec (.coilCtxRestore t) s = .next { u with coilReqs := s.coilReqs.filter (fun x => x.tenant != t)
          ++ [{ tenant := t, handle := h, stream := i, addr := s.vget64 t vCoilTCtxAddr, restore := true }] })

/-- R357 and R359: a save, performed while no course of its Rota runs, writes the 16,384 B of the context's record at the request's address of tenant
HBM, translated by R119, and no other byte of either memory; it then sets DONE with RESULT 0. -/
def Obligations.CoilSavesWriteTheirRecord : Prop :=
  ∀ (s : State) (t : Nat) (q : CoilReq) (r : Rota) (pas : List Nat), s.wf = true → s.coilReq? t = some q → s.rota? q.handle = some r →
    r.course = none → q.restore = false → q.addr % 64 = 0 → translateAll (s.extents t .hbm) q.addr 16384 = some pas →
    ∃ u, exec (.coilCtxPerform t) s = .next u
      ∧ (∀ p, p ∉ pas → u.byteAt .hbm p = s.byteAt .hbm p) ∧ (∀ p, u.byteAt .ory p = s.byteAt .ory p)
      ∧ (pas.Nodup → pas.map (u.byteAt .hbm) = coilRecord (r.streamCtx q.stream).coil (rsOut r.bin q.stream))
      ∧ bit (u.vgetN t vCoilTCtxStatus) 1 = true ∧ bits (u.vgetN t vCoilTCtxStatus) 31 16 = 0

/-! ### Host queues and tasks (spec/17) -/

/-- R505: on an enabled pair, a value inside the queue becomes the SQ tail, and a CQ head that passes no record not yet written becomes the CQ head;
any other write is ignored and raises HOST_DOORBELL_INVALID.
R504 and R522: an enable takes the configuration as written, with heads, tails and DESC_SEQ 0 and the phase 1, or is refused with HOST_QUEUE_INVALID
or HOST_TENANT_ORPHANED and leaves the pair disabled; a disable stops the pair, which is disabled once nothing is owed. -/
def Obligations.HostQueues : Prop :=
  ((∀ (s : State) (t q v : Nat), s.exists? t = true → q < 8 → (s.queue t q).enabled = false →
      exec (.hostTSqTailDb t q v) s = .next (s.logOpen 0x1007 t 0) ∧ exec (.hostTCqHeadDb t q v) s = .next (s.logOpen 0x1007 t 0))
    ∧ ∀ (s : State) (t q v : Nat), s.exists? t = true → q < 8 → v < 4096 → (s.queue t q).enabled = true → (s.queue t q).stopping = false →
      (v < 2 ^ (s.queue t q).sqLog → exec (.hostTSqTailDb t q v) s = .next (s.updQueue t q (fun k => { k with sqTail := v })))
      ∧ (2 ^ (s.queue t q).sqLog ≤ v → exec (.hostTSqTailDb t q v) s = .next (s.logOpen 0x1007 t 0))
      ∧ (∀ n step, n = 2 ^ (s.queue t q).cqLog → v < n → step = (v + n - (s.queue t q).cqHead) % n →
        step ≤ ((s.queue t q).cqTail + n - (s.queue t q).cqHead) % n →
        exec (.hostTCqHeadDb t q v) s = .next (s.updQueue t q (fun k => { k with cqHead := v, reserved := k.reserved - step })))
      ∧ (∀ n, n = 2 ^ (s.queue t q).cqLog → ((s.queue t q).cqTail + n - (s.queue t q).cqHead) % n < (v + n - (s.queue t q).cqHead) % n →
        exec (.hostTCqHeadDb t q v) s = .next (s.logOpen 0x1007 t 0))
      ∧ (2 ^ (s.queue t q).cqLog ≤ v → exec (.hostTCqHeadDb t q v) s = .next (s.logOpen 0x1007 t 0)))
  ∧ (∀ (s : State) (t : Nat) (x : Tenant), s.tenant? t = some x → x.phase = .active →
      (∀ q, q = s.pairSel t → (s.queue t q).enabled = false →
        (x.orphaned = true → exec (.queueEnable t) s = .next (s.updQueue t q (fun k => { k with result := 0x1009 })))
        ∧ (x.orphaned = false → (s.queue t q).configOk = false →
            exec (.queueEnable t) s = .next (s.updQueue t q (fun k => { k with result := 0x100A })))
        ∧ (x.orphaned = false → (s.queue t q).configOk = true → (s.queue t q).stopping = false →
            exec (.queueEnable t) s = .next (s.updQueue t q (fun k => { k with
              enabled := true, stopping := false, fault := false, result := 0, sqBase := k.wSq, cqBase := k.wCq, sqLog := bits k.wSize 3 0,
              cqLog := bits k.wSize 7 4, vector := bits k.wSize 11 8, irq := bit k.wSize 12, sqHead := 0, sqTail := 0, cqHead := 0, cqTail := 0,
              phase := true, reserved := 0, descSeq := 0 }))))
      ∧ (∀ q, q = s.pairSel t → (s.queue t q).enabled = true →
        exec (.queueDisable t) s = .next ((s.updQueue t q (fun k => { k with stopping := true })).settleQueue t q)))

/-- R506, R508, R96 and R511: a fetch takes the descriptors read, in order; an acceptance checks DESC_SEQ before all else and then the task; the
staging of an accepted task's host streams starts once its entry is free. -/
def Obligations.TasksAreFetchedAcceptedAndStaged : Prop :=
  (∀ (s : State) (t q : Nat) (b : Bytes), s.mayFetch t q = true → (s.queue t q).fetchable ≠ 0 → b.length % 64 = 0 →
    b.length ≤ 64 * (s.queue t q).fetchable → exec (.descriptorFetch t q (.data b)) s = .next (s.takeDescriptors t q (chunks 64 8 b)))
  ∧ (∀ (s : State) (t q : Nat) (x : Tenant) (f : Fetched) (rest : List Fetched) (b : Bytes) (pinned : Ranges), s.tenant? t = some x →
    x.fetched = f :: rest → f.queue = q →
    ∀ u, u = s.updTenant t (fun x => { x with fetched := x.fetched.eraseIdx 0 }) →
      (f.seqOk = true → exec (.taskAccept t q (.data b) pinned) s = .next ((u.submit t (some q) f.desc (some b) (some pinned)).settleQueue t q))
      ∧ (f.seqOk = false → exec (.taskAccept t q (.data b) pinned) s = .next ((u.refuseTask t (some q) f.desc 0x1005 0).settleQueue t q)))
  ∧ (∀ (s : State) (h seq : Nat) (r : Rota) (x : Task), s.rota? h = some r → s.task? (handleTenant h) seq = some x → x.handle = h →
    x.staging = false → x.decided = false → x.abort = none → hostInputs r.bin ≠ [] → s.host.dlUp = true → s.stageFree r x = true →
    exec (.hostStagingStart h seq) s = .next ((s.updTask (handleTenant h) seq (fun x => { x with staging := true })).stageTask h seq))

/-! ### The host link (spec/17) -/

/-- R527 and R499: while configuration answers, a read of the identity gives the vendor and device, VF Enable, Relaxed Ordering and the MSI-X masks
are set, and before that a request is retried.
R528 to R531: the loss of the link, its return with HOST_STATE 0 and HOST_EVENT.DL_UP, a retraining, and a reset of the interface. -/
def Obligations.TheHostLink : Prop :=
  (∀ (s : State) (f : Nat), s.host.dlUp = true → f < 129 → (f ≠ 0 → s.host.vfEnable = true) →
      (∀ r, s.host.pcie = false → exec (.configRequest f r) s = .next (s.emit (.cfgRetry f)))
      ∧ (s.host.pcie = true →
        (∀ b, s.boot.factory = some b → exec (.configRequest f (.read 0)) s = .next (s.emit (.cfgData f (fieldAt b 0xC 2 + s.deviceId f * 0x10000))))
        ∧ (f = 0 → exec (.configRequest f (.vfEnable true)) s = .next { s with host := { s.host with vfEnable := true } })
        ∧ exec (.configRequest f (.relaxed true)) s = .next { s with host := { s.host with relaxed := setInsert s.host.relaxed f } }
        ∧ (∀ mask, exec (.configRequest f (.msix true mask)) s = .next ({ s with msix := { s.msix with
            on := setInsert s.msix.on f, fmask := if mask then setInsert s.msix.fmask f else s.msix.fmask.filter (fun x => x != f) } } : State).msixRelease)))
  ∧ (∀ (s : State) (gen width : Nat) (flit : Bool),
      (s.host.dlUp = true → exec .dlDown s = .next s.linkLost)
      ∧ (s.host.dlUp = false → s.power.main = true → s.power.held = false → exec (.dlUp gen width flit) s
        = .next (({ s with host := { s.host with dlUp := true, gen := gen, width := width, flit := flit, state := 0 } } : State).hostEvent 1))
      ∧ (s.host.dlUp = true → s.host.gen ≠ gen → exec (.linkRetrained gen width flit) s
        = .next (({ s with host := { s.host with dlUp := true, gen := gen, width := width, flit := flit } } : State).hostEvent 2))
      ∧ (∃ u : State, exec .pcieInterfaceReset s = .next u ∧ u.host.vfEnable = false ∧ u.host.relaxed = [] ∧ u.msix = Msix.reset ∧ u.atc = []
        ∧ (∀ x ∈ u.tenants, x.fetched = [] ∧ ∀ k ∈ x.queues, k.enabled = false ∧ k.sqHead = 0 ∧ k.sqTail = 0 ∧ k.cqHead = 0 ∧ k.cqTail = 0)))

/-- R501, R502, R519 and R523: an invalidation drops the translations it covers and is completed; a translation that grants the access is cached and
lets what waited go; a completed read arrives, and one that times out fails with HOST_CPL_TIMEOUT. -/
def Obligations.HostAccessesComplete : Prop :=
  (∀ (s : State) (t base log2 : Nat), ∃ u, exec (.atsInvalidationRequest t base log2) s = .next u
    ∧ u.out = s.out ++ [Out.invalidated t] ∧ u.getN rHostAtsInvCnt = (s.count rHostAtsInvCnt 1).getN rHostAtsInvCnt
    ∧ (∀ x, x ∈ u.atc ↔ x ∈ s.atc ∧ ¬ (x.tenant = t ∧ x.base < base + 2 ^ log2 ∧ base < x.base + 2 ^ x.log2))
    ∧ u.mem = s.mem ∧ u.tenants = s.tenants ∧ u.reads = s.reads)
  ∧ (∀ (s : State) (t base log2 p : Nat) (q : HostReq) (rd wr : Bool), s.held.find? (fun q => q.tenant == t) = some q → s.waitsFor q = some p →
    base ≤ p → p < base + 2 ^ log2 → (if q.data.isSome then wr else rd) = true → exec (.translationCompletion t base log2 rd wr) s
      = .next ((s.cacheTranslation { tenant := t, base := base, log2 := log2, read := rd, write := wr }).releaseHeld t s.held.length))
  ∧ (∀ (s : State) (no : Nat) (q : HostReq) (b : Bytes), s.reads.find? (fun q => q.no == no) = some q →
    ∀ u, u = { s with reads := s.reads.filter (fun x => x.no != no) } →
      (b.length = q.len → exec (.hostReadCompletion no (.data b)) s = .next (u.readArrive q b))
      ∧ exec (.hostCplTimeout no) s = .next (u.failReq q 0x1003))

/-! ### The network (spec/14, spec/16) -/

/-- R470: the five commands of a queue pair move it, INIT loading the context of the registers, and report 0; a command from another state is refused
with NET_QP_STATE, a context that breaks Table 16-3 and a queue pair outside the quota with NET_QP_INVALID, and RESET, INIT or RTR of one in use
with NET_QP_BUSY; a refusal changes nothing but NET_T_QP_STATUS.RESULT. -/
def Obligations.QueuePairsFollowTheirCommands : Prop :=
  ∀ (s : State) (t q : Nat), s.exists? t = true → q = s.vgetN t vNetTQpSel % 4096 →
    (s.qp? t q = none → ∀ c ∈ [Instr.qpInit t, .qpRtr t, .qpRts t, .qpErr t, .qpReset t],
      exec c s = .next (s.vsetF t vNetTQpStatus 31 16 0x0F06))
    ∧ ∀ k, s.qp? t q = some k →
      (k.st ≠ 0 → exec (.qpInit t) s = .next (s.vsetF t vNetTQpStatus 31 16 0x0F04))
      ∧ (k.st ≠ 1 → exec (.qpRtr t) s = .next (s.vsetF t vNetTQpStatus 31 16 0x0F04))
      ∧ (k.st ≠ 2 → exec (.qpRts t) s = .next (s.vsetF t vNetTQpStatus 31 16 0x0F04))
      ∧ (k.st ≠ 1 → k.st ≠ 4 → exec (.qpReset t) s = .next (s.vsetF t vNetTQpStatus 31 16 0x0F04))
      ∧ (k.st = 0 → s.ctxOk (s.ctxRegs t) = false → exec (.qpInit t) s = .next (s.vsetF t vNetTQpStatus 31 16 0x0F06))
      ∧ ((s.taskNames t q || s.peerNames t q) = true →
          (k.st = 0 → s.ctxOk (s.ctxRegs t) = true → exec (.qpInit t) s = .next (s.vsetF t vNetTQpStatus 31 16 0x0F05))
          ∧ (k.st = 1 → exec (.qpRtr t) s = .next (s.vsetF t vNetTQpStatus 31 16 0x0F05))
          ∧ (k.st = 1 ∨ k.st = 4 → exec (.qpReset t) s = .next (s.vsetF t vNetTQpStatus 31 16 0x0F05)))
      ∧ ((s.taskNames t q || s.peerNames t q) = false →
          (k.st = 0 → s.ctxOk (s.ctxRegs t) = true → exec (.qpInit t) s
            = .next ((s.updQp t q (fun k => k.loaded (s.ctxRegs t))).vsetF t vNetTQpStatus 31 16 0))
          ∧ (k.st = 1 → exec (.qpRtr t) s = .next ((s.updQp t q (fun k => { k with st := 2 })).vsetF t vNetTQpStatus 31 16 0))
          ∧ (k.st = 1 ∨ k.st = 4 → exec (.qpReset t) s
            = .next ((s.updQp t q (fun k => { k.cleared with st := 0 })).vsetF t vNetTQpStatus 31 16 0)))
      ∧ (k.st = 2 → exec (.qpRts t) s = .next ((s.updQp t q (fun k => { k with st := 3 })).vsetF t vNetTQpStatus 31 16 0))
      ∧ (k.st < 5 → exec (.qpErr t) s = .next ((s.flushQp t q).vsetF t vNetTQpStatus 31 16 0))

/-- R472: a write of CTRL registers the selected region with its base, length, access bits and key, in place of the one before; without an access bit it
drops it; and a region of no bytes, or not wholly within the tenant's allocation, is refused with NET_MR_INVALID and changes no region. -/
def Obligations.RegionsAreRegistered : Prop :=
  ∀ (s : State) (t : Nat) (v : Word) (x : Tenant) (i base len size : Nat), s.wf = true → s.tenant? t = some x → s.exists? t = true →
    i = s.vgetN t vNetTMrSel % 64 → base = s.vget64 t vNetTMrBase → len = s.vget64 t vNetTMrLen →
    size = runsLen (s.extents t (if bit v.toNat 2 then .ory else .hbm)) * 0x400000 →
    ∃ u, exec (.netTMrCtrl t v) s = .next u ∧ u.mem = s.mem ∧ u.qps = s.qps ∧ u.rotas = s.rotas
      ∧ (bit v.toNat 0 = false → bit v.toNat 1 = false →
          u.tenant? t = some { x with mrs := x.mrs.filter (fun m => m.no != i) } ∧ bits (u.vgetN t vNetTMrStatus) 31 16 = 0)
      ∧ (bit v.toNat 0 = true ∨ bit v.toNat 1 = true → len = 0 ∨ size < base + len →
          u.tenants = s.tenants ∧ bits (u.vgetN t vNetTMrStatus) 31 16 = 0x0F07)
      ∧ (bit v.toNat 0 = true ∨ bit v.toNat 1 = true → len ≠ 0 → base + len ≤ size → ∀ n : Mr,
          n = { no := i, base := base, len := len, read := bit v.toNat 0, write := bit v.toNat 1, ory := bit v.toNat 2, key := v.toNat / 128 } →
          bits (u.vgetN t vNetTMrStatus) 31 16 = 0
            ∧ ∃ y, u.tenant? t = some y ∧ ∀ m : Mr, m ∈ y.mrs ↔ (m ∈ x.mrs ∧ m.no ≠ i) ∨ m = n)

/-- What arrives at a port whose link is up (R463, R464): a frame that R463 accepts changes nothing by itself and any other is counted as dropped; a
request for the port's own address is answered; and a pause of the port's priority holds it.
The links of a present port (R496): a lost link is logged, a link that comes up ends the old pause and sends what waits, and the module's medium is
shown. -/
def Obligations.PortsAndLinks : Prop :=
  (∀ (s : State) (p : Nat), s.linkUp p = true →
      (∀ f, s.frameOk p f = true → exec (.frameReceive p f) s = .next s)
      ∧ (∀ f, s.frameOk p f = false → exec (.frameReceive p f) s = .next (s.count (portReg rNetPortDropCnt p) 1))
      ∧ (∀ mac ip, exec (.arpRequest p mac ip (s.portIp4 p)) s = .next { s with out := s.out ++ [Out.arpReply p mac ip] })
      ∧ (∀ mac ip, exec (.neighbourSolicitation p mac ip (s.portIp6 p)) s = .next { s with out := s.out ++ [Out.neighbourAdvert p mac ip] })
      ∧ (∀ mac ip a, a ≠ s.portIp4 p → exec (.arpRequest p mac ip a) s = .next (s.count (portReg rNetPortDropCnt p) 1))
      ∧ (∀ mac ip a, a ≠ s.portIp6 p → exec (.neighbourSolicitation p mac ip a) s = .next (s.count (portReg rNetPortDropCnt p) 1))
      ∧ (∀ prio quanta, prio = s.getF (portReg rNetPortCtrl p) 3 1 → quanta ≠ 0 →
          exec (.pfcPauseReceive p prio quanta) s = .next (s.updPort p (fun k => { k with paused := quanta * 2048 })))
      ∧ (∀ prio quanta, prio ≠ s.getF (portReg rNetPortCtrl p) 3 1 → exec (.pfcPauseReceive p prio quanta) s = .next s))
  ∧ (∀ (s : State) (p : Nat), s.portPresent p = true →
      (s.linkUp p = true → exec (.netLinkDown p) s = .next ((s.setF (portReg rNetPortStatus p) 0 0 0).logOpen 0x0F01 0xFF 0))
      ∧ (s.boot.factory.isSome = true → s.mbx.tripped = false → exec (.netLinkUp p) s
          = .next (((s.setF (portReg rNetPortStatus p) 0 0 1).updPort p (fun k => { k with paused := 0 })).sendPort p))
      ∧ (∀ media, media ≤ 2 → exec (.osfpModulePresence p media) s = .next (s.setF (portReg rNetPortStatus p) 2 1 media)))

/-- Accesses of peers (R473, R480 to R482), on a queue pair in RTR or RTS, the packet the expected one, not marked, and nothing of its tenant waiting: a
permitted write or read of a region whose tokens are there is charged, done and answered; a write into an open window entry lands in it; a
well-formed mark is applied and any other SEND discarded and counted; and an rkey that names nothing is answered with NAK remote access error. -/
def Obligations.PeersAreServed : Prop :=
  ∀ (s : State) (p : Pkt) (k : Qp), s.qp? p.tenant p.q = some k → k.st = 2 ∨ k.st = 3 → p.ce = false → psnOrder k.recvPsn p.psn = .expected →
    (s.port k.port).rx.any (fun y => y.tenant == p.tenant) = false →
    (∀ rkey addr data first m, rkey < 0x80000000 → s.regionUse p.tenant rkey addr data.length true = .go m →
      exec (.rdmaWriteReceive p rkey addr data first) s
        = .next ((((s.chargeSpare p.tenant data.length).writeMem p.tenant (if m.ory then .ory else .hbm) addr data).1).ackRecv p 1 data.length))
    ∧ (∀ rkey addr len m u d, s.regionUse p.tenant rkey addr len false = .go m →
      (s.chargeSpare p.tenant len).readMem p.tenant (if m.ory then .ory else .hbm) false addr len = (u, .ok d) →
      exec (.rdmaReadReceive p rkey addr len) s = .next (((u.emit (.readResponse p.tenant p.q p.psn d)).vcount64 p.tenant vNetTTxBytes len).bumpRecv p
        (s.respPackets p len)))
    ∧ (∀ rkey addr data first r d w, 0x80000000 ≤ rkey → s.window? p.tenant rkey = some (r, d, w) →
      addr + data.length ≤ piDepth d * piSrc d * piSrcBytes d → (entriesOf d addr data.length).any (s.entryClosed r d w) = false →
      r.acc.has .remote data.length = true → exec (.rdmaWriteReceive p rkey addr data first) s
        = .next ((((s.chargeRota r.handle .remote data.length).writeMem p.tenant .hbm (r.hbmBase + piOffset d + addr) data).1).ackRecv p 1 data.length))
    ∧ (∀ data m r d w, Mark.of data = some m → s.window? p.tenant m.rkey = some (r, d, w) → r.acc.has .remote data.length = true →
      exec (.sendReceive p data) s = .next (((s.chargeRota r.handle .remote data.length).applyMark p.tenant r d w m).ackRecv p
        (s.respPackets p data.length) data.length))
    ∧ (∀ data, Mark.of data = none → exec (.sendReceive p data) s
        = .next ((s.vcount p.tenant vNetTPeerDiscardCnt 1).ackRecv p (s.respPackets p data.length) data.length))
    ∧ (∀ rkey addr data first, s.window? p.tenant rkey = none → s.mr? p.tenant rkey = none →
      exec (.rdmaWriteReceive p rkey addr data first) s = .next ((s.emit (.nak p.tenant p.q p.psn 2)).qpError p.tenant p.q))
    ∧ (∀ rkey addr len, s.mr? p.tenant rkey = none →
      exec (.rdmaReadReceive p rkey addr len) s = .next ((s.emit (.nak p.tenant p.q p.psn 2)).qpError p.tenant p.q))
    ∧ exec (.atomicReceive p) s = .next { s with out := s.out ++ [Out.nak p.tenant p.q p.psn 1] }

/-- What a peer writes under a registered region becomes the bytes at the address it names, translated by R119, and no other byte of either memory
changes, where the words written have no bit in error and the lines are open. -/
def Obligations.PeerWritesKeepOtherBytes : Prop :=
  ∀ (s : State) (p : Pkt) (k : Qp) (rkey addr : Nat) (data : Bytes) (first : Bool) (m : Mr) (b : Space) (pas : List Nat), s.wf = true →
    s.qp? p.tenant p.q = some k → k.st = 2 ∨ k.st = 3 → p.ce = false → psnOrder k.recvPsn p.psn = .expected →
    (s.port k.port).rx.any (fun y => y.tenant == p.tenant) = false → rkey < 0x80000000 →
    s.regionUse p.tenant rkey addr data.length true = .go m → b = (if m.ory then .ory else .hbm) →
    translateAll (s.extents p.tenant b) addr data.length = some pas → (∀ a ∈ pas, s.clean b a = true) →
    ∃ t, exec (.rdmaWriteReceive p rkey addr data first) s = .next t
      ∧ (∀ c a, c ≠ b ∨ a ∉ pas → t.byteAt c a = s.byteAt c a) ∧ (pas.Nodup → pas.map (t.byteAt b) = data)

/-- R471, R476 and R477: an acknowledgement takes the messages it covers out of the staging; RNR is retried up to RNR_RETRY times and a timer up to RETRY
times, sending again from the message on; any other NAK and the exhaustion of either moves the queue pair to ERR.
R469: a congestion notification, the alpha timer and the rate timer of a queue pair, with g = 2^-G, R_MIN as the floor of the current rate and 400 Gb/s
as the ceiling of the target. -/
def Obligations.AcknowledgementsAndCongestion : Prop :=
  (∀ (s : State) (t q : Nat) (k : Qp), s.qp? t q = some k → k.st = 3 →
      (∀ psn, psnOrder k.sendPsn psn = .behind → (k.unacked.filter (fun w => w.covered psn)).isEmpty = false →
        ∃ a, exec (.ackReceive t q psn) s = .next (s.updQp t q (fun k => { k with
          unacked := k.unacked.filter (fun w => !w.covered psn), lastAck := a, retries := 0, rnr := 0 })))
      ∧ (∀ psn, psnOrder k.sendPsn psn ≠ .behind → exec (.ackReceive t q psn) s = .next s)
      ∧ (∀ psn, k.rnr < fieldAt k.ctx 0x2A 1 → exec (.nakReceive t q psn true) s
          = .next ((s.updQp t q (fun k => { k with rnr := k.rnr + 1 })).resend t q psn))
      ∧ (∀ psn rnr, rnr = false ∨ fieldAt k.ctx 0x2A 1 ≤ k.rnr → exec (.nakReceive t q psn rnr) s = .next (s.qpError t q))
      ∧ (∀ w, k.unacked.find? (fun w => w.sent) = some w →
          (k.retries < fieldAt k.ctx 0x29 1 → exec (.retransmitTimeout t q) s
            = .next ((s.updQp t q (fun k => { k with retries := k.retries + 1 })).resend t q w.psn))
          ∧ (fieldAt k.ctx 0x29 1 ≤ k.retries → exec (.retransmitTimeout t q) s = .next (s.qpError t q))))
  ∧ (∀ (s : State) (t q : Nat) (k : Qp) (g : Rat), s.qp? t q = some k → g = 1 / (2 ^ s.getN rNetCcParam : Nat) →
      (exec (.cnpReceive t q) s = .next ((s.count (portReg rNetPortCnpCnt k.port) 1).updQp t q (fun k => { k with
        rt := k.rc, rc := max (k.rc * (1 - k.alpha / 2)) (s.getN (rNetCcParam + 24) : Rat), alpha := (1 - g) * k.alpha + g, stage := 0, cnp := true })))
      ∧ (k.cnp = true → exec (.alphaTimer t q) s = .next (s.updQp t q (fun k => if k.cnp then { k with cnp := false } else
          { k with alpha := (1 - g) * k.alpha })))
      ∧ (k.cnp = false → ∀ u, exec (.alphaTimer t q) s = .next u → (u.qp? t q).map Qp.alpha = some ((1 - g) * k.alpha))
      ∧ (k.stage < 5 → ∃ u, exec (.rateTimer t q false) s = .next u
          ∧ (u.qp? t q).map (fun k => (k.rc, k.rt)) = some ((k.rc + k.rt) / 2, k.rt))
      ∧ (5 ≤ k.stage → k.stage < 2 ^ 32 - 1 → ∃ u, exec (.rateTimer t q false) s = .next u
          ∧ ∀ r, r = min (k.rt + (s.getN (rNetCcParam + 20) : Rat)) 400000 → (u.qp? t q).map (fun k => (k.rc, k.rt)) = some ((k.rc + r) / 2, r)))

/-- Live sensors (R414 to R417, R430): a whole frame whose tokens are there is placed, or counted by the first of its judgements that holds; a datagram that
no channel's port names is counted as dropped; and frames that stay incomplete beyond the staleness limit are dropped and counted. -/
def Obligations.SensorFramesAreJudged : Prop :=
  (∀ (s : State) (p udp ptp : Nat) (d : Bytes), ∀ u, u = s.notePtp ptp →
    (u.chans.any (fun c => c.at p udp) = false → exec (.sensorDatagram p udp d ptp) s = .next (u.count (rNetPortDropCnt + 0x100 * p) 1))
    ∧ (∀ c, u.chanFor p udp d = some c → (u.port p).rx.any (fun x => x.tenant == handleTenant c.r.handle) = false → u.sensorTokens c d = true →
        exec (.sensorDatagram p udp d ptp) s = .next (u.sensorTake c d u.ptp.clock)))
  ∧ (∀ (s : State) (c : Chan) (d : Bytes) (ptp : Nat), c.sn.parts.find? (fun q => sameFrame q.hdr d) = none → sensorOk d = true →
      shBytes d ≤ sdMax c.d → sdFormat c.d = 0 ∨ shFormat d = sdFormat c.d → shLen d = shBytes d →
      ∀ u, u = s.dropPart c d →
        ((crc32c (d.drop 64)).toNat ≠ shCrc d → s.takeFragment c d ptp = u.vcount (handleTenant c.r.handle) vNetTSensorBadCnt 1)
        ∧ ((crc32c (d.drop 64)).toNat = shCrc d → ∀ b, u.judge c d ptp = .place b → s.takeFragment c d ptp = u.placeFrame c d (d.drop 64) b))
  ∧ (∀ (s : State) (h i ptp : Nat) (c : Chan), ∀ u, u = s.notePtp ptp → u.chans.find? (fun c => c.r.handle == h && c.sn.smp == i) = some c →
      ∀ old : SensorPart → Bool, (∀ x, old x = true ↔ captureOf x.hdr + u.staleNs (handleTenant h) < u.ptp.clock) →
        exec (.sensorFrameStale h i ptp) s = .next ((u.updSensor h i (fun x => { x with parts := x.parts.filter (fun p => !old p) })).vcount
          (handleTenant h) vNetTSensorStaleCnt ((c.sn.parts.filter (fun p => old p && !p.bad)).length)))

/-! ### Courses, streams, hoops and Coil frames (spec/05, spec/06, spec/11) -/

/-- R87, R183, R488: a course is started for the oldest eligible task, only while a beat runs and the Rota runs no other, and is gated, counted and
logged when only its staging is missing; a course that is over leaves the Rota, and its task has run one course more. -/
def Obligations.CoursesStartAndFinish : Prop :=
  (∀ (s : State) (h c : Nat) (r : Rota) (x : Task) (b : Bool), s.startable h c = some (r, x, b) →
    s.rota? h = some r ∧ r.course = none ∧ s.beat.lost = false ∧ s.beat.started = true ∧ x.handle = h ∧ x.decided = false ∧ x.abort = none
      ∧ x.nextCourse = c ∧ x.busy = false ∧ x.assigned + rcBeatOff r.bin c ≤ s.beat.number + rhSpan r.bin
      ∧ (∃ y, s.tenant? (handleTenant h) = some y ∧ y.phase = .active)
      ∧ (b = false → exec (.courseStart h c) s = .next ((s.vcount (handleTenant h) vStrmTGateWaitCnt 1).logOpen 0x0506 (handleTenant h) 0))
      ∧ (b = true → ∀ u l, s.loadCores r c (courseRoutines r.bin c) = (u, .ok l) →
          exec (.courseStart h c) s = .next (s.startCourse r x c s.beat.number)))
  ∧ (∀ (s : State) (h c : Nat), s.startable h c = none → exec (.courseStart h c) s = .next s)
  ∧ (∀ (s : State) (h : Nat) (r : Rota) (c : CourseRun), s.running h = some (r, c) →
      (c.over r.bin = false → exec (.courseFinish h) s = .next s)
      ∧ (c.over r.bin = true → ∀ u, u = (s.updRota h Rota.dropCourse).updTask (handleTenant h) c.seq (fun x => x.finished r.bin c.course) →
          exec (.courseFinish h) s = .next (({ u with
            tasks := u.tasks.filter (fun x => !(x.tenant == handleTenant h && x.seq == c.seq && x.decided)) } : State).settleOwners h)))

/-- R110: a course that has run its cycles without finishing is stopped: it is counted in ROTA_T_OVERRUN_CNT and its task aborted with
ROTA_COURSE_OVERRUN and the course. -/
def Obligations.OverrunsAbortTheirTask : Prop :=
  ∀ (s : State) (h n : Nat) (r : Rota) (c : CourseRun), s.running h = some (r, c) →
    n = (nth r.place c.course { first := 0, count := 0, insts := [] }).count →
    exec (.rotaCourseOverrun h) s = .next (((s.updCourse h (fun c => { c with cycles := s.admEnv.wCyc r.bin * n })).vcount (handleTenant h) vRotaTOverrunCnt 1).abortTask
      (handleTenant h) c.seq 0x030D c.course 0xFFFF 0 0)

/-- R179, R190: a direct input stream from tenant HBM, below OUTSTANDING, with its slots reserved or free and its tokens there, issues its next run: one
more transfer is in flight, and no byte of memory changes; at OUTSTANDING nothing does. -/
def Obligations.DirectStreamsIssueTheirRuns : Prop :=
  ∀ (s : State) (h i n len : Nat) (e : StreamEnv) (x : Xfer), s.streamEnv h i = some e → rsOut e.r.bin i = false → rsSpace e.r.bin i = 0 →
    rsMode e.r.bin i = 0 → rsCoil e.r.bin i = false → e.q.ended = false → e.q.pos < srcTotal e.r.bin i →
    n = runLen e.r.bin i (e.splitBase i) 0 e.q.pos → len = delivered e.r.bin i n → e.q.bytes + len ≤ rsBytes e.r.bin i →
    x = { no := e.q.nextNo, off := e.q.bytes, len := len, addr := e.addrOf i (srcOff e.r.bin i 0 e.q.pos).toNat, n := n, pos := e.q.pos,
          elem := e.elem i, row := 0, zero := false, slot := 0, data := [] } →
    (rsOutstanding e.r.bin i ≤ e.q.inFlight.length → exec (.transferIssue h i) s = .next s)
    ∧ (e.q.inFlight.length < rsOutstanding e.r.bin i → e.lastSlot i len < e.k.head + rpSlots e.r.bin e.k.idx →
        e.r.acc.has .read (blocksOf x.addr n) = true →
        ∃ u f, exec (.transferIssue h i) s = .next u ∧ u.streamEnv h i = some f ∧ f.q.inFlight = e.q.inFlight ++ [x] ∧ f.q.pos = e.q.pos + n
          ∧ f.q.bytes = e.q.bytes + len ∧ f.q.ended = decide (srcTotal e.r.bin i ≤ e.q.pos + n)
          ∧ (∀ c a, u.byteAt c a = s.byteAt c a))

/-- The next step of any other stream: an input stream follows its indices, its descriptors or its staged sources, an output stream stores what its slot
holds, and a Coil output stream what has been encoded.
R181: a transfer that is not in flight completes nothing; one of a direct input stream from tenant HBM is read and lands in its slots; one of an output
stream to tenant HBM writes its data at its address and no other byte, where the words written have no bit in error. -/
def Obligations.StreamsMoveTheirTransfers : Prop :=
  (∀ (s : State) (h i : Nat) (e : StreamEnv), s.streamEnv h i = some e → ∀ b, b = e.r.bin →
      (rsOut b i = false → e.q.ended = false → rsSpace b i = 3 → exec (.transferIssue h i) s = .next (s.issuePeer h i e))
      ∧ (rsOut b i = false → e.q.ended = false → rsSpace b i ≠ 3 → rsMode b i = 1 → e.q.row = none →
          exec (.transferIssue h i) s = .next (s.takeIndex h i e))
      ∧ (∀ v, rsOut b i = false → e.q.ended = false → rsSpace b i ≠ 3 → rsMode b i = 1 → e.q.row = some v →
          v ≠ 2 ^ (8 * typeBytes (rsEtype b (rsDriver b i))) - 1 →
          exec (.transferIssue h i) s = .next (s.issueRun h i e v (fun q => { q with row := none, pos := 0 })))
      ∧ (rsOut b i = false → e.q.ended = false → rsSpace b i ≠ 3 → rsMode b i = 2 → e.q.desc = none →
          exec (.transferIssue h i) s = .next (s.takeDesc h i e))
      ∧ (∀ d, rsOut b i = false → e.q.ended = false → rsSpace b i ≠ 3 → rsMode b i = 2 → e.q.desc = some d →
          exec (.transferIssue h i) s = .next (s.issueDesc h i e d))
      ∧ (rsOut b i = true → rsCoil b i = false → exec (.transferIssue h i) s = .next (s.issueStore h i e))
      ∧ (rsOut b i = true → rsCoil b i = true → e.q.raw ≠ [] → ∀ a d, a = rsOffset b i + e.q.rawPos →
          d = e.q.raw.take (2 ^ rsXferLog2 b i - ((if rsSpace b i = 4 then 0 else (e.r.streamCtx i).base) + a) % 2 ^ rsXferLog2 b i) →
          exec (.transferIssue h i) s = .next (s.issueOut h i e a (e.q.slotNo - 1) d
            (fun q => { q with raw := q.raw.drop d.length, rawPos := q.rawPos + d.length }))))
  ∧ (∀ (s : State) (h i no : Nat) (e : StreamEnv), s.streamEnv h i = some e →
      (e.q.inFlight.find? (fun x => x.no == no) = none → exec (.transferComplete h i no none) s = .next s)
      ∧ ∀ x, e.q.inFlight.find? (fun x => x.no == no) = some x →
        (∀ u v d, rsOut e.r.bin i = false → rsSpace e.r.bin i = 0 → rsCoil e.r.bin i = false → rsSubbyte e.r.bin i = false → x.zero = false →
          s.readMem (handleTenant h) .hbm e.r.strict x.addr x.n = (u, .ok d) →
          ((u.vcount64 (handleTenant h) vStrmTRdBytes x.n).updStream h i (fun q => { q with
            inFlight := q.inFlight.filter (fun y => y.no != x.no) })).deliverBytes h i x.off d = (v, none) →
          exec (.transferComplete h i no none) s = .next v)
        ∧ (∀ m, rsOut e.r.bin i = true → rsSpace e.r.bin i = 0 → rsCoil e.r.bin i = false →
          s.writeMem (handleTenant h) .hbm x.addr x.data = ({ s with mem := m }, none) →
          exec (.transferComplete h i no none) s = .next ((((({ s with mem := m } : State).vcount64 (handleTenant h) vStrmTWrBytes x.n).updStream h i
            (fun q => { q with inFlight := q.inFlight.filter (fun y => y.no != x.no) }))).freeOut h i)))

/-- R176, R193: the slot of count TAIL, once complete, is committed, with END noted; an acquired slot moves the consumer on, up to TAIL; and a slot that
is not complete, or that is not committed, waits.
R226: the satisfied waits on a pair are released, the eight of lowest requester index, in ascending order; no other wait ends. -/
def Obligations.SlotsAndWaits : Prop :=
  (∀ (s : State) (h i : Nat) (r : Rota) (c : CourseRun) (k : Hoop), s.running h = some (r, c) → c.hoop? i = some k →
      (r.sensors = [] → k.ready = none → exec (.slotCommit h i) s = .next s)
      ∧ (∀ x, r.sensors = [] → rpLinked r.bin i = false → k.ready = some x →
          exec (.slotCommit h i) s = .next (s.updHoop h i (fun k => { k with tail := k.tail + 1, ended := x.fin })))
      ∧ (∀ x, r.sensors = [] → rpLinked r.bin i = true → k.ready = some x →
          exec (.slotCommit h i) s = .next ((s.updHoop h i (fun k => { k with tail := k.tail + 1, ended := x.fin })).linkSignal h r i true 1))
      ∧ (k.acq < k.tail → exec (.slotAcquire h i) s = .next (s.updHoop h i (fun k => { k with acq := k.acq + 1 })))
      ∧ (k.tail ≤ k.acq → exec (.slotAcquire h i) s = .next s))
  ∧ (∀ (s : State) (p : Nat), ∃ l : List StakeWait, exec (.stakeWaitRelease p) s = .next (l.foldl (fun s w => s.releaseWait w) s) ∧ l.length ≤ 8
      ∧ l.Pairwise (fun a b => a.requester ≤ b.requester)
      ∧ (∀ w ∈ l, w ∈ s.waits ∧ w.pair = p ∧ reached ((s.stake p).count w.full) w.target = true)
      ∧ (∀ w ∈ s.waits, w.pair = p → reached ((s.stake p).count w.full) w.target = true →
          w ∈ l ∨ (l.length = 8 ∧ ∀ v ∈ l, v.requester ≤ w.requester)))

/-- R350, R352, R353: a frame decoded to its end whose bytes fit is delivered to the hoop and the context moves on; the encode side makes one frame of the
slot at hand, and counts it. -/
def Obligations.CoilFramesAreDecodedAndEncoded : Prop :=
  ∀ (s : State) (h i : Nat) (e : StreamEnv), s.streamEnv h i = some e → rsCoil e.r.bin i = true →
    (∀ d u, rsOut e.r.bin i = false → e.q.ended = false → d = decodeFrame (e.coil i) e.q.raw (e.regionBytes i - e.q.rawPos) → d.stop = none →
      e.q.frameOut = 0 → d.out ≠ [] → d.out.length ≤ e.room i → e.q.bytes + d.out.length ≤ rsBytes e.r.bin i →
      ((((s.updHoop h e.k.idx (fun k => k.reserveTo ((e.q.bytes + d.out.length - 1) / Nat.max 1 (rpSlotBytes e.r.bin e.k.idx)) (rpSlots e.r.bin e.k.idx))).updStream
        h i (fun q => { q with bytes := q.bytes + d.out.length, frameOut := q.frameOut + d.out.length }))).vcount64 (handleTenant h) vCoilTDecBytes
          d.out.length).deliverBytes h i e.q.bytes d.out = (u, none) →
      exec (.coilFrameDecode h i) s = .next (u.endFrame h i e d))
    ∧ (∀ x d u f, rsOut e.r.bin i = true → e.q.ended = false → e.q.raw = [] → e.q.slotNo < e.k.acq → e.k.slot? e.q.slotNo = some x →
      e.q.pos + x.len ≤ rsBytes e.r.bin i → s.readSlot e.r e.k x.no 0 x.len = (u, .ok d) →
      f = encodeFrame (e.coil i) (rsCoilEnc e.r.bin i) (rsSize e.r.bin i) x.fin d →
      e.q.rawPos + f.1.length ≤ rsExtent e.r.bin i 0 * rsSize e.r.bin i →
      ∀ v, v = (u.setCoil h i f.2.1).vcount64 (handleTenant h) vCoilTEncFrames 1 →
        exec (.coilFrameEncode h i) s = .next ((if f.2.2 then v.vcount (handleTenant h) vCoilTDynCnt 1 else v).updStream h i (fun q =>
          { q with raw := f.1, pos := q.pos + x.len, slotNo := q.slotNo + 1, slotOff := 0, ended := x.fin })))

/-! ### The operations of the units (spec/07 to spec/10, spec/12 to spec/14, spec/16) -/

/-- The column, join, grouping and tile operations: on a batch of every input the operation of its opcode runs, releases its input slots and puts out what it
made.
The operations that work behind a GROUP_KEY run once its identifiers are there; and a STATS group whose members have all passed END emits one record
(R261, R284, R285). -/
def Obligations.WeaveOperationsRun : Prop :=
  (∀ (s u : State) (h i : Nat) (e : OpEnv) (slots : List (Hoop × Slot)) (bs : List Bytes),
      BatchReady s h .weave i e ([odIn e.d, odIn2 e.d].filter (fun i => i != 0xFFFF)) slots u bs →
      ∀ p ∈ ([(.filterCmp h i, 0x01, rowKern (odInType e.d) 0x01 [] (fun e x => (predicate e x, []))),
          (.maskAnd h i, 0x02, maskKern andRow), (.maskOr h i, 0x03, maskKern orRow),
          (.maskNot h i, 0x04, rowKern 0x01 0x01 [] (fun _ x => ((maskRow x).map (fun b => ofBool (!b)), []))),
          (.filterMask h i, 0x05, filterKern e), (.hash h i, 0x06, hashKern e),
          (.hashBucket h i, 0x07, rowKern (odInType e.d) 0x08 [vWeaveTNanInCnt, vWeaveTSpecialCnt] hashBucketRow),
          (.widthBucket h i, 0x08, rowKern (odInType e.d) 0x08 [vWeaveTNanInCnt, vWeaveTSpecialCnt] widthRow),
          (.boundBucket h i, 0x09, boundKern e),
          (.clip h i, 0x0A, normKern (fun e => clip32 (odImm0 e.d % 2 ^ 32) (odImm1 e.d % 2 ^ 32)) e),
          (.log1p h i, 0x0B, normKern (fun _ => log1p32) e), (.slog1p h i, 0x0C, normKern (fun _ => slog1p32) e),
          (.minmax h i, 0x0D, paramKern e), (.zscore h i, 0x0E, paramKern e), (.stats h i, 0x0F, statsKern e),
          (.joinBuild h i, 0x10, keyKern (odInType e.d) initOnce buildRow (fun _ _ o => (o, []))),
          (.joinProbe h i, 0x11, keyKern (odInType e.d) (fun s e => (s, .ok e.o)) probeRow (fun e _ o => probePack e o false)),
          (.groupKey h i, 0x12, keyKern (odInType e.d) groupInit groupRow groupPost),
          (.tileMatmul h i, 0x20, matmulKern), (.embedBag h i, 0x21, bagKern), (.cross h i, 0x22, crossKern), (.onehotMm h i, 0x23, onehotKern)]
            : List (Instr × Nat × Kern)),
        odOpcode e.d = p.2.1 → (p.2.2 u e bs false).fault = none → exec p.1 s = .next (e.ran e.weave slots 1 (p.2.2 u e bs false)))
  ∧ ((∀ (s u : State) (h i : Nat) (e : OpEnv) (slots : List (Hoop × Slot)) (bs : List Bytes),
      BatchReady s h .weave i e ([odIn e.d, odIn2 e.d].filter (fun i => i != 0xFFFF)) slots u bs → e.idsReady = true →
      ∀ p ∈ ([(.groupAgg h i, 0x13, valueKern (odInType e.d) aggRow), (.seqGather h i, 0x14, valueKern (odInType e.d) seqRow)] : List (Instr × Nat × Kern)),
        odOpcode e.d = p.2.1 → (p.2.2 u e bs false).fault = none → exec p.1 s = .next (e.ran e.weave slots 1 (p.2.2 u e bs false)))
    ∧ (∀ (s : State) (h i : Nat) (e : OpEnv), s.opEnv h .weave i = some e → e.o.outQ = [] → odOpcode e.d = 0x0F → e.group.head? = some i → e.o.stage = 2 →
        (∀ k ∈ e.group, ∃ o, e.c.op? (opKey .weave k) = some o ∧ 2 ≤ o.stage) →
        exec (.statsRecordEmit h i) s = .next ((s.updOp h e.o.key (fun o => { o with
          stage := 3, outQ := [{ hoop := odOut e.d, data := e.groupRecord s, fin := true }] })).flushAll e e.weave)))

/-- R247: on the rows of two masks MASK_AND gives false when either input is valid and false, otherwise null when either is null, otherwise true; MASK_OR
gives true when either is valid and true, otherwise null when either is null, otherwise false; MASK_NOT gives null for null and otherwise the
complement. -/
def Obligations.MasksAreThreeValued : Prop :=
  ∀ (s u v w : State) (h i : Nat) (e : OpEnv) (slots : List (Hoop × Slot)) (a b : Bytes) (c c2 : Col),
    u.getCol e a 0x01 [0] = (v, .ok c) → c.bad = none → c.b.nullsBad = false →
    (BatchReady s h .weave i e ([odIn e.d, odIn2 e.d].filter (fun i => i != 0xFFFF)) slots u [a, b] → v.getCol e b 0x01 [0] = (w, .ok c2) →
      c2.bad = none → c2.b.nullsBad = false → c.b.rows = c2.b.rows → c.b.rowBase = c2.b.rowBase →
      (∀ rows, rows = (c.vals.zip c2.vals).map (fun p => match maskRow p.1, maskRow p.2 with
          | some false, _ => some 0 | _, some false => some 0 | none, _ => none | _, none => none | some true, some true => some 1) →
        odOpcode e.d = 0x02 → exec (.maskAnd h i) s
          = .next (e.ran e.weave slots 1 (KernOut.ok w e.o [{ hoop := odOut e.d, data := fixedBatch 0x01 c.b.rowBase rows, fin := false }])))
      ∧ (∀ rows, rows = (c.vals.zip c2.vals).map (fun p => match maskRow p.1, maskRow p.2 with
          | some true, _ => some 1 | _, some true => some 1 | none, _ => none | _, none => none | some false, some false => some 0) →
        odOpcode e.d = 0x03 → exec (.maskOr h i) s
          = .next (e.ran e.weave slots 1 (KernOut.ok w e.o [{ hoop := odOut e.d, data := fixedBatch 0x01 c.b.rowBase rows, fin := false }]))))
    ∧ (BatchReady s h .weave i e ([odIn e.d, odIn2 e.d].filter (fun i => i != 0xFFFF)) slots u [a] →
      ∀ rows, rows = c.vals.map (fun x => match maskRow x with | none => none | some true => some 0 | some false => some 1) →
        odOpcode e.d = 0x04 → exec (.maskNot h i) s
          = .next (e.ran e.weave slots 1 (KernOut.ok v e.o [{ hoop := odOut e.d, data := fixedBatch 0x01 c.b.rowBase rows, fin := false }])))

/-- The Quotient unit (R304, R309, R311): an element function of operands from hoops or immediates computes each row and counts its exceptions;
SOLVE_SPD, ZPARAM and MMPARAM run on a batch. -/
def Obligations.QuotientOperationsRun : Prop :=
  ∀ (s u : State) (h i : Nat) (e : OpEnv) (slots : List (Hoop × Slot)) (bs : List Bytes),
    (BatchReady s h .quotient i e (qdHoops e.d) slots u bs → qdFwds e.d = [] → e.takersReady = true →
      ∀ (ops : List Batch) (o : Operand) (rest : List Operand), bs.map (quoBatch (qdF64 e.d)) = ops.map some →
        ops.map (fun b => b.operand (qdF64 e.d)) = o :: rest → (∀ p ∈ rest, p.rowBase = o.rowBase ∧ p.rows.length = o.rows.length) →
        ∀ p ∈ [(Instr.div h i, 1), (.recip h i, 2), (.sqrt h i, 3), (.rsqrt h i, 4)], qdFunc e.d = p.2 →
        ∀ rs, rs = quoRows (qdF64 e.d) p.2
            (quoOperand (qdSrcA e.d) (qdImmA e.d) (if qdSrcA e.d = 0 then (o :: rest)[0]? else none) none o.rows.length)
            (quoOperand (qdSrcB e.d) (qdImmB e.d) (if qdSrcB e.d = 0 then (if qdSrcA e.d = 0 then (o :: rest)[1]? else (o :: rest)[0]?) else none)
              none o.rows.length) →
          exec p.1 s = .next (e.ran e.quotient slots 1 (KernOut.ok (u.tally e.t quoRegs (rs.flatMap (·.2)))
            { e.o with nums := [e.o.taken + 1], table := [(e.o.taken, packFwd { rowBase := o.rowBase, rows := rs.map (·.1) } false false)] }
            (if qdOut e.d = 0xFFFF then []
              else [{ hoop := qdOut e.d, data := fixedBatch (qdType e.d) o.rowBase (rs.map (·.1)), fin := false }]))))
    ∧ (BatchReady s h .quotient i e ([qdIn e.d].filter (fun i => i != 0xFFFF)) slots u bs →
      ∀ p ∈ ([(.solveSpd h i, 5, solveKern), (.zparam h i, 6, entriesKern true), (.mmparam h i, 7, entriesKern false)] : List (Instr × Nat × Kern)),
        qdFunc e.d = p.2.1 → (p.2.2 u e bs false).fault = none → exec p.1 s = .next (e.ran e.quotient slots 1 (p.2.2 u e bs false)))

/-- Arbour and samples (R393, R396, R410, R411, R420): a batch of features is scored or indexed, records are split over their lanes and draws are made;
and a merge releases the records that are ready in sample order.
Selection, Trellis jobs and shuffles (R326, R423, R485, R486): a row whose values are there is selected, the next batch of values is taken, a record is
transformed, and the rows of a pair of batches go to their pieces. -/
def Obligations.SamplesSelectionsJobsAndShufflesRun : Prop :=
  (∀ (s u : State) (h i : Nat) (e : OpEnv) (slots : List (Hoop × Slot)) (bs : List Bytes),
      (BatchReady s h .arbour i e ([adIn e.d].filter (fun i => i != 0xFFFF)) slots u bs →
        ∀ p ∈ [(Instr.arbourScore h i, 0), (.arbourLeafIndex h i, 1)], adMode e.d = p.2 → (arbourKern u e bs false).fault = none →
          exec p.1 s = .next (e.ran e.arbour slots 1 (arbourKern u e bs false)))
      ∧ (BatchReady s h .sample i e ([mdIn e.d].filter (fun i => i != 0xFFFF)) slots u bs →
        ∀ p ∈ ([(.sampleSplit h i, 1, splitKern), (.augDraw h i, 3, drawKern)] : List (Instr × Nat × Kern)),
          mdKind e.d = p.2.1 → (p.2.2 u e bs false).fault = none → exec p.1 s = .next (e.ran e.sampleWeave slots 1 (p.2.2 u e bs false)))
      ∧ (∀ rs, s.opEnv h .sample i = some e → mdKind e.d = 2 → e.o.outQ = [] → e.o.stage < 2 → e.o.lastSeen = false → rs ≠ [] →
        s.releaseAll e (e.laneRecords + 1) = (u, rs, none) →
        exec (.sampleMerge h i) s = .next ((((u.vcount64 e.t vWeaveTSample rs.length).vcount e.t vWeaveTSampleAbortCnt (rs.filter srAborted).length).updOp e.h
          e.o.key (fun o => { o with stage := 1, outQ := recordOuts e.r.bin (mdOut e.d) rs (rs.any srLast) })).flushAll e e.sampleWeave)))
  ∧ (∀ (s : State) (h i : Nat) (e : OpEnv),
      (s.opEnv h .select i = some e → e.o.outQ = [] → e.o.stage < 2 → sdRowLen e.d ≠ 0 →
        (sdRowLen e.d ≤ e.o.pairs.length → exec (.selectRow h i) s = .next (s.selRow e (sdRowLen e.d)))
        ∧ (∀ k x u d o, e.o.pairs.length < sdRowLen e.d → e.c.front (sdIn e.d) e.o.key = .got k x → x.bare = false →
            s.readInputs e.r [(k, x)] = (u, .ok [d]) → valBatch (sdType e.d) e.o d = some o →
            exec (.selectRow h i) s = .next (e.ran e.select [(k, x)] 1 (KernOut.ok u o []))))
      ∧ (∀ k x u v b out, s.opEnv h .sample i = some e → mdKind e.d = 5 → e.o.outQ = [] → e.o.stage < 2 →
        e.c.front (mdIn e.d) e.o.key = .got k x → x.bare = false →
        s.readSlot e.r k x.no (nth e.o.nums 0 0) (x.len - nth e.o.nums 0 0) = (u, .ok b) → recordOk b = true →
        u.trellisRecord e (b.take (srBytes b)) = (v, .ok out) → nth e.o.nums 0 0 + (b.take (srBytes b)).length < x.len →
        exec (.trellisJob h i) s = .next (e.ran e.trellis [] 1 (KernOut.ok v { e.o with
          nums := [nth e.o.nums 0 0 + (b.take (srBytes b)).length, nth e.o.nums 1 0 + 1] } [{ hoop := mdOut e.d, data := out, fin := false }])))
      ∧ (∀ slots u v a b rows, BatchReady s h .network i e [shIn e.d, shPart e.d] slots u [a, b] → fieldAt e.d 3 1 = 2 → e.o.stage = 0 →
        shufRows e.d a b = .ok rows →
        u.shufRowsFrom e.h e.i (nth e.o.nums 0 0) (rows.drop (nth e.o.nums 0 0)) = (v, rows.length, none) →
        exec (.shuffleOut h i) s = .next ((v.updOp e.h e.o.key (fun o => { o with nums := [0, 0], stage := 0 })).finishInputs e slots)))

/-! ### Strand cores (spec/15) -/

/-- Table 15-6: a read of a Strand CSR retires with its value in rd and changes nothing else of the core: the selectors, the selected counter, the state of the
selected hoop, the length of its oldest acquired slot, the beat, the task's SEQ with the tenant's epoch, and SAMPLE_BASE.
Table 15-6: a CSRRW of a selector gives the old value and keeps the bits of the new one; the other selectors stay. -/
def Obligations.StrandReadsAndSelectors : Prop :=
  (∀ (s : State) (h k : Nat) (q : CsrEnv), s.coreEnv h k = some q.e →
      ∀ p ∈ [(Instr.strStakeSel h k, 0x800, some q.e.m.stakeSel), (.strHoopSel h k, 0x810, some q.e.m.hoopSel),
          (.strDrawStream h k, 0x820, some q.e.m.drawStream), (.strDrawIndex h k, 0x821, some q.e.m.drawIndex),
          (.strCount h k, 0xCC0, q.pair?.map (fun p => (s.stake p).count q.full)),
          (.strHoopLen h k, 0xCC1, (q.hoop? false true).bind (fun p => if p.head < p.acq then (p.slot? p.head).map (fun x => x.len + ofBool x.fin * 2 ^ 31) else none)),
          (.strHoopState h k, 0xCC2, (q.hoop? true true).map (fun p => ofBool (p.full (rpSlots q.e.r.bin p.idx)) + 2 * ofBool p.empty + 4 * ofBool p.ended)),
          (.strBeat h k, 0xCC8, some q.e.c.beat), (.strTaskSeq h k, 0xCC9, some (q.e.x.seq % 2 ^ 32 + s.epochOf q.e.t % 65536 * 2 ^ 32)),
          (.strSampleBase h k, 0xCCA, some q.e.x.sampleBase)],
        csrAt q.e p.2.1 = some q → q.src = none → ∀ v, p.2.2 = some v →
          ∃ u f, exec p.1 s = .next u ∧ u.coreAny h k = some f ∧ Retired q.e.m f.m q.len q.rd (BitVec.ofNat 64 v)
            ∧ u.stakes = s.stakes ∧ u.waits = s.waits ∧ u.tasks = s.tasks ∧ (∀ c a, u.byteAt c a = s.byteAt c a))
  ∧ (∀ (s : State) (h k : Nat) (q : CsrEnv) (v : BitVec 64), s.coreEnv h k = some q.e → q.src = some v →
      ∀ kept : Core → Core → Bool → Bool → Bool → Bool → Prop, (∀ m n a b c d, kept m n a b c d ↔ (a = true → n.stakeSel = m.stakeSel)
          ∧ (b = true → n.hoopSel = m.hoopSel) ∧ (c = true → n.drawStream = m.drawStream) ∧ (d = true → n.drawIndex = m.drawIndex)) →
      (csrAt q.e 0x800 = some q → ∃ u f, exec (.strStakeSel h k) s = .next u ∧ u.coreAny h k = some f
        ∧ Retired q.e.m f.m q.len q.rd (BitVec.ofNat 64 q.e.m.stakeSel) ∧ f.m.stakeSel = v.toNat % 2 ^ 17 ∧ kept q.e.m f.m false true true true)
      ∧ (csrAt q.e 0x810 = some q → ∃ u f, exec (.strHoopSel h k) s = .next u ∧ u.coreAny h k = some f
        ∧ Retired q.e.m f.m q.len q.rd (BitVec.ofNat 64 q.e.m.hoopSel) ∧ f.m.hoopSel = v.toNat % 2 ^ 16 ∧ kept q.e.m f.m true false true true)
      ∧ (csrAt q.e 0x820 = some q → ∃ u f, exec (.strDrawStream h k) s = .next u ∧ u.coreAny h k = some f
        ∧ Retired q.e.m f.m q.len q.rd (BitVec.ofNat 64 q.e.m.drawStream) ∧ f.m.drawStream = v.toNat % 2 ^ 32 ∧ kept q.e.m f.m true true false true)
      ∧ (csrAt q.e 0x821 = some q → ∃ u f, exec (.strDrawIndex h k) s = .next u ∧ u.coreAny h k = some f
        ∧ Retired q.e.m f.m q.len q.rd (BitVec.ofNat 64 q.e.m.drawIndex) ∧ f.m.drawIndex = v.toNat ∧ kept q.e.m f.m true true true false))

/-- R216, R217, R421 and Table 15-6: STR_SIGNAL adds n to the selected counter once the core's stores have been performed, STR_WAIT returns at a reached
target and waits for any other, STR_DRAW gives the draw of the selected stream and index, and STR_ABORT ends the task with the cause it names. -/
def Obligations.StrandSignalsWaitsDrawsAndAborts : Prop :=
  ∀ (s : State) (h k p : Nat) (q : CsrEnv) (v : BitVec 64), s.coreEnv h k = some q.e → q.src = some v → q.pair? = some p →
    (csrAt q.e 0x801 = some q → q.e.m.stores = [] → v.toNat % 65536 ≠ 0 → ∀ u, u = (s.csrDone q 0 id).signal p q.full (v.toNat % 65536) →
      (u.stake p).overReleased = false → exec (.strSignal h k) s = .next u)
    ∧ (csrAt q.e 0x802 = some q → reached ((s.stake p).count q.full) (v.toNat % 2 ^ 32) = true →
      exec (.strWait h k) s = .next (s.csrDone q ((s.stake p).count q.full) id))
    ∧ (csrAt q.e 0x802 = some q → reached ((s.stake p).count q.full) (v.toNat % 2 ^ 32) = false →
      ∃ w : StakeWait, exec (.strWait h k) s = .next { s with waits := s.waits ++ [w] } ∧ w.requester = 0x30 + q.e.m.core ∧ w.pair = p
        ∧ w.full = q.full ∧ w.target = v.toNat % 2 ^ 32 ∧ ({ s with waits := s.waits ++ [w] } : State).coreEnv h k = none)
    ∧ (csrAt q.e 0x822 = some q → v.toNat < 2 ^ 32 → exec (.strDraw h k) s = .next (s.retire q.e 24 (fun m =>
        (m.setReg q.rd (BitVec.ofNat 64 (drawWord q.e.c.seed m.drawStream m.drawIndex v.toNat))).on q.len)))
    ∧ (csrAt q.e 0x830 = some q → 0x0E80 ≤ v.toNat % 65536 → v.toNat % 65536 ≤ 0x0EFF →
      exec (.strAbort h k) s = .next (s.strandFault q.e (v.toNat % 65536) 0))

/-- Table 15-6: the hoop calls of a core at its own end of the selected hoop: a reservation gives the slot's address and waits while the hoop is full, a
commit gives the oldest reserved slot its length and END, an acquisition takes the oldest committed slot, and a release frees the oldest acquired one. -/
def Obligations.StrandHoopCalls : Prop :=
  ∀ (s : State) (h k : Nat) (q : CsrEnv) (p : Hoop), s.coreEnv h k = some q.e →
    (csrAt q.e 0x811 = some q → q.hoop? true false = some p → p.full (rpSlots q.e.r.bin p.idx) = false →
      exec (.strHoopReserve h k) s = .next ((s.updHoop h p.idx Hoop.reserve).csrDone q (q.slotAddr p p.rsv) id))
    ∧ (csrAt q.e 0x811 = some q → q.hoop? true false = some p → p.full (rpSlots q.e.r.bin p.idx) = true → exec (.strHoopReserve h k) s = .next s)
    ∧ (∀ v, csrAt q.e 0x812 = some q → q.src = some v → q.e.m.stores = [] → q.hoop? true false = some p → p.tail < p.rsv →
      v.toNat % 2 ^ 21 ≤ rpSlotBytes q.e.r.bin p.idx → exec (.strHoopCommit h k) s
        = .next (((s.csrDone q 0 id).updHoop h p.idx (fun k => k.updSlot k.tail (fun x =>
          { x with len := v.toNat % 2 ^ 21, fin := bit v.toNat 31, complete := true }))).commitSlot h p.idx))
    ∧ (csrAt q.e 0x813 = some q → q.hoop? false true = some p → p.acq < p.tail →
      exec (.strHoopAcquire h k) s = .next ((s.updHoop h p.idx (fun k => { k with acq := k.acq + 1 })).csrDone q (q.slotAddr p p.acq) id))
    ∧ (csrAt q.e 0x813 = some q → q.hoop? false true = some p → p.tail ≤ p.acq → q.src = none → exec (.strHoopAcquire h k) s = .next s)
    ∧ (∀ v, csrAt q.e 0x814 = some q → q.src = some v → q.hoop? false true = some p → p.head < p.acq →
      exec (.strHoopRelease h k) s = .next ((s.csrDone q 0 id).moveHead h q.e.r p.idx (p.head + 1)))

/-- Table 15-1, R439, R448 and R460: an ADD retires with the sum, a load from local SRAM with its bytes, and a store to it changes the bytes it names;
reaching 0x1C000 ends the routine; and a trap ends it with the registers of the last fault set and the task aborted at the pc. -/
def Obligations.StrandInstructionsRetire : Prop :=
  ∀ (s : State) (h k : Nat) (e : CoreEnv), s.coreEnv h k = some e →
    (∀ rd a b w, rd < 32 → a < 32 → b < 32 → w = b * 2 ^ 20 + a * 2 ^ 15 + rd * 2 ^ 7 + 0x33 → e.m.pc % 2 = 0 → e.m.pc + 4 ≤ e.m.code →
      e.m.code ≤ 0x1C000 → e.m.sramN e.m.pc 4 = w → e.m.sramN e.m.pc 2 = w % 65536 →
      ∃ u f, exec (.strandInstruction h k) s = .next u ∧ u.coreAny h k = some f ∧ Retired e.m f.m 4 rd (e.m.reg a + e.m.reg b))
    ∧ (∀ rd addr n sg w len raw v, e.m.atPc = .act (.load rd false addr n sg) w len raw → addr + n ≤ 0x1C000 →
      v = (if sg then sx (8 * n) (e.m.sramN addr n) else BitVec.ofNat 64 (e.m.sramN addr n)) →
      ∃ u f, exec (.strandMemoryAccess h k) s = .next u ∧ u.coreAny h k = some f ∧ Retired e.m f.m len rd v)
    ∧ (∀ addr n v w len raw, e.m.atPc = .act (.store addr n v) w len raw → e.m.code ≤ addr → addr + n ≤ 0x1C000 → sparseWf 0 e.m.sram = true →
      ∃ u f, exec (.strandMemoryAccess h k) s = .next u ∧ u.coreAny h k = some f
        ∧ f.m.pc = (e.m.pc + len) % 2 ^ 64 ∧ f.m.x = e.m.x ∧ f.m.f = e.m.f
        ∧ (∀ j, j < n → sparseGet 0 f.m.sram (addr + j) = nth (leBytes n v) j 0)
        ∧ (∀ j, j < addr ∨ addr + n ≤ j → sparseGet 0 f.m.sram j = sparseGet 0 e.m.sram j)
        ∧ (∀ c a, u.byteAt c a = s.byteAt c a))
    ∧ (e.m.pc = 0x1C000 → e.m.stores = [] → exec (.routineEnd h k) s
      = .next ((s.updCore h k (fun m => { m with ended := true })).vcount (handleTenant h) vStrTRoutineCnt 1))
    ∧ (∀ code tv w len raw, e.m.atPc = .act (.trap code tv) w len raw → exec (.strandTrap h k) s = .next (s.strandFault e code tv))
    ∧ (∀ w len raw, e.m.atPc = .act .ecall w len raw → e.m.reg 17 ≠ 0 → exec (.strandTrap h k) s = .next (s.strandFault e 0x0E04 0))

/-! ### The Lodge and memory (spec/04, spec/20, spec/22) -/

/-- R601: software acknowledges entries by writing LODGE_LOG_READ_SEQ; when the device writes entry e while i32(u32(e − READ_SEQ)) is at least 4096 it adds 1 to
LODGE_LOG_LOST_CNT, and it never moves READ_SEQ itself. With it R643: the oldest waiting entry takes slot e % 4096, no sooner than 40 ns after the
last, and WRITE_SEQ moves on by 1. -/
def Obligations.LogEntriesAreWrittenAndAcknowledged : Prop :=
  (∀ (s : State) (v : Word), s.wf = true → ∃ t, exec (.lodgeLogReadSeq v) s = .next t ∧ t.get rLodgeLogReadSeq = v
    ∧ (∀ o, o ≠ rLodgeLogReadSeq → t.get o = s.get o) ∧ t.log = s.log)
  ∧ (∀ (s : State) (now ptp l : Nat), s.log.last = some l → now < l + 40 → exec (.logEntryWrite now ptp) s = .next s)
  ∧ ∀ (s : State) (now ptp n d : Nat) (e : LogEntry) (rest : List LogEntry), s.wf = true → s.log.queue = e :: rest → s.lodgeRuns = true →
    (∀ l, s.log.last = some l → l + 40 ≤ now) → n = s.getN rLodgeLogWriteSeq → d = (n + 2 ^ 32 - s.getN rLodgeLogReadSeq) % 2 ^ 32 →
    ∃ t, exec (.logEntryWrite now ptp) s = .next t ∧ t.log.queue = rest
      ∧ sparseGet [] t.log.ring (n % 4096) = (s.tickTo now ptp).entryBytes n e
      ∧ (∀ k, k ≠ n % 4096 → sparseGet [] t.log.ring k = sparseGet [] s.log.ring k)
      ∧ t.getN rLodgeLogWriteSeq = (n + 1) % 2 ^ 32 ∧ t.getN rLodgeLogReadSeq = s.getN rLodgeLogReadSeq
      ∧ t.getN rLodgeLogLostCnt = (if 4096 ≤ d ∧ d < 2 ^ 31 then Nat.min (s.getN rLodgeLogLostCnt + 1) 0xFFFFFFFF else s.getN rLodgeLogLostCnt)

/-- R122: when zeroing of the first granule of the queue completes, every byte of that granule reads 0 and no word of it is in error, no other byte of either
memory changes, and the granule is free from now on. -/
def Obligations.GranulesAreZeroed : Prop :=
  ∀ (s : State) (b l : Nat) (q : Runs), s.mbx.tripped = false → s.mem.zeroQ = (b, l) :: q → ∃ t, exec .granuleZeroed s = .next t
    ∧ (∀ a, b * 0x400000 ≤ a → a < (b + 1) * 0x400000 → t.byteAt .hbm a = 0)
    ∧ (∀ a, a < b * 0x400000 ∨ (b + 1) * 0x400000 ≤ a → t.byteAt .hbm a = s.byteAt .hbm a) ∧ (∀ a, t.byteAt .ory a = s.byteAt .ory a)
    ∧ (∀ w, b * 0x80000 ≤ w → w < (b + 1) * 0x80000 → t.errOf .hbm w = 0)
    ∧ (∃ r ∈ t.mem.hbmFree, r.1 ≤ b ∧ b < r.1 + r.2)
    ∧ t.mem.zeroQ = (if l ≤ 1 then q else (b + 1, l - 1) :: q) ∧ t.tenants = s.tenants ∧ t.rotas = s.rotas ∧ t.tasks = s.tasks

/-- R116: the scrub of a guard band moves on by 1,024 lines of every bank and 2 MiB of every stack, wrapping, and changes no byte; memory without a bit in error
is left as it was; and while the schedule clock is stopped nothing is scrubbed. -/
def Obligations.GuardBandsScrub : Prop :=
  ∀ s : State, (s.schedRun = false → exec .guardBand s = .next s)
    ∧ (s.schedRun = true → ∃ t, exec .guardBand s = .next t ∧ t.mem.scrubOry = (s.mem.scrubOry + 1024) % 0x40000
        ∧ t.mem.scrubHbm = (s.mem.scrubHbm + 16384) % 0xC000000 ∧ (∀ c a, t.byteAt c a = s.byteAt c a)
        ∧ t.tenants = s.tenants ∧ t.rotas = s.rotas ∧ t.tasks = s.tasks
        ∧ (s.mem.hbmErr = [] → s.mem.oryErr = [] → t = { s with mem := { s.mem with scrubOry := t.mem.scrubOry, scrubHbm := t.mem.scrubHbm } }))

/-- The Lodge's clockwork: the single start-up of the device on both supplies (Table 1-7); the 1 ms tick, which counts, samples and judges the readings (R596,
R599); and the recomputation of power, which sets LEVEL and lowers ADM_POWER_AVAIL_W at once (R597). -/
def Obligations.TheLodgeRuns : Prop :=
  (∀ (s : State) (flash : Option FlashImage) (self : SelfTest) (now ptp : Nat), s.power.aux = true → s.power.main = true → s.power.held = false →
    s.mbx.tripped = false → s.boot.begun = false →
    ∀ u v : State, u = { s with boot := { s.boot with begun := true }, flash := match flash with | some x => FlashImage.flash x | none => s.flash } →
      v = (((u.noteTimes now ptp).bootFlash).bootFactory).bootSlot self.slotEcc →
      ∀ w, w = (v.bootCal.1.bootValues v.bootCal.2).bootUnits self →
        (w.mbx.stopped = true → exec (.startUp flash self now ptp) s = .next w)
        ∧ (w.mbx.stopped = false → exec (.startUp flash self now ptp) s = .next (w.bootFrom (secsOf w.boot.area 4))))
  ∧ (∀ (s : State) (flash : Option FlashImage) (self : SelfTest) (now ptp : Nat), s.boot.begun = true → exec (.startUp flash self now ptp) s = .next s)
  ∧ (∀ (s : State) (now ptp : Nat) (x : LodgeSample), s.lodgeRuns = true → ∀ u, u = ((s.tickTo now ptp).count64 rLodgeUpMs 1).showTemps x →
      exec (.lodgeTick now ptp x) s = .next ((((u.noteSample x).showPower x).showOver).tripCheck).applySources)
  ∧ (∀ s : State, s.wf = true → s.lodgeRuns = true → s.boot.begun = true → s.mbx.tripped = false →
      ∃ t, exec .powerRecompute s = .next t ∧ t.level = s.recompute.2
        ∧ (s.recompute.1 < s.getF rAdmPowerAvailW 15 0 → t.getF rAdmPowerAvailW 15 0 = s.recompute.1)
        ∧ (s.tele.missing = true → s.recompute = (0, 2)) ∧ t.mem = s.mem ∧ t.tasks = s.tasks)

/-- Commands that store nothing in the memories: whatever state they meet, every byte of tenant HBM and of the Orangery is as before. -/
def Obligations.CommandsThatStoreNothing : Prop :=
  ∀ (s t : State) (p q a b : Nat) (x y z : Bytes) (v : Word) (r : Bool),
    ∀ c ∈ [Instr.jtagBypass, .jtagSamplePreload, .jtagIdcode, .vinPowerOn, .frameReceive p x, .arpRequest p x y z, .neighbourSolicitation p x y z,
        .pfcPauseReceive p q a, .netLinkDown p, .netLinkUp p, .osfpModulePresence p q, .qpInit p, .qpRtr p, .qpRts p, .qpErr p, .qpReset p,
        .netTMrCtrl p v, .ackReceive p q a, .nakReceive p q a r, .retransmitTimeout p q, .cnpReceive p q, .alphaTimer p q, .rateTimer p q r,
        .hostTSqTailDb p q a, .hostTCqHeadDb p q a, .pairLowRead p q, .hoopHeadRead p, .stakeFullRead p, .lodgeLogReadSeq v, .lodgePwrPeakRead,
        .logEntryWrite a b, .powerRecompute, .slotAcquire p q, .atsInvalidationRequest p q a],
      exec c s = .next t → ∀ m n, t.byteAt m n = s.byteAt m n
end

