-- ==== Sys2Proof/Laws/Commands.lean ====
section
/-! SUPPORT. What the shared operations of the commands do, once for each: a mailbox command that the Lodge takes. -/

namespace Sys2Proof.Machine

/-- A snapshot keeps the channel. -/
@[simp] theorem State.snapshot_chan (s : State) (r : MbxReq) : (s.snapshot r).chan = r.chan := by
  unfold State.snapshot
  split <;> simp_all

/-- A command that the Lodge takes is its own work: it completes at once, or it begins and runs on. -/
theorem State.command_takes {s : State} {r : MbxReq} {op : Nat} {p : Nat → Bool} {body : State → MbxReq → Work} (h : Takes s r op)
    (hp : p op = true) : s.command p r body = match body s (s.snapshot r) with
      | .done t x => t.finishCmd (s.snapshot r) x
      | .runs t l => t.begins (s.snapshot r) l := by
  obtain ⟨h1, h2, h3, h4, h5⟩ := h
  unfold State.command
  simp only [State.snapshot_chan, h1, hp, h2, Bool.not_true, Bool.or_self, Bool.false_eq_true, if_false]
  unfold State.perform
  simp only [h3, h1, h4, h5, Bool.false_eq_true, if_false]
  all_goals (cases body s (s.snapshot r) <;> rfl)

end Sys2Proof.Machine
end

