-- ==== Sys2Proof/Laws/Sparse.lean ====
section
/-! SUPPORT. Sparse files and sets of numbers: what a change leaves readable, and that every change keeps the canonical form. -/

namespace Sys2Proof.Machine

/-! ### Sparse files -/

theorem sparseWfFrom_weaken {α : Type} [DecidableEq α] {z : α} {m n : Nat} (h : m ≤ n) :
    ∀ {l : List (Nat × α)}, sparseWfFrom z (some n) l = true → sparseWfFrom z (some m) l = true
  | [], _ => rfl
  | (k, v) :: t, w => by
    simp only [sparseWfFrom, Bool.and_eq_true, decide_eq_true_eq] at w ⊢
    exact ⟨⟨by omega, w.1.2⟩, w.2⟩

theorem sparseWfFrom_none {α : Type} [DecidableEq α] {z : α} {n : Nat} :
    ∀ {l : List (Nat × α)}, sparseWfFrom z (some n) l = true → sparseWfFrom z none l = true
  | [], _ => rfl
  | (k, v) :: t, w => by
    simp only [sparseWfFrom, Bool.and_eq_true, decide_eq_true_eq] at w ⊢
    exact ⟨⟨trivial, w.1.2⟩, w.2⟩

theorem sparseSet_wfFrom {α : Type} [DecidableEq α] {z : α} (a : Nat) (v : α) :
    ∀ (l : List (Nat × α)) (lo : Option Nat), (∀ m, lo = some m → m < a) → sparseWfFrom z lo l = true →
      sparseWfFrom z lo (sparseSet z l a v) = true
  | [], lo, h, _ => by
    unfold sparseSet
    split
    · rfl
    · rename_i hv
      cases lo with
      | none => simp [sparseWfFrom, hv]
      | some m => simp [sparseWfFrom, hv, h m rfl]
  | (k, x) :: t, lo, h, w => by
    unfold sparseSet
    have w' := w
    simp only [sparseWfFrom, Bool.and_eq_true, decide_eq_true_eq] at w'
    split
    · rename_i hak
      split
      · exact w
      · rename_i hv
        cases lo with
        | none => simp [sparseWfFrom, hv, hak, w'.1.2, w'.2]
        | some m => simp [sparseWfFrom, hv, hak, w'.1.2, w'.2, h m rfl]
    · split
      · rename_i hak
        subst hak
        split
        · cases lo with
          | none => exact sparseWfFrom_none w'.2
          | some m => exact sparseWfFrom_weaken (Nat.le_of_lt (h m rfl)) w'.2
        · rename_i hv
          cases lo with
          | none => simp [sparseWfFrom, hv, w'.2]
          | some m => simp [sparseWfFrom, hv, w'.2, h m rfl]
      · have := sparseSet_wfFrom a v t (some k) (fun m e => by cases e; omega) w'.2
        simp only [sparseWfFrom, Bool.and_eq_true, decide_eq_true_eq]
        exact ⟨w'.1, this⟩

/-- A write keeps the canonical form. -/
theorem sparseSet_wf {α : Type} [DecidableEq α] {z : α} {l : List (Nat × α)} {a : Nat} {v : α} (h : sparseWf z l = true) :
    sparseWf z (sparseSet z l a v) = true :=
  sparseSet_wfFrom a v l none (fun _ e => by cases e) h

theorem sparseFilter_wfFrom {α : Type} [DecidableEq α] {z : α} (p : Nat × α → Bool) :
    ∀ (l : List (Nat × α)) (lo : Option Nat), sparseWfFrom z lo l = true → sparseWfFrom z lo (l.filter p) = true
  | [], _, _ => rfl
  | (k, x) :: t, lo, w => by
    have w' := w
    simp only [sparseWfFrom, Bool.and_eq_true, decide_eq_true_eq] at w'
    have ih := sparseFilter_wfFrom p t (some k) w'.2
    by_cases hp : p (k, x) = true
    · rw [List.filter_cons_of_pos hp]
      simp only [sparseWfFrom, Bool.and_eq_true, decide_eq_true_eq]
      exact ⟨w'.1, ih⟩
    · rw [List.filter_cons_of_neg hp]
      cases lo with
      | none => exact sparseWfFrom_none ih
      | some m => exact sparseWfFrom_weaken (by simpa using Nat.le_of_lt (by simpa using w'.1.1)) ih

/-- Dropping entries keeps the canonical form. -/
theorem sparseFilter_wf {α : Type} [DecidableEq α] {z : α} {l : List (Nat × α)} {p : Nat × α → Bool} (h : sparseWf z l = true) :
    sparseWf z (l.filter p) = true := sparseFilter_wfFrom p l none h

/-- Clearing a range keeps the canonical form. -/
theorem sparseClear_wf {α : Type} [DecidableEq α] {z : α} {l : List (Nat × α)} {lo hi : Nat} (h : sparseWf z l = true) :
    sparseWf z (sparseClear l lo hi) = true := sparseFilter_wf h

/-- Writing one entry after another keeps the canonical form. -/
theorem sparseFold_wf {α β : Type} [DecidableEq α] {z : α} (k : β → Nat) (v : β → α) :
    ∀ (xs : List β) {l : List (Nat × α)}, sparseWf z l = true → sparseWf z (xs.foldl (fun f x => sparseSet z f (k x) (v x)) l) = true
  | [], _, h => h
  | _ :: xs, _, h => sparseFold_wf k v xs (sparseSet_wf h)

theorem sparseGet_below {α : Type} [DecidableEq α] {z : α} {a : Nat} :
    ∀ {l : List (Nat × α)} {m : Nat}, a ≤ m → sparseWfFrom z (some m) l = true → sparseGet z l a = z
  | [], _, _, _ => rfl
  | (k, x) :: t, m, h, w => by
    simp only [sparseWfFrom, Bool.and_eq_true, decide_eq_true_eq] at w
    have hk : ¬ k = a := by omega
    simp only [sparseGet, hk, if_false]
    exact sparseGet_below (by omega) w.2

theorem sparseGet_set_from {α : Type} [DecidableEq α] {z : α} (a : Nat) (v : α) :
    ∀ (l : List (Nat × α)) (lo : Option Nat), sparseWfFrom z lo l = true → sparseGet z (sparseSet z l a v) a = v
  | [], _, _ => by
    unfold sparseSet
    split
    · simp [sparseGet, *]
    · simp [sparseGet]
  | (k, x) :: t, lo, w => by
    simp only [sparseWfFrom, Bool.and_eq_true, decide_eq_true_eq] at w
    unfold sparseSet
    split
    · rename_i hak
      split
      · rename_i hv
        have hk : ¬ k = a := by omega
        simp only [sparseGet, hk, if_false, hv]
        exact sparseGet_below (Nat.le_of_lt hak) w.2
      · simp [sparseGet]
    · split
      · rename_i hak
        subst hak
        split
        · rename_i hv
          rw [hv]
          exact sparseGet_below (Nat.le_refl _) w.2
        · simp [sparseGet]
      · rename_i hak
        have hk : ¬ k = a := fun e => hak e.symm
        simp only [sparseGet, hk, if_false]
        exact sparseGet_set_from a v t (some k) w.2

/-- A read after a write of the same key gives the value written. -/
theorem sparseGet_set_same {α : Type} [DecidableEq α] {z : α} {l : List (Nat × α)} {a : Nat} {v : α} (h : sparseWf z l = true) :
    sparseGet z (sparseSet z l a v) a = v := sparseGet_set_from a v l none h

/-- A write leaves every other key alone, in canonical form or not. -/
theorem sparseGet_set_other {α : Type} [DecidableEq α] {z : α} {a b : Nat} {v : α} (n : b ≠ a) :
    ∀ (l : List (Nat × α)), sparseGet z (sparseSet z l a v) b = sparseGet z l b
  | [] => by
    unfold sparseSet
    split
    · rfl
    · simp [sparseGet, n.symm]
  | (k, x) :: t => by
    unfold sparseSet
    split
    · split
      · rfl
      · simp [sparseGet, n.symm]
    · split
      · rename_i hak
        split
        · simp [sparseGet, ← hak, n.symm]
        · simp [sparseGet, ← hak, n.symm]
      · simp only [sparseGet, sparseGet_set_other n t]

/-- What reads as before after a range is cleared, and what reads as unlisted. -/
theorem sparseGet_clear {α : Type} {z : α} (lo hi a : Nat) :
    ∀ (l : List (Nat × α)), sparseGet z (sparseClear l lo hi) a = if lo ≤ a ∧ a < hi then z else sparseGet z l a
  | [] => by simp [sparseClear, sparseGet]
  | (k, x) :: t => by
    have ih := sparseGet_clear (z := z) lo hi a t
    unfold sparseClear at ih ⊢
    by_cases hk : k < lo ∨ hi ≤ k
    · rw [List.filter_cons_of_pos (by simpa using hk)]
      simp only [sparseGet]
      split
      · subst_vars
        rw [if_neg (by omega)]
      · exact ih
    · rw [List.filter_cons_of_neg (by simpa using hk), ih]
      simp only [sparseGet]
      split
      · rfl
      · rename_i hn
        rw [if_neg (by omega)]

/-! ### Sets of numbers -/

/-- Numbers that all lie above `m` and rise. -/
theorem setWf_cons {a : Nat} {l : NatSet} : setWf (a :: l) = true ↔ (∀ b ∈ l.head?, a < b) ∧ setWf l = true := by
  cases l with
  | nil => simp [setWf]
  | cons b t => simp [setWf]

theorem setInsert_head {a k : Nat} (h : k < a) : ∀ (l : NatSet), (∀ b ∈ l.head?, k < b) → ∀ b ∈ (setInsert l a).head?, k < b
  | [], _ => by simp [setInsert, h]
  | c :: t, hl => by
    unfold setInsert
    split
    · simp [h]
    · split
      · simpa using hl
      · simpa using hl

/-- Adding a number keeps a set rising. -/
theorem setInsert_wf (a : Nat) : ∀ {l : NatSet}, setWf l = true → setWf (setInsert l a) = true
  | [], _ => rfl
  | k :: t, h => by
    unfold setInsert
    split
    · rename_i hak
      exact setWf_cons.2 ⟨by simpa using hak, h⟩
    · split
      · exact h
      · rename_i h1 h2
        have h' := setWf_cons.1 h
        exact setWf_cons.2 ⟨setInsert_head (by omega) t h'.1, setInsert_wf a h'.2⟩

theorem setWf_above {m : Nat} : ∀ {l : NatSet}, setWf l = true → (∀ b ∈ l.head?, m < b) → ∀ b ∈ l, m < b
  | [], _, _, _, hb => by cases hb
  | k :: t, h, hm, b, hb => by
    have h' := setWf_cons.1 h
    rcases List.mem_cons.1 hb with e | hb
    · subst e
      exact hm b (by simp)
    · exact setWf_above h'.2 (fun c hc => Nat.lt_trans (hm k (by simp)) (h'.1 c hc)) b hb

/-- Dropping numbers keeps a set rising. -/
theorem setFilter_wf (p : Nat → Bool) : ∀ {l : NatSet}, setWf l = true → setWf (l.filter p) = true
  | [], _ => rfl
  | k :: t, h => by
    have h' := setWf_cons.1 h
    by_cases hp : p k = true
    · rw [List.filter_cons_of_pos hp]
      refine setWf_cons.2 ⟨fun b hb => ?_, setFilter_wf p h'.2⟩
      exact setWf_above h'.2 h'.1 b (List.mem_of_mem_filter (List.mem_of_mem_head? hb))
    · rw [List.filter_cons_of_neg hp]
      exact setFilter_wf p h'.2

/-- Clearing a range keeps a set rising. -/
theorem setClear_wf {l : NatSet} {lo hi : Nat} (h : setWf l = true) : setWf (setClear l lo hi) = true := setFilter_wf _ h

end Sys2Proof.Machine
end

