-- ==== Sys2Proof/Laws/Keeps.lean ====
section
/-! SUPPORT. What every effect keeps: how `Keeps` composes, and that it holds of the record updates and of the basic operations. -/

namespace Sys2Proof.Machine

/-! ### How it composes -/

theorem Keeps.refl (s : State) : Keeps s s := ⟨rfl, rfl, Nat.le_refl _, List.prefix_refl _, id⟩

theorem Keeps.trans {s t u : State} (h : Keeps s t) (k : Keeps t u) : Keeps s u :=
  ⟨k.pending.trans h.pending, k.chip.trans h.chip, Nat.le_trans h.free k.free, h.out.trans k.out, fun w => k.wf (h.wf w)⟩

theorem Keeps.foldl' {α : Type} {f : State → α → State} (h : ∀ s a, Keeps s (f s a)) :
    ∀ (l : List α) (s : State), Keeps s (l.foldl f s)
  | [], s => Keeps.refl s
  | a :: l, s => (h s a).trans (Keeps.foldl' h l (f s a))

theorem Keeps.foldl_fst' {α β : Type} {f : State × β → α → State × β} (h : ∀ p a, Keeps p.1 (f p a).1) :
    ∀ (l : List α) (p : State × β), Keeps p.1 (l.foldl f p).1
  | [], p => Keeps.refl p.1
  | a :: l, p => (h p a).trans (Keeps.foldl_fst' h l (f p a))

theorem Keeps.foldl {α : Type} {f : State → α → State} {l : List α} {s t : State} (h : ∀ s a, Keeps s (f s a)) (k : Keeps s t) :
    Keeps s (l.foldl f t) := k.trans (Keeps.foldl' h l t)

theorem Keeps.foldl_fst {α β : Type} {f : State × β → α → State × β} {l : List α} {s : State} {p : State × β}
    (h : ∀ p a, Keeps p.1 (f p a).1) (k : Keeps s p.1) : Keeps s (l.foldl f p).1 := k.trans (Keeps.foldl_fst' h l p)

/-- From what a call answered. -/
theorem Keeps.of_eq {β : Type} {s t : State} {b : β} {p : State × β} (h : p = (t, b)) (k : Keeps s p.1) : Keeps s t := by
  rw [h] at k
  exact k

theorem Keeps.of_eq2 {β : Type} {s t : State} {b : β} {p : β × State} (h : p = (b, t)) (k : Keeps s p.2) : Keeps s t := by
  rw [h] at k
  exact k

theorem Keeps.ite {s a b : State} {c : Prop} [Decidable c] (h : c → Keeps s a) (k : ¬c → Keeps s b) : Keeps s (if c then a else b) := by
  split
  · exact h ‹_›
  · exact k ‹_›

/-- An intermediate state may be forgotten but for what it keeps. -/
theorem Keeps.cut {s t : State} (u : State) (h : Keeps s u) (k : Keeps s u → Keeps s t) : Keeps s t := k h

/-- What an answer that may be none keeps, where there is one. -/
structure OptKeeps {α : Type} (p : α → State) (s : State) (o : Option α) : Prop where
  holds : ∀ u, o = some u → Keeps s (p u)

theorem OptKeeps.none {α : Type} {p : α → State} {s : State} : OptKeeps p s Option.none := ⟨fun _ h => by cases h⟩

theorem OptKeeps.some {α : Type} {p : α → State} {s : State} {u : α} (k : Keeps s (p u)) : OptKeeps p s (Option.some u) :=
  ⟨fun v h => by cases h; exact k⟩

theorem OptKeeps.ite {α : Type} {p : α → State} {s : State} {a b : Option α} {c : Prop} [Decidable c] (h : c → OptKeeps p s a)
    (k : ¬c → OptKeeps p s b) : OptKeeps p s (if c then a else b) := by
  split
  · exact h ‹_›
  · exact k ‹_›

theorem OptKeeps.cut {α : Type} {p : α → State} {s : State} {o : Option α} (u : State) (h : Keeps s u) (k : Keeps s u → OptKeeps p s o) :
    OptKeeps p s o := k h

/-- An outcome that goes on, and what the next state keeps. -/
structure NextKeeps (s : State) (o : Host.Outcome State Fault Refusal) : Prop where
  holds : ∃ t, o = .next t ∧ Keeps s t

theorem NextKeeps.next {s t : State} (k : Keeps s t) : NextKeeps s (.next t) := ⟨t, rfl, k⟩

theorem NextKeeps.ite {s : State} {a b : Host.Outcome State Fault Refusal} {c : Prop} [Decidable c] (h : c → NextKeeps s a)
    (k : ¬c → NextKeeps s b) : NextKeeps s (if c then a else b) := by
  split
  · exact h ‹_›
  · exact k ‹_›

theorem NextKeeps.cut {s : State} {o : Host.Outcome State Fault Refusal} (u : State) (h : Keeps s u) (k : Keeps s u → NextKeeps s o) :
    NextKeeps s o := k h

/-- What running an operation on a batch keeps. -/
structure KernKeeps (k : Kern) : Prop where
  holds : ∀ {a s : State} {e ins last}, Keeps a s → Keeps a (k s e ins last).s

/-- What the end of an operation's input keeps. -/
structure FinKeeps (f : Fin) : Prop where
  holds : ∀ {a s : State} {e bare}, Keeps a s → Keeps a (f s e bare).s

theorem Keeps.of_kern {s t : State} {o l f} {k : KernOut} (h : k = KernOut.mk t o l f) (i : Keeps s k.s) : Keeps s t := by
  rw [h] at i
  exact i

/-- The state of a command's work, done or under way. -/
def Work.state : Work → State
  | .done s _ => s
  | .runs s _ => s

theorem Work.state_done {s : State} {x} : (Work.done s x).state = s := rfl

theorem Work.state_runs {s : State} {x} : (Work.runs s x).state = s := rfl

theorem Keeps.of_done {s t : State} {x} {w : Work} (h : w = .done t x) (i : Keeps s w.state) : Keeps s t := by
  rw [h] at i
  exact i

theorem Keeps.of_runs {s t : State} {x} {w : Work} (h : w = .runs t x) (i : Keeps s w.state) : Keeps s t := by
  rw [h] at i
  exact i

/-- The state that sending one thing of a shuffle leaves, `d` where it waits. -/
def ShufOut.stateOr (d : State) : ShufOut → State
  | .wait => d
  | .fault s _ => s
  | .done s => s

theorem Keeps.of_fault {s t : State} {c} {w : ShufOut} (h : w = .fault t c) (i : Keeps s (w.stateOr s)) : Keeps s t := by
  rw [h] at i
  exact i

theorem Keeps.of_sent {s t : State} {w : ShufOut} (h : w = .done t) (i : Keeps s (w.stateOr s)) : Keeps s t := by
  rw [h] at i
  exact i

/-- The state in which a creation is under way or done, `d` where it was refused. -/
def CreateOut.stateOr (d : State) : CreateOut → State
  | .created s => s
  | .waits s => s
  | _ => d

theorem Keeps.of_created {s t : State} {w : CreateOut} (h : w = .created t) (i : Keeps s (w.stateOr s)) : Keeps s t := by
  rw [h] at i
  exact i

theorem Keeps.of_waits {s t : State} {w : CreateOut} (h : w = .waits t) (i : Keeps s (w.stateOr s)) : Keeps s t := by
  rw [h] at i
  exact i

/-! ### Record updates -/

/-- `Keeps` of a state given field by field. -/
def KeepsMk (s : State) (pending : List Instr) (freeNo : Nat) (chip : Chip) (pf0 : RegFile) (shadow : RegFile) (vf : RegFile) (latch : List (Nat × Nat)) (beat : Beat) (ptp : Ptp) (mem : Mem) (host : HostLink) (msix : Msix) (tenants : List Tenant) (epochs : List (Nat × Nat)) (rotas : List Rota) (tasks : List Task) (stakes : List (Nat × Stake)) (waits : List StakeWait) (commit : Option Commit) (qps : List Qp) (net : List NetPort) (coilReqs : List CoilReq) (mbx : Mailbox) (pldm : Pldm) (tele : Telemetry) (flash : Flash) (boot : Boot) (power : Power) (log : EventLog) (hostNo : Nat) (atc : List Translation) (held : List HostReq) (reads : List HostReq) (out : List Out) : Prop :=
  Keeps s (State.mk pending freeNo chip pf0 shadow vf latch beat ptp mem host msix tenants epochs rotas tasks stakes waits commit qps net coilReqs mbx pldm tele flash boot power log hostNo atc held reads out)

/-- A record update is seen field by field. -/
theorem Keeps.mk_eq {s : State} {pending freeNo chip pf0 shadow vf latch beat ptp mem host msix tenants epochs rotas tasks stakes waits commit qps net coilReqs mbx pldm tele flash boot power log hostNo atc held reads out} :
    Keeps s (State.mk pending freeNo chip pf0 shadow vf latch beat ptp mem host msix tenants epochs rotas tasks stakes waits commit qps net coilReqs mbx pldm tele flash boot power log hostNo atc held reads out) = KeepsMk s pending freeNo chip pf0 shadow vf latch beat ptp mem host msix tenants epochs rotas tasks stakes waits commit qps net coilReqs mbx pldm tele flash boot power log hostNo atc held reads out := rfl

/-- Fields that `Keeps` says nothing about may change at will. -/
theorem KeepsMk.fields {s u : State} (k : Keeps s u) {beat ptp host tenants epochs rotas tasks stakes waits qps net coilReqs mbx pldm tele boot power hostNo atc held reads} :
    KeepsMk s u.pending u.freeNo u.chip u.pf0 u.shadow u.vf u.latch beat ptp u.mem host u.msix tenants epochs rotas tasks stakes waits u.commit qps net coilReqs mbx pldm tele u.flash boot power u.log hostNo atc held reads u.out :=
  ⟨k.pending, k.chip, k.free, k.out, k.wf⟩

/-- The same, and the parts of the memory beside its files. -/
theorem KeepsMk.memFields {s u : State} (k : Keeps s u) {beat ptp host tenants epochs rotas tasks stakes waits qps net coilReqs mbx pldm tele boot power hostNo atc held reads scrubOry scrubHbm hbmFree oryFree zeroQ zeroAcc ports writes} :
    KeepsMk s u.pending u.freeNo u.chip u.pf0 u.shadow u.vf u.latch beat ptp (Mem.mk u.mem.hbm u.mem.ory u.mem.tags u.mem.hbmErr u.mem.oryErr scrubOry scrubHbm hbmFree oryFree zeroQ zeroAcc ports writes) host u.msix tenants epochs rotas tasks stakes waits u.commit qps net coilReqs mbx pldm tele u.flash boot power u.log hostNo atc held reads u.out :=
  ⟨k.pending, k.chip, k.free, k.out, k.wf⟩

/-- The same for MSI-X beside its table. -/
theorem KeepsMk.msixFields {s u : State} (k : Keeps s u) {beat ptp host tenants epochs rotas tasks stakes waits qps net coilReqs mbx pldm tele boot power hostNo atc held reads on fmask unmasked pend} :
    KeepsMk s u.pending u.freeNo u.chip u.pf0 u.shadow u.vf u.latch beat ptp u.mem host (Msix.mk on fmask unmasked pend u.msix.table) tenants epochs rotas tasks stakes waits u.commit qps net coilReqs mbx pldm tele u.flash boot power u.log hostNo atc held reads u.out :=
  ⟨k.pending, k.chip, k.free, k.out, k.wf⟩

/-- The same for the event log beside its ring. -/
theorem KeepsMk.logFields {s u : State} (k : Keeps s u) {beat ptp host tenants epochs rotas tasks stakes waits qps net coilReqs mbx pldm tele boot power hostNo atc held reads queue last} :
    KeepsMk s u.pending u.freeNo u.chip u.pf0 u.shadow u.vf u.latch beat ptp u.mem host u.msix tenants epochs rotas tasks stakes waits u.commit qps net coilReqs mbx pldm tele u.flash boot power (EventLog.mk queue u.log.ring last) hostNo atc held reads u.out :=
  ⟨k.pending, k.chip, k.free, k.out, k.wf⟩

/-- Any change that keeps the named parts. -/
theorem Keeps.files {s u : State} (k : Keeps s u) {t : State} (hp : t.pending = u.pending) (hc : t.chip = u.chip) (hf : u.freeNo ≤ t.freeNo)
    (ho : t.out = u.out) (hw : u.wf = true → t.wf = true) : Keeps s t :=
  k.trans ⟨hp, hc, hf, ho ▸ List.prefix_refl _, hw⟩

/-! ### The parts of the canonical form -/

theorem State.wf_iff {s : State} : s.wf = true ↔
    sparseWf 0 s.pf0 = true ∧ sparseWf 0 s.shadow = true ∧ sparseWf 0 s.vf = true ∧ sparseWf 0 s.latch = true ∧ commitWf s.commit = true
      ∧ sparseWf 0 s.msix.table = true ∧ s.mem.wf = true ∧ s.flash.wf = true ∧ sparseWf [] s.log.ring = true := by
  simp only [State.wf, Bool.and_eq_true, and_assoc]

theorem Mem.wf_iff {m : Mem} : m.wf = true ↔
    sparseWf 0 m.hbm = true ∧ sparseWf 0 m.ory = true ∧ setWf m.tags = true ∧ sparseWf 0 m.hbmErr = true ∧ sparseWf 0 m.oryErr = true := by
  simp only [Mem.wf, Bool.and_eq_true, and_assoc]

theorem Keeps.pf0 {s u : State} (k : Keeps s u) {f : RegFile} (h : sparseWf 0 u.pf0 = true → sparseWf 0 f = true) :
    Keeps s { u with pf0 := f } :=
  k.files rfl rfl (Nat.le_refl _) rfl fun w => by
    rw [State.wf_iff] at w ⊢
    exact ⟨h w.1, w.2⟩

theorem Keeps.shadow {s u : State} (k : Keeps s u) {f : RegFile} (h : sparseWf 0 u.shadow = true → sparseWf 0 f = true) :
    Keeps s { u with shadow := f } :=
  k.files rfl rfl (Nat.le_refl _) rfl fun w => by
    rw [State.wf_iff] at w ⊢
    exact ⟨w.1, h w.2.1, w.2.2⟩

theorem Keeps.vf {s u : State} (k : Keeps s u) {f : RegFile} (h : sparseWf 0 u.vf = true → sparseWf 0 f = true) :
    Keeps s { u with vf := f } :=
  k.files rfl rfl (Nat.le_refl _) rfl fun w => by
    rw [State.wf_iff] at w ⊢
    exact ⟨w.1, w.2.1, h w.2.2.1, w.2.2.2⟩

theorem Keeps.latch {s u : State} (k : Keeps s u) {f : List (Nat × Nat)} (h : sparseWf 0 u.latch = true → sparseWf 0 f = true) :
    Keeps s { u with latch := f } :=
  k.files rfl rfl (Nat.le_refl _) rfl fun w => by
    rw [State.wf_iff] at w ⊢
    exact ⟨w.1, w.2.1, w.2.2.1, h w.2.2.2.1, w.2.2.2.2⟩

theorem Keeps.commit {s u : State} (k : Keeps s u) {c : Option Commit} (h : u.wf = true → commitWf c = true) :
    Keeps s { u with commit := c } :=
  k.files rfl rfl (Nat.le_refl _) rfl fun w => by
    have hc := h w
    rw [State.wf_iff] at w ⊢
    exact ⟨w.1, w.2.1, w.2.2.1, w.2.2.2.1, hc, w.2.2.2.2.2⟩

theorem Keeps.msix {s u : State} (k : Keeps s u) {m : Msix} (h : sparseWf 0 u.msix.table = true → sparseWf 0 m.table = true) :
    Keeps s { u with msix := m } :=
  k.files rfl rfl (Nat.le_refl _) rfl fun w => by
    rw [State.wf_iff] at w ⊢
    exact ⟨w.1, w.2.1, w.2.2.1, w.2.2.2.1, w.2.2.2.2.1, h w.2.2.2.2.2.1, w.2.2.2.2.2.2⟩

theorem Keeps.mem {s u : State} (k : Keeps s u) {m : Mem} (h : u.mem.wf = true → m.wf = true) : Keeps s { u with mem := m } :=
  k.files rfl rfl (Nat.le_refl _) rfl fun w => by
    rw [State.wf_iff] at w ⊢
    exact ⟨w.1, w.2.1, w.2.2.1, w.2.2.2.1, w.2.2.2.2.1, w.2.2.2.2.2.1, h w.2.2.2.2.2.2.1, w.2.2.2.2.2.2.2⟩

theorem Keeps.flash {s u : State} (k : Keeps s u) {f : Flash} (h : u.flash.wf = true → f.wf = true) : Keeps s { u with flash := f } :=
  k.files rfl rfl (Nat.le_refl _) rfl fun w => by
    rw [State.wf_iff] at w ⊢
    exact ⟨w.1, w.2.1, w.2.2.1, w.2.2.2.1, w.2.2.2.2.1, w.2.2.2.2.2.1, w.2.2.2.2.2.2.1, h w.2.2.2.2.2.2.2.1, w.2.2.2.2.2.2.2.2⟩

theorem Keeps.log {s u : State} (k : Keeps s u) {l : EventLog} (h : sparseWf [] u.log.ring = true → sparseWf [] l.ring = true) :
    Keeps s { u with log := l } :=
  k.files rfl rfl (Nat.le_refl _) rfl fun w => by
    rw [State.wf_iff] at w ⊢
    exact ⟨w.1, w.2.1, w.2.2.1, w.2.2.2.1, w.2.2.2.2.1, w.2.2.2.2.2.1, w.2.2.2.2.2.2.1, w.2.2.2.2.2.2.2.1, h w.2.2.2.2.2.2.2.2⟩

/-- Any field may change, as long as each file of it keeps its canonical form. -/
theorem KeepsMk.files {s u : State} (k : Keeps s u) {pf0 shadow vf latch beat ptp mem host msix tenants epochs rotas tasks stakes waits commit qps net coilReqs mbx pldm tele flash boot power log hostNo atc held reads}
    (h1 : sparseWf 0 u.pf0 = true → sparseWf 0 pf0 = true) (h2 : sparseWf 0 u.shadow = true → sparseWf 0 shadow = true)
    (h3 : sparseWf 0 u.vf = true → sparseWf 0 vf = true) (h4 : sparseWf 0 u.latch = true → sparseWf 0 latch = true)
    (h5 : commitWf u.commit = true → commitWf commit = true) (h6 : sparseWf 0 u.msix.table = true → sparseWf 0 msix.table = true)
    (h7 : u.mem.wf = true → mem.wf = true) (h8 : u.flash.wf = true → flash.wf = true)
    (h9 : sparseWf [] u.log.ring = true → sparseWf [] log.ring = true) :
    KeepsMk s u.pending u.freeNo u.chip pf0 shadow vf latch beat ptp mem host msix tenants epochs rotas tasks stakes waits commit qps net coilReqs mbx pldm tele flash boot power log hostNo atc held reads u.out :=
  k.files rfl rfl (Nat.le_refl _) rfl fun w => by
    rw [State.wf_iff] at w ⊢
    exact ⟨h1 w.1, h2 w.2.1, h3 w.2.2.1, h4 w.2.2.2.1, h5 w.2.2.2.2.1, h6 w.2.2.2.2.2.1, h7 w.2.2.2.2.2.2.1, h8 w.2.2.2.2.2.2.2.1,
      h9 w.2.2.2.2.2.2.2.2⟩

/-! ### The basic operations -/

theorem State.set_keeps' (s : State) (off : Nat) (v : Word) : Keeps s (s.set off v) := (Keeps.refl s).pf0 sparseSet_wf

theorem State.vset_keeps' (s : State) (t off : Nat) (v : Word) : Keeps s (s.vset t off v) := (Keeps.refl s).vf sparseSet_wf

theorem State.free_keeps' (s : State) (w : Nat) : Keeps s (s.free w).2 := ⟨rfl, rfl, Nat.le_succ _, List.prefix_refl _, id⟩

theorem State.emit_keeps' (s : State) (o : Out) : Keeps s (s.emit o) := ⟨rfl, rfl, Nat.le_refl _, List.prefix_append _ _, id⟩

theorem State.freeBytes_keeps' : ∀ (n : Nat) (s : State), Keeps s (s.freeBytes n).1
  | 0, s => Keeps.refl s
  | n + 1, s => (State.free_keeps' s 8).trans (State.freeBytes_keeps' n (s.free 8).2)

theorem State.putByte_keeps' (s : State) (sp : Space) (a : Nat) (b : Byte) : Keeps s (s.putByte sp a b) := by
  cases sp with
  | hbm =>
    refine (Keeps.refl s).mem fun w => ?_
    rw [Mem.wf_iff] at w ⊢
    exact ⟨sparseSet_wf w.1, w.2⟩
  | ory =>
    refine (Keeps.refl s).mem fun w => ?_
    rw [Mem.wf_iff] at w ⊢
    exact ⟨w.1, sparseSet_wf w.2.1, w.2.2⟩

theorem State.putBytes_keeps' (sp : Space) : ∀ (b : Bytes) (s : State) (a : Nat), Keeps s (s.putBytes sp a b)
  | [], s, _ => Keeps.refl s
  | x :: b, s, a => (State.putByte_keeps' s sp a x).trans (State.putBytes_keeps' sp b (s.putByte sp a x) (a + 1))

theorem State.setErr_keeps' (s : State) (sp : Space) (w n : Nat) : Keeps s (s.setErr sp w n) := by
  cases sp with
  | hbm =>
    refine (Keeps.refl s).mem fun h => ?_
    rw [Mem.wf_iff] at h ⊢
    exact ⟨h.1, h.2.1, h.2.2.1, sparseSet_wf h.2.2.2.1, h.2.2.2.2⟩
  | ory =>
    refine (Keeps.refl s).mem fun h => ?_
    rw [Mem.wf_iff] at h ⊢
    exact ⟨h.1, h.2.1, h.2.2.1, h.2.2.2.1, sparseSet_wf h.2.2.2.2⟩

theorem State.clearLineErr_keeps' (s : State) (line : Nat) : Keeps s (s.clearLineErr line) := by
  refine (Keeps.refl s).mem fun h => ?_
  rw [Mem.wf_iff] at h ⊢
  exact ⟨h.1, h.2.1, h.2.2.1, h.2.2.2.1, sparseClear_wf h.2.2.2.2⟩

theorem Keeps.tags {s u : State} (k : Keeps s u) {l : NatSet} (h : setWf u.mem.tags = true → setWf l = true) :
    Keeps s { u with mem := { u.mem with tags := l } } := by
  refine k.mem fun w => ?_
  rw [Mem.wf_iff] at w ⊢
  exact ⟨w.1, w.2.1, h w.2.2.1, w.2.2.2⟩

theorem State.openLine_keeps' (s : State) (t line : Nat) : Keeps s (s.openLine t line) := by
  unfold State.openLine
  split
  · exact Keeps.refl s
  · exact Keeps.tags (((State.putBytes_keeps' .ory _ s (line * 128)).trans (State.clearLineErr_keeps' _ line))) (setInsert_wf line)

theorem State.clearTags_keeps' (s : State) (t a n : Nat) : Keeps s (s.clearTags t a n) := (Keeps.refl s).tags (setFilter_wf _)

theorem setFold_wf (f : Nat → Nat × Nat) : ∀ (gs : List Nat) {l : NatSet}, setWf l = true →
    setWf (gs.foldl (fun l g => setClear l (f g).1 (f g).2) l) = true
  | [], _, h => h
  | _ :: gs, _, h => setFold_wf f gs (setClear_wf h)

theorem State.clearGranuleTags_keeps' (s : State) (gs : List Nat) : Keeps s (s.clearGranuleTags gs) :=
  (Keeps.refl s).tags (setFold_wf (fun g => (g * 0x8000, g * 0x8000 + 0x8000)) gs)

theorem State.latchWord_keeps' (s : State) (fn off v : Nat) : Keeps s (s.latchWord fn off v) := (Keeps.refl s).latch sparseSet_wf

theorem State.unlatch_keeps' (s : State) (fn off : Nat) : Keeps s (s.unlatch fn off) := (Keeps.refl s).latch sparseSet_wf

theorem putRegs_wf {f : RegFile} (l : List (Nat × Nat)) (h : sparseWf 0 f = true) : sparseWf 0 (putRegs f l) = true :=
  sparseFold_wf (fun p : Nat × Nat => p.1) (fun p => BitVec.ofNat 32 p.2) l h

theorem applyKeys_wf (snap : RegFile) {f : RegFile} (ks : List Nat) (h : sparseWf 0 f = true) : sparseWf 0 (applyKeys snap f ks) = true :=
  sparseFold_wf (fun k : Nat => k) (fun k => sparseGet 0 snap k) ks h

theorem State.putGrant_keeps' (s : State) (l : List (Nat × Nat)) : Keeps s (s.putGrant l) := by
  refine (((Keeps.refl s).pf0 (putRegs_wf l)).shadow (f := putRegs s.shadow l) (putRegs_wf l)).commit (fun w => ?_)
  have hc := (State.wf_iff.1 w).2.2.2.2.1
  revert hc
  cases s.commit with
  | none => exact fun _ => rfl
  | some c => exact fun hc => putRegs_wf l hc

/-! ### The same, one after another -/

theorem State.set_keeps {a s : State} (off v) (k : Keeps a s) : Keeps a (s.set off v) := k.trans (State.set_keeps' s off v)

theorem State.vset_keeps {a s : State} (t off v) (k : Keeps a s) : Keeps a (s.vset t off v) := k.trans (State.vset_keeps' s t off v)

theorem State.free_keeps {a s : State} (w) (k : Keeps a s) : Keeps a (s.free w).2 := k.trans (State.free_keeps' s w)

theorem State.emit_keeps {a s : State} (o) (k : Keeps a s) : Keeps a (s.emit o) := k.trans (State.emit_keeps' s o)

theorem State.freeBytes_keeps {a s : State} (n) (k : Keeps a s) : Keeps a (s.freeBytes n).1 := k.trans (State.freeBytes_keeps' n s)

theorem State.putByte_keeps {a s : State} (sp x b) (k : Keeps a s) : Keeps a (s.putByte sp x b) := k.trans (State.putByte_keeps' s sp x b)

theorem State.putBytes_keeps {a s : State} (sp x b) (k : Keeps a s) : Keeps a (s.putBytes sp x b) := k.trans (State.putBytes_keeps' sp b s x)

theorem State.setErr_keeps {a s : State} (sp w n) (k : Keeps a s) : Keeps a (s.setErr sp w n) := k.trans (State.setErr_keeps' s sp w n)

theorem State.clearLineErr_keeps {a s : State} (line) (k : Keeps a s) : Keeps a (s.clearLineErr line) := k.trans (State.clearLineErr_keeps' s line)

theorem State.openLine_keeps {a s : State} (t line) (k : Keeps a s) : Keeps a (s.openLine t line) := k.trans (State.openLine_keeps' s t line)

theorem State.clearTags_keeps {a s : State} (t x n) (k : Keeps a s) : Keeps a (s.clearTags t x n) := k.trans (State.clearTags_keeps' s t x n)

theorem State.clearGranuleTags_keeps {a s : State} (gs) (k : Keeps a s) : Keeps a (s.clearGranuleTags gs) := k.trans (State.clearGranuleTags_keeps' s gs)

theorem State.latchWord_keeps {a s : State} (fn off v) (k : Keeps a s) : Keeps a (s.latchWord fn off v) := k.trans (State.latchWord_keeps' s fn off v)

theorem State.unlatch_keeps {a s : State} (fn off) (k : Keeps a s) : Keeps a (s.unlatch fn off) := k.trans (State.unlatch_keeps' s fn off)

theorem State.putGrant_keeps {a s : State} (l) (k : Keeps a s) : Keeps a (s.putGrant l) := k.trans (State.putGrant_keeps' s l)

theorem flashPut_wf : ∀ (b : Bytes) {c : List Host.Cell} (a : Nat), sparseWf 0xFF#8 c = true → sparseWf 0xFF#8 (flashPut c a b) = true
  | [], _, _, h => h
  | _ :: b, _, a, h => flashPut_wf b (a + 1) (sparseSet_wf h)

theorem Flash.program_wf {f : Flash} (a : Nat) (b : Bytes) (h : f.wf = true) : (f.program a b).wf = true := flashPut_wf b a h

theorem Flash.erase_wf {f : Flash} (a n : Nat) (h : f.wf = true) : (f.erase a n).wf = true := sparseClear_wf h

theorem FlashImage.flash_wf (x : FlashImage) : (FlashImage.flash x).wf = true := by
  unfold FlashImage.flash
  suffices h : ∀ (l : List (Nat × Bytes)) (f : Flash), f.wf = true → (l.foldl (fun (f : Flash) r => f.program r.1 r.2) f).wf = true from
    h x.runs _ rfl
  intro l
  induction l with
  | nil => exact fun _ h => h
  | cons r l ih => exact fun f h => ih _ (Flash.program_wf r.1 r.2 h)

end Sys2Proof.Machine
end

