-- ==== Sys2Proof/Laws/KeepsBase.lean ====
section
/-! SUPPORT. What `Keeps` says holds of every function that changes the state: the registers, the counters, the event log, the memory, what the device sends to hosts, tasks and hoops. -/

namespace Sys2Proof.Machine

/-! ### Machine/Ops.lean -/

theorem State.setN_keeps : ∀ {a0 s off v}, Keeps a0 s → Keeps a0 (State.setN s off v) := by
  intro a0 s off v hk0
  unfold State.setN
  repeat' (first
    | with_reducible exact Keeps.refl _
    | with_reducible assumption
    | with_reducible apply State.set_keeps)

theorem State.setF_keeps : ∀ {a0 s off hi lo v}, Keeps a0 s → Keeps a0 (State.setF s off hi lo v) := by
  intro a0 s off hi lo v hk0
  unfold State.setF
  repeat' (first
    | with_reducible exact Keeps.refl _
    | with_reducible assumption
    | with_reducible apply State.set_keeps)

theorem State.set64_keeps : ∀ {a0 s off v}, Keeps a0 s → Keeps a0 (State.set64 s off v) := by
  intro a0 s off v hk0
  unfold State.set64
  repeat' (first
    | with_reducible exact Keeps.refl _
    | with_reducible assumption
    | with_reducible apply State.setN_keeps)

theorem State.vsetN_keeps : ∀ {a0 s t off v}, Keeps a0 s → Keeps a0 (State.vsetN s t off v) := by
  intro a0 s t off v hk0
  unfold State.vsetN
  repeat' (first
    | with_reducible exact Keeps.refl _
    | with_reducible assumption
    | with_reducible apply State.vset_keeps)

theorem State.vsetF_keeps : ∀ {a0 s t off hi lo v}, Keeps a0 s → Keeps a0 (State.vsetF s t off hi lo v) := by
  intro a0 s t off hi lo v hk0
  unfold State.vsetF
  repeat' (first
    | with_reducible exact Keeps.refl _
    | with_reducible assumption
    | with_reducible apply State.vset_keeps)

theorem State.vset64_keeps : ∀ {a0 s t off v}, Keeps a0 s → Keeps a0 (State.vset64 s t off v) := by
  intro a0 s t off v hk0
  unfold State.vset64
  repeat' (first
    | with_reducible exact Keeps.refl _
    | with_reducible assumption
    | with_reducible apply State.vsetN_keeps)

/-! ### Machine/Flags.lean -/

theorem State.count_keeps : ∀ {a0 s off n}, Keeps a0 s → Keeps a0 (State.count s off n) := by
  intro a0 s off n hk0
  unfold State.count
  repeat' (first
    | with_reducible exact Keeps.refl _
    | with_reducible assumption
    | with_reducible apply State.set_keeps)

theorem State.vcount_keeps : ∀ {a0 s t off n}, Keeps a0 s → Keeps a0 (State.vcount s t off n) := by
  intro a0 s t off n hk0
  unfold State.vcount
  repeat' (first
    | with_reducible exact Keeps.refl _
    | with_reducible assumption
    | with_reducible apply State.vset_keeps)

theorem State.count64_keeps : ∀ {a0 s off n}, Keeps a0 s → Keeps a0 (State.count64 s off n) := by
  intro a0 s off n hk0
  unfold State.count64
  repeat' (first
    | with_reducible exact Keeps.refl _
    | with_reducible assumption
    | with_reducible apply State.set64_keeps)

theorem State.vcount64_keeps : ∀ {a0 s t off n}, Keeps a0 s → Keeps a0 (State.vcount64 s t off n) := by
  intro a0 s t off n hk0
  unfold State.vcount64
  repeat' (first
    | with_reducible exact Keeps.refl _
    | with_reducible assumption
    | with_reducible apply State.vset64_keeps)

theorem State.raise_keeps : ∀ {a0 s off mask}, Keeps a0 s → Keeps a0 (State.raise s off mask) := by
  intro a0 s off mask hk0
  unfold State.raise
  repeat' (first
    | with_reducible exact Keeps.refl _
    | with_reducible assumption
    | with_reducible apply State.set_keeps)

theorem State.msg_keeps : ∀ {a0 s f v}, Keeps a0 s → Keeps a0 (State.msg s f v) := by
  intro a0 s f v hk0
  unfold State.msg
  repeat' (first
    | with_reducible exact Keeps.refl _
    | with_reducible assumption
    | with_reducible apply State.emit_keeps
    | with_reducible apply Keeps.foldl
    | with_reducible apply Keeps.foldl_fst
    | with_reducible refine Keeps.of_eq (by assumption) (Keeps.foldl_fst ?_ ?_)
    | intro _ _
    | intro _
    | with_reducible apply Keeps.ite
    | simp only [Keeps.mk_eq]
    | with_reducible apply KeepsMk.fields
    | with_reducible apply KeepsMk.memFields
    | with_reducible apply KeepsMk.msixFields)

theorem State.msixRelease_keeps : ∀ {a0 s}, Keeps a0 s → Keeps a0 (State.msixRelease s) := by
  intro a0 s hk0
  unfold State.msixRelease
  repeat' (first
    | with_reducible exact Keeps.refl _
    | with_reducible assumption
    | with_reducible apply State.emit_keeps
    | with_reducible apply Keeps.foldl
    | with_reducible apply Keeps.foldl_fst
    | with_reducible refine Keeps.of_eq (by assumption) (Keeps.foldl_fst ?_ ?_)
    | intro _ _
    | intro _
    | with_reducible apply Keeps.ite
    | simp only [Keeps.mk_eq]
    | with_reducible apply KeepsMk.fields
    | with_reducible apply KeepsMk.memFields
    | with_reducible apply KeepsMk.msixFields)

theorem State.logEntry_keeps : ∀ {a0 s e}, Keeps a0 s → Keeps a0 (State.logEntry s e) := by
  intro a0 s e hk0
  unfold State.logEntry
  repeat' (first
    | with_reducible exact Keeps.refl _
    | with_reducible assumption
    | with_reducible apply State.count_keeps
    | with_reducible apply Keeps.foldl
    | with_reducible apply Keeps.foldl_fst
    | with_reducible refine Keeps.of_eq (by assumption) (Keeps.foldl_fst ?_ ?_)
    | intro _ _
    | intro _
    | with_reducible apply Keeps.ite
    | simp only [Keeps.mk_eq]
    | with_reducible apply KeepsMk.fields
    | with_reducible apply KeepsMk.memFields
    | with_reducible apply KeepsMk.msixFields
    | with_reducible apply KeepsMk.logFields)

theorem State.logEvent_keeps : ∀ {a0 s code tenant detail arg0 arg1}, Keeps a0 s → Keeps a0 (State.logEvent s code tenant detail arg0 arg1) := by
  intro a0 s code tenant detail arg0 arg1 hk0
  unfold State.logEvent
  repeat' (first
    | with_reducible exact Keeps.refl _
    | with_reducible assumption
    | with_reducible apply State.logEntry_keeps)

theorem State.logOpen_keeps : ∀ {a0 s code tenant detail}, Keeps a0 s → Keeps a0 (State.logOpen s code tenant detail) := by
  intro a0 s code tenant detail hk0
  unfold State.logOpen
  repeat' (first
    | with_reducible exact Keeps.refl _
    | with_reducible assumption
    | with_reducible apply State.logEvent_keeps
    | with_reducible apply State.free_keeps)

theorem State.logOne_keeps : ∀ {a0 s code tenant detail arg0}, Keeps a0 s → Keeps a0 (State.logOne s code tenant detail arg0) := by
  intro a0 s code tenant detail arg0 hk0
  unfold State.logOne
  repeat' (first
    | with_reducible exact Keeps.refl _
    | with_reducible assumption
    | with_reducible apply State.logEvent_keeps
    | with_reducible apply State.free_keeps)

/-! ### Machine/Memory.lean -/

theorem State.updTenant_keeps : ∀ {a0 s t f}, Keeps a0 s → Keeps a0 (State.updTenant s t f) := by
  intro a0 s t f hk0
  unfold State.updTenant
  repeat' (first
    | with_reducible exact Keeps.refl _
    | with_reducible assumption
    | with_reducible apply Keeps.foldl
    | with_reducible apply Keeps.foldl_fst
    | with_reducible refine Keeps.of_eq (by assumption) (Keeps.foldl_fst ?_ ?_)
    | intro _ _
    | intro _
    | with_reducible apply Keeps.ite
    | simp only [Keeps.mk_eq]
    | with_reducible apply KeepsMk.fields)

theorem State.countCe_keeps : ∀ {a0 s sp}, Keeps a0 s → Keeps a0 (State.countCe s sp) := by
  intro a0 s sp hk0
  unfold State.countCe
  repeat' (first
    | with_reducible exact Keeps.refl _
    | with_reducible assumption
    | with_reducible apply State.count_keeps
    | with_reducible apply Keeps.foldl
    | with_reducible apply Keeps.foldl_fst
    | with_reducible refine Keeps.of_eq (by assumption) (Keeps.foldl_fst ?_ ?_)
    | intro _ _
    | intro _
    | with_reducible apply Keeps.ite
    | simp only [Keeps.mk_eq]
    | with_reducible apply KeepsMk.fields
    | with_reducible apply KeepsMk.memFields
    | with_reducible apply KeepsMk.msixFields
    | with_reducible apply KeepsMk.logFields
    | dsimp only
    | split)

theorem State.countUe_keeps : ∀ {a0 s sp w}, Keeps a0 s → Keeps a0 (State.countUe s sp w) := by
  intro a0 s sp w hk0
  unfold State.countUe
  repeat' (first
    | with_reducible exact Keeps.refl _
    | with_reducible assumption
    | with_reducible apply State.count_keeps
    | with_reducible apply State.setN_keeps
    | with_reducible apply Keeps.foldl
    | with_reducible apply Keeps.foldl_fst
    | with_reducible refine Keeps.of_eq (by assumption) (Keeps.foldl_fst ?_ ?_)
    | intro _ _
    | intro _
    | with_reducible apply Keeps.ite
    | simp only [Keeps.mk_eq]
    | with_reducible apply KeepsMk.fields
    | with_reducible apply KeepsMk.memFields
    | with_reducible apply KeepsMk.msixFields
    | with_reducible apply KeepsMk.logFields
    | dsimp only
    | split)

theorem State.eccRead_keeps : ∀ {a0 s sp w}, Keeps a0 s → Keeps a0 (State.eccRead s sp w).1 := by
  intro a0 s sp w hk0
  unfold State.eccRead
  repeat' (first
    | with_reducible exact Keeps.refl _
    | with_reducible assumption
    | with_reducible apply State.countCe_keeps
    | with_reducible apply State.countUe_keeps
    | with_reducible apply State.setErr_keeps
    | with_reducible apply State.free_keeps
    | with_reducible refine Keeps.of_eq2 (by assumption) ?_
    | with_reducible apply Keeps.foldl
    | with_reducible apply Keeps.foldl_fst
    | with_reducible refine Keeps.of_eq (by assumption) (Keeps.foldl_fst ?_ ?_)
    | intro _ _
    | intro _
    | with_reducible apply Keeps.ite
    | dsimp only
    | with_reducible apply KeepsMk.fields
    | with_reducible apply KeepsMk.memFields
    | with_reducible apply KeepsMk.msixFields
    | with_reducible apply KeepsMk.logFields
    | dsimp only
    | split)

theorem State.eccReadAll_keeps' : ∀ {s sp x0}, Keeps s (State.eccReadAll s sp x0).1 := by
  intro s sp x0
  fun_induction State.eccReadAll s sp x0
  all_goals
  repeat' (first
    | with_reducible exact Keeps.refl _
    | with_reducible assumption
    | with_reducible refine Keeps.trans ?_ (by assumption)
    | with_reducible refine Keeps.trans ?_ (Keeps.of_eq (by assumption) (by assumption))
    | with_reducible apply State.eccRead_keeps
    | with_reducible refine Keeps.of_eq (by assumption) ?_)

theorem State.eccReadAll_keeps : ∀ {a0 s sp x0}, Keeps a0 s → Keeps a0 (State.eccReadAll s sp x0).1 := by
  intro a0 s sp x0 hk0
  exact hk0.trans (State.eccReadAll_keeps')

theorem State.gather_keeps' : ∀ {s sp fill wrong x0}, Keeps s (State.gather s sp fill wrong x0).1 := by
  intro s sp fill wrong x0
  fun_induction State.gather s sp fill wrong x0
  all_goals
  repeat' (first
    | with_reducible exact Keeps.refl _
    | with_reducible assumption
    | with_reducible refine Keeps.trans ?_ (by assumption)
    | with_reducible apply State.free_keeps)

theorem State.gather_keeps : ∀ {a0 s sp fill wrong x0}, Keeps a0 s → Keeps a0 (State.gather s sp fill wrong x0).1 := by
  intro a0 s sp fill wrong x0 hk0
  exact hk0.trans (State.gather_keeps')

theorem State.readMem_keeps : ∀ {a0 s t sp strict a n}, Keeps a0 s → Keeps a0 (State.readMem s t sp strict a n).1 := by
  intro a0 s t sp strict a n hk0
  unfold State.readMem
  repeat' (first
    | with_reducible exact Keeps.refl _
    | with_reducible assumption
    | with_reducible apply State.eccReadAll_keeps
    | with_reducible apply State.gather_keeps
    | with_reducible apply State.vcount_keeps
    | with_reducible refine Keeps.of_eq (by assumption) ?_
    | with_reducible apply Keeps.foldl
    | with_reducible apply Keeps.foldl_fst
    | with_reducible refine Keeps.of_eq (by assumption) (Keeps.foldl_fst ?_ ?_)
    | intro _ _
    | intro _
    | with_reducible apply Keeps.ite
    | dsimp only
    | with_reducible apply KeepsMk.fields
    | with_reducible apply KeepsMk.memFields
    | with_reducible apply KeepsMk.msixFields
    | with_reducible apply KeepsMk.logFields
    | dsimp only
    | split)

theorem State.eccWrite_keeps : ∀ {a0 s sp w k}, Keeps a0 s → Keeps a0 (State.eccWrite s sp w k).1 := by
  intro a0 s sp w k hk0
  unfold State.eccWrite
  repeat' (first
    | with_reducible exact Keeps.refl _
    | with_reducible assumption
    | with_reducible apply State.putBytes_keeps
    | with_reducible apply State.eccRead_keeps
    | with_reducible apply State.setErr_keeps
    | with_reducible apply State.free_keeps
    | with_reducible refine Keeps.of_eq (by assumption) ?_
    | with_reducible refine Keeps.of_eq2 (by assumption) ?_
    | with_reducible apply Keeps.foldl
    | with_reducible apply Keeps.foldl_fst
    | with_reducible refine Keeps.of_eq (by assumption) (Keeps.foldl_fst ?_ ?_)
    | intro _ _
    | intro _
    | with_reducible apply Keeps.ite
    | dsimp only
    | with_reducible apply KeepsMk.fields
    | with_reducible apply KeepsMk.memFields
    | with_reducible apply KeepsMk.msixFields
    | with_reducible apply KeepsMk.logFields
    | dsimp only
    | split)

theorem State.writePieces_keeps' : ∀ {s t sp x0 x1}, Keeps s (State.writePieces s t sp x0 x1).1 := by
  intro s t sp x0 x1
  fun_induction State.writePieces s t sp x0 x1
  all_goals
  repeat' (first
    | with_reducible exact Keeps.refl _
    | with_reducible assumption
    | with_reducible refine Keeps.trans ?_ (by assumption)
    | with_reducible refine Keeps.trans ?_ (Keeps.of_eq (by assumption) (by assumption))
    | with_reducible apply State.eccWrite_keeps
    | with_reducible apply State.openLine_keeps
    | with_reducible apply State.putByte_keeps
    | with_reducible refine Keeps.of_eq (by assumption) ?_
    | with_reducible apply Keeps.foldl
    | with_reducible apply Keeps.foldl_fst
    | with_reducible refine Keeps.of_eq (by assumption) (Keeps.foldl_fst ?_ ?_)
    | intro _ _
    | intro _
    | with_reducible apply Keeps.ite)

theorem State.writePieces_keeps : ∀ {a0 s t sp x0 x1}, Keeps a0 s → Keeps a0 (State.writePieces s t sp x0 x1).1 := by
  intro a0 s t sp x0 x1 hk0
  exact hk0.trans (State.writePieces_keeps')

theorem State.writeMem_keeps : ∀ {a0 s t sp a data}, Keeps a0 s → Keeps a0 (State.writeMem s t sp a data).1 := by
  intro a0 s t sp a data hk0
  unfold State.writeMem
  repeat' (first
    | with_reducible exact Keeps.refl _
    | with_reducible assumption
    | with_reducible apply State.writePieces_keeps
    | with_reducible refine Keeps.of_eq (by assumption) ?_
    | with_reducible apply Keeps.foldl
    | with_reducible apply Keeps.foldl_fst
    | with_reducible refine Keeps.of_eq (by assumption) (Keeps.foldl_fst ?_ ?_)
    | intro _ _
    | intro _
    | with_reducible apply Keeps.ite
    | simp only [Keeps.mk_eq]
    | with_reducible apply KeepsMk.fields
    | with_reducible apply KeepsMk.memFields
    | with_reducible apply KeepsMk.msixFields
    | with_reducible apply KeepsMk.logFields
    | dsimp only
    | split)

theorem State.freeHbm_keeps : ∀ {a0 s gs}, Keeps a0 s → Keeps a0 (State.freeHbm s gs) := by
  intro a0 s gs hk0
  unfold State.freeHbm
  repeat' (first
    | with_reducible exact Keeps.refl _
    | with_reducible assumption
    | with_reducible apply Keeps.foldl
    | with_reducible apply Keeps.foldl_fst
    | with_reducible refine Keeps.of_eq (by assumption) (Keeps.foldl_fst ?_ ?_)
    | intro _ _
    | intro _
    | with_reducible apply Keeps.ite
    | simp only [Keeps.mk_eq]
    | with_reducible apply KeepsMk.fields
    | with_reducible apply KeepsMk.memFields)

theorem State.freeOry_keeps : ∀ {a0 s gs}, Keeps a0 s → Keeps a0 (State.freeOry s gs) := by
  intro a0 s gs hk0
  unfold State.freeOry
  repeat' (first
    | with_reducible exact Keeps.refl _
    | with_reducible assumption
    | with_reducible apply Keeps.foldl
    | with_reducible apply Keeps.foldl_fst
    | with_reducible refine Keeps.of_eq (by assumption) (Keeps.foldl_fst ?_ ?_)
    | intro _ _
    | intro _
    | with_reducible apply Keeps.ite
    | simp only [Keeps.mk_eq]
    | with_reducible apply KeepsMk.fields
    | with_reducible apply KeepsMk.memFields)

/-! ### Machine/HostPort.lean -/

theorem State.hostSend_keeps : ∀ {a0 s q}, Keeps a0 s → Keeps a0 (State.hostSend s q) := by
  intro a0 s q hk0
  unfold State.hostSend
  repeat' (first
    | with_reducible exact Keeps.refl _
    | with_reducible assumption
    | with_reducible apply State.emit_keeps
    | with_reducible apply State.msg_keeps
    | with_reducible apply Keeps.foldl
    | with_reducible apply Keeps.foldl_fst
    | with_reducible refine Keeps.of_eq (by assumption) (Keeps.foldl_fst ?_ ?_)
    | intro _ _
    | intro _
    | with_reducible apply Keeps.ite
    | simp only [Keeps.mk_eq]
    | with_reducible apply KeepsMk.fields
    | with_reducible apply KeepsMk.memFields
    | with_reducible apply KeepsMk.msixFields
    | with_reducible apply KeepsMk.logFields
    | dsimp only
    | split)

theorem State.hostReq_keeps : ∀ {a0 s t addr len data use}, Keeps a0 s → Keeps a0 (State.hostReq s t addr len data use) := by
  intro a0 s t addr len data use hk0
  unfold State.hostReq
  repeat' (first
    | with_reducible exact Keeps.refl _
    | with_reducible assumption
    | with_reducible apply State.hostSend_keeps
    | with_reducible apply State.emit_keeps
    | with_reducible apply Keeps.foldl
    | with_reducible apply Keeps.foldl_fst
    | with_reducible refine Keeps.of_eq (by assumption) (Keeps.foldl_fst ?_ ?_)
    | intro _ _
    | intro _
    | with_reducible apply Keeps.ite
    | simp only [Keeps.mk_eq]
    | with_reducible apply KeepsMk.fields
    | with_reducible apply KeepsMk.memFields
    | with_reducible apply KeepsMk.msixFields
    | with_reducible apply KeepsMk.logFields
    | dsimp only
    | split)

theorem State.hostWrite_keeps : ∀ {a0 s t addr data use}, Keeps a0 s → Keeps a0 (State.hostWrite s t addr data use) := by
  intro a0 s t addr data use hk0
  unfold State.hostWrite
  repeat' (first
    | with_reducible exact Keeps.refl _
    | with_reducible assumption
    | with_reducible apply State.hostReq_keeps)

theorem State.hostRead_keeps : ∀ {a0 s t addr len use}, Keeps a0 s → Keeps a0 (State.hostRead s t addr len use) := by
  intro a0 s t addr len use hk0
  unfold State.hostRead
  repeat' (first
    | with_reducible exact Keeps.refl _
    | with_reducible assumption
    | with_reducible apply State.hostReq_keeps)

theorem State.message_keeps : ∀ {a0 s t vector}, Keeps a0 s → Keeps a0 (State.message s t vector) := by
  intro a0 s t vector hk0
  unfold State.message
  repeat' (first
    | with_reducible exact Keeps.refl _
    | with_reducible assumption
    | with_reducible apply State.hostReq_keeps)

theorem State.releaseHeld_keeps' : ∀ {s t x0}, Keeps s (State.releaseHeld s t x0) := by
  intro s t x0
  fun_induction State.releaseHeld s t x0
  all_goals
  repeat' (first
    | with_reducible exact Keeps.refl _
    | with_reducible assumption
    | with_reducible refine Keeps.trans ?_ (by assumption)
    | with_reducible apply State.hostSend_keeps
    | with_reducible apply State.emit_keeps
    | with_reducible apply Keeps.foldl
    | with_reducible apply Keeps.foldl_fst
    | with_reducible refine Keeps.of_eq (by assumption) (Keeps.foldl_fst ?_ ?_)
    | intro _ _
    | intro _
    | with_reducible apply Keeps.ite
    | simp only [Keeps.mk_eq]
    | with_reducible apply KeepsMk.fields)

theorem State.releaseHeld_keeps : ∀ {a0 s t x0}, Keeps a0 s → Keeps a0 (State.releaseHeld s t x0) := by
  intro a0 s t x0 hk0
  exact hk0.trans (State.releaseHeld_keeps')

/-! ### Machine/Tasks.lean -/

theorem State.updRota_keeps : ∀ {a0 s h f}, Keeps a0 s → Keeps a0 (State.updRota s h f) := by
  intro a0 s h f hk0
  unfold State.updRota
  repeat' (first
    | with_reducible exact Keeps.refl _
    | with_reducible assumption
    | with_reducible apply Keeps.foldl
    | with_reducible apply Keeps.foldl_fst
    | with_reducible refine Keeps.of_eq (by assumption) (Keeps.foldl_fst ?_ ?_)
    | intro _ _
    | intro _
    | with_reducible apply Keeps.ite
    | simp only [Keeps.mk_eq]
    | with_reducible apply KeepsMk.fields)

theorem State.updTask_keeps : ∀ {a0 s t seq f}, Keeps a0 s → Keeps a0 (State.updTask s t seq f) := by
  intro a0 s t seq f hk0
  unfold State.updTask
  repeat' (first
    | with_reducible exact Keeps.refl _
    | with_reducible assumption
    | with_reducible apply Keeps.foldl
    | with_reducible apply Keeps.foldl_fst
    | with_reducible refine Keeps.of_eq (by assumption) (Keeps.foldl_fst ?_ ?_)
    | intro _ _
    | intro _
    | with_reducible apply Keeps.ite
    | simp only [Keeps.mk_eq]
    | with_reducible apply KeepsMk.fields)

theorem State.updCourse_keeps : ∀ {a0 s h f}, Keeps a0 s → Keeps a0 (State.updCourse s h f) := by
  intro a0 s h f hk0
  unfold State.updCourse
  repeat' (first
    | with_reducible exact Keeps.refl _
    | with_reducible assumption
    | with_reducible apply State.updRota_keeps)

theorem State.settleOwners_keeps : ∀ {a0 s h}, Keeps a0 s → Keeps a0 (State.settleOwners s h) := by
  intro a0 s h hk0
  unfold State.settleOwners
  repeat' (first
    | with_reducible exact Keeps.refl _
    | with_reducible assumption
    | with_reducible apply State.updRota_keeps
    | with_reducible apply Keeps.foldl
    | with_reducible apply Keeps.foldl_fst
    | with_reducible refine Keeps.of_eq (by assumption) (Keeps.foldl_fst ?_ ?_)
    | intro _ _
    | intro _
    | with_reducible apply Keeps.ite
    | simp only [Keeps.mk_eq]
    | with_reducible apply KeepsMk.fields
    | with_reducible apply KeepsMk.memFields
    | with_reducible apply KeepsMk.msixFields
    | with_reducible apply KeepsMk.logFields
    | dsimp only
    | split)

theorem State.readRing_keeps : ∀ {a0 s r o n}, Keeps a0 s → Keeps a0 (State.readRing s r o n).1 := by
  intro a0 s r o n hk0
  unfold State.readRing
  repeat' (first
    | with_reducible exact Keeps.refl _
    | with_reducible assumption
    | with_reducible apply State.readMem_keeps
    | with_reducible refine Keeps.of_eq (by assumption) ?_
    | with_reducible apply Keeps.foldl
    | with_reducible apply Keeps.foldl_fst
    | with_reducible refine Keeps.of_eq (by assumption) (Keeps.foldl_fst ?_ ?_)
    | intro _ _
    | intro _
    | with_reducible apply Keeps.ite
    | dsimp only
    | with_reducible apply KeepsMk.fields
    | with_reducible apply KeepsMk.memFields
    | with_reducible apply KeepsMk.msixFields
    | with_reducible apply KeepsMk.logFields
    | dsimp only
    | split)

theorem State.writeRing_keeps : ∀ {a0 s r o data}, Keeps a0 s → Keeps a0 (State.writeRing s r o data).1 := by
  intro a0 s r o data hk0
  unfold State.writeRing
  repeat' (first
    | with_reducible exact Keeps.refl _
    | with_reducible assumption
    | with_reducible apply State.writeMem_keeps
    | with_reducible refine Keeps.of_eq (by assumption) ?_
    | with_reducible apply Keeps.foldl
    | with_reducible apply Keeps.foldl_fst
    | with_reducible refine Keeps.of_eq (by assumption) (Keeps.foldl_fst ?_ ?_)
    | intro _ _
    | intro _
    | with_reducible apply Keeps.ite
    | dsimp only
    | with_reducible apply KeepsMk.fields
    | with_reducible apply KeepsMk.memFields
    | with_reducible apply KeepsMk.msixFields
    | with_reducible apply KeepsMk.logFields
    | dsimp only
    | split)

theorem State.readTable_keeps : ∀ {a0 s r c i o n}, Keeps a0 s → Keeps a0 (State.readTable s r c i o n).1 := by
  intro a0 s r c i o n hk0
  unfold State.readTable
  repeat' (first
    | with_reducible exact Keeps.refl _
    | with_reducible assumption
    | with_reducible apply State.readRing_keeps
    | with_reducible apply State.readMem_keeps
    | with_reducible refine Keeps.of_eq (by assumption) ?_
    | with_reducible apply Keeps.foldl
    | with_reducible apply Keeps.foldl_fst
    | with_reducible refine Keeps.of_eq (by assumption) (Keeps.foldl_fst ?_ ?_)
    | intro _ _
    | intro _
    | with_reducible apply Keeps.ite
    | simp only [Keeps.mk_eq]
    | with_reducible apply KeepsMk.fields
    | with_reducible apply KeepsMk.memFields
    | with_reducible apply KeepsMk.msixFields
    | with_reducible apply KeepsMk.logFields
    | dsimp only
    | split)

theorem State.setStake_keeps : ∀ {a0 s p v}, Keeps a0 s → Keeps a0 (State.setStake s p v) := by
  intro a0 s p v hk0
  unfold State.setStake
  repeat' (first
    | with_reducible exact Keeps.refl _
    | with_reducible assumption
    | with_reducible apply Keeps.foldl
    | with_reducible apply Keeps.foldl_fst
    | with_reducible refine Keeps.of_eq (by assumption) (Keeps.foldl_fst ?_ ?_)
    | intro _ _
    | intro _
    | with_reducible apply Keeps.ite
    | simp only [Keeps.mk_eq]
    | with_reducible apply KeepsMk.fields)

theorem State.clearStakes_keeps : ∀ {a0 s pairs}, Keeps a0 s → Keeps a0 (State.clearStakes s pairs) := by
  intro a0 s pairs hk0
  unfold State.clearStakes
  repeat' (first
    | with_reducible exact Keeps.refl _
    | with_reducible assumption
    | with_reducible apply State.setStake_keeps
    | with_reducible apply Keeps.foldl
    | with_reducible apply Keeps.foldl_fst
    | with_reducible refine Keeps.of_eq (by assumption) (Keeps.foldl_fst ?_ ?_)
    | intro _ _)

theorem State.signal_keeps : ∀ {a0 s p full n}, Keeps a0 s → Keeps a0 (State.signal s p full n) := by
  intro a0 s p full n hk0
  unfold State.signal
  repeat' (first
    | with_reducible exact Keeps.refl _
    | with_reducible assumption
    | with_reducible apply State.setStake_keeps)

theorem State.unitFault_keeps : ∀ {a0 s t code}, Keeps a0 s → Keeps a0 (State.unitFault s t code) := by
  intro a0 s t code hk0
  unfold State.unitFault
  repeat' (first
    | with_reducible exact Keeps.refl _
    | with_reducible assumption
    | with_reducible apply State.vcount_keeps
    | with_reducible apply State.vsetF_keeps
    | with_reducible apply Keeps.foldl
    | with_reducible apply Keeps.foldl_fst
    | with_reducible refine Keeps.of_eq (by assumption) (Keeps.foldl_fst ?_ ?_)
    | intro _ _
    | intro _
    | with_reducible apply Keeps.ite
    | dsimp only
    | with_reducible apply KeepsMk.fields
    | with_reducible apply KeepsMk.memFields
    | with_reducible apply KeepsMk.msixFields
    | with_reducible apply KeepsMk.logFields
    | dsimp only
    | split)

theorem State.stopTask_keeps : ∀ {a0 s x}, Keeps a0 s → Keeps a0 (State.stopTask s x) := by
  intro a0 s x hk0
  unfold State.stopTask
  repeat' (first
    | with_reducible exact Keeps.refl _
    | with_reducible assumption
    | with_reducible apply State.clearStakes_keeps
    | with_reducible apply State.updRota_keeps
    | with_reducible apply State.updTask_keeps
    | with_reducible apply Keeps.foldl
    | with_reducible apply Keeps.foldl_fst
    | with_reducible refine Keeps.of_eq (by assumption) (Keeps.foldl_fst ?_ ?_)
    | intro _ _
    | intro _
    | with_reducible apply Keeps.ite
    | simp only [Keeps.mk_eq]
    | with_reducible apply KeepsMk.fields
    | with_reducible apply KeepsMk.memFields
    | with_reducible apply KeepsMk.msixFields
    | with_reducible apply KeepsMk.logFields
    | dsimp only
    | split)

theorem State.abortWith_keeps : ∀ {a0 s co t seq code inst ctx elem cls}, Keeps a0 s → Keeps a0 (State.abortWith s co t seq code inst ctx elem cls) := by
  intro a0 s co t seq code inst ctx elem cls hk0
  unfold State.abortWith
  repeat' (first
    | with_reducible exact Keeps.refl _
    | with_reducible assumption
    | with_reducible apply State.settleOwners_keeps
    | with_reducible apply State.unitFault_keeps
    | with_reducible apply State.logEntry_keeps
    | with_reducible apply State.stopTask_keeps
    | with_reducible apply State.updTask_keeps
    | with_reducible apply State.vcount_keeps
    | with_reducible apply State.vsetF_keeps
    | with_reducible apply State.vsetN_keeps
    | with_reducible apply Keeps.foldl
    | with_reducible apply Keeps.foldl_fst
    | with_reducible refine Keeps.of_eq (by assumption) (Keeps.foldl_fst ?_ ?_)
    | intro _ _
    | intro _
    | with_reducible apply Keeps.ite
    | dsimp only
    | with_reducible apply KeepsMk.fields
    | with_reducible apply KeepsMk.memFields
    | with_reducible apply KeepsMk.msixFields
    | with_reducible apply KeepsMk.logFields
    | dsimp only
    | split)

theorem State.abortTask_keeps : ∀ {a0 s t seq code inst ctx elem cls}, Keeps a0 s → Keeps a0 (State.abortTask s t seq code inst ctx elem cls) := by
  intro a0 s t seq code inst ctx elem cls hk0
  unfold State.abortTask
  repeat' (first
    | with_reducible exact Keeps.refl _
    | with_reducible assumption
    | with_reducible apply State.abortWith_keeps)

theorem State.updQueue_keeps : ∀ {a0 s t q f}, Keeps a0 s → Keeps a0 (State.updQueue s t q f) := by
  intro a0 s t q f hk0
  unfold State.updQueue
  repeat' (first
    | with_reducible exact Keeps.refl _
    | with_reducible assumption
    | with_reducible apply State.updTenant_keeps)

theorem State.settleQueue_keeps : ∀ {a0 s t q}, Keeps a0 s → Keeps a0 (State.settleQueue s t q) := by
  intro a0 s t q hk0
  unfold State.settleQueue
  repeat' (first
    | with_reducible exact Keeps.refl _
    | with_reducible assumption
    | with_reducible apply State.updQueue_keeps
    | with_reducible apply Keeps.foldl
    | with_reducible apply Keeps.foldl_fst
    | with_reducible refine Keeps.of_eq (by assumption) (Keeps.foldl_fst ?_ ?_)
    | intro _ _
    | intro _
    | with_reducible apply Keeps.ite)

theorem State.complete_keeps : ∀ {a0 s t q mk}, Keeps a0 s → Keeps a0 (State.complete s t q mk) := by
  intro a0 s t q mk hk0
  unfold State.complete
  repeat' (first
    | with_reducible exact Keeps.refl _
    | with_reducible assumption
    | with_reducible apply State.hostWrite_keeps
    | with_reducible apply State.updQueue_keeps
    | with_reducible apply State.vcount_keeps
    | with_reducible apply Keeps.foldl
    | with_reducible apply Keeps.foldl_fst
    | with_reducible refine Keeps.of_eq (by assumption) (Keeps.foldl_fst ?_ ?_)
    | intro _ _
    | intro _
    | with_reducible apply Keeps.ite)

theorem State.updQp_keeps : ∀ {a0 s t q f}, Keeps a0 s → Keeps a0 (State.updQp s t q f) := by
  intro a0 s t q f hk0
  unfold State.updQp
  repeat' (first
    | with_reducible exact Keeps.refl _
    | with_reducible assumption
    | with_reducible apply Keeps.foldl
    | with_reducible apply Keeps.foldl_fst
    | with_reducible refine Keeps.of_eq (by assumption) (Keeps.foldl_fst ?_ ?_)
    | intro _ _
    | intro _
    | with_reducible apply Keeps.ite
    | simp only [Keeps.mk_eq]
    | with_reducible apply KeepsMk.fields)

theorem State.updPort_keeps : ∀ {a0 s p f}, Keeps a0 s → Keeps a0 (State.updPort s p f) := by
  intro a0 s p f hk0
  unfold State.updPort
  repeat' (first
    | with_reducible exact Keeps.refl _
    | with_reducible assumption
    | with_reducible apply Keeps.foldl
    | with_reducible apply Keeps.foldl_fst
    | with_reducible refine Keeps.of_eq (by assumption) (Keeps.foldl_fst ?_ ?_)
    | intro _ _
    | intro _
    | with_reducible apply Keeps.ite
    | simp only [Keeps.mk_eq]
    | with_reducible apply KeepsMk.fields)

theorem State.transmit_keeps : ∀ {a0 s k w}, Keeps a0 s → Keeps a0 (State.transmit s k w) := by
  intro a0 s k w hk0
  unfold State.transmit
  repeat' (first
    | with_reducible exact Keeps.refl _
    | with_reducible assumption
    | with_reducible apply State.emit_keeps
    | with_reducible apply Keeps.foldl
    | with_reducible apply Keeps.foldl_fst
    | with_reducible refine Keeps.of_eq (by assumption) (Keeps.foldl_fst ?_ ?_)
    | intro _ _
    | intro _
    | with_reducible apply Keeps.ite)

theorem State.peerSend_keeps : ∀ {a0 s t q w}, Keeps a0 s → Keeps a0 (State.peerSend s t q w).1 := by
  intro a0 s t q w hk0
  unfold State.peerSend
  repeat' (first
    | with_reducible exact Keeps.refl _
    | with_reducible assumption
    | with_reducible apply State.transmit_keeps
    | with_reducible apply State.vcount64_keeps
    | with_reducible apply State.vcount_keeps
    | with_reducible apply State.updQp_keeps
    | with_reducible apply Keeps.foldl
    | with_reducible apply Keeps.foldl_fst
    | with_reducible refine Keeps.of_eq (by assumption) (Keeps.foldl_fst ?_ ?_)
    | intro _ _
    | intro _
    | with_reducible apply Keeps.ite
    | dsimp only
    | with_reducible apply KeepsMk.fields
    | with_reducible apply KeepsMk.memFields
    | with_reducible apply KeepsMk.msixFields
    | with_reducible apply KeepsMk.logFields
    | dsimp only
    | split)

theorem State.deliver_keeps : ∀ {a0 s t h binding k rec}, Keeps a0 s → Keeps a0 (State.deliver s t h binding k rec) := by
  intro a0 s t h binding k rec hk0
  unfold State.deliver
  repeat' (first
    | with_reducible exact Keeps.refl _
    | with_reducible assumption
    | with_reducible apply State.hostWrite_keeps
    | with_reducible apply State.peerSend_keeps
    | with_reducible apply State.vcount_keeps
    | with_reducible refine Keeps.of_eq (by assumption) ?_
    | with_reducible apply Keeps.foldl
    | with_reducible apply Keeps.foldl_fst
    | with_reducible refine Keeps.of_eq (by assumption) (Keeps.foldl_fst ?_ ?_)
    | intro _ _
    | intro _
    | with_reducible apply Keeps.ite)

theorem State.chargeRota_keeps : ∀ {a0 s h c n}, Keeps a0 s → Keeps a0 (State.chargeRota s h c n) := by
  intro a0 s h c n hk0
  unfold State.chargeRota
  repeat' (first
    | with_reducible exact Keeps.refl _
    | with_reducible assumption
    | with_reducible apply State.vcount64_keeps
    | with_reducible apply State.updRota_keeps
    | with_reducible apply Keeps.foldl
    | with_reducible apply Keeps.foldl_fst
    | with_reducible refine Keeps.of_eq (by assumption) (Keeps.foldl_fst ?_ ?_)
    | intro _ _
    | intro _
    | with_reducible apply Keeps.ite)

/-! ### Machine/Hoops.lean -/

theorem State.updHoop_keeps : ∀ {a0 s h i f}, Keeps a0 s → Keeps a0 (State.updHoop s h i f) := by
  intro a0 s h i f hk0
  unfold State.updHoop
  repeat' (first
    | with_reducible exact Keeps.refl _
    | with_reducible assumption
    | with_reducible apply State.updCourse_keeps)

theorem State.updStream_keeps : ∀ {a0 s h i f}, Keeps a0 s → Keeps a0 (State.updStream s h i f) := by
  intro a0 s h i f hk0
  unfold State.updStream
  repeat' (first
    | with_reducible exact Keeps.refl _
    | with_reducible assumption
    | with_reducible apply State.updCourse_keeps)

theorem State.updOp_keeps : ∀ {a0 s h key f}, Keeps a0 s → Keeps a0 (State.updOp s h key f) := by
  intro a0 s h key f hk0
  unfold State.updOp
  repeat' (first
    | with_reducible exact Keeps.refl _
    | with_reducible assumption
    | with_reducible apply State.updCourse_keeps)

theorem State.courseFault_keeps : ∀ {a0 s h code inst ctx elem cls}, Keeps a0 s → Keeps a0 (State.courseFault s h code inst ctx elem cls) := by
  intro a0 s h code inst ctx elem cls hk0
  unfold State.courseFault
  repeat' (first
    | with_reducible exact Keeps.refl _
    | with_reducible assumption
    | with_reducible apply State.abortTask_keeps
    | with_reducible apply Keeps.foldl
    | with_reducible apply Keeps.foldl_fst
    | with_reducible refine Keeps.of_eq (by assumption) (Keeps.foldl_fst ?_ ?_)
    | intro _ _
    | intro _
    | with_reducible apply Keeps.ite
    | simp only [Keeps.mk_eq]
    | with_reducible apply KeepsMk.fields
    | with_reducible apply KeepsMk.memFields
    | with_reducible apply KeepsMk.msixFields
    | with_reducible apply KeepsMk.logFields
    | dsimp only
    | split)

theorem State.linkSignal_keeps : ∀ {a0 s h r i full n}, Keeps a0 s → Keeps a0 (State.linkSignal s h r i full n) := by
  intro a0 s h r i full n hk0
  unfold State.linkSignal
  repeat' (first
    | with_reducible exact Keeps.refl _
    | with_reducible assumption
    | with_reducible apply State.courseFault_keeps
    | with_reducible apply State.signal_keeps
    | with_reducible apply Keeps.foldl
    | with_reducible apply Keeps.foldl_fst
    | with_reducible refine Keeps.of_eq (by assumption) (Keeps.foldl_fst ?_ ?_)
    | intro _ _
    | intro _
    | with_reducible apply Keeps.ite)

theorem State.readSlot_keeps : ∀ {a0 s r k no o n}, Keeps a0 s → Keeps a0 (State.readSlot s r k no o n).1 := by
  intro a0 s r k no o n hk0
  unfold State.readSlot
  repeat' (first
    | with_reducible exact Keeps.refl _
    | with_reducible assumption
    | with_reducible apply State.readRing_keeps)

theorem State.writeSlot_keeps : ∀ {a0 s r k no o data}, Keeps a0 s → Keeps a0 (State.writeSlot s r k no o data).1 := by
  intro a0 s r k no o data hk0
  unfold State.writeSlot
  repeat' (first
    | with_reducible exact Keeps.refl _
    | with_reducible assumption
    | with_reducible apply State.writeRing_keeps)

theorem State.placeBatch_keeps' : ∀ {a0 s h r k data fin}, Keeps a0 s → OptKeeps Prod.fst a0 (State.placeBatch s h r k data fin) := by
  intro a0 s h r k data fin hk0
  unfold State.placeBatch
  repeat' (first
    | with_reducible exact Keeps.refl _
    | with_reducible assumption
    | with_reducible exact OptKeeps.none
    | with_reducible apply OptKeeps.some
    | with_reducible apply OptKeeps.ite
    | dsimp only [id]
    | with_reducible apply State.writeSlot_keeps
    | with_reducible apply State.updHoop_keeps
    | with_reducible refine Keeps.of_eq (by assumption) ?_
    | with_reducible apply Keeps.foldl
    | with_reducible apply Keeps.foldl_fst
    | with_reducible refine Keeps.of_eq (by assumption) (Keeps.foldl_fst ?_ ?_)
    | intro _ _
    | intro _)

theorem State.placeBatch_keeps {a0 s h r k data fin u} (hu : (State.placeBatch s h r k data fin) = some u) (hk0 : Keeps a0 s) : Keeps a0 u.1 := (State.placeBatch_keeps' hk0).holds u hu

theorem State.commitSlot_keeps : ∀ {a0 s h i}, Keeps a0 s → Keeps a0 (State.commitSlot s h i) := by
  intro a0 s h i hk0
  unfold State.commitSlot
  repeat' (first
    | with_reducible exact Keeps.refl _
    | with_reducible assumption
    | with_reducible apply State.linkSignal_keeps
    | with_reducible apply State.updHoop_keeps
    | with_reducible apply Keeps.foldl
    | with_reducible apply Keeps.foldl_fst
    | with_reducible refine Keeps.of_eq (by assumption) (Keeps.foldl_fst ?_ ?_)
    | intro _ _
    | intro _
    | with_reducible apply Keeps.ite
    | simp only [Keeps.mk_eq]
    | with_reducible apply KeepsMk.fields
    | with_reducible apply KeepsMk.memFields
    | with_reducible apply KeepsMk.msixFields
    | with_reducible apply KeepsMk.logFields
    | dsimp only
    | split)

theorem execSlotAcquire_keeps : ∀ h i s, NextKeeps s (execSlotAcquire h i s) := by
  intro h i s
  unfold execSlotAcquire
  repeat' (first
    | with_reducible apply NextKeeps.next
    | with_reducible apply NextKeeps.ite
    | with_reducible exact Keeps.refl _
    | with_reducible assumption
    | with_reducible apply State.updHoop_keeps
    | with_reducible apply Keeps.foldl
    | with_reducible apply Keeps.foldl_fst
    | with_reducible refine Keeps.of_eq (by assumption) (Keeps.foldl_fst ?_ ?_)
    | intro _ _
    | intro _
    | with_reducible apply Keeps.ite
    | simp only [Keeps.mk_eq]
    | with_reducible apply KeepsMk.fields
    | with_reducible apply KeepsMk.memFields
    | with_reducible apply KeepsMk.msixFields
    | with_reducible apply KeepsMk.logFields
    | dsimp only
    | split)

theorem State.moveHead_keeps : ∀ {a0 s h r i n}, Keeps a0 s → Keeps a0 (State.moveHead s h r i n) := by
  intro a0 s h r i n hk0
  unfold State.moveHead
  repeat' (first
    | with_reducible exact Keeps.refl _
    | with_reducible assumption
    | with_reducible apply State.linkSignal_keeps
    | with_reducible apply State.updHoop_keeps
    | with_reducible apply Keeps.foldl
    | with_reducible apply Keeps.foldl_fst
    | with_reducible refine Keeps.of_eq (by assumption) (Keeps.foldl_fst ?_ ?_)
    | intro _ _
    | intro _
    | with_reducible apply Keeps.ite
    | simp only [Keeps.mk_eq]
    | with_reducible apply KeepsMk.fields
    | with_reducible apply KeepsMk.memFields
    | with_reducible apply KeepsMk.msixFields
    | with_reducible apply KeepsMk.logFields
    | dsimp only
    | split)

theorem State.finishSlots_keeps : ∀ {a0 s h r i key n}, Keeps a0 s → Keeps a0 (State.finishSlots s h r i key n) := by
  intro a0 s h r i key n hk0
  unfold State.finishSlots
  repeat' (first
    | with_reducible exact Keeps.refl _
    | with_reducible assumption
    | with_reducible apply State.moveHead_keeps
    | with_reducible apply State.updHoop_keeps
    | with_reducible apply Keeps.foldl
    | with_reducible apply Keeps.foldl_fst
    | with_reducible refine Keeps.of_eq (by assumption) (Keeps.foldl_fst ?_ ?_)
    | intro _ _
    | intro _
    | with_reducible apply Keeps.ite
    | dsimp only
    | with_reducible apply KeepsMk.fields
    | with_reducible apply KeepsMk.memFields
    | with_reducible apply KeepsMk.msixFields
    | with_reducible apply KeepsMk.logFields
    | dsimp only
    | split)

theorem State.readPieces_keeps' : ∀ {s r k x0}, Keeps s (State.readPieces s r k x0).1 := by
  intro s r k x0
  fun_induction State.readPieces s r k x0
  all_goals
  repeat' (first
    | with_reducible exact Keeps.refl _
    | with_reducible assumption
    | with_reducible refine Keeps.trans ?_ (by assumption)
    | with_reducible refine Keeps.trans ?_ (Keeps.of_eq (by assumption) (by assumption))
    | with_reducible apply State.readSlot_keeps
    | with_reducible refine Keeps.of_eq (by assumption) ?_)

theorem State.readPieces_keeps : ∀ {a0 s r k x0}, Keeps a0 s → Keeps a0 (State.readPieces s r k x0).1 := by
  intro a0 s r k x0 hk0
  exact hk0.trans (State.readPieces_keeps')

end Sys2Proof.Machine
end

