-- ==== Sys2Proof/Laws/KeepsStreams.lean ====
section
/-! SUPPORT. What `Keeps` says holds of every function that changes the state: streams, the Coil and the running of operations. -/

namespace Sys2Proof.Machine

/-! ### Machine/Streams.lean -/

theorem State.readSpans_keeps' : ∀ {s t strict x0}, Keeps s (State.readSpans s t strict x0).1 := by
  intro s t strict x0
  fun_induction State.readSpans s t strict x0
  all_goals
  repeat' (first
    | with_reducible exact Keeps.refl _
    | with_reducible assumption
    | with_reducible refine Keeps.trans ?_ (by assumption)
    | with_reducible refine Keeps.trans ?_ (Keeps.of_eq (by assumption) (by assumption))
    | with_reducible apply State.readMem_keeps
    | with_reducible refine Keeps.of_eq (by assumption) ?_)

theorem State.readSpans_keeps : ∀ {a0 s t strict x0}, Keeps a0 s → Keeps a0 (State.readSpans s t strict x0).1 := by
  intro a0 s t strict x0 hk0
  exact hk0.trans (State.readSpans_keeps')

theorem State.streamFault_keeps : ∀ {a0 s h i e code elem}, Keeps a0 s → Keeps a0 (State.streamFault s h i e code elem) := by
  intro a0 s h i e code elem hk0
  unfold State.streamFault
  repeat' (first
    | with_reducible exact Keeps.refl _
    | with_reducible assumption
    | with_reducible apply State.courseFault_keeps)

theorem State.streamMemFault_keeps : ∀ {a0 s h i e code elem}, Keeps a0 s → Keeps a0 (State.streamMemFault s h i e code elem) := by
  intro a0 s h i e code elem hk0
  unfold State.streamMemFault
  repeat' (first
    | with_reducible exact Keeps.refl _
    | with_reducible assumption
    | with_reducible apply State.courseFault_keeps)

theorem State.readXfer_keeps : ∀ {a0 s h i e addr n}, Keeps a0 s → Keeps a0 (State.readXfer s h i e addr n).1 := by
  intro a0 s h i e addr n hk0
  unfold State.readXfer
  repeat' (first
    | with_reducible exact Keeps.refl _
    | with_reducible assumption
    | with_reducible apply State.readTable_keeps
    | with_reducible apply State.readMem_keeps
    | with_reducible refine Keeps.of_eq (by assumption) ?_
    | with_reducible apply Keeps.foldl
    | with_reducible apply Keeps.foldl_fst
    | with_reducible refine Keeps.of_eq (by assumption) (Keeps.foldl_fst ?_ ?_)
    | intro _ _
    | intro _
    | with_reducible apply Keeps.ite
    | simp only [Keeps.mk_eq]
    | with_reducible apply KeepsMk.fields
    | with_reducible apply KeepsMk.memFields
    | with_reducible apply KeepsMk.msixFields
    | with_reducible apply KeepsMk.logFields
    | dsimp only
    | split)

theorem State.landBytes_keeps' : ∀ {s h r k x0 x1}, Keeps s (State.landBytes s h r k x0 x1).1 := by
  intro s h r k x0 x1
  fun_induction State.landBytes s h r k x0 x1
  all_goals
  repeat' (first
    | with_reducible exact Keeps.refl _
    | with_reducible assumption
    | with_reducible refine Keeps.trans ?_ (by assumption)
    | with_reducible refine Keeps.trans ?_ (Keeps.of_eq (by assumption) (by assumption))
    | with_reducible apply State.writeSlot_keeps
    | with_reducible apply State.updHoop_keeps
    | with_reducible refine Keeps.of_eq (by assumption) ?_)

theorem State.landBytes_keeps : ∀ {a0 s h r k x0 x1}, Keeps a0 s → Keeps a0 (State.landBytes s h r k x0 x1).1 := by
  intro a0 s h r k x0 x1 hk0
  exact hk0.trans (State.landBytes_keeps')

theorem State.sealEnd_keeps : ∀ {a0 s h i}, Keeps a0 s → Keeps a0 (State.sealEnd s h i) := by
  intro a0 s h i hk0
  unfold State.sealEnd
  repeat' (first
    | with_reducible exact Keeps.refl _
    | with_reducible assumption
    | with_reducible apply State.updHoop_keeps
    | with_reducible apply Keeps.foldl
    | with_reducible apply Keeps.foldl_fst
    | with_reducible refine Keeps.of_eq (by assumption) (Keeps.foldl_fst ?_ ?_)
    | intro _ _
    | intro _
    | with_reducible apply Keeps.ite
    | dsimp only
    | with_reducible apply KeepsMk.fields
    | with_reducible apply KeepsMk.memFields
    | with_reducible apply KeepsMk.msixFields
    | with_reducible apply KeepsMk.logFields
    | dsimp only
    | split)

theorem State.deliverBytes_keeps : ∀ {a0 s h i off data}, Keeps a0 s → Keeps a0 (State.deliverBytes s h i off data).1 := by
  intro a0 s h i off data hk0
  unfold State.deliverBytes
  repeat' (first
    | with_reducible exact Keeps.refl _
    | with_reducible assumption
    | with_reducible apply State.landBytes_keeps
    | with_reducible apply State.updHoop_keeps
    | with_reducible refine Keeps.of_eq (by assumption) ?_
    | with_reducible apply Keeps.foldl
    | with_reducible apply Keeps.foldl_fst
    | with_reducible refine Keeps.of_eq (by assumption) (Keeps.foldl_fst ?_ ?_)
    | intro _ _
    | intro _
    | with_reducible apply Keeps.ite
    | dsimp only
    | with_reducible apply KeepsMk.fields
    | with_reducible apply KeepsMk.memFields
    | with_reducible apply KeepsMk.msixFields
    | with_reducible apply KeepsMk.logFields
    | dsimp only
    | split)

theorem State.portGrant_keeps : ∀ {a0 s port c t}, Keeps a0 s → Keeps a0 (State.portGrant s port c t) := by
  intro a0 s port c t hk0
  unfold State.portGrant
  repeat' (first
    | with_reducible exact Keeps.refl _
    | with_reducible assumption
    | with_reducible apply Keeps.foldl
    | with_reducible apply Keeps.foldl_fst
    | with_reducible refine Keeps.of_eq (by assumption) (Keeps.foldl_fst ?_ ?_)
    | intro _ _
    | intro _
    | with_reducible apply Keeps.ite
    | simp only [Keeps.mk_eq]
    | with_reducible apply KeepsMk.fields
    | with_reducible apply KeepsMk.memFields)

theorem State.portIssue_keeps : ∀ {a0 s h i e x c}, Keeps a0 s → Keeps a0 (State.portIssue s h i e x c) := by
  intro a0 s h i e x c hk0
  unfold State.portIssue
  repeat' (first
    | with_reducible exact Keeps.refl _
    | with_reducible assumption
    | with_reducible apply State.portGrant_keeps
    | with_reducible apply Keeps.foldl
    | with_reducible apply Keeps.foldl_fst
    | with_reducible refine Keeps.of_eq (by assumption) (Keeps.foldl_fst ?_ ?_)
    | intro _ _
    | intro _
    | with_reducible apply Keeps.ite
    | simp only [Keeps.mk_eq]
    | with_reducible apply KeepsMk.fields
    | with_reducible apply KeepsMk.memFields
    | with_reducible apply KeepsMk.msixFields
    | with_reducible apply KeepsMk.logFields
    | dsimp only
    | split)

theorem State.tryIssue_keeps : ∀ {a0 s h i e x need charge runs after}, Keeps a0 s → Keeps a0 (State.tryIssue s h i e x need charge runs after) := by
  intro a0 s h i e x need charge runs after hk0
  unfold State.tryIssue
  repeat' (first
    | with_reducible exact Keeps.refl _
    | with_reducible assumption
    | with_reducible apply State.chargeRota_keeps
    | with_reducible apply State.portIssue_keeps
    | with_reducible apply State.updStream_keeps
    | with_reducible apply State.vcount64_keeps
    | with_reducible apply State.sealEnd_keeps
    | with_reducible apply State.updHoop_keeps
    | with_reducible apply Keeps.foldl
    | with_reducible apply Keeps.foldl_fst
    | with_reducible refine Keeps.of_eq (by assumption) (Keeps.foldl_fst ?_ ?_)
    | intro _ _
    | intro _
    | with_reducible apply Keeps.ite)

theorem State.issueRun_keeps : ∀ {a0 s h i e row done}, Keeps a0 s → Keeps a0 (State.issueRun s h i e row done) := by
  intro a0 s h i e row done hk0
  unfold State.issueRun
  repeat' (first
    | with_reducible exact Keeps.refl _
    | with_reducible assumption
    | with_reducible apply State.streamFault_keeps
    | with_reducible apply State.tryIssue_keeps
    | with_reducible apply Keeps.foldl
    | with_reducible apply Keeps.foldl_fst
    | with_reducible refine Keeps.of_eq (by assumption) (Keeps.foldl_fst ?_ ?_)
    | intro _ _
    | intro _
    | with_reducible apply Keeps.ite)

theorem State.issueZero_keeps : ∀ {a0 s h i e n len after}, Keeps a0 s → Keeps a0 (State.issueZero s h i e n len after) := by
  intro a0 s h i e n len after hk0
  unfold State.issueZero
  repeat' (first
    | with_reducible exact Keeps.refl _
    | with_reducible assumption
    | with_reducible apply State.streamFault_keeps
    | with_reducible apply State.tryIssue_keeps
    | with_reducible apply Keeps.foldl
    | with_reducible apply Keeps.foldl_fst
    | with_reducible refine Keeps.of_eq (by assumption) (Keeps.foldl_fst ?_ ?_)
    | intro _ _
    | intro _
    | with_reducible apply Keeps.ite)

theorem State.peekHoop_keeps' : ∀ {a0 s e k n}, Keeps a0 s → OptKeeps Prod.fst a0 (State.peekHoop s e k n) := by
  intro a0 s e k n hk0
  unfold State.peekHoop
  repeat' (first
    | with_reducible exact Keeps.refl _
    | with_reducible assumption
    | with_reducible exact OptKeeps.none
    | with_reducible apply OptKeeps.some
    | with_reducible apply OptKeeps.ite
    | dsimp only [id]
    | with_reducible apply State.readPieces_keeps
    | with_reducible refine Keeps.of_eq (by assumption) ?_
    | with_reducible apply Keeps.foldl
    | with_reducible apply Keeps.foldl_fst
    | with_reducible refine Keeps.of_eq (by assumption) (Keeps.foldl_fst ?_ ?_)
    | intro _ _
    | intro _)

theorem State.peekHoop_keeps {a0 s e k n u} (hu : (State.peekHoop s e k n) = some u) (hk0 : Keeps a0 s) : Keeps a0 u.1 := (State.peekHoop_keeps' hk0).holds u hu

theorem State.stepHoop_keeps : ∀ {a0 s h i e k n}, Keeps a0 s → Keeps a0 (State.stepHoop s h i e k n) := by
  intro a0 s h i e k n hk0
  unfold State.stepHoop
  repeat' (first
    | with_reducible exact Keeps.refl _
    | with_reducible assumption
    | with_reducible apply State.finishSlots_keeps
    | with_reducible apply State.updStream_keeps)

theorem State.takeIndex_keeps : ∀ {a0 s h i e}, Keeps a0 s → Keeps a0 (State.takeIndex s h i e) := by
  intro a0 s h i e hk0
  unfold State.takeIndex
  repeat' (first
    | with_reducible exact Keeps.refl _
    | with_reducible assumption
    | with_reducible apply State.streamMemFault_keeps
    | with_reducible apply State.streamFault_keeps
    | with_reducible apply State.updStream_keeps
    | with_reducible refine State.peekHoop_keeps (by assumption) ?_
    | with_reducible apply State.stepHoop_keeps
    | with_reducible apply State.sealEnd_keeps
    | with_reducible apply State.vcount_keeps
    | with_reducible apply Keeps.foldl
    | with_reducible apply Keeps.foldl_fst
    | with_reducible refine Keeps.of_eq (by assumption) (Keeps.foldl_fst ?_ ?_)
    | intro _ _
    | intro _
    | with_reducible apply Keeps.ite
    | dsimp only
    | with_reducible apply KeepsMk.fields
    | with_reducible apply KeepsMk.memFields
    | with_reducible apply KeepsMk.msixFields
    | with_reducible apply KeepsMk.logFields
    | dsimp only
    | split)

theorem State.takeDesc_keeps : ∀ {a0 s h i e}, Keeps a0 s → Keeps a0 (State.takeDesc s h i e) := by
  intro a0 s h i e hk0
  unfold State.takeDesc
  repeat' (first
    | with_reducible exact Keeps.refl _
    | with_reducible assumption
    | with_reducible apply State.streamMemFault_keeps
    | with_reducible apply State.streamFault_keeps
    | with_reducible apply State.updStream_keeps
    | with_reducible apply State.readSlot_keeps
    | with_reducible apply State.stepHoop_keeps
    | with_reducible apply State.sealEnd_keeps
    | with_reducible refine Keeps.of_eq (by assumption) ?_
    | with_reducible apply Keeps.foldl
    | with_reducible apply Keeps.foldl_fst
    | with_reducible refine Keeps.of_eq (by assumption) (Keeps.foldl_fst ?_ ?_)
    | intro _ _
    | intro _
    | with_reducible apply Keeps.ite
    | dsimp only
    | with_reducible apply KeepsMk.fields
    | with_reducible apply KeepsMk.memFields
    | with_reducible apply KeepsMk.msixFields
    | with_reducible apply KeepsMk.logFields
    | dsimp only
    | split)

theorem State.dropQueue_keeps : ∀ {a0 s h i e}, Keeps a0 s → Keeps a0 (State.dropQueue s h i e) := by
  intro a0 s h i e hk0
  unfold State.dropQueue
  repeat' (first
    | with_reducible exact Keeps.refl _
    | with_reducible assumption
    | with_reducible apply State.finishSlots_keeps
    | with_reducible apply State.updStream_keeps
    | with_reducible apply Keeps.foldl
    | with_reducible apply Keeps.foldl_fst
    | with_reducible refine Keeps.of_eq (by assumption) (Keeps.foldl_fst ?_ ?_)
    | intro _ _
    | intro _
    | with_reducible apply Keeps.ite
    | simp only [Keeps.mk_eq]
    | with_reducible apply KeepsMk.fields
    | with_reducible apply KeepsMk.memFields
    | with_reducible apply KeepsMk.msixFields
    | with_reducible apply KeepsMk.logFields
    | dsimp only
    | split)

theorem State.issueDesc_keeps : ∀ {a0 s h i e d}, Keeps a0 s → Keeps a0 (State.issueDesc s h i e d) := by
  intro a0 s h i e d hk0
  unfold State.issueDesc
  repeat' (first
    | with_reducible exact Keeps.refl _
    | with_reducible assumption
    | with_reducible apply State.streamFault_keeps
    | with_reducible apply State.issueZero_keeps
    | with_reducible apply State.updStream_keeps
    | with_reducible apply State.tryIssue_keeps
    | with_reducible apply State.sealEnd_keeps
    | with_reducible apply Keeps.foldl
    | with_reducible apply Keeps.foldl_fst
    | with_reducible refine Keeps.of_eq (by assumption) (Keeps.foldl_fst ?_ ?_)
    | intro _ _
    | intro _
    | with_reducible apply Keeps.ite)

theorem State.issuePeer_keeps : ∀ {a0 s h i e}, Keeps a0 s → Keeps a0 (State.issuePeer s h i e) := by
  intro a0 s h i e hk0
  unfold State.issuePeer
  repeat' (first
    | with_reducible exact Keeps.refl _
    | with_reducible assumption
    | with_reducible apply State.streamFault_keeps
    | with_reducible apply State.updStream_keeps
    | with_reducible apply State.tryIssue_keeps
    | with_reducible apply State.sealEnd_keeps
    | with_reducible apply Keeps.foldl
    | with_reducible apply Keeps.foldl_fst
    | with_reducible refine Keeps.of_eq (by assumption) (Keeps.foldl_fst ?_ ?_)
    | intro _ _
    | intro _
    | with_reducible apply Keeps.ite
    | dsimp only
    | with_reducible apply KeepsMk.fields
    | with_reducible apply KeepsMk.memFields
    | with_reducible apply KeepsMk.msixFields
    | with_reducible apply KeepsMk.logFields
    | dsimp only
    | split)

theorem State.issueIn_keeps : ∀ {a0 s h i e}, Keeps a0 s → Keeps a0 (State.issueIn s h i e) := by
  intro a0 s h i e hk0
  unfold State.issueIn
  repeat' (first
    | with_reducible exact Keeps.refl _
    | with_reducible assumption
    | with_reducible apply State.dropQueue_keeps
    | with_reducible apply State.issueDesc_keeps
    | with_reducible apply State.issuePeer_keeps
    | with_reducible apply State.issueZero_keeps
    | with_reducible apply State.takeIndex_keeps
    | with_reducible apply State.updStream_keeps
    | with_reducible apply State.issueRun_keeps
    | with_reducible apply State.takeDesc_keeps
    | with_reducible apply State.sealEnd_keeps
    | with_reducible apply Keeps.foldl
    | with_reducible apply Keeps.foldl_fst
    | with_reducible refine Keeps.of_eq (by assumption) (Keeps.foldl_fst ?_ ?_)
    | intro _ _
    | intro _
    | with_reducible apply Keeps.ite
    | dsimp only
    | with_reducible apply KeepsMk.fields
    | with_reducible apply KeepsMk.memFields
    | with_reducible apply KeepsMk.msixFields
    | with_reducible apply KeepsMk.logFields
    | dsimp only
    | split)

theorem State.issueOut_keeps : ∀ {a0 s h i e off slot data after}, Keeps a0 s → Keeps a0 (State.issueOut s h i e off slot data after) := by
  intro a0 s h i e off slot data after hk0
  unfold State.issueOut
  repeat' (first
    | with_reducible exact Keeps.refl _
    | with_reducible assumption
    | with_reducible apply State.chargeRota_keeps
    | with_reducible apply State.portIssue_keeps
    | with_reducible apply State.updStream_keeps
    | with_reducible apply State.vcount64_keeps
    | with_reducible apply Keeps.foldl
    | with_reducible apply Keeps.foldl_fst
    | with_reducible refine Keeps.of_eq (by assumption) (Keeps.foldl_fst ?_ ?_)
    | intro _ _
    | intro _
    | with_reducible apply Keeps.ite)

theorem State.freeOut_keeps : ∀ {a0 s h i}, Keeps a0 s → Keeps a0 (State.freeOut s h i) := by
  intro a0 s h i hk0
  unfold State.freeOut
  repeat' (first
    | with_reducible exact Keeps.refl _
    | with_reducible assumption
    | with_reducible apply State.finishSlots_keeps
    | with_reducible apply Keeps.foldl
    | with_reducible apply Keeps.foldl_fst
    | with_reducible refine Keeps.of_eq (by assumption) (Keeps.foldl_fst ?_ ?_)
    | intro _ _
    | intro _
    | with_reducible apply Keeps.ite
    | simp only [Keeps.mk_eq]
    | with_reducible apply KeepsMk.fields
    | with_reducible apply KeepsMk.memFields
    | with_reducible apply KeepsMk.msixFields
    | with_reducible apply KeepsMk.logFields
    | dsimp only
    | split)

theorem State.takeOut_keeps : ∀ {a0 s h i e off n after}, Keeps a0 s → Keeps a0 (State.takeOut s h i e off n after) := by
  intro a0 s h i e off n after hk0
  unfold State.takeOut
  repeat' (first
    | with_reducible exact Keeps.refl _
    | with_reducible assumption
    | with_reducible apply State.streamMemFault_keeps
    | with_reducible apply State.streamFault_keeps
    | with_reducible apply State.issueOut_keeps
    | with_reducible apply State.readSlot_keeps
    | with_reducible refine Keeps.of_eq (by assumption) ?_
    | with_reducible apply Keeps.foldl
    | with_reducible apply Keeps.foldl_fst
    | with_reducible refine Keeps.of_eq (by assumption) (Keeps.foldl_fst ?_ ?_)
    | intro _ _
    | intro _
    | with_reducible apply Keeps.ite
    | dsimp only
    | with_reducible apply KeepsMk.fields
    | with_reducible apply KeepsMk.memFields
    | with_reducible apply KeepsMk.msixFields
    | with_reducible apply KeepsMk.logFields
    | dsimp only
    | split)

theorem State.issueStore_keeps : ∀ {a0 s h i e}, Keeps a0 s → Keeps a0 (State.issueStore s h i e) := by
  intro a0 s h i e hk0
  unfold State.issueStore
  repeat' (first
    | with_reducible exact Keeps.refl _
    | with_reducible assumption
    | with_reducible apply State.streamFault_keeps
    | with_reducible apply State.dropQueue_keeps
    | with_reducible apply State.updStream_keeps
    | with_reducible apply State.takeDesc_keeps
    | with_reducible apply State.freeOut_keeps
    | with_reducible apply State.takeOut_keeps
    | with_reducible apply Keeps.foldl
    | with_reducible apply Keeps.foldl_fst
    | with_reducible refine Keeps.of_eq (by assumption) (Keeps.foldl_fst ?_ ?_)
    | intro _ _
    | intro _
    | with_reducible apply Keeps.ite
    | dsimp only
    | with_reducible apply KeepsMk.fields
    | with_reducible apply KeepsMk.memFields
    | with_reducible apply KeepsMk.msixFields
    | with_reducible apply KeepsMk.logFields
    | dsimp only
    | split)

theorem State.issueEncoded_keeps : ∀ {a0 s h i e}, Keeps a0 s → Keeps a0 (State.issueEncoded s h i e) := by
  intro a0 s h i e hk0
  unfold State.issueEncoded
  repeat' (first
    | with_reducible exact Keeps.refl _
    | with_reducible assumption
    | with_reducible apply State.issueOut_keeps
    | with_reducible apply Keeps.foldl
    | with_reducible apply Keeps.foldl_fst
    | with_reducible refine Keeps.of_eq (by assumption) (Keeps.foldl_fst ?_ ?_)
    | intro _ _
    | intro _
    | with_reducible apply Keeps.ite)

theorem execTransferIssue_keeps : ∀ h i s, NextKeeps s (execTransferIssue h i s) := by
  intro h i s
  unfold execTransferIssue
  repeat' (first
    | with_reducible apply NextKeeps.next
    | with_reducible apply NextKeeps.ite
    | with_reducible exact Keeps.refl _
    | with_reducible assumption
    | with_reducible apply State.issueEncoded_keeps
    | with_reducible apply State.issueStore_keeps
    | with_reducible apply State.issueIn_keeps
    | with_reducible apply Keeps.foldl
    | with_reducible apply Keeps.foldl_fst
    | with_reducible refine Keeps.of_eq (by assumption) (Keeps.foldl_fst ?_ ?_)
    | intro _ _
    | intro _
    | with_reducible apply Keeps.ite
    | simp only [Keeps.mk_eq]
    | with_reducible apply KeepsMk.fields
    | with_reducible apply KeepsMk.memFields
    | with_reducible apply KeepsMk.msixFields
    | with_reducible apply KeepsMk.logFields
    | dsimp only
    | split)

theorem State.readScales_keeps' : ∀ {s h i e row last x0}, Keeps s (State.readScales s h i e row last x0).1 := by
  intro s h i e row last x0
  fun_induction State.readScales s h i e row last x0
  all_goals
  repeat' (first
    | with_reducible exact Keeps.refl _
    | with_reducible assumption
    | with_reducible refine Keeps.trans ?_ (by assumption)
    | with_reducible refine Keeps.trans ?_ (Keeps.of_eq (by assumption) (by assumption))
    | with_reducible apply State.readXfer_keeps
    | with_reducible refine Keeps.of_eq (by assumption) ?_
    | with_reducible apply Keeps.foldl
    | with_reducible apply Keeps.foldl_fst
    | with_reducible refine Keeps.of_eq (by assumption) (Keeps.foldl_fst ?_ ?_)
    | intro _ _
    | intro _
    | with_reducible apply Keeps.ite
    | simp only [Keeps.mk_eq]
    | with_reducible apply KeepsMk.fields
    | with_reducible apply KeepsMk.memFields
    | with_reducible apply KeepsMk.msixFields
    | with_reducible apply KeepsMk.logFields
    | dsimp only
    | split)

theorem State.readScales_keeps : ∀ {a0 s h i e row last x0}, Keeps a0 s → Keeps a0 (State.readScales s h i e row last x0).1 := by
  intro a0 s h i e row last x0 hk0
  exact hk0.trans (State.readScales_keeps')

theorem State.shapeRun_keeps : ∀ {a0 s h i e x data}, Keeps a0 s → Keeps a0 (State.shapeRun s h i e x data).1 := by
  intro a0 s h i e x data hk0
  unfold State.shapeRun
  repeat' (first
    | with_reducible exact Keeps.refl _
    | with_reducible assumption
    | with_reducible apply State.readScales_keeps
    | with_reducible apply State.vcount64_keeps
    | with_reducible apply State.vcount_keeps
    | with_reducible refine Keeps.of_eq (by assumption) ?_
    | with_reducible apply Keeps.foldl
    | with_reducible apply Keeps.foldl_fst
    | with_reducible refine Keeps.of_eq (by assumption) (Keeps.foldl_fst ?_ ?_)
    | intro _ _
    | intro _
    | with_reducible apply Keeps.ite
    | dsimp only
    | with_reducible apply KeepsMk.fields
    | with_reducible apply KeepsMk.memFields
    | with_reducible apply KeepsMk.msixFields
    | with_reducible apply KeepsMk.logFields
    | dsimp only
    | split)

theorem State.finishIn_keeps : ∀ {a0 s h i e x}, Keeps a0 s → Keeps a0 (State.finishIn s h i e x) := by
  intro a0 s h i e x hk0
  unfold State.finishIn
  repeat' (first
    | with_reducible exact Keeps.refl _
    | with_reducible assumption
    | with_reducible apply State.streamMemFault_keeps
    | with_reducible apply State.deliverBytes_keeps
    | with_reducible apply State.readSpans_keeps
    | with_reducible apply State.updStream_keeps
    | with_reducible apply State.writeSlot_keeps
    | with_reducible apply State.readXfer_keeps
    | with_reducible apply State.shapeRun_keeps
    | with_reducible apply State.vcount64_keeps
    | with_reducible apply State.updHoop_keeps
    | with_reducible refine Keeps.of_eq (by assumption) ?_
    | with_reducible apply Keeps.foldl
    | with_reducible apply Keeps.foldl_fst
    | with_reducible refine Keeps.of_eq (by assumption) (Keeps.foldl_fst ?_ ?_)
    | intro _ _
    | intro _
    | with_reducible apply Keeps.ite
    | dsimp only
    | with_reducible apply KeepsMk.fields
    | with_reducible apply KeepsMk.memFields
    | with_reducible apply KeepsMk.msixFields
    | with_reducible apply KeepsMk.logFields
    | dsimp only
    | split)

theorem State.writeTier_keeps : ∀ {a0 s h i e x}, Keeps a0 s → Keeps a0 (State.writeTier s h i e x) := by
  intro a0 s h i e x hk0
  unfold State.writeTier
  repeat' (first
    | with_reducible exact Keeps.refl _
    | with_reducible assumption
    | with_reducible apply State.hostWrite_keeps
    | with_reducible apply State.peerSend_keeps
    | with_reducible apply State.updTask_keeps
    | with_reducible refine Keeps.of_eq (by assumption) ?_
    | with_reducible apply Keeps.foldl
    | with_reducible apply Keeps.foldl_fst
    | with_reducible refine Keeps.of_eq (by assumption) (Keeps.foldl_fst ?_ ?_)
    | intro _ _
    | intro _
    | with_reducible apply Keeps.ite)

theorem State.finishOut_keeps : ∀ {a0 s h i e x}, Keeps a0 s → Keeps a0 (State.finishOut s h i e x) := by
  intro a0 s h i e x hk0
  unfold State.finishOut
  repeat' (first
    | with_reducible exact Keeps.refl _
    | with_reducible assumption
    | with_reducible apply State.streamMemFault_keeps
    | with_reducible apply State.hostWrite_keeps
    | with_reducible apply State.updStream_keeps
    | with_reducible apply State.writeTier_keeps
    | with_reducible apply State.vcount64_keeps
    | with_reducible apply State.writeMem_keeps
    | with_reducible apply State.freeOut_keeps
    | with_reducible refine Keeps.of_eq (by assumption) ?_
    | with_reducible apply Keeps.foldl
    | with_reducible apply Keeps.foldl_fst
    | with_reducible refine Keeps.of_eq (by assumption) (Keeps.foldl_fst ?_ ?_)
    | intro _ _
    | intro _
    | with_reducible apply Keeps.ite
    | dsimp only
    | with_reducible apply KeepsMk.fields
    | with_reducible apply KeepsMk.memFields
    | with_reducible apply KeepsMk.msixFields
    | with_reducible apply KeepsMk.logFields
    | dsimp only
    | split)

theorem State.finishXfer_keeps : ∀ {a0 s h i no}, Keeps a0 s → Keeps a0 (State.finishXfer s h i no) := by
  intro a0 s h i no hk0
  unfold State.finishXfer
  repeat' (first
    | with_reducible exact Keeps.refl _
    | with_reducible assumption
    | with_reducible apply State.finishOut_keeps
    | with_reducible apply State.finishIn_keeps
    | with_reducible apply Keeps.foldl
    | with_reducible apply Keeps.foldl_fst
    | with_reducible refine Keeps.of_eq (by assumption) (Keeps.foldl_fst ?_ ?_)
    | intro _ _
    | intro _
    | with_reducible apply Keeps.ite
    | simp only [Keeps.mk_eq]
    | with_reducible apply KeepsMk.fields
    | with_reducible apply KeepsMk.memFields
    | with_reducible apply KeepsMk.msixFields
    | with_reducible apply KeepsMk.logFields
    | dsimp only
    | split)

theorem State.checkFails_keeps : ∀ {a0 s after h k}, Keeps a0 s → Keeps a0 after → Keeps a0 (State.checkFails s after h k) := by
  intro a0 s after h k hk0 hk1
  unfold State.checkFails
  repeat' (first
    | with_reducible exact Keeps.refl _
    | with_reducible assumption
    | with_reducible apply State.abortWith_keeps
    | with_reducible apply State.count_keeps
    | with_reducible apply State.setN_keeps
    | with_reducible apply Keeps.foldl
    | with_reducible apply Keeps.foldl_fst
    | with_reducible refine Keeps.of_eq (by assumption) (Keeps.foldl_fst ?_ ?_)
    | intro _ _
    | intro _
    | with_reducible apply Keeps.ite
    | dsimp only
    | with_reducible apply KeepsMk.fields
    | with_reducible apply KeepsMk.memFields
    | with_reducible apply KeepsMk.msixFields
    | with_reducible apply KeepsMk.logFields
    | dsimp only
    | split)

theorem execTransferComplete_keeps : ∀ h i no check s, NextKeeps s (execTransferComplete h i no check s) := by
  intro h i no check s
  unfold execTransferComplete
  repeat' (first
    | with_reducible apply NextKeeps.next
    | with_reducible apply NextKeeps.ite
    | with_reducible exact Keeps.refl _
    | with_reducible assumption
    | with_reducible apply State.checkFails_keeps
    | with_reducible apply State.finishXfer_keeps
    | with_reducible apply Keeps.foldl
    | with_reducible apply Keeps.foldl_fst
    | with_reducible refine Keeps.of_eq (by assumption) (Keeps.foldl_fst ?_ ?_)
    | intro _ _
    | intro _
    | with_reducible apply Keeps.ite
    | simp only [Keeps.mk_eq]
    | with_reducible apply KeepsMk.fields
    | with_reducible apply KeepsMk.memFields
    | with_reducible apply KeepsMk.msixFields
    | with_reducible apply KeepsMk.logFields
    | dsimp only
    | split)

/-! ### Machine/Coil.lean -/

theorem State.coilFault_keeps : ∀ {a0 s h i e code elem pos}, Keeps a0 s → Keeps a0 (State.coilFault s h i e code elem pos) := by
  intro a0 s h i e code elem pos hk0
  unfold State.coilFault
  repeat' (first
    | with_reducible exact Keeps.refl _
    | with_reducible assumption
    | with_reducible apply State.courseFault_keeps
    | with_reducible apply State.vset64_keeps)

theorem State.setCoil_keeps : ∀ {a0 s h i c}, Keeps a0 s → Keeps a0 (State.setCoil s h i c) := by
  intro a0 s h i c hk0
  unfold State.setCoil
  repeat' (first
    | with_reducible exact Keeps.refl _
    | with_reducible assumption
    | with_reducible apply State.updRota_keeps)

theorem State.endFrame_keeps : ∀ {a0 s h i e d}, Keeps a0 s → Keeps a0 (State.endFrame s h i e d) := by
  intro a0 s h i e d hk0
  unfold State.endFrame
  repeat' (first
    | with_reducible exact Keeps.refl _
    | with_reducible assumption
    | with_reducible apply State.updStream_keeps
    | with_reducible apply State.vcount64_keeps
    | with_reducible apply State.sealEnd_keeps
    | with_reducible apply State.setCoil_keeps
    | with_reducible apply State.vcount_keeps
    | with_reducible apply Keeps.foldl
    | with_reducible apply Keeps.foldl_fst
    | with_reducible refine Keeps.of_eq (by assumption) (Keeps.foldl_fst ?_ ?_)
    | intro _ _
    | intro _
    | with_reducible apply Keeps.ite)

theorem State.decodeStep_keeps : ∀ {a0 s h i e}, Keeps a0 s → Keeps a0 (State.decodeStep s h i e) := by
  intro a0 s h i e hk0
  unfold State.decodeStep
  repeat' (first
    | with_reducible exact Keeps.refl _
    | with_reducible assumption
    | with_reducible apply State.streamMemFault_keeps
    | with_reducible apply State.deliverBytes_keeps
    | with_reducible apply State.streamFault_keeps
    | with_reducible apply State.coilFault_keeps
    | with_reducible apply State.updStream_keeps
    | with_reducible apply State.endFrame_keeps
    | with_reducible apply State.vcount64_keeps
    | with_reducible apply State.updHoop_keeps
    | with_reducible refine Keeps.of_eq (by assumption) ?_
    | with_reducible apply Keeps.foldl
    | with_reducible apply Keeps.foldl_fst
    | with_reducible refine Keeps.of_eq (by assumption) (Keeps.foldl_fst ?_ ?_)
    | intro _ _
    | intro _
    | with_reducible apply Keeps.ite
    | dsimp only
    | with_reducible apply KeepsMk.fields
    | with_reducible apply KeepsMk.memFields
    | with_reducible apply KeepsMk.msixFields
    | with_reducible apply KeepsMk.logFields
    | dsimp only
    | split)

theorem execCoilFrameDecode_keeps : ∀ h i s, NextKeeps s (execCoilFrameDecode h i s) := by
  intro h i s
  unfold execCoilFrameDecode
  repeat' (first
    | with_reducible apply NextKeeps.next
    | with_reducible apply NextKeeps.ite
    | with_reducible exact Keeps.refl _
    | with_reducible assumption
    | with_reducible apply State.decodeStep_keeps
    | with_reducible apply State.sealEnd_keeps
    | with_reducible apply Keeps.foldl
    | with_reducible apply Keeps.foldl_fst
    | with_reducible refine Keeps.of_eq (by assumption) (Keeps.foldl_fst ?_ ?_)
    | intro _ _
    | intro _
    | with_reducible apply Keeps.ite
    | simp only [Keeps.mk_eq]
    | with_reducible apply KeepsMk.fields
    | with_reducible apply KeepsMk.memFields
    | with_reducible apply KeepsMk.msixFields
    | with_reducible apply KeepsMk.logFields
    | dsimp only
    | split)

theorem execCoilFrameEncode_keeps : ∀ h i s, NextKeeps s (execCoilFrameEncode h i s) := by
  intro h i s
  unfold execCoilFrameEncode
  repeat' (first
    | with_reducible apply NextKeeps.next
    | with_reducible apply NextKeeps.ite
    | with_reducible exact Keeps.refl _
    | with_reducible assumption
    | with_reducible apply State.streamMemFault_keeps
    | with_reducible apply State.streamFault_keeps
    | with_reducible apply State.coilFault_keeps
    | with_reducible apply State.updStream_keeps
    | with_reducible apply State.readSlot_keeps
    | with_reducible apply State.vcount64_keeps
    | with_reducible apply State.setCoil_keeps
    | with_reducible apply State.vcount_keeps
    | with_reducible refine Keeps.of_eq (by assumption) ?_
    | with_reducible apply Keeps.foldl
    | with_reducible apply Keeps.foldl_fst
    | with_reducible refine Keeps.of_eq (by assumption) (Keeps.foldl_fst ?_ ?_)
    | intro _ _
    | intro _
    | with_reducible apply Keeps.ite
    | dsimp only
    | with_reducible apply KeepsMk.fields
    | with_reducible apply KeepsMk.memFields
    | with_reducible apply KeepsMk.msixFields
    | with_reducible apply KeepsMk.logFields
    | dsimp only
    | split)

theorem State.coilDone_keeps : ∀ {a0 s t code}, Keeps a0 s → Keeps a0 (State.coilDone s t code) := by
  intro a0 s t code hk0
  unfold State.coilDone
  repeat' (first
    | with_reducible exact Keeps.refl _
    | with_reducible assumption
    | with_reducible apply State.vsetF_keeps)

theorem State.coilRequest_keeps : ∀ {a0 s t restore}, Keeps a0 s → Keeps a0 (State.coilRequest s t restore) := by
  intro a0 s t restore hk0
  unfold State.coilRequest
  repeat' (first
    | with_reducible exact Keeps.refl _
    | with_reducible assumption
    | with_reducible apply State.coilDone_keeps
    | with_reducible apply State.vsetF_keeps
    | with_reducible apply Keeps.foldl
    | with_reducible apply Keeps.foldl_fst
    | with_reducible refine Keeps.of_eq (by assumption) (Keeps.foldl_fst ?_ ?_)
    | intro _ _
    | intro _
    | with_reducible apply Keeps.ite
    | simp only [Keeps.mk_eq]
    | with_reducible apply KeepsMk.fields)

theorem execCoilCtxSave_keeps : ∀ t s, NextKeeps s (execCoilCtxSave t s) := by
  intro t s
  unfold execCoilCtxSave
  repeat' (first
    | with_reducible apply NextKeeps.next
    | with_reducible apply NextKeeps.ite
    | with_reducible exact Keeps.refl _
    | with_reducible assumption
    | with_reducible apply State.coilRequest_keeps)

theorem execCoilCtxRestore_keeps : ∀ t s, NextKeeps s (execCoilCtxRestore t s) := by
  intro t s
  unfold execCoilCtxRestore
  repeat' (first
    | with_reducible apply NextKeeps.next
    | with_reducible apply NextKeeps.ite
    | with_reducible exact Keeps.refl _
    | with_reducible assumption
    | with_reducible apply State.coilRequest_keeps)

theorem execCoilCtxPerform_keeps : ∀ t s, NextKeeps s (execCoilCtxPerform t s) := by
  intro t s
  unfold execCoilCtxPerform
  repeat' (first
    | with_reducible apply NextKeeps.next
    | with_reducible apply NextKeeps.ite
    | with_reducible exact Keeps.refl _
    | with_reducible assumption
    | with_reducible apply State.coilDone_keeps
    | with_reducible apply State.writeMem_keeps
    | with_reducible apply State.readMem_keeps
    | with_reducible apply State.setCoil_keeps
    | with_reducible apply State.vsetF_keeps
    | with_reducible refine Keeps.of_eq (by assumption) ?_
    | with_reducible apply Keeps.foldl
    | with_reducible apply Keeps.foldl_fst
    | with_reducible refine Keeps.of_eq (by assumption) (Keeps.foldl_fst ?_ ?_)
    | intro _ _
    | intro _
    | with_reducible apply Keeps.ite
    | simp only [Keeps.mk_eq]
    | with_reducible apply KeepsMk.fields
    | with_reducible apply KeepsMk.memFields
    | with_reducible apply KeepsMk.msixFields
    | with_reducible apply KeepsMk.logFields
    | dsimp only
    | split)

/-! ### Machine/Units.lean -/

theorem KernOut.s_keeps : ∀ {a0 self}, Keeps a0 self.s → Keeps a0 (KernOut.s self) := by
  intro a0 self hk0
  unfold KernOut.s
  repeat' (first
    | with_reducible exact Keeps.refl _
    | with_reducible assumption)

theorem KernOut.ok_keeps : ∀ {a0 s o out}, Keeps a0 s → Keeps a0 (KernOut.ok s o out).s := by
  intro a0 s o out hk0
  unfold KernOut.ok
  repeat' (first
    | with_reducible exact Keeps.refl _
    | with_reducible assumption)

theorem KernOut.bad_keeps : ∀ {a0 s o code elem hoop}, Keeps a0 s → Keeps a0 (KernOut.bad s o code elem hoop).s := by
  intro a0 s o code elem hoop hk0
  unfold KernOut.bad
  repeat' (first
    | with_reducible exact Keeps.refl _
    | with_reducible assumption)

theorem State.opFault_keeps : ∀ {a0 s e a f}, Keeps a0 s → Keeps a0 (State.opFault s e a f) := by
  intro a0 s e a f hk0
  unfold State.opFault
  repeat' (first
    | with_reducible exact Keeps.refl _
    | with_reducible assumption
    | with_reducible apply State.courseFault_keeps
    | with_reducible apply State.coilFault_keeps
    | with_reducible apply Keeps.foldl
    | with_reducible apply Keeps.foldl_fst
    | with_reducible refine Keeps.of_eq (by assumption) (Keeps.foldl_fst ?_ ?_)
    | intro _ _
    | intro _
    | with_reducible apply Keeps.ite
    | dsimp only
    | with_reducible apply KeepsMk.fields
    | with_reducible apply KeepsMk.memFields
    | with_reducible apply KeepsMk.msixFields
    | with_reducible apply KeepsMk.logFields
    | dsimp only
    | split)

theorem State.flushOuts_keeps' : ∀ {s e a x0}, Keeps s (State.flushOuts s e a x0) := by
  intro s e a x0
  fun_induction State.flushOuts s e a x0
  all_goals
  repeat' (first
    | with_reducible exact Keeps.refl _
    | with_reducible assumption
    | with_reducible refine Keeps.trans ?_ (by assumption)
    | with_reducible refine State.placeBatch_keeps (by assumption) ?_
    | with_reducible apply State.opFault_keeps
    | with_reducible apply State.updOp_keeps)

theorem State.flushOuts_keeps : ∀ {a0 s e a x0}, Keeps a0 s → Keeps a0 (State.flushOuts s e a x0) := by
  intro a0 s e a x0 hk0
  exact hk0.trans (State.flushOuts_keeps')

theorem State.flushAll_keeps : ∀ {a0 s e a}, Keeps a0 s → Keeps a0 (State.flushAll s e a) := by
  intro a0 s e a hk0
  unfold State.flushAll
  repeat' (first
    | with_reducible exact Keeps.refl _
    | with_reducible assumption
    | with_reducible apply State.flushOuts_keeps
    | with_reducible apply Keeps.foldl
    | with_reducible apply Keeps.foldl_fst
    | with_reducible refine Keeps.of_eq (by assumption) (Keeps.foldl_fst ?_ ?_)
    | intro _ _
    | intro _
    | with_reducible apply Keeps.ite
    | simp only [Keeps.mk_eq]
    | with_reducible apply KeepsMk.fields
    | with_reducible apply KeepsMk.memFields
    | with_reducible apply KeepsMk.msixFields
    | with_reducible apply KeepsMk.logFields
    | dsimp only
    | split)

theorem State.readInputs_keeps' : ∀ {s r x0}, Keeps s (State.readInputs s r x0).1 := by
  intro s r x0
  fun_induction State.readInputs s r x0
  all_goals
  repeat' (first
    | with_reducible exact Keeps.refl _
    | with_reducible assumption
    | with_reducible refine Keeps.trans ?_ (by assumption)
    | with_reducible refine Keeps.trans ?_ (Keeps.of_eq (by assumption) (by assumption))
    | with_reducible apply State.readSlot_keeps
    | with_reducible refine Keeps.of_eq (by assumption) ?_)

theorem State.readInputs_keeps : ∀ {a0 s r x0}, Keeps a0 s → Keeps a0 (State.readInputs s r x0).1 := by
  intro a0 s r x0 hk0
  exact hk0.trans (State.readInputs_keeps')

theorem State.finishInputs_keeps : ∀ {a0 s e l}, Keeps a0 s → Keeps a0 (State.finishInputs s e l) := by
  intro a0 s e l hk0
  unfold State.finishInputs
  repeat' (first
    | with_reducible exact Keeps.refl _
    | with_reducible assumption
    | with_reducible apply State.finishSlots_keeps
    | with_reducible apply Keeps.foldl
    | with_reducible apply Keeps.foldl_fst
    | with_reducible refine Keeps.of_eq (by assumption) (Keeps.foldl_fst ?_ ?_)
    | intro _ _)

theorem KernOut.settle_keeps : ∀ {a0 k e a l stage}, Keeps a0 k.s → Keeps a0 (KernOut.settle k e a l stage) := by
  intro a0 k e a l stage hk0
  unfold KernOut.settle
  repeat' (first
    | with_reducible exact Keeps.refl _
    | with_reducible assumption
    | with_reducible apply State.finishInputs_keeps
    | with_reducible apply State.flushAll_keeps
    | with_reducible apply State.opFault_keeps
    | with_reducible apply State.updOp_keeps
    | with_reducible apply KernOut.s_keeps
    | with_reducible apply Keeps.foldl
    | with_reducible apply Keeps.foldl_fst
    | with_reducible refine Keeps.of_eq (by assumption) (Keeps.foldl_fst ?_ ?_)
    | intro _ _
    | intro _
    | with_reducible apply Keeps.ite
    | dsimp only
    | with_reducible apply KeepsMk.fields
    | with_reducible apply KeepsMk.memFields
    | with_reducible apply KeepsMk.msixFields
    | with_reducible apply KeepsMk.logFields
    | dsimp only
    | split)

theorem State.runOp_keeps {a0 s : State} {e a ins kern fin} (hkern : KernKeeps kern) (hfin : FinKeeps fin) (hk : Keeps a0 s) :
    Keeps a0 (s.runOp e a ins kern fin) := by
  unfold State.runOp
  split
  · exact State.flushAll_keeps hk
  · split
    · exact hk
    · split
      · exact hk
      · exact KernOut.settle_keeps (hfin.holds hk)
      · split
        · exact KernOut.settle_keeps (hfin.holds hk)
        · split
          · rename_i heq
            exact State.opFault_keeps (Keeps.of_eq heq (State.readInputs_keeps hk))
          · rename_i heq
            have h := Keeps.of_eq heq (State.readInputs_keeps hk)
            dsimp only
            split
            · exact KernOut.settle_keeps (hkern.holds h)
            · refine KernOut.settle_keeps ?_
              exact hfin.holds (hkern.holds h)

theorem endAlone_keeps : ∀ {hoops}, FinKeeps (endAlone hoops) := by
  intro hoops
  constructor
  intro a0 s e bare hk
  unfold endAlone
  repeat' (first
    | with_reducible exact Keeps.refl _
    | with_reducible assumption
    | with_reducible apply KernOut.ok_keeps)

theorem State.tally_keeps : ∀ {a0 s t regs l}, Keeps a0 s → Keeps a0 (State.tally s t regs l) := by
  intro a0 s t regs l hk0
  unfold State.tally
  repeat' (first
    | with_reducible exact Keeps.refl _
    | with_reducible assumption
    | with_reducible apply State.vcount_keeps
    | with_reducible apply Keeps.foldl
    | with_reducible apply Keeps.foldl_fst
    | with_reducible refine Keeps.of_eq (by assumption) (Keeps.foldl_fst ?_ ?_)
    | intro _ _)

end Sys2Proof.Machine
end

