-- ==== Sys2Proof/Laws/KeepsColumns.lean ====
section
/-! SUPPORT. What `Keeps` says holds of every function that changes the state: the operations on columns, samples and Trellis jobs. -/

namespace Sys2Proof.Machine

/-! ### Machine/Columns.lean -/

theorem State.opTable_keeps : ∀ {a0 s e t o n}, Keeps a0 s → Keeps a0 (State.opTable s e t o n).1 := by
  intro a0 s e t o n hk0
  unfold State.opTable
  repeat' (first
    | with_reducible exact Keeps.refl _
    | with_reducible assumption
    | with_reducible apply State.readTable_keeps
    | with_reducible refine Keeps.of_eq (by assumption) ?_
    | with_reducible apply Keeps.foldl
    | with_reducible apply Keeps.foldl_fst
    | with_reducible refine Keeps.of_eq (by assumption) (Keeps.foldl_fst ?_ ?_)
    | intro _ _
    | intro _
    | with_reducible apply Keeps.ite
    | simp only [Keeps.mk_eq]
    | with_reducible apply KeepsMk.fields
    | with_reducible apply KeepsMk.memFields
    | with_reducible apply KeepsMk.msixFields
    | with_reducible apply KeepsMk.logFields
    | dsimp only
    | split)

theorem State.readDict_keeps : ∀ {a0 s e b}, Keeps a0 s → Keeps a0 (State.readDict s e b).1 := by
  intro a0 s e b hk0
  unfold State.readDict
  repeat' (first
    | with_reducible exact Keeps.refl _
    | with_reducible assumption
    | with_reducible apply State.readTable_keeps
    | with_reducible refine Keeps.of_eq (by assumption) ?_
    | with_reducible apply Keeps.foldl
    | with_reducible apply Keeps.foldl_fst
    | with_reducible refine Keeps.of_eq (by assumption) (Keeps.foldl_fst ?_ ?_)
    | intro _ _
    | intro _
    | with_reducible apply Keeps.ite
    | simp only [Keeps.mk_eq]
    | with_reducible apply KeepsMk.fields
    | with_reducible apply KeepsMk.memFields
    | with_reducible apply KeepsMk.msixFields
    | with_reducible apply KeepsMk.logFields
    | dsimp only
    | split)

theorem State.getCol_keeps : ∀ {a0 s e d et layouts}, Keeps a0 s → Keeps a0 (State.getCol s e d et layouts).1 := by
  intro a0 s e d et layouts hk0
  unfold State.getCol
  repeat' (first
    | with_reducible exact Keeps.refl _
    | with_reducible assumption
    | with_reducible apply State.readDict_keeps
    | with_reducible refine Keeps.of_eq (by assumption) ?_
    | with_reducible apply Keeps.foldl
    | with_reducible apply Keeps.foldl_fst
    | with_reducible refine Keeps.of_eq (by assumption) (Keeps.foldl_fst ?_ ?_)
    | intro _ _
    | intro _
    | with_reducible apply Keeps.ite
    | simp only [Keeps.mk_eq]
    | with_reducible apply KeepsMk.fields
    | with_reducible apply KeepsMk.memFields
    | with_reducible apply KeepsMk.msixFields
    | with_reducible apply KeepsMk.logFields
    | dsimp only
    | split)

theorem colKern1_keeps : ∀ {et layouts f}, (∀ {a0} y0 y1 y2 y3, Keeps a0 y0 → Keeps a0 (f y0 y1 y2 y3).1) → KernKeeps (colKern1 et layouts f) := by
  intro et layouts f h_f
  constructor
  intro a0 s e ins last hk
  unfold colKern1
  repeat' (first
    | with_reducible exact Keeps.refl _
    | with_reducible assumption
    | with_reducible apply h_f
    | with_reducible apply State.getCol_keeps
    | with_reducible apply KernOut.bad_keeps
    | with_reducible apply KernOut.ok_keeps
    | with_reducible refine Keeps.of_eq (by assumption) ?_
    | with_reducible refine Keeps.of_kern (by assumption) ?_
    | with_reducible apply Keeps.foldl
    | with_reducible apply Keeps.foldl_fst
    | with_reducible refine Keeps.of_eq (by assumption) (Keeps.foldl_fst ?_ ?_)
    | intro _ _
    | intro _
    | with_reducible apply Keeps.ite
    | dsimp only
    | with_reducible apply KeepsMk.fields
    | with_reducible apply KeepsMk.memFields
    | with_reducible apply KeepsMk.msixFields
    | with_reducible apply KeepsMk.logFields
    | dsimp only
    | split)

theorem colKern2_keeps : ∀ {et layouts et2 layouts2 f}, (∀ {a0} y0 y1 y2 y3 y4, Keeps a0 y0 → Keeps a0 (f y0 y1 y2 y3 y4).1) → KernKeeps (colKern2 et layouts et2 layouts2 f) := by
  intro et layouts et2 layouts2 f h_f
  constructor
  intro a0 s e ins last hk
  unfold colKern2
  repeat' (first
    | with_reducible exact Keeps.refl _
    | with_reducible assumption
    | with_reducible apply h_f
    | with_reducible apply State.getCol_keeps
    | with_reducible apply KernOut.bad_keeps
    | with_reducible apply KernOut.ok_keeps
    | with_reducible refine Keeps.of_eq (by assumption) ?_
    | with_reducible refine Keeps.of_kern (by assumption) ?_
    | with_reducible apply Keeps.foldl
    | with_reducible apply Keeps.foldl_fst
    | with_reducible refine Keeps.of_eq (by assumption) (Keeps.foldl_fst ?_ ?_)
    | intro _ _
    | intro _
    | with_reducible apply Keeps.ite
    | dsimp only
    | with_reducible apply KeepsMk.fields
    | with_reducible apply KeepsMk.memFields
    | with_reducible apply KeepsMk.msixFields
    | with_reducible apply KeepsMk.logFields
    | dsimp only
    | split)

theorem rowKern_keeps : ∀ {et outType regs f}, KernKeeps (rowKern et outType regs f) := by
  intro et outType regs f
  constructor
  intro a0 s e ins last hk
  unfold rowKern
  repeat' (first
    | with_reducible exact Keeps.refl _
    | with_reducible assumption
    | with_reducible apply State.tally_keeps
    | with_reducible apply colKern1_keeps
    | with_reducible apply KernKeeps.holds
    | with_reducible apply FinKeeps.holds
    | with_reducible apply Keeps.foldl
    | with_reducible apply Keeps.foldl_fst
    | with_reducible refine Keeps.of_eq (by assumption) (Keeps.foldl_fst ?_ ?_)
    | intro _ _)

theorem colEvent_keeps : ∀ {a0 opcode kern fin h i s}, (∀ y0, KernKeeps (kern y0)) → (∀ y0, FinKeeps (fin y0)) → Keeps a0 s → Keeps a0 (colEvent opcode kern fin h i s) := by
  intro a0 opcode kern fin h i s h_kern h_fin hk0
  unfold colEvent
  repeat' (first
    | with_reducible exact Keeps.refl _
    | with_reducible assumption
    | with_reducible apply h_kern
    | with_reducible apply h_fin
    | with_reducible refine Keeps.of_eq (by assumption) ?_
    | with_reducible apply State.runOp_keeps
    | with_reducible apply Keeps.foldl
    | with_reducible apply Keeps.foldl_fst
    | with_reducible refine Keeps.of_eq (by assumption) (Keeps.foldl_fst ?_ ?_)
    | intro _ _
    | intro _
    | with_reducible apply Keeps.ite
    | simp only [Keeps.mk_eq]
    | with_reducible apply KeepsMk.fields
    | with_reducible apply KeepsMk.memFields
    | with_reducible apply KeepsMk.msixFields
    | with_reducible apply KeepsMk.logFields
    | dsimp only
    | split)

theorem execFilterCmp_keeps : ∀ h i s, NextKeeps s (execFilterCmp h i s) := by
  intro h i s
  unfold execFilterCmp
  repeat' (first
    | with_reducible apply NextKeeps.next
    | with_reducible apply NextKeeps.ite
    | with_reducible exact Keeps.refl _
    | with_reducible assumption
    | with_reducible apply colEvent_keeps
    | with_reducible apply endAlone_keeps
    | with_reducible apply rowKern_keeps
    | with_reducible apply KernKeeps.holds
    | with_reducible apply FinKeeps.holds
    | with_reducible apply Keeps.foldl
    | with_reducible apply Keeps.foldl_fst
    | with_reducible refine Keeps.of_eq (by assumption) (Keeps.foldl_fst ?_ ?_)
    | intro _ _
    | intro _)

theorem maskKern_keeps : ∀ {f}, KernKeeps (maskKern f) := by
  intro f
  constructor
  intro a0 s e ins last hk
  unfold maskKern
  repeat' (first
    | with_reducible exact Keeps.refl _
    | with_reducible assumption
    | with_reducible apply colKern2_keeps
    | with_reducible apply KernKeeps.holds
    | with_reducible apply FinKeeps.holds
    | with_reducible apply Keeps.foldl
    | with_reducible apply Keeps.foldl_fst
    | with_reducible refine Keeps.of_eq (by assumption) (Keeps.foldl_fst ?_ ?_)
    | intro _ _
    | intro _)

theorem execMaskAnd_keeps : ∀ h i s, NextKeeps s (execMaskAnd h i s) := by
  intro h i s
  unfold execMaskAnd
  repeat' (first
    | with_reducible apply NextKeeps.next
    | with_reducible apply NextKeeps.ite
    | with_reducible exact Keeps.refl _
    | with_reducible assumption
    | with_reducible apply colEvent_keeps
    | with_reducible apply endAlone_keeps
    | with_reducible apply maskKern_keeps
    | with_reducible apply KernKeeps.holds
    | with_reducible apply FinKeeps.holds
    | with_reducible apply Keeps.foldl
    | with_reducible apply Keeps.foldl_fst
    | with_reducible refine Keeps.of_eq (by assumption) (Keeps.foldl_fst ?_ ?_)
    | intro _ _
    | intro _)

theorem execMaskOr_keeps : ∀ h i s, NextKeeps s (execMaskOr h i s) := by
  intro h i s
  unfold execMaskOr
  repeat' (first
    | with_reducible apply NextKeeps.next
    | with_reducible apply NextKeeps.ite
    | with_reducible exact Keeps.refl _
    | with_reducible assumption
    | with_reducible apply colEvent_keeps
    | with_reducible apply endAlone_keeps
    | with_reducible apply maskKern_keeps
    | with_reducible apply KernKeeps.holds
    | with_reducible apply FinKeeps.holds
    | with_reducible apply Keeps.foldl
    | with_reducible apply Keeps.foldl_fst
    | with_reducible refine Keeps.of_eq (by assumption) (Keeps.foldl_fst ?_ ?_)
    | intro _ _
    | intro _)

theorem execMaskNot_keeps : ∀ h i s, NextKeeps s (execMaskNot h i s) := by
  intro h i s
  unfold execMaskNot
  repeat' (first
    | with_reducible apply NextKeeps.next
    | with_reducible apply NextKeeps.ite
    | with_reducible exact Keeps.refl _
    | with_reducible assumption
    | with_reducible apply colEvent_keeps
    | with_reducible apply endAlone_keeps
    | with_reducible apply rowKern_keeps
    | with_reducible apply KernKeeps.holds
    | with_reducible apply FinKeeps.holds
    | with_reducible apply Keeps.foldl
    | with_reducible apply Keeps.foldl_fst
    | with_reducible refine Keeps.of_eq (by assumption) (Keeps.foldl_fst ?_ ?_)
    | intro _ _
    | intro _)

theorem filterKern_keeps : ∀ {e0}, KernKeeps (filterKern e0) := by
  intro e0
  constructor
  intro a0 s e ins last hk
  unfold filterKern
  repeat' (first
    | with_reducible exact Keeps.refl _
    | with_reducible assumption
    | with_reducible apply State.vcount64_keeps
    | with_reducible apply colKern2_keeps
    | with_reducible apply KernKeeps.holds
    | with_reducible apply FinKeeps.holds
    | with_reducible apply Keeps.foldl
    | with_reducible apply Keeps.foldl_fst
    | with_reducible refine Keeps.of_eq (by assumption) (Keeps.foldl_fst ?_ ?_)
    | intro _ _)

theorem execFilterMask_keeps : ∀ h i s, NextKeeps s (execFilterMask h i s) := by
  intro h i s
  unfold execFilterMask
  repeat' (first
    | with_reducible apply NextKeeps.next
    | with_reducible apply NextKeeps.ite
    | with_reducible exact Keeps.refl _
    | with_reducible assumption
    | with_reducible apply filterKern_keeps
    | with_reducible apply colEvent_keeps
    | with_reducible apply endAlone_keeps
    | with_reducible apply KernKeeps.holds
    | with_reducible apply FinKeeps.holds
    | with_reducible apply Keeps.foldl
    | with_reducible apply Keeps.foldl_fst
    | with_reducible refine Keeps.of_eq (by assumption) (Keeps.foldl_fst ?_ ?_)
    | intro _ _
    | intro _)

theorem hashKern_keeps : ∀ {e0}, KernKeeps (hashKern e0) := by
  intro e0
  constructor
  intro a0 s e ins last hk
  unfold hashKern
  repeat' (first
    | with_reducible exact Keeps.refl _
    | with_reducible assumption
    | with_reducible apply colKern2_keeps
    | with_reducible apply rowKern_keeps
    | with_reducible apply KernKeeps.holds
    | with_reducible apply FinKeeps.holds
    | with_reducible apply Keeps.foldl
    | with_reducible apply Keeps.foldl_fst
    | with_reducible refine Keeps.of_eq (by assumption) (Keeps.foldl_fst ?_ ?_)
    | intro _ _
    | intro _
    | with_reducible apply Keeps.ite
    | simp only [Keeps.mk_eq]
    | with_reducible apply KeepsMk.fields
    | with_reducible apply KeepsMk.memFields
    | with_reducible apply KeepsMk.msixFields
    | with_reducible apply KeepsMk.logFields
    | dsimp only
    | split)

theorem execHash_keeps : ∀ h i s, NextKeeps s (execHash h i s) := by
  intro h i s
  unfold execHash
  repeat' (first
    | with_reducible apply NextKeeps.next
    | with_reducible apply NextKeeps.ite
    | with_reducible exact Keeps.refl _
    | with_reducible assumption
    | with_reducible apply colEvent_keeps
    | with_reducible apply endAlone_keeps
    | with_reducible apply hashKern_keeps
    | with_reducible apply KernKeeps.holds
    | with_reducible apply FinKeeps.holds
    | with_reducible apply Keeps.foldl
    | with_reducible apply Keeps.foldl_fst
    | with_reducible refine Keeps.of_eq (by assumption) (Keeps.foldl_fst ?_ ?_)
    | intro _ _
    | intro _)

theorem execHashBucket_keeps : ∀ h i s, NextKeeps s (execHashBucket h i s) := by
  intro h i s
  unfold execHashBucket
  repeat' (first
    | with_reducible apply NextKeeps.next
    | with_reducible apply NextKeeps.ite
    | with_reducible exact Keeps.refl _
    | with_reducible assumption
    | with_reducible apply colEvent_keeps
    | with_reducible apply endAlone_keeps
    | with_reducible apply rowKern_keeps
    | with_reducible apply KernKeeps.holds
    | with_reducible apply FinKeeps.holds
    | with_reducible apply Keeps.foldl
    | with_reducible apply Keeps.foldl_fst
    | with_reducible refine Keeps.of_eq (by assumption) (Keeps.foldl_fst ?_ ?_)
    | intro _ _
    | intro _)

theorem execWidthBucket_keeps : ∀ h i s, NextKeeps s (execWidthBucket h i s) := by
  intro h i s
  unfold execWidthBucket
  repeat' (first
    | with_reducible apply NextKeeps.next
    | with_reducible apply NextKeeps.ite
    | with_reducible exact Keeps.refl _
    | with_reducible assumption
    | with_reducible apply colEvent_keeps
    | with_reducible apply endAlone_keeps
    | with_reducible apply rowKern_keeps
    | with_reducible apply KernKeeps.holds
    | with_reducible apply FinKeeps.holds
    | with_reducible apply Keeps.foldl
    | with_reducible apply Keeps.foldl_fst
    | with_reducible refine Keeps.of_eq (by assumption) (Keeps.foldl_fst ?_ ?_)
    | intro _ _
    | intro _)

theorem boundKern_keeps : ∀ {e0}, KernKeeps (boundKern e0) := by
  intro e0
  constructor
  intro a0 s e ins last hk
  unfold boundKern
  repeat' (first
    | with_reducible exact Keeps.refl _
    | with_reducible assumption
    | with_reducible apply State.opTable_keeps
    | with_reducible apply State.getCol_keeps
    | with_reducible apply KernOut.bad_keeps
    | with_reducible apply rowKern_keeps
    | with_reducible apply KernKeeps.holds
    | with_reducible apply FinKeeps.holds
    | with_reducible refine Keeps.of_eq (by assumption) ?_
    | with_reducible refine Keeps.of_kern (by assumption) ?_
    | with_reducible apply Keeps.foldl
    | with_reducible apply Keeps.foldl_fst
    | with_reducible refine Keeps.of_eq (by assumption) (Keeps.foldl_fst ?_ ?_)
    | intro _ _
    | intro _
    | with_reducible apply Keeps.ite
    | dsimp only
    | with_reducible apply KeepsMk.fields
    | with_reducible apply KeepsMk.memFields
    | with_reducible apply KeepsMk.msixFields
    | with_reducible apply KeepsMk.logFields
    | dsimp only
    | split)

theorem execBoundBucket_keeps : ∀ h i s, NextKeeps s (execBoundBucket h i s) := by
  intro h i s
  unfold execBoundBucket
  repeat' (first
    | with_reducible apply NextKeeps.next
    | with_reducible apply NextKeeps.ite
    | with_reducible exact Keeps.refl _
    | with_reducible assumption
    | with_reducible apply boundKern_keeps
    | with_reducible apply colEvent_keeps
    | with_reducible apply endAlone_keeps
    | with_reducible apply KernKeeps.holds
    | with_reducible apply FinKeeps.holds
    | with_reducible apply Keeps.foldl
    | with_reducible apply Keeps.foldl_fst
    | with_reducible refine Keeps.of_eq (by assumption) (Keeps.foldl_fst ?_ ?_)
    | intro _ _
    | intro _)

theorem normKern_keeps : ∀ {f e0}, KernKeeps (normKern f e0) := by
  intro f e0
  constructor
  intro a0 s e ins last hk
  unfold normKern
  repeat' (first
    | with_reducible exact Keeps.refl _
    | with_reducible assumption
    | with_reducible apply State.tally_keeps
    | with_reducible apply colKern1_keeps
    | with_reducible apply KernKeeps.holds
    | with_reducible apply FinKeeps.holds
    | with_reducible apply Keeps.foldl
    | with_reducible apply Keeps.foldl_fst
    | with_reducible refine Keeps.of_eq (by assumption) (Keeps.foldl_fst ?_ ?_)
    | intro _ _)

theorem execClip_keeps : ∀ h i s, NextKeeps s (execClip h i s) := by
  intro h i s
  unfold execClip
  repeat' (first
    | with_reducible apply NextKeeps.next
    | with_reducible apply NextKeeps.ite
    | with_reducible exact Keeps.refl _
    | with_reducible assumption
    | with_reducible apply colEvent_keeps
    | with_reducible apply endAlone_keeps
    | with_reducible apply normKern_keeps
    | with_reducible apply KernKeeps.holds
    | with_reducible apply FinKeeps.holds
    | with_reducible apply Keeps.foldl
    | with_reducible apply Keeps.foldl_fst
    | with_reducible refine Keeps.of_eq (by assumption) (Keeps.foldl_fst ?_ ?_)
    | intro _ _
    | intro _)

theorem execLog1p_keeps : ∀ h i s, NextKeeps s (execLog1p h i s) := by
  intro h i s
  unfold execLog1p
  repeat' (first
    | with_reducible apply NextKeeps.next
    | with_reducible apply NextKeeps.ite
    | with_reducible exact Keeps.refl _
    | with_reducible assumption
    | with_reducible apply colEvent_keeps
    | with_reducible apply endAlone_keeps
    | with_reducible apply normKern_keeps
    | with_reducible apply KernKeeps.holds
    | with_reducible apply FinKeeps.holds
    | with_reducible apply Keeps.foldl
    | with_reducible apply Keeps.foldl_fst
    | with_reducible refine Keeps.of_eq (by assumption) (Keeps.foldl_fst ?_ ?_)
    | intro _ _
    | intro _)

theorem execSlog1p_keeps : ∀ h i s, NextKeeps s (execSlog1p h i s) := by
  intro h i s
  unfold execSlog1p
  repeat' (first
    | with_reducible apply NextKeeps.next
    | with_reducible apply NextKeeps.ite
    | with_reducible exact Keeps.refl _
    | with_reducible assumption
    | with_reducible apply colEvent_keeps
    | with_reducible apply endAlone_keeps
    | with_reducible apply normKern_keeps
    | with_reducible apply KernKeeps.holds
    | with_reducible apply FinKeeps.holds
    | with_reducible apply Keeps.foldl
    | with_reducible apply Keeps.foldl_fst
    | with_reducible refine Keeps.of_eq (by assumption) (Keeps.foldl_fst ?_ ?_)
    | intro _ _
    | intro _)

theorem paramKern_keeps : ∀ {e0}, KernKeeps (paramKern e0) := by
  intro e0
  constructor
  intro a0 s e ins last hk
  unfold paramKern
  repeat' (first
    | with_reducible exact Keeps.refl _
    | with_reducible assumption
    | with_reducible apply State.opTable_keeps
    | with_reducible apply State.getCol_keeps
    | with_reducible apply KernOut.bad_keeps
    | with_reducible apply normKern_keeps
    | with_reducible apply KernKeeps.holds
    | with_reducible apply FinKeeps.holds
    | with_reducible refine Keeps.of_eq (by assumption) ?_
    | with_reducible refine Keeps.of_kern (by assumption) ?_
    | with_reducible apply Keeps.foldl
    | with_reducible apply Keeps.foldl_fst
    | with_reducible refine Keeps.of_eq (by assumption) (Keeps.foldl_fst ?_ ?_)
    | intro _ _
    | intro _
    | with_reducible apply Keeps.ite
    | dsimp only
    | with_reducible apply KeepsMk.fields
    | with_reducible apply KeepsMk.memFields
    | with_reducible apply KeepsMk.msixFields
    | with_reducible apply KeepsMk.logFields
    | dsimp only
    | split)

theorem execMinmax_keeps : ∀ h i s, NextKeeps s (execMinmax h i s) := by
  intro h i s
  unfold execMinmax
  repeat' (first
    | with_reducible apply NextKeeps.next
    | with_reducible apply NextKeeps.ite
    | with_reducible exact Keeps.refl _
    | with_reducible assumption
    | with_reducible apply paramKern_keeps
    | with_reducible apply colEvent_keeps
    | with_reducible apply endAlone_keeps
    | with_reducible apply KernKeeps.holds
    | with_reducible apply FinKeeps.holds
    | with_reducible apply Keeps.foldl
    | with_reducible apply Keeps.foldl_fst
    | with_reducible refine Keeps.of_eq (by assumption) (Keeps.foldl_fst ?_ ?_)
    | intro _ _
    | intro _)

theorem execZscore_keeps : ∀ h i s, NextKeeps s (execZscore h i s) := by
  intro h i s
  unfold execZscore
  repeat' (first
    | with_reducible apply NextKeeps.next
    | with_reducible apply NextKeeps.ite
    | with_reducible exact Keeps.refl _
    | with_reducible assumption
    | with_reducible apply paramKern_keeps
    | with_reducible apply colEvent_keeps
    | with_reducible apply endAlone_keeps
    | with_reducible apply KernKeeps.holds
    | with_reducible apply FinKeeps.holds
    | with_reducible apply Keeps.foldl
    | with_reducible apply Keeps.foldl_fst
    | with_reducible refine Keeps.of_eq (by assumption) (Keeps.foldl_fst ?_ ?_)
    | intro _ _
    | intro _)

theorem statsKern_keeps : ∀ {e0}, KernKeeps (statsKern e0) := by
  intro e0
  constructor
  intro a0 s e ins last hk
  unfold statsKern
  repeat' (first
    | with_reducible exact Keeps.refl _
    | with_reducible assumption
    | with_reducible apply State.vcount_keeps
    | with_reducible apply colKern1_keeps
    | with_reducible apply KernKeeps.holds
    | with_reducible apply FinKeeps.holds
    | with_reducible apply Keeps.foldl
    | with_reducible apply Keeps.foldl_fst
    | with_reducible refine Keeps.of_eq (by assumption) (Keeps.foldl_fst ?_ ?_)
    | intro _ _)

theorem execStats_keeps (h i : Nat) (s : State) : NextKeeps s (execStats h i s) :=
  NextKeeps.next (colEvent_keeps (fun _ => statsKern_keeps) (fun _ => ⟨fun hk => KernOut.ok_keeps hk⟩) (Keeps.refl s))

theorem execStatsRecordEmit_keeps : ∀ h i s, NextKeeps s (execStatsRecordEmit h i s) := by
  intro h i s
  unfold execStatsRecordEmit
  repeat' (first
    | with_reducible apply NextKeeps.next
    | with_reducible apply NextKeeps.ite
    | with_reducible exact Keeps.refl _
    | with_reducible assumption
    | with_reducible apply State.flushAll_keeps
    | with_reducible apply State.updOp_keeps
    | with_reducible apply Keeps.foldl
    | with_reducible apply Keeps.foldl_fst
    | with_reducible refine Keeps.of_eq (by assumption) (Keeps.foldl_fst ?_ ?_)
    | intro _ _
    | intro _
    | with_reducible apply Keeps.ite
    | dsimp only
    | with_reducible apply KeepsMk.fields
    | with_reducible apply KeepsMk.memFields
    | with_reducible apply KeepsMk.msixFields
    | with_reducible apply KeepsMk.logFields
    | dsimp only
    | split)

/-! ### Machine/Samples.lean -/

theorem splitKern_keeps : KernKeeps splitKern := by
  constructor
  intro a0 s e ins last hk
  unfold splitKern
  repeat' (first
    | with_reducible exact Keeps.refl _
    | with_reducible assumption
    | with_reducible apply KernOut.bad_keeps
    | with_reducible apply KernOut.ok_keeps
    | with_reducible refine Keeps.of_kern (by assumption) ?_
    | with_reducible apply Keeps.foldl
    | with_reducible apply Keeps.foldl_fst
    | with_reducible refine Keeps.of_eq (by assumption) (Keeps.foldl_fst ?_ ?_)
    | intro _ _
    | intro _
    | with_reducible apply Keeps.ite
    | dsimp only
    | with_reducible apply KeepsMk.fields
    | with_reducible apply KeepsMk.memFields
    | with_reducible apply KeepsMk.msixFields
    | with_reducible apply KeepsMk.logFields
    | dsimp only
    | split)

theorem sampleEvent_keeps : ∀ kind kern outs h i s, (KernKeeps kern) → NextKeeps s (sampleEvent kind kern outs h i s) := by
  intro kind kern outs h i s h_kern
  unfold sampleEvent
  repeat' (first
    | with_reducible apply NextKeeps.next
    | with_reducible apply NextKeeps.ite
    | with_reducible apply h_kern
    | with_reducible refine Keeps.of_eq (by assumption) ?_
    | with_reducible exact Keeps.refl _
    | with_reducible assumption
    | with_reducible apply State.runOp_keeps
    | with_reducible apply endAlone_keeps
    | with_reducible apply KernKeeps.holds
    | with_reducible apply FinKeeps.holds
    | with_reducible apply Keeps.foldl
    | with_reducible apply Keeps.foldl_fst
    | with_reducible refine Keeps.of_eq (by assumption) (Keeps.foldl_fst ?_ ?_)
    | intro _ _
    | intro _
    | with_reducible apply Keeps.ite
    | simp only [Keeps.mk_eq]
    | with_reducible apply KeepsMk.fields
    | with_reducible apply KeepsMk.memFields
    | with_reducible apply KeepsMk.msixFields
    | with_reducible apply KeepsMk.logFields
    | dsimp only
    | split)

theorem execSampleSplit_keeps : ∀ h i s, NextKeeps s (execSampleSplit h i s) := by
  intro h i s
  unfold execSampleSplit
  repeat' (first
    | with_reducible apply NextKeeps.next
    | with_reducible apply NextKeeps.ite
    | with_reducible exact Keeps.refl _
    | with_reducible assumption
    | with_reducible apply sampleEvent_keeps
    | with_reducible apply splitKern_keeps)

theorem State.release_keeps : ∀ {a0 s e}, Keeps a0 s → Keeps a0 (State.release s e).1 := by
  intro a0 s e hk0
  unfold State.release
  repeat' (first
    | with_reducible exact Keeps.refl _
    | with_reducible assumption
    | with_reducible apply State.finishSlots_keeps
    | with_reducible apply State.readSlot_keeps
    | with_reducible apply State.updOp_keeps
    | with_reducible refine Keeps.of_eq (by assumption) ?_
    | with_reducible apply Keeps.foldl
    | with_reducible apply Keeps.foldl_fst
    | with_reducible refine Keeps.of_eq (by assumption) (Keeps.foldl_fst ?_ ?_)
    | intro _ _
    | intro _
    | with_reducible apply Keeps.ite
    | dsimp only
    | with_reducible apply KeepsMk.fields
    | with_reducible apply KeepsMk.memFields
    | with_reducible apply KeepsMk.msixFields
    | with_reducible apply KeepsMk.logFields
    | dsimp only
    | split)

theorem State.releaseAll_keeps' : ∀ {s e x0}, Keeps s (State.releaseAll s e x0).1 := by
  intro s e x0
  fun_induction State.releaseAll s e x0
  all_goals
  repeat' (first
    | with_reducible exact Keeps.refl _
    | with_reducible assumption
    | with_reducible refine Keeps.trans ?_ (by assumption)
    | with_reducible refine Keeps.trans ?_ (Keeps.of_eq (by assumption) (by assumption))
    | with_reducible apply State.release_keeps
    | with_reducible refine Keeps.of_eq (by assumption) ?_)

theorem State.releaseAll_keeps : ∀ {a0 s e x0}, Keeps a0 s → Keeps a0 (State.releaseAll s e x0).1 := by
  intro a0 s e x0 hk0
  exact hk0.trans (State.releaseAll_keeps')

theorem State.finishEnds_keeps : ∀ {a0 s e}, Keeps a0 s → Keeps a0 (State.finishEnds s e) := by
  intro a0 s e hk0
  unfold State.finishEnds
  repeat' (first
    | with_reducible exact Keeps.refl _
    | with_reducible assumption
    | with_reducible apply State.finishSlots_keeps
    | with_reducible apply Keeps.foldl
    | with_reducible apply Keeps.foldl_fst
    | with_reducible refine Keeps.of_eq (by assumption) (Keeps.foldl_fst ?_ ?_)
    | intro _ _
    | intro _
    | with_reducible apply Keeps.ite
    | simp only [Keeps.mk_eq]
    | with_reducible apply KeepsMk.fields
    | with_reducible apply KeepsMk.memFields
    | with_reducible apply KeepsMk.msixFields
    | with_reducible apply KeepsMk.logFields
    | dsimp only
    | split)

theorem State.mergeTail_keeps : ∀ {a0 s e}, Keeps a0 s → Keeps a0 (State.mergeTail s e) := by
  intro a0 s e hk0
  unfold State.mergeTail
  repeat' (first
    | with_reducible exact Keeps.refl _
    | with_reducible assumption
    | with_reducible apply State.finishEnds_keeps
    | with_reducible apply State.opFault_keeps
    | with_reducible apply State.updOp_keeps
    | with_reducible apply Keeps.foldl
    | with_reducible apply Keeps.foldl_fst
    | with_reducible refine Keeps.of_eq (by assumption) (Keeps.foldl_fst ?_ ?_)
    | intro _ _
    | intro _
    | with_reducible apply Keeps.ite
    | simp only [Keeps.mk_eq]
    | with_reducible apply KeepsMk.fields
    | with_reducible apply KeepsMk.memFields
    | with_reducible apply KeepsMk.msixFields
    | with_reducible apply KeepsMk.logFields
    | dsimp only
    | split)

theorem State.mergeStep_keeps : ∀ {a0 s e}, Keeps a0 s → Keeps a0 (State.mergeStep s e) := by
  intro a0 s e hk0
  unfold State.mergeStep
  repeat' (first
    | with_reducible exact Keeps.refl _
    | with_reducible assumption
    | with_reducible apply State.finishEnds_keeps
    | with_reducible apply State.releaseAll_keeps
    | with_reducible apply State.mergeTail_keeps
    | with_reducible apply State.flushAll_keeps
    | with_reducible apply State.vcount64_keeps
    | with_reducible apply State.opFault_keeps
    | with_reducible apply State.vcount_keeps
    | with_reducible apply State.updOp_keeps
    | with_reducible refine Keeps.of_eq (by assumption) ?_
    | with_reducible apply Keeps.foldl
    | with_reducible apply Keeps.foldl_fst
    | with_reducible refine Keeps.of_eq (by assumption) (Keeps.foldl_fst ?_ ?_)
    | intro _ _
    | intro _
    | with_reducible apply Keeps.ite
    | dsimp only
    | with_reducible apply KeepsMk.fields
    | with_reducible apply KeepsMk.memFields
    | with_reducible apply KeepsMk.msixFields
    | with_reducible apply KeepsMk.logFields
    | dsimp only
    | split)

theorem execSampleMerge_keeps : ∀ h i s, NextKeeps s (execSampleMerge h i s) := by
  intro h i s
  unfold execSampleMerge
  repeat' (first
    | with_reducible apply NextKeeps.next
    | with_reducible apply NextKeeps.ite
    | with_reducible exact Keeps.refl _
    | with_reducible assumption
    | with_reducible apply State.mergeStep_keeps
    | with_reducible apply Keeps.foldl
    | with_reducible apply Keeps.foldl_fst
    | with_reducible refine Keeps.of_eq (by assumption) (Keeps.foldl_fst ?_ ?_)
    | intro _ _
    | intro _
    | with_reducible apply Keeps.ite
    | simp only [Keeps.mk_eq]
    | with_reducible apply KeepsMk.fields
    | with_reducible apply KeepsMk.memFields
    | with_reducible apply KeepsMk.msixFields
    | with_reducible apply KeepsMk.logFields
    | dsimp only
    | split)

theorem drawKern_keeps : KernKeeps drawKern := by
  constructor
  intro a0 s e ins last hk
  unfold drawKern
  repeat' (first
    | with_reducible exact Keeps.refl _
    | with_reducible assumption
    | with_reducible apply KernOut.bad_keeps
    | with_reducible apply KernOut.ok_keeps
    | with_reducible refine Keeps.of_kern (by assumption) ?_
    | with_reducible apply Keeps.foldl
    | with_reducible apply Keeps.foldl_fst
    | with_reducible refine Keeps.of_eq (by assumption) (Keeps.foldl_fst ?_ ?_)
    | intro _ _
    | intro _
    | with_reducible apply Keeps.ite
    | dsimp only
    | with_reducible apply KeepsMk.fields
    | with_reducible apply KeepsMk.memFields
    | with_reducible apply KeepsMk.msixFields
    | with_reducible apply KeepsMk.logFields
    | dsimp only
    | split)

theorem execAugDraw_keeps : ∀ h i s, NextKeeps s (execAugDraw h i s) := by
  intro h i s
  unfold execAugDraw
  repeat' (first
    | with_reducible apply NextKeeps.next
    | with_reducible apply NextKeeps.ite
    | with_reducible exact Keeps.refl _
    | with_reducible assumption
    | with_reducible apply sampleEvent_keeps
    | with_reducible apply drawKern_keeps)

/-! ### Machine/Trellis.lean -/

theorem State.tap_keeps : ∀ {a0 s e j xi yi}, Keeps a0 s → Keeps a0 (State.tap s e j xi yi).1 := by
  intro a0 s e j xi yi hk0
  unfold State.tap
  repeat' (first
    | with_reducible exact Keeps.refl _
    | with_reducible assumption
    | with_reducible apply State.readMem_keeps
    | with_reducible refine Keeps.of_eq (by assumption) ?_
    | with_reducible apply Keeps.foldl
    | with_reducible apply Keeps.foldl_fst
    | with_reducible refine Keeps.of_eq (by assumption) (Keeps.foldl_fst ?_ ?_)
    | intro _ _
    | intro _
    | with_reducible apply Keeps.ite
    | dsimp only
    | with_reducible apply KeepsMk.fields
    | with_reducible apply KeepsMk.memFields
    | with_reducible apply KeepsMk.msixFields
    | with_reducible apply KeepsMk.logFields
    | dsimp only
    | split)

theorem State.taps_keeps' : ∀ {s e j x0}, Keeps s (State.taps s e j x0).1 := by
  intro s e j x0
  fun_induction State.taps s e j x0
  all_goals
  repeat' (first
    | with_reducible exact Keeps.refl _
    | with_reducible assumption
    | with_reducible refine Keeps.trans ?_ (by assumption)
    | with_reducible refine Keeps.trans ?_ (Keeps.of_eq (by assumption) (by assumption))
    | with_reducible apply State.tap_keeps
    | with_reducible refine Keeps.of_eq (by assumption) ?_)

theorem State.taps_keeps : ∀ {a0 s e j x0}, Keeps a0 s → Keeps a0 (State.taps s e j x0).1 := by
  intro a0 s e j x0 hk0
  exact hk0.trans (State.taps_keeps')

theorem State.pixel_keeps : ∀ {a0 s e origin j p u v}, Keeps a0 s → Keeps a0 (State.pixel s e origin j p u v).1 := by
  intro a0 s e origin j p u v hk0
  unfold State.pixel
  repeat' (first
    | with_reducible exact Keeps.refl _
    | with_reducible assumption
    | with_reducible apply State.taps_keeps
    | with_reducible refine Keeps.of_eq (by assumption) ?_
    | with_reducible apply Keeps.foldl
    | with_reducible apply Keeps.foldl_fst
    | with_reducible refine Keeps.of_eq (by assumption) (Keeps.foldl_fst ?_ ?_)
    | intro _ _
    | intro _
    | with_reducible apply Keeps.ite
    | dsimp only
    | with_reducible apply KeepsMk.fields
    | with_reducible apply KeepsMk.memFields
    | with_reducible apply KeepsMk.msixFields
    | with_reducible apply KeepsMk.logFields
    | dsimp only
    | split)

theorem State.pixels_keeps' : ∀ {s e origin j p x0 x1}, Keeps s (State.pixels s e origin j p x0 x1).1 := by
  intro s e origin j p x0 x1
  fun_induction State.pixels s e origin j p x0 x1
  all_goals
  repeat' (first
    | with_reducible exact Keeps.refl _
    | with_reducible assumption
    | with_reducible refine Keeps.trans ?_ (by assumption)
    | with_reducible refine Keeps.trans ?_ (Keeps.of_eq (by assumption) (by assumption))
    | with_reducible apply State.vcount64_keeps
    | with_reducible apply State.writeMem_keeps
    | with_reducible apply State.vcount_keeps
    | with_reducible apply State.pixel_keeps
    | with_reducible refine Keeps.of_eq (by assumption) ?_
    | with_reducible apply Keeps.foldl
    | with_reducible apply Keeps.foldl_fst
    | with_reducible refine Keeps.of_eq (by assumption) (Keeps.foldl_fst ?_ ?_)
    | intro _ _
    | intro _
    | with_reducible apply Keeps.ite)

theorem State.pixels_keeps : ∀ {a0 s e origin j p x0 x1}, Keeps a0 s → Keeps a0 (State.pixels s e origin j p x0 x1).1 := by
  intro a0 s e origin j p x0 x1 hk0
  exact hk0.trans (State.pixels_keeps')

theorem State.trellisRecord_keeps : ∀ {a0 s e r}, Keeps a0 s → Keeps a0 (State.trellisRecord s e r).1 := by
  intro a0 s e r hk0
  unfold State.trellisRecord
  repeat' (first
    | with_reducible exact Keeps.refl _
    | with_reducible assumption
    | with_reducible apply State.chargeRota_keeps
    | with_reducible apply State.opTable_keeps
    | with_reducible apply State.pixels_keeps
    | with_reducible apply State.vcount_keeps
    | with_reducible apply State.free_keeps
    | with_reducible refine Keeps.of_eq (by assumption) ?_
    | with_reducible refine Keeps.of_eq2 (by assumption) ?_
    | with_reducible apply Keeps.foldl
    | with_reducible apply Keeps.foldl_fst
    | with_reducible refine Keeps.of_eq (by assumption) (Keeps.foldl_fst ?_ ?_)
    | intro _ _
    | intro _
    | with_reducible apply Keeps.ite
    | dsimp only
    | with_reducible apply KeepsMk.fields
    | with_reducible apply KeepsMk.memFields
    | with_reducible apply KeepsMk.msixFields
    | with_reducible apply KeepsMk.logFields
    | dsimp only
    | split)

theorem State.trellisStep_keeps : ∀ {a0 s e}, Keeps a0 s → Keeps a0 (State.trellisStep s e) := by
  intro a0 s e hk0
  unfold State.trellisStep
  repeat' (first
    | with_reducible exact Keeps.refl _
    | with_reducible assumption
    | with_reducible apply State.trellisRecord_keeps
    | with_reducible apply KernOut.settle_keeps
    | with_reducible apply State.flushAll_keeps
    | with_reducible apply State.readSlot_keeps
    | with_reducible apply State.opFault_keeps
    | with_reducible apply KernOut.ok_keeps
    | with_reducible apply endAlone_keeps
    | with_reducible apply KernKeeps.holds
    | with_reducible apply FinKeeps.holds
    | with_reducible refine Keeps.of_eq (by assumption) ?_
    | with_reducible refine Keeps.of_kern (by assumption) ?_
    | with_reducible apply Keeps.foldl
    | with_reducible apply Keeps.foldl_fst
    | with_reducible refine Keeps.of_eq (by assumption) (Keeps.foldl_fst ?_ ?_)
    | intro _ _
    | intro _
    | with_reducible apply Keeps.ite
    | dsimp only
    | with_reducible apply KeepsMk.fields
    | with_reducible apply KeepsMk.memFields
    | with_reducible apply KeepsMk.msixFields
    | with_reducible apply KeepsMk.logFields
    | dsimp only
    | split)

theorem execTrellisJob_keeps : ∀ h i s, NextKeeps s (execTrellisJob h i s) := by
  intro h i s
  unfold execTrellisJob
  repeat' (first
    | with_reducible apply NextKeeps.next
    | with_reducible apply NextKeeps.ite
    | with_reducible exact Keeps.refl _
    | with_reducible assumption
    | with_reducible apply State.trellisStep_keeps
    | with_reducible apply Keeps.foldl
    | with_reducible apply Keeps.foldl_fst
    | with_reducible refine Keeps.of_eq (by assumption) (Keeps.foldl_fst ?_ ?_)
    | intro _ _
    | intro _
    | with_reducible apply Keeps.ite
    | simp only [Keeps.mk_eq]
    | with_reducible apply KeepsMk.fields
    | with_reducible apply KeepsMk.memFields
    | with_reducible apply KeepsMk.msixFields
    | with_reducible apply KeepsMk.logFields
    | dsimp only
    | split)

end Sys2Proof.Machine
end

