-- ==== Sys2Proof/Laws/KeepsBeat.lean ====
section
/-! SUPPORT. What `Keeps` says holds of every function that changes the state: publication, region updates, commits, the beat and the sensors. -/

namespace Sys2Proof.Machine

/-! ### Machine/Publish.lean -/

theorem State.deliverAll_keeps : ∀ {a0 s t h binding n rec}, Keeps a0 s → Keeps a0 (State.deliverAll s t h binding n rec) := by
  intro a0 s t h binding n rec hk0
  unfold State.deliverAll
  repeat' (first
    | with_reducible exact Keeps.refl _
    | with_reducible assumption
    | with_reducible apply State.deliver_keeps
    | with_reducible apply Keeps.foldl
    | with_reducible apply Keeps.foldl_fst
    | with_reducible refine Keeps.of_eq (by assumption) (Keeps.foldl_fst ?_ ?_)
    | intro _ _)

theorem State.issue_keeps : ∀ {a0 s x bin b tiers}, Keeps a0 s → Keeps a0 (State.issue s x bin b tiers) := by
  intro a0 s x bin b tiers hk0
  unfold State.issue
  repeat' (first
    | with_reducible exact Keeps.refl _
    | with_reducible assumption
    | with_reducible apply State.deliverAll_keeps
    | with_reducible apply State.complete_keeps
    | with_reducible apply State.vsetN_keeps
    | with_reducible apply Keeps.foldl
    | with_reducible apply Keeps.foldl_fst
    | with_reducible refine Keeps.of_eq (by assumption) (Keeps.foldl_fst ?_ ?_)
    | intro _ _
    | intro _
    | with_reducible apply Keeps.ite
    | simp only [Keeps.mk_eq]
    | with_reducible apply KeepsMk.fields
    | with_reducible apply KeepsMk.memFields
    | with_reducible apply KeepsMk.msixFields
    | with_reducible apply KeepsMk.logFields
    | dsimp only
    | split)

theorem State.noteTiers_keeps : ∀ {a0 s x tiers}, Keeps a0 s → Keeps a0 (State.noteTiers s x tiers) := by
  intro a0 s x tiers hk0
  unfold State.noteTiers
  repeat' (first
    | with_reducible exact Keeps.refl _
    | with_reducible assumption
    | with_reducible apply State.updRota_keeps
    | with_reducible apply State.vcount_keeps)

theorem State.retireBatch_keeps : ∀ {a0 s x}, Keeps a0 s → Keeps a0 (State.retireBatch s x) := by
  intro a0 s x hk0
  unfold State.retireBatch
  repeat' (first
    | with_reducible exact Keeps.refl _
    | with_reducible assumption
    | with_reducible apply State.settleOwners_keeps
    | with_reducible apply State.updTask_keeps
    | with_reducible apply Keeps.foldl
    | with_reducible apply Keeps.foldl_fst
    | with_reducible refine Keeps.of_eq (by assumption) (Keeps.foldl_fst ?_ ?_)
    | intro _ _
    | intro _
    | with_reducible apply Keeps.ite
    | simp only [Keeps.mk_eq]
    | with_reducible apply KeepsMk.fields)

theorem State.noteLate_keeps : ∀ {a0 s x}, Keeps a0 s → Keeps a0 (State.noteLate s x) := by
  intro a0 s x hk0
  unfold State.noteLate
  repeat' (first
    | with_reducible exact Keeps.refl _
    | with_reducible assumption
    | with_reducible apply State.updRota_keeps)

theorem State.countLate_keeps : ∀ {a0 s r b c}, Keeps a0 s → Keeps a0 (State.countLate s r b c) := by
  intro a0 s r b c hk0
  unfold State.countLate
  repeat' (first
    | with_reducible exact Keeps.refl _
    | with_reducible assumption
    | with_reducible apply State.vcount_keeps
    | with_reducible apply Keeps.foldl
    | with_reducible apply Keeps.foldl_fst
    | with_reducible refine Keeps.of_eq (by assumption) (Keeps.foldl_fst ?_ ?_)
    | intro _ _
    | intro _
    | with_reducible apply Keeps.ite)

theorem State.publish_keeps : ∀ {a0 s x b}, Keeps a0 s → Keeps a0 (State.publish s x b) := by
  intro a0 s x b hk0
  unfold State.publish
  repeat' (first
    | with_reducible exact Keeps.refl _
    | with_reducible assumption
    | with_reducible apply State.retireBatch_keeps
    | with_reducible apply State.noteTiers_keeps
    | with_reducible apply State.noteLate_keeps
    | with_reducible apply State.issue_keeps
    | with_reducible apply Keeps.foldl
    | with_reducible apply Keeps.foldl_fst
    | with_reducible refine Keeps.of_eq (by assumption) (Keeps.foldl_fst ?_ ?_)
    | intro _ _
    | intro _
    | with_reducible apply Keeps.ite)

theorem State.publishAbort_keeps : ∀ {a0 s x b}, Keeps a0 s → Keeps a0 (State.publishAbort s x b) := by
  intro a0 s x b hk0
  unfold State.publishAbort
  repeat' (first
    | with_reducible exact Keeps.refl _
    | with_reducible assumption
    | with_reducible apply State.retireBatch_keeps
    | with_reducible apply State.issue_keeps)

theorem State.decideDue_keeps' : ∀ {b t x0 x1 x2}, Keeps x1 (State.decideDue b t x0 x1 x2).1 := by
  intro b t x0 x1 x2
  fun_induction State.decideDue b t x0 x1 x2
  all_goals
  repeat' (first
    | with_reducible exact Keeps.refl _
    | with_reducible assumption
    | with_reducible refine Keeps.trans ?_ (by assumption)
    | with_reducible apply State.publishAbort_keeps
    | with_reducible apply State.abortTask_keeps
    | with_reducible apply State.noteLate_keeps
    | with_reducible apply State.publish_keeps
    | with_reducible apply State.vcount_keeps)

theorem State.decideDue_keeps : ∀ {a0 b t x0 x1 x2}, Keeps a0 x1 → Keeps a0 (State.decideDue b t x0 x1 x2).1 := by
  intro a0 b t x0 x1 x2 hk0
  exact hk0.trans (State.decideDue_keeps')

theorem State.slip_keeps : ∀ {a0 s b t}, Keeps a0 s → Keeps a0 (State.slip s b t) := by
  intro a0 s b t hk0
  unfold State.slip
  repeat' (first
    | with_reducible exact Keeps.refl _
    | with_reducible assumption
    | with_reducible apply State.vcount_keeps
    | with_reducible apply Keeps.foldl
    | with_reducible apply Keeps.foldl_fst
    | with_reducible refine Keeps.of_eq (by assumption) (Keeps.foldl_fst ?_ ?_)
    | intro _ _
    | intro _
    | with_reducible apply Keeps.ite
    | simp only [Keeps.mk_eq]
    | with_reducible apply KeepsMk.fields)

theorem State.signalPairs_keeps : ∀ {a0 s t qs}, Keeps a0 s → Keeps a0 (State.signalPairs s t qs) := by
  intro a0 s t qs hk0
  unfold State.signalPairs
  repeat' (first
    | with_reducible exact Keeps.refl _
    | with_reducible assumption
    | with_reducible apply State.settleQueue_keeps
    | with_reducible apply State.message_keeps
    | with_reducible apply Keeps.foldl
    | with_reducible apply Keeps.foldl_fst
    | with_reducible refine Keeps.of_eq (by assumption) (Keeps.foldl_fst ?_ ?_)
    | intro _ _
    | intro _
    | with_reducible apply Keeps.ite)

theorem State.cutTenant_keeps : ∀ {a0 s b t}, Keeps a0 s → Keeps a0 (State.cutTenant s b t) := by
  intro a0 s b t hk0
  unfold State.cutTenant
  repeat' (first
    | with_reducible exact Keeps.refl _
    | with_reducible assumption
    | with_reducible apply State.signalPairs_keeps
    | with_reducible apply State.decideDue_keeps
    | with_reducible apply State.slip_keeps
    | with_reducible refine Keeps.of_eq (by assumption) ?_
    | with_reducible apply Keeps.foldl
    | with_reducible apply Keeps.foldl_fst
    | with_reducible refine Keeps.of_eq (by assumption) (Keeps.foldl_fst ?_ ?_)
    | intro _ _
    | intro _
    | with_reducible apply Keeps.ite
    | dsimp only
    | with_reducible apply KeepsMk.fields
    | with_reducible apply KeepsMk.memFields
    | with_reducible apply KeepsMk.msixFields
    | with_reducible apply KeepsMk.logFields
    | dsimp only
    | split)

theorem State.cut_keeps : ∀ {a0 s b}, Keeps a0 s → Keeps a0 (State.cut s b) := by
  intro a0 s b hk0
  unfold State.cut
  repeat' (first
    | with_reducible exact Keeps.refl _
    | with_reducible assumption
    | with_reducible apply State.cutTenant_keeps
    | with_reducible apply Keeps.foldl
    | with_reducible apply Keeps.foldl_fst
    | with_reducible refine Keeps.of_eq (by assumption) (Keeps.foldl_fst ?_ ?_)
    | intro _ _)

theorem State.shift_keeps : ∀ {a0 s k}, Keeps a0 s → Keeps a0 (State.shift s k) := by
  intro a0 s k hk0
  unfold State.shift
  repeat' (first
    | with_reducible exact Keeps.refl _
    | with_reducible assumption
    | with_reducible apply Keeps.foldl
    | with_reducible apply Keeps.foldl_fst
    | with_reducible refine Keeps.of_eq (by assumption) (Keeps.foldl_fst ?_ ?_)
    | intro _ _
    | intro _
    | with_reducible apply Keeps.ite
    | simp only [Keeps.mk_eq]
    | with_reducible apply KeepsMk.fields)

/-! ### Machine/Regions.lean -/

theorem State.poisonWord_keeps : ∀ {a0 s t dst src}, Keeps a0 s → Keeps a0 (State.poisonWord s t dst src) := by
  intro a0 s t dst src hk0
  unfold State.poisonWord
  repeat' (first
    | with_reducible exact Keeps.refl _
    | with_reducible assumption
    | with_reducible apply State.logOne_keeps
    | with_reducible apply State.setErr_keeps
    | with_reducible apply State.count_keeps
    | with_reducible apply Keeps.foldl
    | with_reducible apply Keeps.foldl_fst
    | with_reducible refine Keeps.of_eq (by assumption) (Keeps.foldl_fst ?_ ?_)
    | intro _ _
    | intro _
    | with_reducible apply Keeps.ite
    | simp only [Keeps.mk_eq]
    | with_reducible apply KeepsMk.fields
    | with_reducible apply KeepsMk.memFields
    | with_reducible apply KeepsMk.msixFields
    | with_reducible apply KeepsMk.logFields
    | dsimp only
    | split)

theorem State.copyIn_keeps' : ∀ {s t src dst o x0 x1}, Keeps s (State.copyIn s t src dst o x0 x1) := by
  intro s t src dst o x0 x1
  fun_induction State.copyIn s t src dst o x0 x1
  all_goals
  repeat' (first
    | with_reducible exact Keeps.refl _
    | with_reducible assumption
    | with_reducible refine Keeps.trans ?_ (by assumption)
    | with_reducible refine Keeps.trans ?_ (Keeps.of_eq (by assumption) (by assumption))
    | with_reducible apply State.poisonWord_keeps
    | with_reducible apply State.writeMem_keeps
    | with_reducible apply State.readMem_keeps
    | with_reducible refine Keeps.of_eq (by assumption) ?_
    | with_reducible apply Keeps.foldl
    | with_reducible apply Keeps.foldl_fst
    | with_reducible refine Keeps.of_eq (by assumption) (Keeps.foldl_fst ?_ ?_)
    | intro _ _
    | intro _
    | with_reducible apply Keeps.ite
    | simp only [Keeps.mk_eq]
    | with_reducible apply KeepsMk.fields
    | with_reducible apply KeepsMk.memFields
    | with_reducible apply KeepsMk.msixFields
    | with_reducible apply KeepsMk.logFields
    | dsimp only
    | split
    | refine Keeps.trans ?_ (by with_reducible apply_assumption)
    | dsimp +zetaDelta only)

theorem State.copyIn_keeps : ∀ {a0 s t src dst o x0 x1}, Keeps a0 s → Keeps a0 (State.copyIn s t src dst o x0 x1) := by
  intro a0 s t src dst o x0 x1 hk0
  exact hk0.trans (State.copyIn_keeps')

theorem State.copyTable_keeps : ∀ {a0 s t src dst n}, Keeps a0 s → Keeps a0 (State.copyTable s t src dst n) := by
  intro a0 s t src dst n hk0
  unfold State.copyTable
  repeat' (first
    | with_reducible exact Keeps.refl _
    | with_reducible assumption
    | with_reducible apply State.copyIn_keeps)

theorem State.placeBytes_keeps' : ∀ {s t dst o x0 x1}, Keeps s (State.placeBytes s t dst o x0 x1) := by
  intro s t dst o x0 x1
  fun_induction State.placeBytes s t dst o x0 x1
  all_goals
  repeat' (first
    | with_reducible exact Keeps.refl _
    | with_reducible assumption
    | with_reducible refine Keeps.trans ?_ (by assumption)
    | with_reducible apply State.writeMem_keeps)

theorem State.placeBytes_keeps : ∀ {a0 s t dst o x0 x1}, Keeps a0 s → Keeps a0 (State.placeBytes s t dst o x0 x1) := by
  intro a0 s t dst o x0 x1 hk0
  exact hk0.trans (State.placeBytes_keeps')

theorem State.fetchTable_keeps : ∀ {a0 s r bind useFlight dst i}, Keeps a0 s → Keeps a0 (State.fetchTable s r bind useFlight dst i) := by
  intro a0 s r bind useFlight dst i hk0
  unfold State.fetchTable
  repeat' (first
    | with_reducible exact Keeps.refl _
    | with_reducible assumption
    | with_reducible apply State.placeBytes_keeps
    | with_reducible apply State.copyTable_keeps
    | with_reducible apply Keeps.foldl
    | with_reducible apply Keeps.foldl_fst
    | with_reducible refine Keeps.of_eq (by assumption) (Keeps.foldl_fst ?_ ?_)
    | intro _ _
    | intro _
    | with_reducible apply Keeps.ite
    | dsimp only
    | with_reducible apply KeepsMk.fields
    | with_reducible apply KeepsMk.memFields
    | with_reducible apply KeepsMk.msixFields
    | with_reducible apply KeepsMk.logFields
    | dsimp only
    | split)

theorem State.fetchLoose_keeps : ∀ {a0 s r c o bind useFlight}, Keeps a0 s → Keeps a0 (State.fetchLoose s r c o bind useFlight) := by
  intro a0 s r c o bind useFlight hk0
  unfold State.fetchLoose
  repeat' (first
    | with_reducible exact Keeps.refl _
    | with_reducible assumption
    | with_reducible apply State.fetchTable_keeps
    | with_reducible apply Keeps.foldl
    | with_reducible apply Keeps.foldl_fst
    | with_reducible refine Keeps.of_eq (by assumption) (Keeps.foldl_fst ?_ ?_)
    | intro _ _)

theorem State.loadRota_keeps : ∀ {a0 s r}, Keeps a0 s → Keeps a0 (State.loadRota s r) := by
  intro a0 s r hk0
  unfold State.loadRota
  repeat' (first
    | with_reducible exact Keeps.refl _
    | with_reducible assumption
    | with_reducible apply State.fetchLoose_keeps
    | with_reducible apply State.copyTable_keeps
    | with_reducible apply State.updRota_keeps
    | with_reducible apply Keeps.foldl
    | with_reducible apply Keeps.foldl_fst
    | with_reducible refine Keeps.of_eq (by assumption) (Keeps.foldl_fst ?_ ?_)
    | intro _ _
    | intro _
    | with_reducible apply Keeps.ite
    | simp only [Keeps.mk_eq]
    | with_reducible apply KeepsMk.fields
    | with_reducible apply KeepsMk.memFields
    | with_reducible apply KeepsMk.msixFields
    | with_reducible apply KeepsMk.logFields
    | dsimp only
    | split)

theorem State.updRegion_keeps : ∀ {a0 s h table f}, Keeps a0 s → Keeps a0 (State.updRegion s h table f) := by
  intro a0 s h table f hk0
  unfold State.updRegion
  repeat' (first
    | with_reducible exact Keeps.refl _
    | with_reducible assumption
    | with_reducible apply State.updRota_keeps)

theorem State.updResult_keeps : ∀ {a0 s t code}, Keeps a0 s → Keeps a0 (State.updResult s t code) := by
  intro a0 s t code hk0
  unfold State.updResult
  repeat' (first
    | with_reducible exact Keeps.refl _
    | with_reducible assumption
    | with_reducible apply State.vsetF_keeps)

theorem execMemTUpdGo_keeps : ∀ t go pinned s, NextKeeps s (execMemTUpdGo t go pinned s) := by
  intro t go pinned s
  unfold execMemTUpdGo
  repeat' (first
    | with_reducible apply NextKeeps.next
    | with_reducible apply NextKeeps.ite
    | with_reducible exact Keeps.refl _
    | with_reducible assumption
    | with_reducible apply State.updRegion_keeps
    | with_reducible apply State.updResult_keeps
    | with_reducible apply State.vcount_keeps
    | with_reducible apply Keeps.foldl
    | with_reducible apply Keeps.foldl_fst
    | with_reducible refine Keeps.of_eq (by assumption) (Keeps.foldl_fst ?_ ?_)
    | intro _ _
    | intro _
    | with_reducible apply Keeps.ite
    | dsimp only
    | with_reducible apply KeepsMk.fields
    | with_reducible apply KeepsMk.memFields
    | with_reducible apply KeepsMk.msixFields
    | with_reducible apply KeepsMk.logFields
    | dsimp only
    | split)

theorem State.copySpare_keeps : ∀ {a0 s r i g src}, Keeps a0 s → Keeps a0 (State.copySpare s r i g src) := by
  intro a0 s r i g src hk0
  unfold State.copySpare
  repeat' (first
    | with_reducible exact Keeps.refl _
    | with_reducible assumption
    | with_reducible apply State.copyTable_keeps
    | with_reducible apply State.updRegion_keeps
    | with_reducible apply State.updResult_keeps
    | with_reducible apply State.readMem_keeps
    | with_reducible refine Keeps.of_eq (by assumption) ?_
    | with_reducible apply Keeps.foldl
    | with_reducible apply Keeps.foldl_fst
    | with_reducible refine Keeps.of_eq (by assumption) (Keeps.foldl_fst ?_ ?_)
    | intro _ _
    | intro _
    | with_reducible apply Keeps.ite)

theorem State.startFlight_keeps : ∀ {a0 s h table}, Keeps a0 s → Keeps a0 (State.startFlight s h table) := by
  intro a0 s h table hk0
  unfold State.startFlight
  repeat' (first
    | with_reducible exact Keeps.refl _
    | with_reducible assumption
    | with_reducible apply State.chargeRota_keeps
    | with_reducible apply State.copySpare_keeps
    | with_reducible apply State.updRegion_keeps
    | with_reducible apply State.hostRead_keeps
    | with_reducible apply Keeps.foldl
    | with_reducible apply Keeps.foldl_fst
    | with_reducible refine Keeps.of_eq (by assumption) (Keeps.foldl_fst ?_ ?_)
    | intro _ _
    | intro _
    | with_reducible apply Keeps.ite
    | dsimp only
    | with_reducible apply KeepsMk.fields
    | with_reducible apply KeepsMk.memFields
    | with_reducible apply KeepsMk.msixFields
    | with_reducible apply KeepsMk.logFields
    | dsimp only
    | split)

theorem State.landFlight_keeps : ∀ {a0 s h table}, Keeps a0 s → Keeps a0 (State.landFlight s h table) := by
  intro a0 s h table hk0
  unfold State.landFlight
  repeat' (first
    | with_reducible exact Keeps.refl _
    | with_reducible assumption
    | with_reducible apply State.placeBytes_keeps
    | with_reducible apply State.updRegion_keeps
    | with_reducible apply Keeps.foldl
    | with_reducible apply Keeps.foldl_fst
    | with_reducible refine Keeps.of_eq (by assumption) (Keeps.foldl_fst ?_ ?_)
    | intro _ _
    | intro _
    | with_reducible apply Keeps.ite
    | dsimp only
    | with_reducible apply KeepsMk.fields
    | with_reducible apply KeepsMk.memFields
    | with_reducible apply KeepsMk.msixFields
    | with_reducible apply KeepsMk.logFields
    | dsimp only
    | split)

theorem State.placeStandby_keeps : ∀ {a0 s h table}, Keeps a0 s → Keeps a0 (State.placeStandby s h table) := by
  intro a0 s h table hk0
  unfold State.placeStandby
  repeat' (first
    | with_reducible exact Keeps.refl _
    | with_reducible assumption
    | with_reducible apply State.placeBytes_keeps
    | with_reducible apply Keeps.foldl
    | with_reducible apply Keeps.foldl_fst
    | with_reducible refine Keeps.of_eq (by assumption) (Keeps.foldl_fst ?_ ?_)
    | intro _ _
    | intro _
    | with_reducible apply Keeps.ite
    | dsimp only
    | with_reducible apply KeepsMk.fields
    | with_reducible apply KeepsMk.memFields
    | with_reducible apply KeepsMk.msixFields
    | with_reducible apply KeepsMk.logFields
    | dsimp only
    | split)

theorem State.regionsAt_keeps : ∀ {a0 s}, Keeps a0 s → Keeps a0 (State.regionsAt s) := by
  intro a0 s hk0
  unfold State.regionsAt
  repeat' (first
    | with_reducible exact Keeps.refl _
    | with_reducible assumption
    | with_reducible apply State.startFlight_keeps
    | with_reducible apply State.landFlight_keeps
    | with_reducible apply Keeps.foldl
    | with_reducible apply Keeps.foldl_fst
    | with_reducible refine Keeps.of_eq (by assumption) (Keeps.foldl_fst ?_ ?_)
    | intro _ _
    | intro _
    | with_reducible apply Keeps.ite
    | dsimp only
    | with_reducible apply KeepsMk.fields
    | with_reducible apply KeepsMk.memFields
    | with_reducible apply KeepsMk.msixFields
    | with_reducible apply KeepsMk.logFields
    | dsimp only
    | split)

theorem State.loadsAt_keeps : ∀ {a0 s b}, Keeps a0 s → Keeps a0 (State.loadsAt s b) := by
  intro a0 s b hk0
  unfold State.loadsAt
  repeat' (first
    | with_reducible exact Keeps.refl _
    | with_reducible assumption
    | with_reducible apply State.loadRota_keeps
    | with_reducible apply Keeps.foldl
    | with_reducible apply Keeps.foldl_fst
    | with_reducible refine Keeps.of_eq (by assumption) (Keeps.foldl_fst ?_ ?_)
    | intro _ _
    | intro _
    | with_reducible apply Keeps.ite
    | simp only [Keeps.mk_eq]
    | with_reducible apply KeepsMk.fields
    | with_reducible apply KeepsMk.memFields
    | with_reducible apply KeepsMk.msixFields
    | with_reducible apply KeepsMk.logFields
    | dsimp only
    | split)

theorem State.zeroGranule_keeps {a0 s : State} {g : Nat} (hk : Keeps a0 s) : Keeps a0 (s.zeroGranule g) := by
  refine hk.mem fun w => ?_
  rw [Mem.wf_iff] at w ⊢
  exact ⟨sparseClear_wf w.1, w.2.1, w.2.2.1, sparseClear_wf w.2.2.2.1, w.2.2.2.2⟩

theorem execGranuleZeroed_keeps : ∀ s, NextKeeps s (execGranuleZeroed s) := by
  intro s
  unfold execGranuleZeroed
  repeat' (first
    | with_reducible apply NextKeeps.next
    | with_reducible apply NextKeeps.ite
    | with_reducible exact Keeps.refl _
    | with_reducible assumption
    | with_reducible apply State.zeroGranule_keeps
    | with_reducible apply Keeps.foldl
    | with_reducible apply Keeps.foldl_fst
    | with_reducible refine Keeps.of_eq (by assumption) (Keeps.foldl_fst ?_ ?_)
    | intro _ _
    | intro _
    | with_reducible apply Keeps.ite
    | simp only [Keeps.mk_eq]
    | with_reducible apply KeepsMk.fields
    | with_reducible apply KeepsMk.memFields
    | with_reducible apply KeepsMk.msixFields
    | with_reducible apply KeepsMk.logFields
    | dsimp only
    | split)

theorem State.scrubWords_keeps : ∀ {a0 s sp p}, Keeps a0 s → Keeps a0 (State.scrubWords s sp p) := by
  intro a0 s sp p hk0
  unfold State.scrubWords
  repeat' (first
    | with_reducible exact Keeps.refl _
    | with_reducible assumption
    | with_reducible apply State.eccRead_keeps
    | with_reducible refine Keeps.of_eq (by assumption) ?_
    | with_reducible apply Keeps.foldl
    | with_reducible apply Keeps.foldl_fst
    | with_reducible refine Keeps.of_eq (by assumption) (Keeps.foldl_fst ?_ ?_)
    | intro _ _
    | intro _
    | with_reducible apply Keeps.ite)

theorem execGuardBand_keeps : ∀ s, NextKeeps s (execGuardBand s) := by
  intro s
  unfold execGuardBand
  repeat' (first
    | with_reducible apply NextKeeps.next
    | with_reducible apply NextKeeps.ite
    | with_reducible exact Keeps.refl _
    | with_reducible assumption
    | with_reducible apply State.scrubWords_keeps
    | with_reducible apply Keeps.foldl
    | with_reducible apply Keeps.foldl_fst
    | with_reducible refine Keeps.of_eq (by assumption) (Keeps.foldl_fst ?_ ?_)
    | intro _ _
    | intro _
    | with_reducible apply Keeps.ite
    | simp only [Keeps.mk_eq]
    | with_reducible apply KeepsMk.fields
    | with_reducible apply KeepsMk.memFields)

/-! ### Machine/Commit.lean -/

theorem State.mapQps_keeps : ∀ {a0 s t quota}, Keeps a0 s → Keeps a0 (State.mapQps s t quota) := by
  intro a0 s t quota hk0
  unfold State.mapQps
  repeat' (first
    | with_reducible exact Keeps.refl _
    | with_reducible assumption
    | with_reducible apply sparseSet_wf
    | with_reducible apply sparseClear_wf
    | with_reducible apply sparseFilter_wf
    | with_reducible apply putRegs_wf
    | with_reducible apply applyKeys_wf
    | with_reducible apply Keeps.foldl
    | with_reducible apply Keeps.foldl_fst
    | with_reducible refine Keeps.of_eq (by assumption) (Keeps.foldl_fst ?_ ?_)
    | intro _ _
    | intro _
    | with_reducible apply Keeps.ite
    | simp only [Keeps.mk_eq]
    | with_reducible apply KeepsMk.fields)

theorem State.resize_keeps {a0 s : State} {t : Nat} (hk : Keeps a0 s) : Keeps a0 (s.resize t) := by
  unfold State.resize
  split
  · exact hk
  · rename_i x _
    dsimp only
    have hv : Keeps a0 (if runsLen x.hbm < fileN s.pf0 (tenKey t rTenHbmGran) then
        match grow x.hbm s.mem.hbmFree (fileN s.pf0 (tenKey t rTenHbmGran) - runsLen x.hbm) with
        | some r => { (s.updTenant t (fun x => { x with hbm := r.1 })) with mem := { s.mem with hbmFree := r.2 } }
        | none => s
      else
        (s.updTenant t (fun y => { y with hbm := (shrink x.hbm (runsLen x.hbm - fileN s.pf0 (tenKey t rTenHbmGran))).1 })).freeHbm
          (shrink x.hbm (runsLen x.hbm - fileN s.pf0 (tenKey t rTenHbmGran))).2) := by
      split
      · split
        · exact (KeepsMk.memFields (u := s) hk : _)
        · exact hk
      · exact State.freeHbm_keeps (State.updTenant_keeps hk)
    revert hv
    generalize (if runsLen x.hbm < fileN s.pf0 (tenKey t rTenHbmGran) then
        match grow x.hbm s.mem.hbmFree (fileN s.pf0 (tenKey t rTenHbmGran) - runsLen x.hbm) with
        | some r => { (s.updTenant t (fun x => { x with hbm := r.1 })) with mem := { s.mem with hbmFree := r.2 } }
        | none => s
      else
        (s.updTenant t (fun y => { y with hbm := (shrink x.hbm (runsLen x.hbm - fileN s.pf0 (tenKey t rTenHbmGran))).1 })).freeHbm
          (shrink x.hbm (runsLen x.hbm - fileN s.pf0 (tenKey t rTenHbmGran))).2) = v
    intro hv
    split
    · split
      · exact State.clearGranuleTags_keeps _ (KeepsMk.memFields (u := v) hv : _)
      · exact hv
    · exact State.freeOry_keeps (State.updTenant_keeps hv)

theorem State.cfgEvent_keeps : ∀ {a0 s b}, Keeps a0 s → Keeps a0 (State.cfgEvent s b) := by
  intro a0 s b hk0
  unfold State.cfgEvent
  repeat' (first
    | with_reducible exact Keeps.refl _
    | with_reducible assumption
    | with_reducible apply sparseSet_wf
    | with_reducible apply sparseClear_wf
    | with_reducible apply sparseFilter_wf
    | with_reducible apply putRegs_wf
    | with_reducible apply applyKeys_wf
    | with_reducible apply State.raise_keeps
    | with_reducible apply State.msg_keeps
    | with_reducible apply Keeps.foldl
    | with_reducible apply Keeps.foldl_fst
    | with_reducible refine Keeps.of_eq (by assumption) (Keeps.foldl_fst ?_ ?_)
    | intro _ _
    | intro _
    | with_reducible apply Keeps.ite)

theorem State.applyCommit_keeps {a0 s : State} {c : Commit} (hk : Keeps a0 s) : Keeps a0 (s.applyCommit c) := by
  unfold State.applyCommit
  extract_lets ks u
  have hu : Keeps a0 u := (hk.pf0 (applyKeys_wf c.snap ks)).commit (fun _ => rfl)
  clear_value u
  refine State.cfgEvent_keeps (Keeps.foldl (fun s t => ?_) hu)
  exact State.mapQps_keeps (State.resize_keeps (Keeps.refl s))

theorem State.commitAt_keeps : ∀ {a0 s b}, Keeps a0 s → Keeps a0 (State.commitAt s b) := by
  intro a0 s b hk0
  unfold State.commitAt
  repeat' (first
    | with_reducible exact Keeps.refl _
    | with_reducible assumption
    | with_reducible apply sparseSet_wf
    | with_reducible apply sparseClear_wf
    | with_reducible apply sparseFilter_wf
    | with_reducible apply putRegs_wf
    | with_reducible apply applyKeys_wf
    | with_reducible apply State.applyCommit_keeps
    | with_reducible apply Keeps.foldl
    | with_reducible apply Keeps.foldl_fst
    | with_reducible refine Keeps.of_eq (by assumption) (Keeps.foldl_fst ?_ ?_)
    | intro _ _
    | intro _
    | with_reducible apply Keeps.ite
    | simp only [Keeps.mk_eq]
    | with_reducible apply KeepsMk.fields
    | with_reducible apply KeepsMk.memFields
    | with_reducible apply KeepsMk.msixFields
    | with_reducible apply KeepsMk.logFields
    | with_reducible apply KeepsMk.files
    | exact rfl
    | dsimp only
    | split)

theorem execCfgCommit_keeps (go : Bool) (s : State) : NextKeeps s (execCfgCommit go s) := by
  unfold execCfgCommit
  split
  · exact NextKeeps.next (Keeps.refl s)
  · extract_lets snap ks drain now beat u c v
    split
    · exact NextKeeps.next (State.cfgEvent_keeps (State.setF_keeps (Keeps.refl s)))
    · have hu : Keeps s u := Keeps.ite (fun _ => State.count_keeps (Keeps.refl s)) (fun _ => Keeps.refl s)
      have hv : Keeps s v := State.set64_keeps (State.setF_keeps hu)
      refine NextKeeps.next (Keeps.ite (fun _ => State.applyCommit_keeps hv) (fun _ => ?_))
      refine hv.files rfl rfl (Nat.le_refl _) rfl (fun w => ?_)
      have hs : v.shadow = s.shadow := by
        show u.shadow = s.shadow
        show (if s.commit.isSome then s.count rCfgReplacedCnt 1 else s).shadow = s.shadow
        split <;> rfl
      rw [State.wf_iff] at w ⊢
      exact ⟨w.1, w.2.1, w.2.2.1, w.2.2.2.1, hs ▸ w.2.1, w.2.2.2.2.2⟩

/-! ### Machine/Beat.lean -/

theorem State.notePtp_keeps : ∀ {a0 s ptp}, Keeps a0 s → Keeps a0 (State.notePtp s ptp) := by
  intro a0 s ptp hk0
  unfold State.notePtp
  repeat' (first
    | with_reducible exact Keeps.refl _
    | with_reducible assumption
    | with_reducible apply Keeps.foldl
    | with_reducible apply Keeps.foldl_fst
    | with_reducible refine Keeps.of_eq (by assumption) (Keeps.foldl_fst ?_ ?_)
    | intro _ _
    | intro _
    | with_reducible apply Keeps.ite
    | simp only [Keeps.mk_eq]
    | with_reducible apply KeepsMk.fields)

theorem State.noteTimes_keeps : ∀ {a0 s now ptp}, Keeps a0 s → Keeps a0 (State.noteTimes s now ptp) := by
  intro a0 s now ptp hk0
  unfold State.noteTimes
  repeat' (first
    | with_reducible exact Keeps.refl _
    | with_reducible assumption
    | with_reducible apply State.notePtp_keeps
    | with_reducible apply Keeps.foldl
    | with_reducible apply Keeps.foldl_fst
    | with_reducible refine Keeps.of_eq (by assumption) (Keeps.foldl_fst ?_ ?_)
    | intro _ _
    | intro _
    | with_reducible apply Keeps.ite
    | simp only [Keeps.mk_eq]
    | with_reducible apply KeepsMk.fields)

theorem State.tickTo_keeps : ∀ {a0 s now ptp}, Keeps a0 s → Keeps a0 (State.tickTo s now ptp) := by
  intro a0 s now ptp hk0
  unfold State.tickTo
  repeat' (first
    | with_reducible exact Keeps.refl _
    | with_reducible assumption
    | with_reducible apply State.noteTimes_keeps
    | with_reducible apply Keeps.foldl
    | with_reducible apply Keeps.foldl_fst
    | with_reducible refine Keeps.of_eq (by assumption) (Keeps.foldl_fst ?_ ?_)
    | intro _ _
    | intro _
    | with_reducible apply Keeps.ite
    | simp only [Keeps.mk_eq]
    | with_reducible apply KeepsMk.fields)

theorem State.beatEvent_keeps : ∀ {a0 s b}, Keeps a0 s → Keeps a0 (State.beatEvent s b) := by
  intro a0 s b hk0
  unfold State.beatEvent
  repeat' (first
    | with_reducible exact Keeps.refl _
    | with_reducible assumption
    | with_reducible apply State.raise_keeps
    | with_reducible apply State.msg_keeps
    | with_reducible apply Keeps.foldl
    | with_reducible apply Keeps.foldl_fst
    | with_reducible refine Keeps.of_eq (by assumption) (Keeps.foldl_fst ?_ ?_)
    | intro _ _
    | intro _
    | with_reducible apply Keeps.ite)

theorem State.checkShort_keeps : ∀ {a0 s meas}, Keeps a0 s → Keeps a0 (State.checkShort s meas) := by
  intro a0 s meas hk0
  unfold State.checkShort
  repeat' (first
    | with_reducible exact Keeps.refl _
    | with_reducible assumption
    | with_reducible apply State.beatEvent_keeps
    | with_reducible apply State.logEvent_keeps
    | with_reducible apply State.count_keeps
    | with_reducible apply Keeps.foldl
    | with_reducible apply Keeps.foldl_fst
    | with_reducible refine Keeps.of_eq (by assumption) (Keeps.foldl_fst ?_ ?_)
    | intro _ _
    | intro _
    | with_reducible apply Keeps.ite)

theorem State.skip_keeps : ∀ {a0 s k}, Keeps a0 s → Keeps a0 (State.skip s k) := by
  intro a0 s k hk0
  unfold State.skip
  repeat' (first
    | with_reducible exact Keeps.refl _
    | with_reducible assumption
    | with_reducible apply State.count_keeps
    | with_reducible apply State.shift_keeps)

theorem State.freeRota_keeps : ∀ {a0 s r}, Keeps a0 s → Keeps a0 (State.freeRota s r) := by
  intro a0 s r hk0
  unfold State.freeRota
  repeat' (first
    | with_reducible exact Keeps.refl _
    | with_reducible assumption
    | with_reducible apply State.clearStakes_keeps
    | with_reducible apply Keeps.foldl
    | with_reducible apply Keeps.foldl_fst
    | with_reducible refine Keeps.of_eq (by assumption) (Keeps.foldl_fst ?_ ?_)
    | intro _ _
    | intro _
    | with_reducible apply Keeps.ite
    | simp only [Keeps.mk_eq]
    | with_reducible apply KeepsMk.fields)

theorem State.freesAt_keeps : ∀ {a0 s}, Keeps a0 s → Keeps a0 (State.freesAt s) := by
  intro a0 s hk0
  unfold State.freesAt
  repeat' (first
    | with_reducible exact Keeps.refl _
    | with_reducible assumption
    | with_reducible apply State.freeRota_keeps
    | with_reducible apply Keeps.foldl
    | with_reducible apply Keeps.foldl_fst
    | with_reducible refine Keeps.of_eq (by assumption) (Keeps.foldl_fst ?_ ?_)
    | intro _ _
    | intro _
    | with_reducible apply Keeps.ite)

/-! ### Machine/Sensors.lean -/

theorem State.settlePause_keeps : ∀ {a0 s p}, Keeps a0 s → Keeps a0 (State.settlePause s p) := by
  intro a0 s p hk0
  unfold State.settlePause
  repeat' (first
    | with_reducible exact Keeps.refl _
    | with_reducible assumption
    | with_reducible apply State.updPort_keeps
    | with_reducible apply State.emit_keeps
    | with_reducible apply Keeps.foldl
    | with_reducible apply Keeps.foldl_fst
    | with_reducible refine Keeps.of_eq (by assumption) (Keeps.foldl_fst ?_ ?_)
    | intro _ _
    | intro _
    | with_reducible apply Keeps.ite)

theorem State.holdRx_keeps : ∀ {a0 s p x}, Keeps a0 s → Keeps a0 (State.holdRx s p x).1 := by
  intro a0 s p x hk0
  unfold State.holdRx
  repeat' (first
    | with_reducible exact Keeps.refl _
    | with_reducible assumption
    | with_reducible apply State.settlePause_keeps
    | with_reducible apply State.updPort_keeps
    | with_reducible apply State.count_keeps
    | with_reducible apply Keeps.foldl
    | with_reducible apply Keeps.foldl_fst
    | with_reducible refine Keeps.of_eq (by assumption) (Keeps.foldl_fst ?_ ?_)
    | intro _ _
    | intro _
    | with_reducible apply Keeps.ite
    | dsimp only
    | with_reducible apply KeepsMk.fields
    | with_reducible apply KeepsMk.memFields
    | with_reducible apply KeepsMk.msixFields
    | with_reducible apply KeepsMk.logFields
    | dsimp only
    | split)

theorem State.updSensor_keeps : ∀ {a0 s h smp f}, Keeps a0 s → Keeps a0 (State.updSensor s h smp f) := by
  intro a0 s h smp f hk0
  unfold State.updSensor
  repeat' (first
    | with_reducible exact Keeps.refl _
    | with_reducible assumption
    | with_reducible apply State.updRota_keeps)

theorem State.placeFrame_keeps : ∀ {a0 s c hdr data beat}, Keeps a0 s → Keeps a0 (State.placeFrame s c hdr data beat) := by
  intro a0 s c hdr data beat hk0
  unfold State.placeFrame
  repeat' (first
    | with_reducible exact Keeps.refl _
    | with_reducible assumption
    | with_reducible apply State.updSensor_keeps
    | with_reducible apply State.writeMem_keeps
    | with_reducible apply State.vcount_keeps
    | with_reducible refine Keeps.of_eq (by assumption) ?_
    | with_reducible apply Keeps.foldl
    | with_reducible apply Keeps.foldl_fst
    | with_reducible refine Keeps.of_eq (by assumption) (Keeps.foldl_fst ?_ ?_)
    | intro _ _
    | intro _
    | with_reducible apply Keeps.ite)

theorem State.dropPart_keeps : ∀ {a0 s c hdr}, Keeps a0 s → Keeps a0 (State.dropPart s c hdr) := by
  intro a0 s c hdr hk0
  unfold State.dropPart
  repeat' (first
    | with_reducible exact Keeps.refl _
    | with_reducible assumption
    | with_reducible apply State.updSensor_keeps)

theorem State.tombstone_keeps : ∀ {a0 s c hdr reg}, Keeps a0 s → Keeps a0 (State.tombstone s c hdr reg) := by
  intro a0 s c hdr reg hk0
  unfold State.tombstone
  repeat' (first
    | with_reducible exact Keeps.refl _
    | with_reducible assumption
    | with_reducible apply State.updSensor_keeps
    | with_reducible apply State.dropPart_keeps
    | with_reducible apply State.vcount_keeps)

theorem State.completeFrame_keeps : ∀ {a0 s c hdr data ptp}, Keeps a0 s → Keeps a0 (State.completeFrame s c hdr data ptp) := by
  intro a0 s c hdr data ptp hk0
  unfold State.completeFrame
  repeat' (first
    | with_reducible exact Keeps.refl _
    | with_reducible assumption
    | with_reducible apply State.placeFrame_keeps
    | with_reducible apply State.countLate_keeps
    | with_reducible apply State.dropPart_keeps
    | with_reducible apply State.vcount_keeps
    | with_reducible apply Keeps.foldl
    | with_reducible apply Keeps.foldl_fst
    | with_reducible refine Keeps.of_eq (by assumption) (Keeps.foldl_fst ?_ ?_)
    | intro _ _
    | intro _
    | with_reducible apply Keeps.ite
    | dsimp only
    | with_reducible apply KeepsMk.fields
    | with_reducible apply KeepsMk.memFields
    | with_reducible apply KeepsMk.msixFields
    | with_reducible apply KeepsMk.logFields
    | dsimp only
    | split)

theorem State.takeFragment_keeps : ∀ {a0 s c d ptp}, Keeps a0 s → Keeps a0 (State.takeFragment s c d ptp) := by
  intro a0 s c d ptp hk0
  unfold State.takeFragment
  repeat' (first
    | with_reducible exact Keeps.refl _
    | with_reducible assumption
    | with_reducible apply State.completeFrame_keeps
    | with_reducible apply State.tombstone_keeps
    | with_reducible apply State.updSensor_keeps
    | with_reducible apply Keeps.foldl
    | with_reducible apply Keeps.foldl_fst
    | with_reducible refine Keeps.of_eq (by assumption) (Keeps.foldl_fst ?_ ?_)
    | intro _ _
    | intro _
    | with_reducible apply Keeps.ite
    | dsimp only
    | with_reducible apply KeepsMk.fields
    | with_reducible apply KeepsMk.memFields
    | with_reducible apply KeepsMk.msixFields
    | with_reducible apply KeepsMk.logFields
    | dsimp only
    | split)

theorem State.sensorTake_keeps : ∀ {a0 s c d ptp}, Keeps a0 s → Keeps a0 (State.sensorTake s c d ptp) := by
  intro a0 s c d ptp hk0
  unfold State.sensorTake
  repeat' (first
    | with_reducible exact Keeps.refl _
    | with_reducible assumption
    | with_reducible apply State.takeFragment_keeps
    | with_reducible apply State.vcount64_keeps
    | with_reducible apply State.updRota_keeps)

theorem execSensorDatagram_keeps : ∀ p udp d ptp s, NextKeeps s (execSensorDatagram p udp d ptp s) := by
  intro p udp d ptp s
  unfold execSensorDatagram
  repeat' (first
    | with_reducible apply NextKeeps.next
    | with_reducible apply NextKeeps.ite
    | with_reducible exact Keeps.refl _
    | with_reducible assumption
    | with_reducible apply State.sensorTake_keeps
    | with_reducible apply State.tombstone_keeps
    | with_reducible apply State.notePtp_keeps
    | with_reducible apply State.holdRx_keeps
    | with_reducible apply State.count_keeps
    | with_reducible refine Keeps.of_eq (by assumption) ?_
    | with_reducible apply Keeps.foldl
    | with_reducible apply Keeps.foldl_fst
    | with_reducible refine Keeps.of_eq (by assumption) (Keeps.foldl_fst ?_ ?_)
    | intro _ _
    | intro _
    | with_reducible apply Keeps.ite
    | dsimp only
    | with_reducible apply KeepsMk.fields
    | with_reducible apply KeepsMk.memFields
    | with_reducible apply KeepsMk.msixFields
    | with_reducible apply KeepsMk.logFields
    | dsimp only
    | split)

theorem execSensorFrameStale_keeps : ∀ h i ptp s, NextKeeps s (execSensorFrameStale h i ptp s) := by
  intro h i ptp s
  unfold execSensorFrameStale
  repeat' (first
    | with_reducible apply NextKeeps.next
    | with_reducible apply NextKeeps.ite
    | with_reducible exact Keeps.refl _
    | with_reducible assumption
    | with_reducible apply State.updSensor_keeps
    | with_reducible apply State.notePtp_keeps
    | with_reducible apply State.vcount_keeps
    | with_reducible apply Keeps.foldl
    | with_reducible apply Keeps.foldl_fst
    | with_reducible refine Keeps.of_eq (by assumption) (Keeps.foldl_fst ?_ ?_)
    | intro _ _
    | intro _
    | with_reducible apply Keeps.ite
    | dsimp only
    | with_reducible apply KeepsMk.fields
    | with_reducible apply KeepsMk.memFields
    | with_reducible apply KeepsMk.msixFields
    | with_reducible apply KeepsMk.logFields
    | dsimp only
    | split)

theorem State.discardFrames_keeps : ∀ {a0 s b}, Keeps a0 s → Keeps a0 (State.discardFrames s b) := by
  intro a0 s b hk0
  unfold State.discardFrames
  repeat' (first
    | with_reducible exact Keeps.refl _
    | with_reducible assumption
    | with_reducible apply State.updSensor_keeps
    | with_reducible apply State.vcount_keeps
    | with_reducible apply Keeps.foldl
    | with_reducible apply Keeps.foldl_fst
    | with_reducible refine Keeps.of_eq (by assumption) (Keeps.foldl_fst ?_ ?_)
    | intro _ _)

theorem State.flushSensor_keeps : ∀ {a0 s h i}, Keeps a0 s → Keeps a0 (State.flushSensor s h i) := by
  intro a0 s h i hk0
  unfold State.flushSensor
  repeat' (first
    | with_reducible exact Keeps.refl _
    | with_reducible assumption
    | with_reducible apply State.flushAll_keeps
    | with_reducible apply Keeps.foldl
    | with_reducible apply Keeps.foldl_fst
    | with_reducible refine Keeps.of_eq (by assumption) (Keeps.foldl_fst ?_ ?_)
    | intro _ _
    | intro _
    | with_reducible apply Keeps.ite
    | simp only [Keeps.mk_eq]
    | with_reducible apply KeepsMk.fields
    | with_reducible apply KeepsMk.memFields
    | with_reducible apply KeepsMk.msixFields
    | with_reducible apply KeepsMk.logFields
    | dsimp only
    | split)

theorem execSlotCommit_keeps : ∀ h i s, NextKeeps s (execSlotCommit h i s) := by
  intro h i s
  unfold execSlotCommit
  repeat' (first
    | with_reducible apply NextKeeps.next
    | with_reducible apply NextKeeps.ite
    | with_reducible exact Keeps.refl _
    | with_reducible assumption
    | with_reducible apply State.flushSensor_keeps
    | with_reducible apply State.commitSlot_keeps)

end Sys2Proof.Machine
end

