-- ==== Sys2Proof/Laws/KeepsKernels.lean ====
section
/-! SUPPORT. What `Keeps` says holds of every function that changes the state: the operations of Select, Arbour, Quotient, tiles and joins. -/

namespace Sys2Proof.Machine

/-! ### Machine/Select.lean -/

theorem State.selFault_keeps : ∀ {a0 s e code elem}, Keeps a0 s → Keeps a0 (State.selFault s e code elem) := by
  intro a0 s e code elem hk0
  unfold State.selFault
  repeat' (first
    | with_reducible exact Keeps.refl _
    | with_reducible assumption
    | with_reducible apply State.opFault_keeps)

theorem State.selEnd_keeps : ∀ {a0 s e}, Keeps a0 s → Keeps a0 (State.selEnd s e) := by
  intro a0 s e hk0
  unfold State.selEnd
  repeat' (first
    | with_reducible exact Keeps.refl _
    | with_reducible assumption
    | with_reducible apply KernOut.settle_keeps
    | with_reducible apply KernOut.ok_keeps)

theorem State.selRow_keeps : ∀ {a0 s e n}, Keeps a0 s → Keeps a0 (State.selRow s e n) := by
  intro a0 s e n hk0
  unfold State.selRow
  repeat' (first
    | with_reducible exact Keeps.refl _
    | with_reducible assumption
    | with_reducible apply State.writeRing_keeps
    | with_reducible apply KernOut.settle_keeps
    | with_reducible apply State.selFault_keeps
    | with_reducible apply State.vcount64_keeps
    | with_reducible apply State.vcount_keeps
    | with_reducible apply KernOut.ok_keeps
    | with_reducible refine Keeps.of_eq (by assumption) ?_
    | with_reducible refine Keeps.of_kern (by assumption) ?_
    | with_reducible apply Keeps.foldl
    | with_reducible apply Keeps.foldl_fst
    | with_reducible refine Keeps.of_eq (by assumption) (Keeps.foldl_fst ?_ ?_)
    | intro _ _
    | intro _
    | with_reducible apply Keeps.ite
    | dsimp only
    | with_reducible apply KeepsMk.fields
    | with_reducible apply KeepsMk.memFields
    | with_reducible apply KeepsMk.msixFields
    | with_reducible apply KeepsMk.logFields
    | dsimp only
    | split)

theorem State.selTake_keeps : ∀ {a0 s e k x f}, Keeps a0 s → Keeps a0 (State.selTake s e k x f) := by
  intro a0 s e k x f hk0
  unfold State.selTake
  repeat' (first
    | with_reducible exact Keeps.refl _
    | with_reducible assumption
    | with_reducible apply State.readInputs_keeps
    | with_reducible apply KernOut.settle_keeps
    | with_reducible apply State.selFault_keeps
    | with_reducible apply KernOut.ok_keeps
    | with_reducible refine Keeps.of_eq (by assumption) ?_
    | with_reducible refine Keeps.of_kern (by assumption) ?_
    | with_reducible apply Keeps.foldl
    | with_reducible apply Keeps.foldl_fst
    | with_reducible refine Keeps.of_eq (by assumption) (Keeps.foldl_fst ?_ ?_)
    | intro _ _
    | intro _
    | with_reducible apply Keeps.ite
    | simp only [Keeps.mk_eq]
    | with_reducible apply KeepsMk.fields
    | with_reducible apply KeepsMk.memFields
    | with_reducible apply KeepsMk.msixFields
    | with_reducible apply KeepsMk.logFields
    | dsimp only
    | split)

theorem State.selStep_keeps : ∀ {a0 s e}, Keeps a0 s → Keeps a0 (State.selStep s e) := by
  intro a0 s e hk0
  unfold State.selStep
  repeat' (first
    | with_reducible exact Keeps.refl _
    | with_reducible assumption
    | with_reducible apply State.selFault_keeps
    | with_reducible apply State.selTake_keeps
    | with_reducible apply State.selEnd_keeps
    | with_reducible apply State.selRow_keeps
    | with_reducible apply Keeps.foldl
    | with_reducible apply Keeps.foldl_fst
    | with_reducible refine Keeps.of_eq (by assumption) (Keeps.foldl_fst ?_ ?_)
    | intro _ _
    | intro _
    | with_reducible apply Keeps.ite
    | dsimp only
    | with_reducible apply KeepsMk.fields
    | with_reducible apply KeepsMk.memFields
    | with_reducible apply KeepsMk.msixFields
    | with_reducible apply KeepsMk.logFields
    | dsimp only
    | split)

theorem execSelectRow_keeps : ∀ h i s, NextKeeps s (execSelectRow h i s) := by
  intro h i s
  unfold execSelectRow
  repeat' (first
    | with_reducible apply NextKeeps.next
    | with_reducible apply NextKeeps.ite
    | with_reducible exact Keeps.refl _
    | with_reducible assumption
    | with_reducible apply State.flushAll_keeps
    | with_reducible apply State.selStep_keeps
    | with_reducible apply Keeps.foldl
    | with_reducible apply Keeps.foldl_fst
    | with_reducible refine Keeps.of_eq (by assumption) (Keeps.foldl_fst ?_ ?_)
    | intro _ _
    | intro _
    | with_reducible apply Keeps.ite
    | simp only [Keeps.mk_eq]
    | with_reducible apply KeepsMk.fields
    | with_reducible apply KeepsMk.memFields
    | with_reducible apply KeepsMk.msixFields
    | with_reducible apply KeepsMk.logFields
    | dsimp only
    | split)

/-! ### Machine/Arbour.lean -/

theorem State.traverse_keeps {e : OpEnv} {h : Bytes} {row : List Nat} : ∀ {a0 s : State} {fuel node depth : Nat}, Keeps a0 s →
    Keeps a0 (s.traverse e h row fuel node depth).1 := by
  intro a0 s fuel
  induction fuel generalizing s with
  | zero => exact fun hk => hk
  | succ fuel ih =>
    intro node depth hk
    unfold State.traverse
    split
    · exact hk
    · split
      · rename_i heq
        exact Keeps.of_eq heq (State.opTable_keeps hk)
      · rename_i u n heq
        have hu := Keeps.of_eq heq (State.opTable_keeps hk)
        clear heq
        split
        · exact hu
        · split
          · exact hu
          · split
            · exact hu
            · extract_lets v go
              have hgo : ∀ (w : State) (left : Bool), Keeps a0 w → Keeps a0 (go w left).1 := by
                intro w left hw
                have : ∀ next : Nat, Keeps a0 (if next ≤ node ∨ ehNNode h ≤ next then (w, Leaf.bad errArbNodeInvalid node)
                    else w.traverse e h row fuel next (depth + 1)).1 := by
                  intro next
                  split
                  · exact hw
                  · exact ih hw
                exact this _
              clear_value go
              split
              · exact hgo _ _ (State.vcount_keeps hu)
              · split
                · split
                  · exact hgo _ _ hu
                  · split
                    · exact hgo _ _ hu
                    · split
                      · rename_i heq
                        exact Keeps.of_eq heq (State.opTable_keeps hu)
                      · rename_i heq
                        exact hgo _ _ (Keeps.of_eq heq (State.opTable_keeps hu))
                · exact hgo _ _ hu

theorem State.trees_keeps' : ∀ {s e h row x0 x1}, Keeps s (State.trees s e h row x0 x1).1 := by
  intro s e h row x0 x1
  fun_induction State.trees s e h row x0 x1
  all_goals
  repeat' (first
    | with_reducible exact Keeps.refl _
    | with_reducible assumption
    | with_reducible refine Keeps.trans ?_ (by assumption)
    | with_reducible refine Keeps.trans ?_ (Keeps.of_eq (by assumption) (by assumption))
    | with_reducible apply State.traverse_keeps
    | with_reducible refine Keeps.of_eq (by assumption) ?_)

theorem State.trees_keeps : ∀ {a0 s e h row x0 x1}, Keeps a0 s → Keeps a0 (State.trees s e h row x0 x1).1 := by
  intro a0 s e h row x0 x1 hk0
  exact hk0.trans (State.trees_keeps')

theorem State.scoreRows_keeps {e : OpEnv} {h : Bytes} {b : Batch} {roots : List Nat} : ∀ {a0 s : State} {i n : Nat}, Keeps a0 s →
    Keeps a0 (s.scoreRows e h b roots i n).1 := by
  intro a0 s i n
  induction n generalizing s i with
  | zero => exact fun hk => hk
  | succ n ih =>
    intro hk
    unfold State.scoreRows
    extract_lets next o
    have hn : ∀ (w : State) (x : Option (List Bytes)), Keeps a0 w → Keeps a0 (next w x).1 := by
      intro w x hw
      dsimp only [next]
      split
      · rename_i heq
        exact Keeps.of_eq heq (ih hw)
      · rename_i heq
        exact Keeps.of_eq heq (ih hw)
    clear_value next
    split
    · exact hn _ _ hk
    · split
      · exact hk
      · split
        · rename_i heq
          dsimp only
          split
          · exact State.vsetN_keeps (State.vsetN_keeps (Keeps.of_eq heq (State.trees_keeps hk)))
          · exact Keeps.of_eq heq (State.trees_keeps hk)
        · rename_i heq
          exact hn _ _ (State.vcount64_keeps (Keeps.of_eq heq (State.trees_keeps hk)))

theorem State.readEnsemble_keeps : ∀ {a0 s e}, Keeps a0 s → Keeps a0 (State.readEnsemble s e).1 := by
  intro a0 s e hk0
  unfold State.readEnsemble
  repeat' (first
    | with_reducible exact Keeps.refl _
    | with_reducible assumption
    | with_reducible apply State.opTable_keeps
    | with_reducible refine Keeps.of_eq (by assumption) ?_
    | with_reducible apply Keeps.foldl
    | with_reducible apply Keeps.foldl_fst
    | with_reducible refine Keeps.of_eq (by assumption) (Keeps.foldl_fst ?_ ?_)
    | intro _ _
    | intro _
    | with_reducible apply Keeps.ite
    | dsimp only
    | with_reducible apply KeepsMk.fields
    | with_reducible apply KeepsMk.memFields
    | with_reducible apply KeepsMk.msixFields
    | with_reducible apply KeepsMk.logFields
    | dsimp only
    | split)

theorem arbourKern_keeps : KernKeeps arbourKern := by
  constructor
  intro a0 s e ins last hk
  unfold arbourKern
  repeat' (first
    | with_reducible exact Keeps.refl _
    | with_reducible assumption
    | with_reducible apply State.readEnsemble_keeps
    | with_reducible apply State.scoreRows_keeps
    | with_reducible apply State.opTable_keeps
    | with_reducible apply State.vcount_keeps
    | with_reducible apply KernOut.bad_keeps
    | with_reducible apply KernOut.ok_keeps
    | with_reducible refine Keeps.of_eq (by assumption) ?_
    | with_reducible refine Keeps.of_kern (by assumption) ?_
    | with_reducible apply Keeps.foldl
    | with_reducible apply Keeps.foldl_fst
    | with_reducible refine Keeps.of_eq (by assumption) (Keeps.foldl_fst ?_ ?_)
    | intro _ _
    | intro _
    | with_reducible apply Keeps.ite
    | dsimp only
    | with_reducible apply KeepsMk.fields
    | with_reducible apply KeepsMk.memFields
    | with_reducible apply KeepsMk.msixFields
    | with_reducible apply KeepsMk.logFields
    | dsimp only
    | split)

theorem arbourEvent_keeps : ∀ mode h i s, NextKeeps s (arbourEvent mode h i s) := by
  intro mode h i s
  unfold arbourEvent
  repeat' (first
    | with_reducible apply NextKeeps.next
    | with_reducible apply NextKeeps.ite
    | with_reducible exact Keeps.refl _
    | with_reducible assumption
    | with_reducible apply State.runOp_keeps
    | with_reducible apply arbourKern_keeps
    | with_reducible apply endAlone_keeps
    | with_reducible apply KernKeeps.holds
    | with_reducible apply FinKeeps.holds
    | with_reducible apply Keeps.foldl
    | with_reducible apply Keeps.foldl_fst
    | with_reducible refine Keeps.of_eq (by assumption) (Keeps.foldl_fst ?_ ?_)
    | intro _ _
    | intro _
    | with_reducible apply Keeps.ite
    | simp only [Keeps.mk_eq]
    | with_reducible apply KeepsMk.fields
    | with_reducible apply KeepsMk.memFields
    | with_reducible apply KeepsMk.msixFields
    | with_reducible apply KeepsMk.logFields
    | dsimp only
    | split)

theorem execArbourScore_keeps : ∀ h i s, NextKeeps s (execArbourScore h i s) := by
  intro h i s
  unfold execArbourScore
  repeat' (first
    | with_reducible apply NextKeeps.next
    | with_reducible apply NextKeeps.ite
    | with_reducible exact Keeps.refl _
    | with_reducible assumption
    | with_reducible apply arbourEvent_keeps)

theorem execArbourLeafIndex_keeps : ∀ h i s, NextKeeps s (execArbourLeafIndex h i s) := by
  intro h i s
  unfold execArbourLeafIndex
  repeat' (first
    | with_reducible apply NextKeeps.next
    | with_reducible apply NextKeeps.ite
    | with_reducible exact Keeps.refl _
    | with_reducible assumption
    | with_reducible apply arbourEvent_keeps)

/-! ### Machine/Quotient.lean -/

theorem State.quoElement_keeps : ∀ {a0 s e}, Keeps a0 s → Keeps a0 (State.quoElement s e) := by
  intro a0 s e hk0
  unfold State.quoElement
  repeat' (first
    | with_reducible exact Keeps.refl _
    | with_reducible assumption
    | with_reducible apply State.readInputs_keeps
    | with_reducible apply KernOut.settle_keeps
    | with_reducible apply State.flushAll_keeps
    | with_reducible apply State.opFault_keeps
    | with_reducible apply State.tally_keeps
    | with_reducible apply KernOut.ok_keeps
    | with_reducible refine Keeps.of_eq (by assumption) ?_
    | with_reducible refine Keeps.of_kern (by assumption) ?_
    | with_reducible apply Keeps.foldl
    | with_reducible apply Keeps.foldl_fst
    | with_reducible refine Keeps.of_eq (by assumption) (Keeps.foldl_fst ?_ ?_)
    | intro _ _
    | intro _
    | with_reducible apply Keeps.ite
    | dsimp only
    | with_reducible apply KeepsMk.fields
    | with_reducible apply KeepsMk.memFields
    | with_reducible apply KeepsMk.msixFields
    | with_reducible apply KeepsMk.logFields
    | dsimp only
    | split)

theorem quoEvent_keeps : ∀ func h i s, NextKeeps s (quoEvent func h i s) := by
  intro func h i s
  unfold quoEvent
  repeat' (first
    | with_reducible apply NextKeeps.next
    | with_reducible apply NextKeeps.ite
    | with_reducible exact Keeps.refl _
    | with_reducible assumption
    | with_reducible apply State.quoElement_keeps
    | with_reducible apply Keeps.foldl
    | with_reducible apply Keeps.foldl_fst
    | with_reducible refine Keeps.of_eq (by assumption) (Keeps.foldl_fst ?_ ?_)
    | intro _ _
    | intro _
    | with_reducible apply Keeps.ite
    | simp only [Keeps.mk_eq]
    | with_reducible apply KeepsMk.fields
    | with_reducible apply KeepsMk.memFields
    | with_reducible apply KeepsMk.msixFields
    | with_reducible apply KeepsMk.logFields
    | dsimp only
    | split)

theorem execDiv_keeps : ∀ h i s, NextKeeps s (execDiv h i s) := by
  intro h i s
  unfold execDiv
  repeat' (first
    | with_reducible apply NextKeeps.next
    | with_reducible apply NextKeeps.ite
    | with_reducible exact Keeps.refl _
    | with_reducible assumption
    | with_reducible apply quoEvent_keeps)

theorem execRecip_keeps : ∀ h i s, NextKeeps s (execRecip h i s) := by
  intro h i s
  unfold execRecip
  repeat' (first
    | with_reducible apply NextKeeps.next
    | with_reducible apply NextKeeps.ite
    | with_reducible exact Keeps.refl _
    | with_reducible assumption
    | with_reducible apply quoEvent_keeps)

theorem execSqrt_keeps : ∀ h i s, NextKeeps s (execSqrt h i s) := by
  intro h i s
  unfold execSqrt
  repeat' (first
    | with_reducible apply NextKeeps.next
    | with_reducible apply NextKeeps.ite
    | with_reducible exact Keeps.refl _
    | with_reducible assumption
    | with_reducible apply quoEvent_keeps)

theorem execRsqrt_keeps : ∀ h i s, NextKeeps s (execRsqrt h i s) := by
  intro h i s
  unfold execRsqrt
  repeat' (first
    | with_reducible apply NextKeeps.next
    | with_reducible apply NextKeeps.ite
    | with_reducible exact Keeps.refl _
    | with_reducible assumption
    | with_reducible apply quoEvent_keeps)

theorem solveKern_keeps : KernKeeps solveKern := by
  constructor
  intro a0 s e ins last hk
  unfold solveKern
  repeat' (first
    | with_reducible exact Keeps.refl _
    | with_reducible assumption
    | with_reducible apply KernOut.bad_keeps
    | with_reducible apply State.tally_keeps
    | with_reducible apply KernOut.ok_keeps
    | with_reducible refine Keeps.of_kern (by assumption) ?_
    | with_reducible apply Keeps.foldl
    | with_reducible apply Keeps.foldl_fst
    | with_reducible refine Keeps.of_eq (by assumption) (Keeps.foldl_fst ?_ ?_)
    | intro _ _
    | intro _
    | with_reducible apply Keeps.ite
    | dsimp only
    | with_reducible apply KeepsMk.fields
    | with_reducible apply KeepsMk.memFields
    | with_reducible apply KeepsMk.msixFields
    | with_reducible apply KeepsMk.logFields
    | dsimp only
    | split)

theorem execSolveSpd_keeps : ∀ h i s, NextKeeps s (execSolveSpd h i s) := by
  intro h i s
  unfold execSolveSpd
  repeat' (first
    | with_reducible apply NextKeeps.next
    | with_reducible apply NextKeeps.ite
    | with_reducible exact Keeps.refl _
    | with_reducible assumption
    | with_reducible apply State.runOp_keeps
    | with_reducible apply solveKern_keeps
    | with_reducible apply endAlone_keeps
    | with_reducible apply KernKeeps.holds
    | with_reducible apply FinKeeps.holds
    | with_reducible apply Keeps.foldl
    | with_reducible apply Keeps.foldl_fst
    | with_reducible refine Keeps.of_eq (by assumption) (Keeps.foldl_fst ?_ ?_)
    | intro _ _
    | intro _
    | with_reducible apply Keeps.ite
    | simp only [Keeps.mk_eq]
    | with_reducible apply KeepsMk.fields
    | with_reducible apply KeepsMk.memFields
    | with_reducible apply KeepsMk.msixFields
    | with_reducible apply KeepsMk.logFields
    | dsimp only
    | split)

theorem entriesKern_keeps : ∀ {zparam}, KernKeeps (entriesKern zparam) := by
  intro zparam
  constructor
  intro a0 s e ins last hk
  unfold entriesKern
  repeat' (first
    | with_reducible exact Keeps.refl _
    | with_reducible assumption
    | with_reducible apply KernOut.bad_keeps
    | with_reducible apply State.tally_keeps
    | with_reducible apply KernOut.ok_keeps
    | with_reducible refine Keeps.of_kern (by assumption) ?_
    | with_reducible apply Keeps.foldl
    | with_reducible apply Keeps.foldl_fst
    | with_reducible refine Keeps.of_eq (by assumption) (Keeps.foldl_fst ?_ ?_)
    | intro _ _
    | intro _
    | with_reducible apply Keeps.ite
    | dsimp only
    | with_reducible apply KeepsMk.fields
    | with_reducible apply KeepsMk.memFields
    | with_reducible apply KeepsMk.msixFields
    | with_reducible apply KeepsMk.logFields
    | dsimp only
    | split)

theorem entriesEvent_keeps : ∀ func h i s, NextKeeps s (entriesEvent func h i s) := by
  intro func h i s
  unfold entriesEvent
  repeat' (first
    | with_reducible apply NextKeeps.next
    | with_reducible apply NextKeeps.ite
    | with_reducible exact Keeps.refl _
    | with_reducible assumption
    | with_reducible apply State.runOp_keeps
    | with_reducible apply entriesKern_keeps
    | with_reducible apply endAlone_keeps
    | with_reducible apply KernKeeps.holds
    | with_reducible apply FinKeeps.holds
    | with_reducible apply Keeps.foldl
    | with_reducible apply Keeps.foldl_fst
    | with_reducible refine Keeps.of_eq (by assumption) (Keeps.foldl_fst ?_ ?_)
    | intro _ _
    | intro _
    | with_reducible apply Keeps.ite
    | simp only [Keeps.mk_eq]
    | with_reducible apply KeepsMk.fields
    | with_reducible apply KeepsMk.memFields
    | with_reducible apply KeepsMk.msixFields
    | with_reducible apply KeepsMk.logFields
    | dsimp only
    | split)

theorem execZparam_keeps : ∀ h i s, NextKeeps s (execZparam h i s) := by
  intro h i s
  unfold execZparam
  repeat' (first
    | with_reducible apply NextKeeps.next
    | with_reducible apply NextKeeps.ite
    | with_reducible exact Keeps.refl _
    | with_reducible assumption
    | with_reducible apply entriesEvent_keeps)

theorem execMmparam_keeps : ∀ h i s, NextKeeps s (execMmparam h i s) := by
  intro h i s
  unfold execMmparam
  repeat' (first
    | with_reducible apply NextKeeps.next
    | with_reducible apply NextKeeps.ite
    | with_reducible exact Keeps.refl _
    | with_reducible assumption
    | with_reducible apply entriesEvent_keeps)

/-! ### Machine/Tiles.lean -/

theorem tileRows_keeps' : ∀ {f x0 x1 x2}, (∀ {a0} y0 y1, Keeps a0 y0 → Keeps a0 (f y0 y1).1) → Keeps x0 (tileRows f x0 x1 x2).1 := by
  intro f x0 x1 x2 h_f
  fun_induction tileRows f x0 x1 x2
  all_goals
  repeat' (first
    | with_reducible exact Keeps.refl _
    | with_reducible assumption
    | with_reducible apply h_f
    | with_reducible refine Keeps.of_eq (by assumption) ?_
    | with_reducible refine Keeps.trans ?_ (by assumption))

theorem tileRows_keeps : ∀ {a0 f x0 x1 x2}, (∀ {a0} y0 y1, Keeps a0 y0 → Keeps a0 (f y0 y1).1) → Keeps a0 x0 → Keeps a0 (tileRows f x0 x1 x2).1 := by
  intro a0 f x0 x1 x2 h_f hk0
  exact hk0.trans (tileRows_keeps' h_f)

theorem tileFinish_keeps : ∀ {a0 e cols len last f s}, (∀ {a0} y0 y1, Keeps a0 y0 → Keeps a0 (f y0 y1).1) → Keeps a0 s → Keeps a0 (tileFinish e cols len last f s).s := by
  intro a0 e cols len last f s h_f hk0
  unfold tileFinish
  repeat' (first
    | with_reducible exact Keeps.refl _
    | with_reducible assumption
    | with_reducible apply h_f
    | with_reducible apply State.vcount_keeps
    | with_reducible apply KernOut.bad_keeps
    | with_reducible apply State.tally_keeps
    | with_reducible apply KernOut.ok_keeps
    | with_reducible apply tileRows_keeps
    | with_reducible refine Keeps.of_eq (by assumption) ?_
    | with_reducible refine Keeps.of_kern (by assumption) ?_
    | with_reducible apply Keeps.foldl
    | with_reducible apply Keeps.foldl_fst
    | with_reducible refine Keeps.of_eq (by assumption) (Keeps.foldl_fst ?_ ?_)
    | intro _ _
    | intro _
    | with_reducible apply Keeps.ite
    | dsimp only
    | with_reducible apply KeepsMk.fields
    | with_reducible apply KeepsMk.memFields
    | with_reducible apply KeepsMk.msixFields
    | with_reducible apply KeepsMk.logFields
    | dsimp only
    | split)

theorem State.getLists_keeps : ∀ {a0 s e ins t1 l1 t2 f}, (∀ {a0} y0 y1, Keeps a0 y0 → Keeps a0 (f y0 y1).s) → Keeps a0 s → Keeps a0 (State.getLists s e ins t1 l1 t2 f).s := by
  intro a0 s e ins t1 l1 t2 f h_f hk0
  unfold State.getLists
  repeat' (first
    | with_reducible exact Keeps.refl _
    | with_reducible assumption
    | with_reducible apply h_f
    | with_reducible apply State.getCol_keeps
    | with_reducible apply KernOut.bad_keeps
    | with_reducible refine Keeps.of_eq (by assumption) ?_
    | with_reducible refine Keeps.of_kern (by assumption) ?_
    | with_reducible apply Keeps.foldl
    | with_reducible apply Keeps.foldl_fst
    | with_reducible refine Keeps.of_eq (by assumption) (Keeps.foldl_fst ?_ ?_)
    | intro _ _
    | intro _
    | with_reducible apply Keeps.ite
    | dsimp only
    | with_reducible apply KeepsMk.fields
    | with_reducible apply KeepsMk.memFields
    | with_reducible apply KeepsMk.msixFields
    | with_reducible apply KeepsMk.logFields
    | dsimp only
    | split)

theorem State.matrix_keeps : ∀ {a0 s e k n}, Keeps a0 s → Keeps a0 (State.matrix s e k n).1 := by
  intro a0 s e k n hk0
  unfold State.matrix
  repeat' (first
    | with_reducible exact Keeps.refl _
    | with_reducible assumption
    | with_reducible apply State.opTable_keeps
    | with_reducible refine Keeps.of_eq (by assumption) ?_
    | with_reducible apply Keeps.foldl
    | with_reducible apply Keeps.foldl_fst
    | with_reducible refine Keeps.of_eq (by assumption) (Keeps.foldl_fst ?_ ?_)
    | intro _ _
    | intro _
    | with_reducible apply Keeps.ite
    | dsimp only
    | with_reducible apply KeepsMk.fields
    | with_reducible apply KeepsMk.memFields
    | with_reducible apply KeepsMk.msixFields
    | with_reducible apply KeepsMk.logFields
    | dsimp only
    | split)

theorem matmulKern_keeps : KernKeeps matmulKern := by
  constructor
  intro a0 s e ins last hk
  unfold matmulKern
  repeat' (first
    | with_reducible exact Keeps.refl _
    | with_reducible assumption
    | with_reducible apply State.getLists_keeps
    | with_reducible apply State.matrix_keeps
    | with_reducible apply KernOut.bad_keeps
    | with_reducible apply KernOut.ok_keeps
    | with_reducible apply tileFinish_keeps
    | with_reducible refine Keeps.of_eq (by assumption) ?_
    | with_reducible refine Keeps.of_kern (by assumption) ?_
    | with_reducible apply Keeps.foldl
    | with_reducible apply Keeps.foldl_fst
    | with_reducible refine Keeps.of_eq (by assumption) (Keeps.foldl_fst ?_ ?_)
    | intro _ _
    | intro _
    | with_reducible apply Keeps.ite
    | dsimp only
    | with_reducible apply KeepsMk.fields
    | with_reducible apply KeepsMk.memFields
    | with_reducible apply KeepsMk.msixFields
    | with_reducible apply KeepsMk.logFields
    | dsimp only
    | split)

theorem execTileMatmul_keeps : ∀ h i s, NextKeeps s (execTileMatmul h i s) := by
  intro h i s
  unfold execTileMatmul
  repeat' (first
    | with_reducible apply NextKeeps.next
    | with_reducible apply NextKeeps.ite
    | with_reducible exact Keeps.refl _
    | with_reducible assumption
    | with_reducible apply matmulKern_keeps
    | with_reducible apply colEvent_keeps
    | with_reducible apply endAlone_keeps
    | with_reducible apply KernKeeps.holds
    | with_reducible apply FinKeeps.holds
    | with_reducible apply Keeps.foldl
    | with_reducible apply Keeps.foldl_fst
    | with_reducible refine Keeps.of_eq (by assumption) (Keeps.foldl_fst ?_ ?_)
    | intro _ _
    | intro _)

theorem State.bagRows_keeps' : ∀ {s e d x0}, Keeps s (State.bagRows s e d x0).1 := by
  intro s e d x0
  fun_induction State.bagRows s e d x0
  all_goals
  repeat' (first
    | with_reducible exact Keeps.refl _
    | with_reducible assumption
    | with_reducible refine Keeps.trans ?_ (by assumption)
    | with_reducible refine Keeps.trans ?_ (Keeps.of_eq (by assumption) (by assumption))
    | with_reducible apply State.matrix_keeps
    | with_reducible refine Keeps.of_eq (by assumption) ?_)

theorem State.bagRows_keeps : ∀ {a0 s e d x0}, Keeps a0 s → Keeps a0 (State.bagRows s e d x0).1 := by
  intro a0 s e d x0 hk0
  exact hk0.trans (State.bagRows_keeps')

theorem bagRow_keeps : ∀ {a0 s e idx weights}, Keeps a0 s → Keeps a0 (bagRow s e idx weights).1 := by
  intro a0 s e idx weights hk0
  unfold bagRow
  repeat' (first
    | with_reducible exact Keeps.refl _
    | with_reducible assumption
    | with_reducible apply State.bagRows_keeps
    | with_reducible refine Keeps.of_eq (by assumption) ?_
    | with_reducible apply Keeps.foldl
    | with_reducible apply Keeps.foldl_fst
    | with_reducible refine Keeps.of_eq (by assumption) (Keeps.foldl_fst ?_ ?_)
    | intro _ _
    | intro _
    | with_reducible apply Keeps.ite
    | dsimp only
    | with_reducible apply KeepsMk.fields
    | with_reducible apply KeepsMk.memFields
    | with_reducible apply KeepsMk.msixFields
    | with_reducible apply KeepsMk.logFields
    | dsimp only
    | split)

theorem bagKern_keeps : KernKeeps bagKern := by
  constructor
  intro a0 s e ins last hk
  unfold bagKern
  repeat' (first
    | with_reducible exact Keeps.refl _
    | with_reducible assumption
    | with_reducible apply State.getLists_keeps
    | with_reducible apply KernOut.ok_keeps
    | with_reducible apply tileFinish_keeps
    | with_reducible apply bagRow_keeps
    | with_reducible refine Keeps.of_eq (by assumption) ?_
    | with_reducible refine Keeps.of_kern (by assumption) ?_
    | with_reducible apply Keeps.foldl
    | with_reducible apply Keeps.foldl_fst
    | with_reducible refine Keeps.of_eq (by assumption) (Keeps.foldl_fst ?_ ?_)
    | intro _ _
    | intro _
    | with_reducible apply Keeps.ite
    | dsimp only
    | with_reducible apply KeepsMk.fields
    | with_reducible apply KeepsMk.memFields
    | with_reducible apply KeepsMk.msixFields
    | with_reducible apply KeepsMk.logFields
    | dsimp only
    | split)

theorem execEmbedBag_keeps : ∀ h i s, NextKeeps s (execEmbedBag h i s) := by
  intro h i s
  unfold execEmbedBag
  repeat' (first
    | with_reducible apply NextKeeps.next
    | with_reducible apply NextKeeps.ite
    | with_reducible exact Keeps.refl _
    | with_reducible assumption
    | with_reducible apply colEvent_keeps
    | with_reducible apply endAlone_keeps
    | with_reducible apply bagKern_keeps
    | with_reducible apply KernKeeps.holds
    | with_reducible apply FinKeeps.holds
    | with_reducible apply Keeps.foldl
    | with_reducible apply Keeps.foldl_fst
    | with_reducible refine Keeps.of_eq (by assumption) (Keeps.foldl_fst ?_ ?_)
    | intro _ _
    | intro _)

theorem crossKern_keeps : KernKeeps crossKern := by
  constructor
  intro a0 s e ins last hk
  unfold crossKern
  repeat' (first
    | with_reducible exact Keeps.refl _
    | with_reducible assumption
    | with_reducible apply State.getLists_keeps
    | with_reducible apply KernOut.ok_keeps
    | with_reducible apply tileFinish_keeps
    | with_reducible refine Keeps.of_kern (by assumption) ?_
    | with_reducible apply Keeps.foldl
    | with_reducible apply Keeps.foldl_fst
    | with_reducible refine Keeps.of_eq (by assumption) (Keeps.foldl_fst ?_ ?_)
    | intro _ _
    | intro _
    | with_reducible apply Keeps.ite
    | dsimp only
    | with_reducible apply KeepsMk.fields
    | with_reducible apply KeepsMk.memFields
    | with_reducible apply KeepsMk.msixFields
    | with_reducible apply KeepsMk.logFields
    | dsimp only
    | split)

theorem execCross_keeps : ∀ h i s, NextKeeps s (execCross h i s) := by
  intro h i s
  unfold execCross
  repeat' (first
    | with_reducible apply NextKeeps.next
    | with_reducible apply NextKeeps.ite
    | with_reducible exact Keeps.refl _
    | with_reducible assumption
    | with_reducible apply crossKern_keeps
    | with_reducible apply colEvent_keeps
    | with_reducible apply endAlone_keeps
    | with_reducible apply KernKeeps.holds
    | with_reducible apply FinKeeps.holds
    | with_reducible apply Keeps.foldl
    | with_reducible apply Keeps.foldl_fst
    | with_reducible refine Keeps.of_eq (by assumption) (Keeps.foldl_fst ?_ ?_)
    | intro _ _
    | intro _)

theorem onehotKern_keeps : KernKeeps onehotKern := by
  constructor
  intro a0 s e ins last hk
  unfold onehotKern
  repeat' (first
    | with_reducible exact Keeps.refl _
    | with_reducible assumption
    | with_reducible apply State.getLists_keeps
    | with_reducible apply State.matrix_keeps
    | with_reducible apply KernOut.ok_keeps
    | with_reducible apply tileFinish_keeps
    | with_reducible refine Keeps.of_eq (by assumption) ?_
    | with_reducible refine Keeps.of_kern (by assumption) ?_
    | with_reducible apply Keeps.foldl
    | with_reducible apply Keeps.foldl_fst
    | with_reducible refine Keeps.of_eq (by assumption) (Keeps.foldl_fst ?_ ?_)
    | intro _ _
    | intro _
    | with_reducible apply Keeps.ite
    | dsimp only
    | with_reducible apply KeepsMk.fields
    | with_reducible apply KeepsMk.memFields
    | with_reducible apply KeepsMk.msixFields
    | with_reducible apply KeepsMk.logFields
    | dsimp only
    | split)

theorem execOnehotMm_keeps : ∀ h i s, NextKeeps s (execOnehotMm h i s) := by
  intro h i s
  unfold execOnehotMm
  repeat' (first
    | with_reducible apply NextKeeps.next
    | with_reducible apply NextKeeps.ite
    | with_reducible exact Keeps.refl _
    | with_reducible assumption
    | with_reducible apply onehotKern_keeps
    | with_reducible apply colEvent_keeps
    | with_reducible apply endAlone_keeps
    | with_reducible apply KernKeeps.holds
    | with_reducible apply FinKeeps.holds
    | with_reducible apply Keeps.foldl
    | with_reducible apply Keeps.foldl_fst
    | with_reducible refine Keeps.of_eq (by assumption) (Keeps.foldl_fst ?_ ?_)
    | intro _ _
    | intro _)

/-! ### Machine/Joins.lean -/

theorem valueKern.go_keeps' : ∀ {f e s o row x0}, (∀ {a0} y0 y1 y2 y3 y4 y5, Keeps a0 y1 → Keeps a0 (f y0 y1 y2 y3 y4 y5).1) → Keeps s (valueKern.go f e s o row x0).1 := by
  intro f e s o row x0 h_f
  fun_induction valueKern.go f e s o row x0
  all_goals
  repeat' (first
    | with_reducible exact Keeps.refl _
    | with_reducible assumption
    | with_reducible apply h_f
    | with_reducible refine Keeps.of_eq (by assumption) ?_
    | with_reducible refine Keeps.trans ?_ (by assumption))

theorem valueKern.go_keeps : ∀ {a0 f e s o row x0}, (∀ {a0} y0 y1 y2 y3 y4 y5, Keeps a0 y1 → Keeps a0 (f y0 y1 y2 y3 y4 y5).1) → Keeps a0 s → Keeps a0 (valueKern.go f e s o row x0).1 := by
  intro a0 f e s o row x0 h_f hk0
  exact hk0.trans (valueKern.go_keeps' h_f)

theorem andThen_keeps {ε α β : Type} {a0 : State} {m : State × Except ε α} {f : State → α → State × Except ε β}
    (hf : ∀ (s : State) (x : α), Keeps a0 s → Keeps a0 (f s x).1) (hk : Keeps a0 m.1) : Keeps a0 (andThen m f).1 := by
  unfold andThen
  split
  · exact hk
  · exact hf _ _ hk

theorem wrote_keeps : ∀ {a0 m}, Keeps a0 m.1 → Keeps a0 (wrote m).1 := by
  intro a0 m hk0
  unfold wrote
  repeat' (first
    | with_reducible exact Keeps.refl _
    | with_reducible assumption
    | with_reducible apply Keeps.foldl
    | with_reducible apply Keeps.foldl_fst
    | with_reducible refine Keeps.of_eq (by assumption) (Keeps.foldl_fst ?_ ?_)
    | intro _ _
    | intro _
    | with_reducible apply Keeps.ite
    | simp only [Keeps.mk_eq]
    | with_reducible apply KeepsMk.fields
    | with_reducible apply KeepsMk.memFields
    | with_reducible apply KeepsMk.msixFields
    | with_reducible apply KeepsMk.logFields
    | dsimp only
    | split)

theorem State.tget_keeps : ∀ {a0 s e j o n}, Keeps a0 s → Keeps a0 (State.tget s e j o n).1 := by
  intro a0 s e j o n hk0
  unfold State.tget
  repeat' (first
    | with_reducible exact Keeps.refl _
    | with_reducible assumption
    | with_reducible apply State.readTable_keeps
    | with_reducible apply andThen_keeps
    | with_reducible refine Keeps.of_eq (by assumption) ?_
    | with_reducible apply Keeps.foldl
    | with_reducible apply Keeps.foldl_fst
    | with_reducible refine Keeps.of_eq (by assumption) (Keeps.foldl_fst ?_ ?_)
    | intro _ _
    | intro _)

theorem State.tput_keeps : ∀ {a0 s e j o d}, Keeps a0 s → Keeps a0 (State.tput s e j o d).1 := by
  intro a0 s e j o d hk0
  unfold State.tput
  repeat' (first
    | with_reducible exact Keeps.refl _
    | with_reducible assumption
    | with_reducible apply State.writeMem_keeps
    | with_reducible apply wrote_keeps)

theorem State.initTab_keeps : ∀ {a0 s e j map}, Keeps a0 s → Keeps a0 (State.initTab s e j map).1 := by
  intro a0 s e j map hk0
  unfold State.initTab
  repeat' (first
    | with_reducible exact Keeps.refl _
    | with_reducible assumption
    | with_reducible apply State.tput_keeps)

theorem State.linkEntry_keeps : ∀ {a0 s e j h n}, Keeps a0 s → Keeps a0 (State.linkEntry s e j h n).1 := by
  intro a0 s e j h n hk0
  unfold State.linkEntry
  repeat' (first
    | with_reducible exact Keeps.refl _
    | with_reducible assumption
    | with_reducible apply State.tget_keeps
    | with_reducible apply State.tput_keeps
    | with_reducible apply andThen_keeps
    | with_reducible refine Keeps.of_eq (by assumption) ?_
    | with_reducible apply Keeps.foldl
    | with_reducible apply Keeps.foldl_fst
    | with_reducible refine Keeps.of_eq (by assumption) (Keeps.foldl_fst ?_ ?_)
    | intro _ _
    | intro _
    | with_reducible apply Keeps.ite
    | dsimp only
    | with_reducible apply KeepsMk.fields
    | with_reducible apply KeepsMk.memFields
    | with_reducible apply KeepsMk.msixFields
    | with_reducible apply KeepsMk.logFields
    | dsimp only
    | split)

theorem State.insertKey_keeps : ∀ {a0 s e j row key}, Keeps a0 s → Keeps a0 (State.insertKey s e j row key).1 := by
  intro a0 s e j row key hk0
  unfold State.insertKey
  repeat' (first
    | with_reducible exact Keeps.refl _
    | with_reducible assumption
    | with_reducible apply State.linkEntry_keeps
    | with_reducible apply State.tget_keeps
    | with_reducible apply State.tput_keeps
    | with_reducible apply andThen_keeps
    | with_reducible refine Keeps.of_eq (by assumption) ?_
    | with_reducible apply Keeps.foldl
    | with_reducible apply Keeps.foldl_fst
    | with_reducible refine Keeps.of_eq (by assumption) (Keeps.foldl_fst ?_ ?_)
    | intro _ _
    | intro _
    | with_reducible apply Keeps.ite
    | dsimp only
    | with_reducible apply KeepsMk.fields
    | with_reducible apply KeepsMk.memFields
    | with_reducible apply KeepsMk.msixFields
    | with_reducible apply KeepsMk.logFields
    | dsimp only
    | split)

theorem State.entryKey_keeps : ∀ {a0 s e j ent}, Keeps a0 s → Keeps a0 (State.entryKey s e j ent).1 := by
  intro a0 s e j ent hk0
  unfold State.entryKey
  repeat' (first
    | with_reducible exact Keeps.refl _
    | with_reducible assumption
    | with_reducible apply State.readTable_keeps
    | with_reducible refine Keeps.of_eq (by assumption) ?_
    | with_reducible apply Keeps.foldl
    | with_reducible apply Keeps.foldl_fst
    | with_reducible refine Keeps.of_eq (by assumption) (Keeps.foldl_fst ?_ ?_)
    | intro _ _
    | intro _
    | with_reducible apply Keeps.ite
    | dsimp only
    | with_reducible apply KeepsMk.fields
    | with_reducible apply KeepsMk.memFields
    | with_reducible apply KeepsMk.msixFields
    | with_reducible apply KeepsMk.logFields
    | dsimp only
    | split)

theorem State.chain_keeps' : ∀ {s e j h key first x0 x1}, Keeps s (State.chain s e j h key first x0 x1).1 := by
  intro s e j h key first x0 x1
  fun_induction State.chain s e j h key first x0 x1
  all_goals
  repeat' (first
    | with_reducible exact Keeps.refl _
    | with_reducible assumption
    | with_reducible refine Keeps.trans ?_ (by assumption)
    | with_reducible apply State.readTable_keeps
    | with_reducible apply State.entryKey_keeps
    | with_reducible apply andThen_keeps
    | with_reducible refine Keeps.of_eq (by assumption) ?_
    | with_reducible apply Keeps.foldl
    | with_reducible apply Keeps.foldl_fst
    | with_reducible refine Keeps.of_eq (by assumption) (Keeps.foldl_fst ?_ ?_)
    | intro _ _
    | intro _
    | with_reducible apply Keeps.ite
    | dsimp only
    | with_reducible apply KeepsMk.fields
    | with_reducible apply KeepsMk.memFields
    | with_reducible apply KeepsMk.msixFields
    | with_reducible apply KeepsMk.logFields
    | dsimp only
    | split
    | refine Keeps.trans ?_ (by with_reducible apply_assumption))

theorem State.chain_keeps : ∀ {a0 s e j h key first x0 x1}, Keeps a0 s → Keeps a0 (State.chain s e j h key first x0 x1).1 := by
  intro a0 s e j h key first x0 x1 hk0
  exact hk0.trans (State.chain_keeps')

theorem State.matches_keeps : ∀ {a0 s e j key first}, Keeps a0 s → Keeps a0 (State.matches s e j key first).1 := by
  intro a0 s e j key first hk0
  unfold State.matches
  repeat' (first
    | with_reducible exact Keeps.refl _
    | with_reducible assumption
    | with_reducible apply State.chain_keeps
    | with_reducible apply State.tget_keeps
    | with_reducible apply andThen_keeps
    | with_reducible refine Keeps.of_eq (by assumption) ?_
    | with_reducible apply Keeps.foldl
    | with_reducible apply Keeps.foldl_fst
    | with_reducible refine Keeps.of_eq (by assumption) (Keeps.foldl_fst ?_ ?_)
    | intro _ _)

theorem keyRows_keeps' : ∀ {f x0 x1 x2 x3}, (∀ {a0} y0 y1 y2 y3, Keeps a0 y0 → Keeps a0 (f y0 y1 y2 y3).1) → Keeps x0 (keyRows f x0 x1 x2 x3).1 := by
  intro f x0 x1 x2 x3 h_f
  fun_induction keyRows f x0 x1 x2 x3
  all_goals
  repeat' (first
    | with_reducible exact Keeps.refl _
    | with_reducible assumption
    | with_reducible apply h_f
    | with_reducible refine Keeps.of_eq (by assumption) ?_
    | with_reducible refine Keeps.trans ?_ (by assumption))

theorem keyRows_keeps : ∀ {a0 f x0 x1 x2 x3}, (∀ {a0} y0 y1 y2 y3, Keeps a0 y0 → Keeps a0 (f y0 y1 y2 y3).1) → Keeps a0 x0 → Keeps a0 (keyRows f x0 x1 x2 x3).1 := by
  intro a0 f x0 x1 x2 x3 h_f hk0
  exact hk0.trans (keyRows_keeps' h_f)

theorem keyKern_keeps : ∀ {et pre f post}, (∀ {a0} y0 y1, Keeps a0 y0 → Keeps a0 (pre y0 y1).1) → (∀ {a0} y0 y1 y2 y3 y4, Keeps a0 y1 → Keeps a0 (f y0 y1 y2 y3 y4).1) → KernKeeps (keyKern et pre f post) := by
  intro et pre f post h_pre h_f
  constructor
  intro a0 s e ins last hk
  unfold keyKern
  repeat' (first
    | with_reducible exact Keeps.refl _
    | with_reducible assumption
    | with_reducible apply h_pre
    | with_reducible apply h_f
    | with_reducible apply State.getCol_keeps
    | with_reducible apply KernOut.bad_keeps
    | with_reducible apply KernOut.ok_keeps
    | with_reducible apply keyRows_keeps
    | with_reducible refine Keeps.of_eq (by assumption) ?_
    | with_reducible refine Keeps.of_kern (by assumption) ?_
    | with_reducible apply Keeps.foldl
    | with_reducible apply Keeps.foldl_fst
    | with_reducible refine Keeps.of_eq (by assumption) (Keeps.foldl_fst ?_ ?_)
    | intro _ _
    | intro _
    | with_reducible apply Keeps.ite
    | dsimp only
    | with_reducible apply KeepsMk.fields
    | with_reducible apply KeepsMk.memFields
    | with_reducible apply KeepsMk.msixFields
    | with_reducible apply KeepsMk.logFields
    | dsimp only
    | split)

theorem State.spillPut_keeps : ∀ {a0 s e x part n f}, Keeps a0 s → Keeps a0 (State.spillPut s e x part n f).1 := by
  intro a0 s e x part n f hk0
  unfold State.spillPut
  repeat' (first
    | with_reducible exact Keeps.refl _
    | with_reducible assumption
    | with_reducible apply State.chargeRota_keeps
    | with_reducible apply State.freeBytes_keeps
    | with_reducible apply State.writeMem_keeps
    | with_reducible apply State.updRota_keeps
    | with_reducible apply andThen_keeps
    | with_reducible apply wrote_keeps
    | with_reducible refine Keeps.of_eq (by assumption) ?_
    | with_reducible apply Keeps.foldl
    | with_reducible apply Keeps.foldl_fst
    | with_reducible refine Keeps.of_eq (by assumption) (Keeps.foldl_fst ?_ ?_)
    | intro _ _
    | intro _
    | with_reducible apply Keeps.ite
    | dsimp only
    | with_reducible apply KeepsMk.fields
    | with_reducible apply KeepsMk.memFields
    | with_reducible apply KeepsMk.msixFields
    | with_reducible apply KeepsMk.logFields
    | dsimp only
    | split)

theorem State.spillRow_keeps : ∀ {a0 s e x part row key}, Keeps a0 s → Keeps a0 (State.spillRow s e x part row key).1 := by
  intro a0 s e x part row key hk0
  unfold State.spillRow
  repeat' (first
    | with_reducible exact Keeps.refl _
    | with_reducible assumption
    | with_reducible apply State.spillPut_keeps)

theorem State.entries_keeps' : ∀ {s e j x0 x1}, Keeps s (State.entries s e j x0 x1).1 := by
  intro s e j x0 x1
  fun_induction State.entries s e j x0 x1
  all_goals
  repeat' (first
    | with_reducible exact Keeps.refl _
    | with_reducible assumption
    | with_reducible refine Keeps.trans ?_ (by assumption)
    | with_reducible apply State.readTable_keeps
    | with_reducible apply State.entryKey_keeps
    | with_reducible apply andThen_keeps
    | with_reducible refine Keeps.of_eq (by assumption) ?_
    | with_reducible apply Keeps.foldl
    | with_reducible apply Keeps.foldl_fst
    | with_reducible refine Keeps.of_eq (by assumption) (Keeps.foldl_fst ?_ ?_)
    | intro _ _
    | intro _
    | with_reducible apply Keeps.ite
    | simp only [Keeps.mk_eq]
    | with_reducible apply KeepsMk.fields
    | with_reducible apply KeepsMk.memFields
    | with_reducible apply KeepsMk.msixFields
    | with_reducible apply KeepsMk.logFields
    | dsimp only
    | split
    | refine Keeps.trans ?_ (by with_reducible apply_assumption))

theorem State.entries_keeps : ∀ {a0 s e j x0 x1}, Keeps a0 s → Keeps a0 (State.entries s e j x0 x1).1 := by
  intro a0 s e j x0 x1 hk0
  exact hk0.trans (State.entries_keeps')

theorem State.insertAll_keeps' : ∀ {s e j x0}, Keeps s (State.insertAll s e j x0).1 := by
  intro s e j x0
  fun_induction State.insertAll s e j x0
  all_goals
  repeat' (first
    | with_reducible exact Keeps.refl _
    | with_reducible assumption
    | with_reducible refine Keeps.trans ?_ (by assumption)
    | with_reducible apply State.insertKey_keeps
    | with_reducible apply andThen_keeps
    | with_reducible refine Keeps.of_eq (by assumption) ?_
    | with_reducible apply Keeps.foldl
    | with_reducible apply Keeps.foldl_fst
    | with_reducible refine Keeps.of_eq (by assumption) (Keeps.foldl_fst ?_ ?_)
    | intro _ _
    | intro _
    | with_reducible apply Keeps.ite
    | simp only [Keeps.mk_eq]
    | with_reducible apply KeepsMk.fields
    | with_reducible apply KeepsMk.memFields
    | with_reducible apply KeepsMk.msixFields
    | with_reducible apply KeepsMk.logFields
    | dsimp only
    | split
    | refine Keeps.trans ?_ (by with_reducible apply_assumption))

theorem State.insertAll_keeps : ∀ {a0 s e j x0}, Keeps a0 s → Keeps a0 (State.insertAll s e j x0).1 := by
  intro a0 s e j x0 hk0
  exact hk0.trans (State.insertAll_keeps')

theorem State.spillRows_keeps' : ∀ {s e x part x0}, Keeps s (State.spillRows s e x part x0).1 := by
  intro s e x part x0
  fun_induction State.spillRows s e x part x0
  all_goals
  repeat' (first
    | with_reducible exact Keeps.refl _
    | with_reducible assumption
    | with_reducible refine Keeps.trans ?_ (by assumption)
    | with_reducible apply State.spillRow_keeps
    | with_reducible apply andThen_keeps
    | with_reducible refine Keeps.of_eq (by assumption) ?_
    | with_reducible apply Keeps.foldl
    | with_reducible apply Keeps.foldl_fst
    | with_reducible refine Keeps.of_eq (by assumption) (Keeps.foldl_fst ?_ ?_)
    | intro _ _
    | intro _
    | with_reducible apply Keeps.ite
    | simp only [Keeps.mk_eq]
    | with_reducible apply KeepsMk.fields
    | with_reducible apply KeepsMk.memFields
    | with_reducible apply KeepsMk.msixFields
    | with_reducible apply KeepsMk.logFields
    | dsimp only
    | split
    | refine Keeps.trans ?_ (by with_reducible apply_assumption))

theorem State.spillRows_keeps : ∀ {a0 s e x part x0}, Keeps a0 s → Keeps a0 (State.spillRows s e x part x0).1 := by
  intro a0 s e x part x0 hk0
  exact hk0.trans (State.spillRows_keeps')

theorem State.spillPart_keeps : ∀ {a0 s e j x map p}, Keeps a0 s → Keeps a0 (State.spillPart s e j x map p).1 := by
  intro a0 s e j x map p hk0
  unfold State.spillPart
  repeat' (first
    | with_reducible exact Keeps.refl _
    | with_reducible assumption
    | with_reducible apply State.insertAll_keeps
    | with_reducible apply State.spillRows_keeps
    | with_reducible apply State.entries_keeps
    | with_reducible apply State.initTab_keeps
    | with_reducible apply State.vcount_keeps
    | with_reducible apply State.tget_keeps
    | with_reducible apply andThen_keeps
    | with_reducible refine Keeps.of_eq (by assumption) ?_
    | with_reducible apply Keeps.foldl
    | with_reducible apply Keeps.foldl_fst
    | with_reducible refine Keeps.of_eq (by assumption) (Keeps.foldl_fst ?_ ?_)
    | intro _ _
    | intro _)

theorem State.placeRow_rest {a0 s : State} {e : OpEnv} {j : JTab} {x : SpillExt} {row fuel : Nat} {key : Bytes} (map : Nat) (r : Option Nat)
    (hk : Keeps a0 s) (ih : ∀ s, Keeps a0 s → Keeps a0 (s.placeRow e j x row key fuel).1) :
    Keeps a0 (match r with
        | some _ => (s, Except.ok ())
        | none => match topUnspilled x map with
          | none => (s, .error errJoinBuildOverflow)
          | some q => andThen (s.spillPart e j x map q) (fun s _ => s.placeRow e j x row key fuel)).1 := by
  split
  · exact hk
  · split
    · exact hk
    · exact andThen_keeps (fun s _ hk => ih _ hk) (State.spillPart_keeps hk)

theorem State.placeRow_part {a0 s : State} {e : OpEnv} {j : JTab} {x : SpillExt} {row fuel : Nat} {key : Bytes} (p : Nat) (hk : Keeps a0 s)
    (ih : ∀ s, Keeps a0 s → Keeps a0 (s.placeRow e j x row key fuel).1) :
    Keeps a0 (andThen (s.tget e j.rec_ 0x18 8) (fun s map =>
      if bit map p then s.spillRow e x p row key
      else andThen (s.insertKey e j row key) (fun s r => match r with
        | some _ => (s, .ok ())
        | none => match topUnspilled x map with
          | none => (s, .error errJoinBuildOverflow)
          | some q => andThen (s.spillPart e j x map q) (fun s _ => s.placeRow e j x row key fuel)))).1 := by
  refine andThen_keeps (fun s map hk => ?_) (State.tget_keeps hk)
  split
  · exact State.spillRow_keeps hk
  · refine andThen_keeps (fun s r hk => ?_) (State.insertKey_keeps hk)
    exact State.placeRow_rest map r hk ih

theorem State.placeRow_keeps {e : OpEnv} {j : JTab} {x : SpillExt} {row : Nat} {key : Bytes} {a0 s : State} {fuel : Nat} (hk : Keeps a0 s) :
    Keeps a0 (s.placeRow e j x row key fuel).1 := by
  induction fuel generalizing s with
  | zero =>
    rw [State.placeRow]
    exact hk
  | succ fuel ih =>
    rw [State.placeRow]
    exact State.placeRow_part _ hk (fun s hk => ih hk)

theorem initOnce_keeps : ∀ {a0 s e}, Keeps a0 s → Keeps a0 (initOnce s e).1 := by
  intro a0 s e hk0
  unfold initOnce
  repeat' (first
    | with_reducible exact Keeps.refl _
    | with_reducible assumption
    | with_reducible apply State.initTab_keeps
    | with_reducible apply State.updRota_keeps
    | with_reducible apply andThen_keeps
    | with_reducible refine Keeps.of_eq (by assumption) ?_
    | with_reducible apply Keeps.foldl
    | with_reducible apply Keeps.foldl_fst
    | with_reducible refine Keeps.of_eq (by assumption) (Keeps.foldl_fst ?_ ?_)
    | intro _ _
    | intro _
    | with_reducible apply Keeps.ite
    | dsimp only
    | with_reducible apply KeepsMk.fields
    | with_reducible apply KeepsMk.memFields
    | with_reducible apply KeepsMk.msixFields
    | with_reducible apply KeepsMk.logFields
    | dsimp only
    | split)

theorem buildRow_keeps : ∀ {a0 e s o row k}, Keeps a0 s → Keeps a0 (buildRow e s o row k).1 := by
  intro a0 e s o row k hk0
  unfold buildRow
  repeat' (first
    | with_reducible exact Keeps.refl _
    | with_reducible assumption
    | with_reducible apply State.insertKey_keeps
    | with_reducible apply State.placeRow_keeps
    | with_reducible apply State.vcount_keeps
    | with_reducible apply andThen_keeps
    | with_reducible refine Keeps.of_eq (by assumption) ?_
    | with_reducible apply Keeps.foldl
    | with_reducible apply Keeps.foldl_fst
    | with_reducible refine Keeps.of_eq (by assumption) (Keeps.foldl_fst ?_ ?_)
    | intro _ _
    | intro _
    | with_reducible apply Keeps.ite
    | simp only [Keeps.mk_eq]
    | with_reducible apply KeepsMk.fields
    | with_reducible apply KeepsMk.memFields
    | with_reducible apply KeepsMk.msixFields
    | with_reducible apply KeepsMk.logFields
    | dsimp only
    | split)

theorem buildFin_keeps : FinKeeps buildFin := by
  constructor
  intro a0 s e bare hk
  unfold buildFin
  repeat' (first
    | with_reducible exact Keeps.refl _
    | with_reducible assumption
    | with_reducible apply KernOut.bad_keeps
    | with_reducible apply KernOut.ok_keeps
    | with_reducible apply initOnce_keeps
    | with_reducible refine Keeps.of_eq (by assumption) ?_
    | with_reducible refine Keeps.of_kern (by assumption) ?_
    | with_reducible apply Keeps.foldl
    | with_reducible apply Keeps.foldl_fst
    | with_reducible refine Keeps.of_eq (by assumption) (Keeps.foldl_fst ?_ ?_)
    | intro _ _
    | intro _
    | with_reducible apply Keeps.ite
    | simp only [Keeps.mk_eq]
    | with_reducible apply KeepsMk.fields
    | with_reducible apply KeepsMk.memFields
    | with_reducible apply KeepsMk.msixFields
    | with_reducible apply KeepsMk.logFields
    | dsimp only
    | split)

theorem execJoinBuild_keeps : ∀ h i s, NextKeeps s (execJoinBuild h i s) := by
  intro h i s
  unfold execJoinBuild
  repeat' (first
    | with_reducible apply NextKeeps.next
    | with_reducible apply NextKeeps.ite
    | with_reducible exact Keeps.refl _
    | with_reducible assumption
    | with_reducible apply buildFin_keeps
    | with_reducible apply buildRow_keeps
    | with_reducible apply colEvent_keeps
    | with_reducible apply initOnce_keeps
    | with_reducible apply keyKern_keeps
    | with_reducible apply KernKeeps.holds
    | with_reducible apply FinKeeps.holds
    | with_reducible refine Keeps.of_eq (by assumption) ?_
    | with_reducible apply Keeps.foldl
    | with_reducible apply Keeps.foldl_fst
    | with_reducible refine Keeps.of_eq (by assumption) (Keeps.foldl_fst ?_ ?_)
    | intro _ _
    | intro _)

theorem State.addProbe_keeps : ∀ {a0 s e o rows}, Keeps a0 s → Keeps a0 (State.addProbe s e o rows).1 := by
  intro a0 s e o rows hk0
  unfold State.addProbe
  repeat' (first
    | with_reducible exact Keeps.refl _
    | with_reducible assumption
    | with_reducible apply State.vcount64_keeps)

theorem probeRow_part {a0 s : State} {e : OpEnv} {o : OpRun} {row : Nat} {key : Bytes} {x : SpillExt} (p : Nat)
    {look : State → State × Except Nat OpRun} (hl : ∀ w, Keeps a0 w → Keeps a0 (look w).1) (hk : Keeps a0 s) :
    Keeps a0 (andThen (s.tget e e.probeTab.rec_ 0x18 8) (fun s map =>
        if bit map p then
          andThen (s.spillPut e x p (deferBytes key) id) (fun s _ =>
            (s, .ok { o with table := o.table ++ [(p, row :: key.map (·.toNat))] }))
        else look s)).1 := by
  refine andThen_keeps (fun s map hk => ?_) (State.tget_keeps hk)
  split
  · exact andThen_keeps (fun s _ hk => hk) (State.spillPut_keeps hk)
  · exact hl s hk

theorem probeRow_look {a0 w : State} {e : OpEnv} {o : OpRun} {row : Nat} (key : Bytes) (hk : Keeps a0 w) :
    Keeps a0 (andThen (w.matches e e.probeTab key (e.kind == 2)) (fun s m =>
      ((s.addProbe e o (probeOut e.kind row m)).1, (Except.ok (s.addProbe e o (probeOut e.kind row m)).2 : Except Nat OpRun)))).1 :=
  andThen_keeps (fun _ _ hk => State.addProbe_keeps (o := o) hk) (State.matches_keeps hk)

theorem probeRow_keeps {a0 : State} {e : OpEnv} {s : State} {o : OpRun} {row : Nat} {k : KeyRow} (hk : Keeps a0 s) :
    Keeps a0 (probeRow e s o row k).1 := by
  unfold probeRow
  split
  · rename_i key
    split
    · exact probeRow_look key hk
    · exact probeRow_part _ (fun w hw => probeRow_look key hw) hk
  · exact State.addProbe_keeps (o := o) (State.vcount_keeps hk)

theorem State.probeDeferred_keeps' : ∀ {s e o x0}, Keeps s (State.probeDeferred s e o x0).1 := by
  intro s e o x0
  fun_induction State.probeDeferred s e o x0
  all_goals
  repeat' (first
    | with_reducible exact Keeps.refl _
    | with_reducible assumption
    | with_reducible refine Keeps.trans ?_ (by assumption)
    | with_reducible refine Keeps.trans ?_ (Keeps.of_eq (by assumption) (by assumption))
    | with_reducible apply State.addProbe_keeps
    | with_reducible apply State.matches_keeps
    | with_reducible refine Keeps.of_eq (by assumption) ?_)

theorem State.probeDeferred_keeps : ∀ {a0 s e o x0}, Keeps a0 s → Keeps a0 (State.probeDeferred s e o x0).1 := by
  intro a0 s e o x0 hk0
  exact hk0.trans (State.probeDeferred_keeps')

theorem State.probeParts_keeps' : ∀ {s e x map o x0}, Keeps s (State.probeParts s e x map o x0).1 := by
  intro s e x map o x0
  fun_induction State.probeParts s e x map o x0
  all_goals
  repeat' (first
    | with_reducible exact Keeps.refl _
    | with_reducible assumption
    | with_reducible refine Keeps.trans ?_ (by assumption)
    | with_reducible refine Keeps.trans ?_ (Keeps.of_eq (by assumption) (by assumption))
    | with_reducible apply State.probeDeferred_keeps
    | with_reducible apply State.chargeRota_keeps
    | with_reducible apply State.insertAll_keeps
    | with_reducible apply State.initTab_keeps
    | with_reducible refine Keeps.of_eq (by assumption) ?_)

theorem State.probeParts_keeps : ∀ {a0 s e x map o x0}, Keeps a0 s → Keeps a0 (State.probeParts s e x map o x0).1 := by
  intro a0 s e x map o x0 hk0
  exact hk0.trans (State.probeParts_keeps')

theorem probeFin_keeps : FinKeeps probeFin := by
  constructor
  intro a0 s e bare hk
  unfold probeFin
  repeat' (first
    | with_reducible exact Keeps.refl _
    | with_reducible assumption
    | with_reducible apply State.probeParts_keeps
    | with_reducible apply KernOut.bad_keeps
    | with_reducible apply KernOut.ok_keeps
    | with_reducible apply State.tget_keeps
    | with_reducible refine Keeps.of_eq (by assumption) ?_
    | with_reducible refine Keeps.of_kern (by assumption) ?_
    | with_reducible apply Keeps.foldl
    | with_reducible apply Keeps.foldl_fst
    | with_reducible refine Keeps.of_eq (by assumption) (Keeps.foldl_fst ?_ ?_)
    | intro _ _
    | intro _
    | with_reducible apply Keeps.ite
    | dsimp only
    | with_reducible apply KeepsMk.fields
    | with_reducible apply KeepsMk.memFields
    | with_reducible apply KeepsMk.msixFields
    | with_reducible apply KeepsMk.logFields
    | dsimp only
    | split)

theorem execJoinProbe_keeps : ∀ h i s, NextKeeps s (execJoinProbe h i s) := by
  intro h i s
  unfold execJoinProbe
  repeat' (first
    | with_reducible apply NextKeeps.next
    | with_reducible apply NextKeeps.ite
    | with_reducible exact Keeps.refl _
    | with_reducible assumption
    | with_reducible apply colEvent_keeps
    | with_reducible apply probeFin_keeps
    | with_reducible apply probeRow_keeps
    | with_reducible apply keyKern_keeps
    | with_reducible apply KernKeeps.holds
    | with_reducible apply FinKeeps.holds
    | with_reducible refine Keeps.of_eq (by assumption) ?_
    | with_reducible apply Keeps.foldl
    | with_reducible apply Keeps.foldl_fst
    | with_reducible refine Keeps.of_eq (by assumption) (Keeps.foldl_fst ?_ ?_)
    | intro _ _
    | intro _)

theorem State.groupSpecial_keeps : ∀ {a0 s e row field len}, Keeps a0 s → Keeps a0 (State.groupSpecial s e row field len).1 := by
  intro a0 s e row field len hk0
  unfold State.groupSpecial
  repeat' (first
    | with_reducible exact Keeps.refl _
    | with_reducible assumption
    | with_reducible apply State.tget_keeps
    | with_reducible apply State.tput_keeps
    | with_reducible apply andThen_keeps
    | with_reducible refine Keeps.of_eq (by assumption) ?_
    | with_reducible apply Keeps.foldl
    | with_reducible apply Keeps.foldl_fst
    | with_reducible refine Keeps.of_eq (by assumption) (Keeps.foldl_fst ?_ ?_)
    | intro _ _
    | intro _
    | with_reducible apply Keeps.ite
    | simp only [Keeps.mk_eq]
    | with_reducible apply KeepsMk.fields
    | with_reducible apply KeepsMk.memFields
    | with_reducible apply KeepsMk.msixFields
    | with_reducible apply KeepsMk.logFields
    | dsimp only
    | split)

theorem State.groupOf_keeps : ∀ {a0 s e row key}, Keeps a0 s → Keeps a0 (State.groupOf s e row key).1 := by
  intro a0 s e row key hk0
  unfold State.groupOf
  repeat' (first
    | with_reducible exact Keeps.refl _
    | with_reducible assumption
    | with_reducible apply State.insertKey_keeps
    | with_reducible apply State.matches_keeps
    | with_reducible apply State.tget_keeps
    | with_reducible apply andThen_keeps
    | with_reducible refine Keeps.of_eq (by assumption) ?_
    | with_reducible apply Keeps.foldl
    | with_reducible apply Keeps.foldl_fst
    | with_reducible refine Keeps.of_eq (by assumption) (Keeps.foldl_fst ?_ ?_)
    | intro _ _
    | intro _
    | with_reducible apply Keeps.ite
    | simp only [Keeps.mk_eq]
    | with_reducible apply KeepsMk.fields
    | with_reducible apply KeepsMk.memFields
    | with_reducible apply KeepsMk.msixFields
    | with_reducible apply KeepsMk.logFields
    | dsimp only
    | split)

theorem groupRow_keeps : ∀ {a0 e s o row k}, Keeps a0 s → Keeps a0 (groupRow e s o row k).1 := by
  intro a0 e s o row k hk0
  unfold groupRow
  repeat' (first
    | with_reducible exact Keeps.refl _
    | with_reducible assumption
    | with_reducible apply State.groupSpecial_keeps
    | with_reducible apply State.groupOf_keeps
    | with_reducible apply andThen_keeps
    | with_reducible refine Keeps.of_eq (by assumption) ?_
    | with_reducible apply Keeps.foldl
    | with_reducible apply Keeps.foldl_fst
    | with_reducible refine Keeps.of_eq (by assumption) (Keeps.foldl_fst ?_ ?_)
    | intro _ _
    | intro _
    | with_reducible apply Keeps.ite
    | simp only [Keeps.mk_eq]
    | with_reducible apply KeepsMk.fields
    | with_reducible apply KeepsMk.memFields
    | with_reducible apply KeepsMk.msixFields
    | with_reducible apply KeepsMk.logFields
    | dsimp only
    | split)

theorem groupInit_keeps : ∀ {a0 s e}, Keeps a0 s → Keeps a0 (groupInit s e).1 := by
  intro a0 s e hk0
  unfold groupInit
  repeat' (first
    | with_reducible exact Keeps.refl _
    | with_reducible assumption
    | with_reducible apply initOnce_keeps
    | with_reducible apply andThen_keeps
    | with_reducible refine Keeps.of_eq (by assumption) ?_
    | with_reducible apply Keeps.foldl
    | with_reducible apply Keeps.foldl_fst
    | with_reducible refine Keeps.of_eq (by assumption) (Keeps.foldl_fst ?_ ?_)
    | intro _ _
    | intro _
    | with_reducible apply Keeps.ite
    | simp only [Keeps.mk_eq]
    | with_reducible apply KeepsMk.fields
    | with_reducible apply KeepsMk.memFields
    | with_reducible apply KeepsMk.msixFields
    | with_reducible apply KeepsMk.logFields
    | dsimp only
    | split)

theorem groupFin_keeps : FinKeeps groupFin := by
  constructor
  intro a0 s e bare hk
  unfold groupFin
  repeat' (first
    | with_reducible exact Keeps.refl _
    | with_reducible assumption
    | with_reducible apply State.entries_keeps
    | with_reducible apply KernOut.bad_keeps
    | with_reducible apply KernOut.ok_keeps
    | with_reducible apply State.tget_keeps
    | with_reducible apply groupInit_keeps
    | with_reducible apply andThen_keeps
    | with_reducible refine Keeps.of_eq (by assumption) ?_
    | with_reducible refine Keeps.of_kern (by assumption) ?_
    | with_reducible apply Keeps.foldl
    | with_reducible apply Keeps.foldl_fst
    | with_reducible refine Keeps.of_eq (by assumption) (Keeps.foldl_fst ?_ ?_)
    | intro _ _
    | intro _
    | with_reducible apply Keeps.ite
    | dsimp only
    | with_reducible apply KeepsMk.fields
    | with_reducible apply KeepsMk.memFields
    | with_reducible apply KeepsMk.msixFields
    | with_reducible apply KeepsMk.logFields
    | dsimp only
    | split)

theorem execGroupKey_keeps : ∀ h i s, NextKeeps s (execGroupKey h i s) := by
  intro h i s
  unfold execGroupKey
  repeat' (first
    | with_reducible apply NextKeeps.next
    | with_reducible apply NextKeeps.ite
    | with_reducible exact Keeps.refl _
    | with_reducible assumption
    | with_reducible apply groupInit_keeps
    | with_reducible apply colEvent_keeps
    | with_reducible apply groupFin_keeps
    | with_reducible apply groupRow_keeps
    | with_reducible apply keyKern_keeps
    | with_reducible apply KernKeeps.holds
    | with_reducible apply FinKeeps.holds
    | with_reducible refine Keeps.of_eq (by assumption) ?_
    | with_reducible apply Keeps.foldl
    | with_reducible apply Keeps.foldl_fst
    | with_reducible refine Keeps.of_eq (by assumption) (Keeps.foldl_fst ?_ ?_)
    | intro _ _
    | intro _)

theorem State.scribble_keeps : ∀ {a0 s e}, Keeps a0 s → Keeps a0 (State.scribble s e) := by
  intro a0 s e hk0
  unfold State.scribble
  repeat' (first
    | with_reducible exact Keeps.refl _
    | with_reducible assumption
    | with_reducible apply State.freeBytes_keeps
    | with_reducible apply State.tput_keeps)

theorem valueKern_keeps : ∀ {et f}, (∀ {a0} y0 y1 y2 y3 y4 y5, Keeps a0 y1 → Keeps a0 (f y0 y1 y2 y3 y4 y5).1) → KernKeeps (valueKern et f) := by
  intro et f h_f
  constructor
  intro a0 s e ins last hk
  unfold valueKern
  repeat' (first
    | with_reducible exact Keeps.refl _
    | with_reducible assumption
    | with_reducible apply h_f
    | with_reducible apply State.scribble_keeps
    | with_reducible apply State.getCol_keeps
    | with_reducible apply valueKern.go_keeps
    | with_reducible apply KernOut.bad_keeps
    | with_reducible apply KernOut.ok_keeps
    | with_reducible refine Keeps.of_eq (by assumption) ?_
    | with_reducible refine Keeps.of_kern (by assumption) ?_
    | with_reducible apply Keeps.foldl
    | with_reducible apply Keeps.foldl_fst
    | with_reducible refine Keeps.of_eq (by assumption) (Keeps.foldl_fst ?_ ?_)
    | intro _ _
    | intro _
    | with_reducible apply Keeps.ite
    | dsimp only
    | with_reducible apply KeepsMk.fields
    | with_reducible apply KeepsMk.memFields
    | with_reducible apply KeepsMk.msixFields
    | with_reducible apply KeepsMk.logFields
    | dsimp only
    | split)

theorem aggRow_keeps : ∀ {a0 e s o _row g v}, Keeps a0 s → Keeps a0 (aggRow e s o _row g v).1 := by
  intro a0 e s o _row g v hk0
  unfold aggRow
  repeat' (first
    | with_reducible exact Keeps.refl _
    | with_reducible assumption
    | with_reducible apply State.vcount_keeps
    | with_reducible apply Keeps.foldl
    | with_reducible apply Keeps.foldl_fst
    | with_reducible refine Keeps.of_eq (by assumption) (Keeps.foldl_fst ?_ ?_)
    | intro _ _
    | intro _
    | with_reducible apply Keeps.ite
    | dsimp only
    | with_reducible apply KeepsMk.fields
    | with_reducible apply KeepsMk.memFields
    | with_reducible apply KeepsMk.msixFields
    | with_reducible apply KeepsMk.logFields
    | dsimp only
    | split)

theorem aggFin_keeps : FinKeeps aggFin := by
  constructor
  intro a0 s e bare hk
  unfold aggFin
  repeat' (first
    | with_reducible exact Keeps.refl _
    | with_reducible assumption
    | with_reducible apply KernOut.ok_keeps)

theorem idEvent_keeps : ∀ {a0 opcode kern fin h i s}, (∀ y0, KernKeeps (kern y0)) → (FinKeeps fin) → Keeps a0 s → Keeps a0 (idEvent opcode kern fin h i s) := by
  intro a0 opcode kern fin h i s h_kern h_fin hk0
  unfold idEvent
  repeat' (first
    | with_reducible exact Keeps.refl _
    | with_reducible assumption
    | with_reducible apply h_kern
    | with_reducible apply h_fin
    | with_reducible refine Keeps.of_eq (by assumption) ?_
    | with_reducible apply colEvent_keeps
    | with_reducible apply Keeps.foldl
    | with_reducible apply Keeps.foldl_fst
    | with_reducible refine Keeps.of_eq (by assumption) (Keeps.foldl_fst ?_ ?_)
    | intro _ _
    | intro _
    | with_reducible apply Keeps.ite
    | simp only [Keeps.mk_eq]
    | with_reducible apply KeepsMk.fields
    | with_reducible apply KeepsMk.memFields
    | with_reducible apply KeepsMk.msixFields
    | with_reducible apply KeepsMk.logFields
    | dsimp only
    | split)

theorem execGroupAgg_keeps : ∀ h i s, NextKeeps s (execGroupAgg h i s) := by
  intro h i s
  unfold execGroupAgg
  repeat' (first
    | with_reducible apply NextKeeps.next
    | with_reducible apply NextKeeps.ite
    | with_reducible exact Keeps.refl _
    | with_reducible assumption
    | with_reducible apply valueKern_keeps
    | with_reducible apply idEvent_keeps
    | with_reducible apply aggFin_keeps
    | with_reducible apply aggRow_keeps
    | with_reducible apply KernKeeps.holds
    | with_reducible apply FinKeeps.holds
    | with_reducible refine Keeps.of_eq (by assumption) ?_
    | with_reducible apply Keeps.foldl
    | with_reducible apply Keeps.foldl_fst
    | with_reducible refine Keeps.of_eq (by assumption) (Keeps.foldl_fst ?_ ?_)
    | intro _ _
    | intro _)

theorem seqRow_keeps : ∀ {a0 e s o _row g v}, Keeps a0 s → Keeps a0 (seqRow e s o _row g v).1 := by
  intro a0 e s o _row g v hk0
  unfold seqRow
  repeat' (first
    | with_reducible exact Keeps.refl _
    | with_reducible assumption
    | with_reducible apply State.vcount_keeps
    | with_reducible apply Keeps.foldl
    | with_reducible apply Keeps.foldl_fst
    | with_reducible refine Keeps.of_eq (by assumption) (Keeps.foldl_fst ?_ ?_)
    | intro _ _
    | intro _
    | with_reducible apply Keeps.ite
    | dsimp only
    | with_reducible apply KeepsMk.fields
    | with_reducible apply KeepsMk.memFields
    | with_reducible apply KeepsMk.msixFields
    | with_reducible apply KeepsMk.logFields
    | dsimp only
    | split)

theorem seqFin_keeps : FinKeeps seqFin := by
  constructor
  intro a0 s e bare hk
  unfold seqFin
  repeat' (first
    | with_reducible exact Keeps.refl _
    | with_reducible assumption
    | with_reducible apply KernOut.ok_keeps)

theorem execSeqGather_keeps : ∀ h i s, NextKeeps s (execSeqGather h i s) := by
  intro h i s
  unfold execSeqGather
  repeat' (first
    | with_reducible apply NextKeeps.next
    | with_reducible apply NextKeeps.ite
    | with_reducible exact Keeps.refl _
    | with_reducible assumption
    | with_reducible apply valueKern_keeps
    | with_reducible apply idEvent_keeps
    | with_reducible apply seqFin_keeps
    | with_reducible apply seqRow_keeps
    | with_reducible apply KernKeeps.holds
    | with_reducible apply FinKeeps.holds
    | with_reducible refine Keeps.of_eq (by assumption) ?_
    | with_reducible apply Keeps.foldl
    | with_reducible apply Keeps.foldl_fst
    | with_reducible refine Keeps.of_eq (by assumption) (Keeps.foldl_fst ?_ ?_)
    | intro _ _
    | intro _)

end Sys2Proof.Machine
end

