-- ==== Sys2Proof/Laws/KeepsCourse.lean ====
section
/-! SUPPORT. What `Keeps` says holds of every function that changes the state: courses, Strand cores and the network. -/

namespace Sys2Proof.Machine

/-! ### Machine/Course.lean -/

theorem State.loadCores_keeps' : ∀ {s r c x0}, Keeps s (State.loadCores s r c x0).1 := by
  intro s r c x0
  fun_induction State.loadCores s r c x0
  all_goals
  repeat' (first
    | with_reducible exact Keeps.refl _
    | with_reducible assumption
    | with_reducible refine Keeps.trans ?_ (by assumption)
    | with_reducible refine Keeps.trans ?_ (Keeps.of_eq (by assumption) (by assumption))
    | with_reducible apply State.readMem_keeps
    | with_reducible refine Keeps.of_eq (by assumption) ?_)

theorem State.loadCores_keeps : ∀ {a0 s r c x0}, Keeps a0 s → Keeps a0 (State.loadCores s r c x0).1 := by
  intro a0 s r c x0 hk0
  exact hk0.trans (State.loadCores_keeps')

theorem State.takeFrames_keeps : ∀ {a0 s r c b}, Keeps a0 s → Keeps a0 (State.takeFrames s r c b) := by
  intro a0 s r c b hk0
  unfold State.takeFrames
  repeat' (first
    | with_reducible exact Keeps.refl _
    | with_reducible assumption
    | with_reducible apply State.updSensor_keeps
    | with_reducible apply State.vcount_keeps
    | with_reducible apply Keeps.foldl
    | with_reducible apply Keeps.foldl_fst
    | with_reducible refine Keeps.of_eq (by assumption) (Keeps.foldl_fst ?_ ?_)
    | intro _ _
    | intro _
    | with_reducible apply Keeps.ite
    | dsimp only
    | with_reducible apply KeepsMk.fields
    | with_reducible apply KeepsMk.memFields
    | with_reducible apply KeepsMk.msixFields
    | with_reducible apply KeepsMk.logFields
    | dsimp only
    | split)

theorem State.ensureTables_keeps : ∀ {a0 s r x c}, Keeps a0 s → Keeps a0 (State.ensureTables s r x c) := by
  intro a0 s r x c hk0
  unfold State.ensureTables
  repeat' (first
    | with_reducible exact Keeps.refl _
    | with_reducible assumption
    | with_reducible apply State.fetchLoose_keeps
    | with_reducible apply Keeps.foldl
    | with_reducible apply Keeps.foldl_fst
    | with_reducible refine Keeps.of_eq (by assumption) (Keeps.foldl_fst ?_ ?_)
    | intro _ _
    | intro _
    | with_reducible apply Keeps.ite)

theorem State.startCourse_keeps : ∀ {a0 s r x c b}, Keeps a0 s → Keeps a0 (State.startCourse s r x c b) := by
  intro a0 s r x c b hk0
  unfold State.startCourse
  repeat' (first
    | with_reducible exact Keeps.refl _
    | with_reducible assumption
    | with_reducible apply State.ensureTables_keeps
    | with_reducible apply State.clearStakes_keeps
    | with_reducible apply State.fetchLoose_keeps
    | with_reducible apply State.takeFrames_keeps
    | with_reducible apply State.clearTags_keeps
    | with_reducible apply State.loadCores_keeps
    | with_reducible apply State.flushAll_keeps
    | with_reducible apply State.updRota_keeps
    | with_reducible apply State.updTask_keeps
    | with_reducible apply State.vcount_keeps
    | with_reducible refine Keeps.of_eq (by assumption) ?_
    | with_reducible apply Keeps.foldl
    | with_reducible apply Keeps.foldl_fst
    | with_reducible refine Keeps.of_eq (by assumption) (Keeps.foldl_fst ?_ ?_)
    | intro _ _
    | intro _
    | with_reducible apply Keeps.ite
    | dsimp only
    | with_reducible apply KeepsMk.fields
    | with_reducible apply KeepsMk.memFields
    | with_reducible apply KeepsMk.msixFields
    | with_reducible apply KeepsMk.logFields
    | dsimp only
    | split)

theorem State.loadFault_keeps : ∀ {a0 s r x c}, Keeps a0 s → Keeps a0 (State.loadFault s r x c) := by
  intro a0 s r x c hk0
  unfold State.loadFault
  repeat' (first
    | with_reducible exact Keeps.refl _
    | with_reducible assumption
    | with_reducible apply State.abortTask_keeps
    | with_reducible apply State.loadCores_keeps
    | with_reducible refine Keeps.of_eq (by assumption) ?_
    | with_reducible apply Keeps.foldl
    | with_reducible apply Keeps.foldl_fst
    | with_reducible refine Keeps.of_eq (by assumption) (Keeps.foldl_fst ?_ ?_)
    | intro _ _
    | intro _
    | with_reducible apply Keeps.ite
    | simp only [Keeps.mk_eq]
    | with_reducible apply KeepsMk.fields
    | with_reducible apply KeepsMk.memFields
    | with_reducible apply KeepsMk.msixFields
    | with_reducible apply KeepsMk.logFields
    | dsimp only
    | split)

theorem execCourseStart_keeps : ∀ h c s, NextKeeps s (execCourseStart h c s) := by
  intro h c s
  unfold execCourseStart
  repeat' (first
    | with_reducible apply NextKeeps.next
    | with_reducible apply NextKeeps.ite
    | with_reducible exact Keeps.refl _
    | with_reducible assumption
    | with_reducible apply State.startCourse_keeps
    | with_reducible apply State.loadCores_keeps
    | with_reducible apply State.loadFault_keeps
    | with_reducible apply State.logOpen_keeps
    | with_reducible apply State.vcount_keeps
    | with_reducible refine Keeps.of_eq (by assumption) ?_
    | with_reducible apply Keeps.foldl
    | with_reducible apply Keeps.foldl_fst
    | with_reducible refine Keeps.of_eq (by assumption) (Keeps.foldl_fst ?_ ?_)
    | intro _ _
    | intro _
    | with_reducible apply Keeps.ite
    | simp only [Keeps.mk_eq]
    | with_reducible apply KeepsMk.fields
    | with_reducible apply KeepsMk.memFields
    | with_reducible apply KeepsMk.msixFields
    | with_reducible apply KeepsMk.logFields
    | dsimp only
    | split)

theorem execCourseFinish_keeps : ∀ h s, NextKeeps s (execCourseFinish h s) := by
  intro h s
  unfold execCourseFinish
  repeat' (first
    | with_reducible apply NextKeeps.next
    | with_reducible apply NextKeeps.ite
    | with_reducible exact Keeps.refl _
    | with_reducible assumption
    | with_reducible apply State.settleOwners_keeps
    | with_reducible apply State.updRota_keeps
    | with_reducible apply State.updTask_keeps
    | with_reducible apply Keeps.foldl
    | with_reducible apply Keeps.foldl_fst
    | with_reducible refine Keeps.of_eq (by assumption) (Keeps.foldl_fst ?_ ?_)
    | intro _ _
    | intro _
    | with_reducible apply Keeps.ite
    | simp only [Keeps.mk_eq]
    | with_reducible apply KeepsMk.fields
    | with_reducible apply KeepsMk.memFields
    | with_reducible apply KeepsMk.msixFields
    | with_reducible apply KeepsMk.logFields
    | dsimp only
    | split)

theorem execRotaCourseOverrun_keeps : ∀ h s, NextKeeps s (execRotaCourseOverrun h s) := by
  intro h s
  unfold execRotaCourseOverrun
  repeat' (first
    | with_reducible apply NextKeeps.next
    | with_reducible apply NextKeeps.ite
    | with_reducible exact Keeps.refl _
    | with_reducible assumption
    | with_reducible apply State.abortTask_keeps
    | with_reducible apply State.updCourse_keeps
    | with_reducible apply State.vcount_keeps
    | with_reducible apply Keeps.foldl
    | with_reducible apply Keeps.foldl_fst
    | with_reducible refine Keeps.of_eq (by assumption) (Keeps.foldl_fst ?_ ?_)
    | intro _ _
    | intro _
    | with_reducible apply Keeps.ite
    | dsimp only
    | with_reducible apply KeepsMk.fields
    | with_reducible apply KeepsMk.memFields
    | with_reducible apply KeepsMk.msixFields
    | with_reducible apply KeepsMk.logFields
    | dsimp only
    | split)

/-! ### Machine/Strands.lean -/

theorem State.updCore_keeps : ∀ {a0 s h k f}, Keeps a0 s → Keeps a0 (State.updCore s h k f) := by
  intro a0 s h k f hk0
  unfold State.updCore
  repeat' (first
    | with_reducible exact Keeps.refl _
    | with_reducible assumption
    | with_reducible apply State.updCourse_keeps)

theorem State.coreTime_keeps : ∀ {a0 s h k bound}, Keeps a0 s → Keeps a0 (State.coreTime s h k bound) := by
  intro a0 s h k bound hk0
  unfold State.coreTime
  repeat' (first
    | with_reducible exact Keeps.refl _
    | with_reducible assumption
    | with_reducible apply State.updCore_keeps
    | with_reducible apply State.free_keeps)

theorem State.retire_keeps : ∀ {a0 s e bound f}, Keeps a0 s → Keeps a0 (State.retire s e bound f) := by
  intro a0 s e bound f hk0
  unfold State.retire
  repeat' (first
    | with_reducible exact Keeps.refl _
    | with_reducible assumption
    | with_reducible apply State.coreTime_keeps
    | with_reducible apply State.vcount64_keeps
    | with_reducible apply State.updCore_keeps)

theorem State.tval_keeps : ∀ {a0 s v}, Keeps a0 s → Keeps a0 (State.tval s v).2 := by
  intro a0 s v hk0
  unfold State.tval
  repeat' (first
    | with_reducible exact Keeps.refl _
    | with_reducible assumption
    | with_reducible apply State.free_keeps)

theorem State.strandFault_keeps : ∀ {a0 s e code tv}, Keeps a0 s → Keeps a0 (State.strandFault s e code tv) := by
  intro a0 s e code tv hk0
  unfold State.strandFault
  repeat' (first
    | with_reducible exact Keeps.refl _
    | with_reducible assumption
    | with_reducible apply State.courseFault_keeps
    | with_reducible apply State.vset64_keeps
    | with_reducible apply State.tval_keeps)

theorem State.coreMemFault_keeps : ∀ {a0 s e code pc}, Keeps a0 s → Keeps a0 (State.coreMemFault s e code pc) := by
  intro a0 s e code pc hk0
  unfold State.coreMemFault
  repeat' (first
    | with_reducible exact Keeps.refl _
    | with_reducible assumption
    | with_reducible apply State.courseFault_keeps)

theorem State.corePay_keeps : ∀ {a0 s e c ory a n}, Keeps a0 s → Keeps a0 (State.corePay s e c ory a n) := by
  intro a0 s e c ory a n hk0
  unfold State.corePay
  repeat' (first
    | with_reducible exact Keeps.refl _
    | with_reducible assumption
    | with_reducible apply State.chargeRota_keeps
    | with_reducible apply Keeps.foldl
    | with_reducible apply Keeps.foldl_fst
    | with_reducible refine Keeps.of_eq (by assumption) (Keeps.foldl_fst ?_ ?_)
    | intro _ _
    | intro _
    | with_reducible apply Keeps.ite)

theorem State.drain_keeps' : ∀ {s h k x0}, Keeps s (State.drain s h k x0).1 := by
  intro s h k x0
  fun_induction State.drain s h k x0
  all_goals
  repeat' (first
    | with_reducible exact Keeps.refl _
    | with_reducible assumption
    | with_reducible refine Keeps.trans ?_ (by assumption)
    | with_reducible refine Keeps.trans ?_ (Keeps.of_eq (by assumption) (by assumption))
    | with_reducible apply State.coreMemFault_keeps
    | with_reducible apply State.writeMem_keeps
    | with_reducible apply State.updCore_keeps
    | with_reducible refine Keeps.of_eq (by assumption) ?_)

theorem State.drain_keeps : ∀ {a0 s h k x0}, Keeps a0 s → Keeps a0 (State.drain s h k x0).1 := by
  intro a0 s h k x0 hk0
  exact hk0.trans (State.drain_keeps')

theorem State.drainAll_keeps : ∀ {a0 s e}, Keeps a0 s → Keeps a0 (State.drainAll s e).1 := by
  intro a0 s e hk0
  unfold State.drainAll
  repeat' (first
    | with_reducible exact Keeps.refl _
    | with_reducible assumption
    | with_reducible apply State.drain_keeps)

theorem State.drainSome_keeps : ∀ {a0 s e}, Keeps a0 s → Keeps a0 (State.drainSome s e).1 := by
  intro a0 s e hk0
  unfold State.drainSome
  repeat' (first
    | with_reducible exact Keeps.refl _
    | with_reducible assumption
    | with_reducible apply State.drain_keeps
    | with_reducible apply State.free_keeps)

theorem State.coreLoad_keeps : ∀ {a0 s e len rd float addr n signed}, Keeps a0 s → Keeps a0 (State.coreLoad s e len rd float addr n signed) := by
  intro a0 s e len rd float addr n signed hk0
  unfold State.coreLoad
  repeat' (first
    | with_reducible exact Keeps.refl _
    | with_reducible assumption
    | with_reducible apply State.coreMemFault_keeps
    | with_reducible apply State.strandFault_keeps
    | with_reducible apply State.chargeRota_keeps
    | with_reducible apply State.drainSome_keeps
    | with_reducible apply State.hostRead_keeps
    | with_reducible apply State.vcount64_keeps
    | with_reducible apply State.corePay_keeps
    | with_reducible apply State.readMem_keeps
    | with_reducible apply State.retire_keeps
    | with_reducible refine Keeps.of_eq (by assumption) ?_
    | with_reducible apply Keeps.foldl
    | with_reducible apply Keeps.foldl_fst
    | with_reducible refine Keeps.of_eq (by assumption) (Keeps.foldl_fst ?_ ?_)
    | intro _ _
    | intro _
    | with_reducible apply Keeps.ite
    | dsimp only
    | with_reducible apply KeepsMk.fields
    | with_reducible apply KeepsMk.memFields
    | with_reducible apply KeepsMk.msixFields
    | with_reducible apply KeepsMk.logFields
    | dsimp only
    | split)

theorem State.coreStore_keeps : ∀ {a0 s e len addr n v}, Keeps a0 s → Keeps a0 (State.coreStore s e len addr n v) := by
  intro a0 s e len addr n v hk0
  unfold State.coreStore
  repeat' (first
    | with_reducible exact Keeps.refl _
    | with_reducible assumption
    | with_reducible apply State.coreMemFault_keeps
    | with_reducible apply State.strandFault_keeps
    | with_reducible apply State.chargeRota_keeps
    | with_reducible apply State.drainSome_keeps
    | with_reducible apply State.hostWrite_keeps
    | with_reducible apply State.vcount64_keeps
    | with_reducible apply State.corePay_keeps
    | with_reducible apply State.retire_keeps
    | with_reducible apply State.drain_keeps
    | with_reducible refine Keeps.of_eq (by assumption) ?_
    | with_reducible apply Keeps.foldl
    | with_reducible apply Keeps.foldl_fst
    | with_reducible refine Keeps.of_eq (by assumption) (Keeps.foldl_fst ?_ ?_)
    | intro _ _
    | intro _
    | with_reducible apply Keeps.ite
    | dsimp only
    | with_reducible apply KeepsMk.fields
    | with_reducible apply KeepsMk.memFields
    | with_reducible apply KeepsMk.msixFields
    | with_reducible apply KeepsMk.logFields
    | dsimp only
    | split)

theorem State.coreAtomic_keeps : ∀ {a0 s e len rd addr n op}, Keeps a0 s → Keeps a0 (State.coreAtomic s e len rd addr n op) := by
  intro a0 s e len rd addr n op hk0
  unfold State.coreAtomic
  repeat' (first
    | with_reducible exact Keeps.refl _
    | with_reducible assumption
    | with_reducible apply State.coreMemFault_keeps
    | with_reducible apply State.strandFault_keeps
    | with_reducible apply State.drainAll_keeps
    | with_reducible apply State.vcount64_keeps
    | with_reducible apply State.writeMem_keeps
    | with_reducible apply State.corePay_keeps
    | with_reducible apply State.readMem_keeps
    | with_reducible apply State.retire_keeps
    | with_reducible apply State.free_keeps
    | with_reducible refine Keeps.of_eq (by assumption) ?_
    | with_reducible refine Keeps.of_eq2 (by assumption) ?_
    | with_reducible apply Keeps.foldl
    | with_reducible apply Keeps.foldl_fst
    | with_reducible refine Keeps.of_eq (by assumption) (Keeps.foldl_fst ?_ ?_)
    | intro _ _
    | intro _
    | with_reducible apply Keeps.ite
    | dsimp only
    | with_reducible apply KeepsMk.fields
    | with_reducible apply KeepsMk.memFields
    | with_reducible apply KeepsMk.msixFields
    | with_reducible apply KeepsMk.logFields
    | dsimp only
    | split)

theorem execStrandMemoryAccess_keeps : ∀ h k s, NextKeeps s (execStrandMemoryAccess h k s) := by
  intro h k s
  unfold execStrandMemoryAccess
  repeat' (first
    | with_reducible apply NextKeeps.next
    | with_reducible apply NextKeeps.ite
    | with_reducible exact Keeps.refl _
    | with_reducible assumption
    | with_reducible apply State.coreAtomic_keeps
    | with_reducible apply State.coreStore_keeps
    | with_reducible apply State.coreLoad_keeps
    | with_reducible apply Keeps.foldl
    | with_reducible apply Keeps.foldl_fst
    | with_reducible refine Keeps.of_eq (by assumption) (Keeps.foldl_fst ?_ ?_)
    | intro _ _
    | intro _
    | with_reducible apply Keeps.ite
    | simp only [Keeps.mk_eq]
    | with_reducible apply KeepsMk.fields
    | with_reducible apply KeepsMk.memFields
    | with_reducible apply KeepsMk.msixFields
    | with_reducible apply KeepsMk.logFields
    | dsimp only
    | split)

theorem execStrandInstruction_keeps : ∀ h k s, NextKeeps s (execStrandInstruction h k s) := by
  intro h k s
  unfold execStrandInstruction
  repeat' (first
    | with_reducible apply NextKeeps.next
    | with_reducible apply NextKeeps.ite
    | with_reducible exact Keeps.refl _
    | with_reducible assumption
    | with_reducible apply State.drainAll_keeps
    | with_reducible apply State.retire_keeps
    | with_reducible refine Keeps.of_eq (by assumption) ?_
    | with_reducible apply Keeps.foldl
    | with_reducible apply Keeps.foldl_fst
    | with_reducible refine Keeps.of_eq (by assumption) (Keeps.foldl_fst ?_ ?_)
    | intro _ _
    | intro _
    | with_reducible apply Keeps.ite
    | simp only [Keeps.mk_eq]
    | with_reducible apply KeepsMk.fields
    | with_reducible apply KeepsMk.memFields
    | with_reducible apply KeepsMk.msixFields
    | with_reducible apply KeepsMk.logFields
    | dsimp only
    | split)

theorem csrEvent_keeps : ∀ num f h k s, (∀ {a0} y0 y1, Keeps a0 y0 → Keeps a0 (f y0 y1)) → NextKeeps s (csrEvent num f h k s) := by
  intro num f h k s h_f
  unfold csrEvent
  repeat' (first
    | with_reducible apply NextKeeps.next
    | with_reducible apply NextKeeps.ite
    | with_reducible apply h_f
    | with_reducible refine Keeps.of_eq (by assumption) ?_
    | with_reducible exact Keeps.refl _
    | with_reducible assumption
    | with_reducible apply Keeps.foldl
    | with_reducible apply Keeps.foldl_fst
    | with_reducible refine Keeps.of_eq (by assumption) (Keeps.foldl_fst ?_ ?_)
    | intro _ _
    | intro _
    | with_reducible apply Keeps.ite
    | simp only [Keeps.mk_eq]
    | with_reducible apply KeepsMk.fields
    | with_reducible apply KeepsMk.memFields
    | with_reducible apply KeepsMk.msixFields
    | with_reducible apply KeepsMk.logFields
    | dsimp only
    | split)

theorem State.csrDone_keeps : ∀ {a0 s q v f}, Keeps a0 s → Keeps a0 (State.csrDone s q v f) := by
  intro a0 s q v f hk0
  unfold State.csrDone
  repeat' (first
    | with_reducible exact Keeps.refl _
    | with_reducible assumption
    | with_reducible apply State.retire_keeps)

theorem State.csrSwap_keeps : ∀ {a0 s q old f}, Keeps a0 s → Keeps a0 (State.csrSwap s q old f) := by
  intro a0 s q old f hk0
  unfold State.csrSwap
  repeat' (first
    | with_reducible exact Keeps.refl _
    | with_reducible assumption
    | with_reducible apply State.csrDone_keeps)

theorem State.stakeRange_keeps : ∀ {a0 s q}, Keeps a0 s → Keeps a0 (State.stakeRange s q) := by
  intro a0 s q hk0
  unfold State.stakeRange
  repeat' (first
    | with_reducible exact Keeps.refl _
    | with_reducible assumption
    | with_reducible apply State.courseFault_keeps
    | with_reducible apply State.free_keeps)

theorem execStrStakeSel_keeps : ∀ h k s, NextKeeps s (execStrStakeSel h k s) := by
  intro h k s
  unfold execStrStakeSel
  repeat' (first
    | with_reducible apply NextKeeps.next
    | with_reducible apply NextKeeps.ite
    | with_reducible exact Keeps.refl _
    | with_reducible assumption
    | with_reducible apply State.csrSwap_keeps
    | with_reducible apply csrEvent_keeps
    | with_reducible apply Keeps.foldl
    | with_reducible apply Keeps.foldl_fst
    | with_reducible refine Keeps.of_eq (by assumption) (Keeps.foldl_fst ?_ ?_)
    | intro _ _)

theorem execStrSignal_keeps : ∀ h k s, NextKeeps s (execStrSignal h k s) := by
  intro h k s
  unfold execStrSignal
  repeat' (first
    | with_reducible apply NextKeeps.next
    | with_reducible apply NextKeeps.ite
    | with_reducible exact Keeps.refl _
    | with_reducible assumption
    | with_reducible apply State.courseFault_keeps
    | with_reducible apply State.stakeRange_keeps
    | with_reducible apply State.drainAll_keeps
    | with_reducible apply State.csrDone_keeps
    | with_reducible apply State.signal_keeps
    | with_reducible apply csrEvent_keeps
    | with_reducible refine Keeps.of_eq (by assumption) ?_
    | with_reducible apply Keeps.foldl
    | with_reducible apply Keeps.foldl_fst
    | with_reducible refine Keeps.of_eq (by assumption) (Keeps.foldl_fst ?_ ?_)
    | intro _ _
    | intro _
    | with_reducible apply Keeps.ite
    | dsimp only
    | with_reducible apply KeepsMk.fields
    | with_reducible apply KeepsMk.memFields
    | with_reducible apply KeepsMk.msixFields
    | with_reducible apply KeepsMk.logFields
    | dsimp only
    | split)

theorem execStrWait_keeps : ∀ h k s, NextKeeps s (execStrWait h k s) := by
  intro h k s
  unfold execStrWait
  repeat' (first
    | with_reducible apply NextKeeps.next
    | with_reducible apply NextKeeps.ite
    | with_reducible exact Keeps.refl _
    | with_reducible assumption
    | with_reducible apply State.stakeRange_keeps
    | with_reducible apply State.csrDone_keeps
    | with_reducible apply csrEvent_keeps
    | with_reducible apply Keeps.foldl
    | with_reducible apply Keeps.foldl_fst
    | with_reducible refine Keeps.of_eq (by assumption) (Keeps.foldl_fst ?_ ?_)
    | intro _ _
    | intro _
    | with_reducible apply Keeps.ite
    | simp only [Keeps.mk_eq]
    | with_reducible apply KeepsMk.fields
    | with_reducible apply KeepsMk.memFields
    | with_reducible apply KeepsMk.msixFields
    | with_reducible apply KeepsMk.logFields
    | dsimp only
    | split)

theorem State.releaseWait_keeps : ∀ {a0 s w}, Keeps a0 s → Keeps a0 (State.releaseWait s w) := by
  intro a0 s w hk0
  unfold State.releaseWait
  repeat' (first
    | with_reducible exact Keeps.refl _
    | with_reducible assumption
    | with_reducible apply State.coreTime_keeps
    | with_reducible apply State.csrDone_keeps
    | with_reducible apply Keeps.foldl
    | with_reducible apply Keeps.foldl_fst
    | with_reducible refine Keeps.of_eq (by assumption) (Keeps.foldl_fst ?_ ?_)
    | intro _ _
    | intro _
    | with_reducible apply Keeps.ite
    | simp only [Keeps.mk_eq]
    | with_reducible apply KeepsMk.fields
    | with_reducible apply KeepsMk.memFields
    | with_reducible apply KeepsMk.msixFields
    | with_reducible apply KeepsMk.logFields
    | dsimp only
    | split)

theorem execStakeWaitRelease_keeps : ∀ p s, NextKeeps s (execStakeWaitRelease p s) := by
  intro p s
  unfold execStakeWaitRelease
  repeat' (first
    | with_reducible apply NextKeeps.next
    | with_reducible apply NextKeeps.ite
    | with_reducible exact Keeps.refl _
    | with_reducible assumption
    | with_reducible apply State.releaseWait_keeps
    | with_reducible apply Keeps.foldl
    | with_reducible apply Keeps.foldl_fst
    | with_reducible refine Keeps.of_eq (by assumption) (Keeps.foldl_fst ?_ ?_)
    | intro _ _)

theorem execStrCount_keeps : ∀ h k s, NextKeeps s (execStrCount h k s) := by
  intro h k s
  unfold execStrCount
  repeat' (first
    | with_reducible apply NextKeeps.next
    | with_reducible apply NextKeeps.ite
    | with_reducible exact Keeps.refl _
    | with_reducible assumption
    | with_reducible apply State.stakeRange_keeps
    | with_reducible apply State.csrDone_keeps
    | with_reducible apply csrEvent_keeps
    | with_reducible apply Keeps.foldl
    | with_reducible apply Keeps.foldl_fst
    | with_reducible refine Keeps.of_eq (by assumption) (Keeps.foldl_fst ?_ ?_)
    | intro _ _
    | intro _
    | with_reducible apply Keeps.ite
    | simp only [Keeps.mk_eq]
    | with_reducible apply KeepsMk.fields
    | with_reducible apply KeepsMk.memFields
    | with_reducible apply KeepsMk.msixFields
    | with_reducible apply KeepsMk.logFields
    | dsimp only
    | split)

theorem execStrHoopSel_keeps : ∀ h k s, NextKeeps s (execStrHoopSel h k s) := by
  intro h k s
  unfold execStrHoopSel
  repeat' (first
    | with_reducible apply NextKeeps.next
    | with_reducible apply NextKeeps.ite
    | with_reducible exact Keeps.refl _
    | with_reducible assumption
    | with_reducible apply State.csrSwap_keeps
    | with_reducible apply csrEvent_keeps
    | with_reducible apply Keeps.foldl
    | with_reducible apply Keeps.foldl_fst
    | with_reducible refine Keeps.of_eq (by assumption) (Keeps.foldl_fst ?_ ?_)
    | intro _ _)

theorem State.csrInvalid_keeps : ∀ {a0 s q}, Keeps a0 s → Keeps a0 (State.csrInvalid s q) := by
  intro a0 s q hk0
  unfold State.csrInvalid
  repeat' (first
    | with_reducible exact Keeps.refl _
    | with_reducible assumption
    | with_reducible apply State.strandFault_keeps)

theorem State.hoopMisuse_keeps : ∀ {a0 s q}, Keeps a0 s → Keeps a0 (State.hoopMisuse s q) := by
  intro a0 s q hk0
  unfold State.hoopMisuse
  repeat' (first
    | with_reducible exact Keeps.refl _
    | with_reducible assumption
    | with_reducible apply State.courseFault_keeps
    | with_reducible apply State.free_keeps)

theorem execStrHoopReserve_keeps : ∀ h k s, NextKeeps s (execStrHoopReserve h k s) := by
  intro h k s
  unfold execStrHoopReserve
  repeat' (first
    | with_reducible apply NextKeeps.next
    | with_reducible apply NextKeeps.ite
    | with_reducible exact Keeps.refl _
    | with_reducible assumption
    | with_reducible apply State.csrInvalid_keeps
    | with_reducible apply State.csrDone_keeps
    | with_reducible apply State.updHoop_keeps
    | with_reducible apply csrEvent_keeps
    | with_reducible apply Keeps.foldl
    | with_reducible apply Keeps.foldl_fst
    | with_reducible refine Keeps.of_eq (by assumption) (Keeps.foldl_fst ?_ ?_)
    | intro _ _
    | intro _
    | with_reducible apply Keeps.ite
    | simp only [Keeps.mk_eq]
    | with_reducible apply KeepsMk.fields
    | with_reducible apply KeepsMk.memFields
    | with_reducible apply KeepsMk.msixFields
    | with_reducible apply KeepsMk.logFields
    | dsimp only
    | split)

theorem execStrHoopCommit_keeps : ∀ h k s, NextKeeps s (execStrHoopCommit h k s) := by
  intro h k s
  unfold execStrHoopCommit
  repeat' (first
    | with_reducible apply NextKeeps.next
    | with_reducible apply NextKeeps.ite
    | with_reducible exact Keeps.refl _
    | with_reducible assumption
    | with_reducible apply State.commitSlot_keeps
    | with_reducible apply State.csrInvalid_keeps
    | with_reducible apply State.hoopMisuse_keeps
    | with_reducible apply State.drainAll_keeps
    | with_reducible apply State.csrDone_keeps
    | with_reducible apply State.updHoop_keeps
    | with_reducible apply csrEvent_keeps
    | with_reducible refine Keeps.of_eq (by assumption) ?_
    | with_reducible apply Keeps.foldl
    | with_reducible apply Keeps.foldl_fst
    | with_reducible refine Keeps.of_eq (by assumption) (Keeps.foldl_fst ?_ ?_)
    | intro _ _
    | intro _
    | with_reducible apply Keeps.ite
    | dsimp only
    | with_reducible apply KeepsMk.fields
    | with_reducible apply KeepsMk.memFields
    | with_reducible apply KeepsMk.msixFields
    | with_reducible apply KeepsMk.logFields
    | dsimp only
    | split)

theorem execStrHoopAcquire_keeps : ∀ h k s, NextKeeps s (execStrHoopAcquire h k s) := by
  intro h k s
  unfold execStrHoopAcquire
  repeat' (first
    | with_reducible apply NextKeeps.next
    | with_reducible apply NextKeeps.ite
    | with_reducible exact Keeps.refl _
    | with_reducible assumption
    | with_reducible apply State.csrInvalid_keeps
    | with_reducible apply State.hoopMisuse_keeps
    | with_reducible apply State.csrDone_keeps
    | with_reducible apply State.updHoop_keeps
    | with_reducible apply csrEvent_keeps
    | with_reducible apply Keeps.foldl
    | with_reducible apply Keeps.foldl_fst
    | with_reducible refine Keeps.of_eq (by assumption) (Keeps.foldl_fst ?_ ?_)
    | intro _ _
    | intro _
    | with_reducible apply Keeps.ite
    | simp only [Keeps.mk_eq]
    | with_reducible apply KeepsMk.fields
    | with_reducible apply KeepsMk.memFields
    | with_reducible apply KeepsMk.msixFields
    | with_reducible apply KeepsMk.logFields
    | dsimp only
    | split)

theorem execStrHoopLen_keeps : ∀ h k s, NextKeeps s (execStrHoopLen h k s) := by
  intro h k s
  unfold execStrHoopLen
  repeat' (first
    | with_reducible apply NextKeeps.next
    | with_reducible apply NextKeeps.ite
    | with_reducible exact Keeps.refl _
    | with_reducible assumption
    | with_reducible apply State.csrInvalid_keeps
    | with_reducible apply State.csrDone_keeps
    | with_reducible apply State.free_keeps
    | with_reducible apply csrEvent_keeps
    | with_reducible refine Keeps.of_eq2 (by assumption) ?_
    | with_reducible apply Keeps.foldl
    | with_reducible apply Keeps.foldl_fst
    | with_reducible refine Keeps.of_eq (by assumption) (Keeps.foldl_fst ?_ ?_)
    | intro _ _
    | intro _
    | with_reducible apply Keeps.ite
    | dsimp only
    | with_reducible apply KeepsMk.fields
    | with_reducible apply KeepsMk.memFields
    | with_reducible apply KeepsMk.msixFields
    | with_reducible apply KeepsMk.logFields
    | dsimp only
    | split)

theorem execStrHoopRelease_keeps : ∀ h k s, NextKeeps s (execStrHoopRelease h k s) := by
  intro h k s
  unfold execStrHoopRelease
  repeat' (first
    | with_reducible apply NextKeeps.next
    | with_reducible apply NextKeeps.ite
    | with_reducible exact Keeps.refl _
    | with_reducible assumption
    | with_reducible apply State.csrInvalid_keeps
    | with_reducible apply State.hoopMisuse_keeps
    | with_reducible apply State.moveHead_keeps
    | with_reducible apply State.csrDone_keeps
    | with_reducible apply csrEvent_keeps
    | with_reducible apply Keeps.foldl
    | with_reducible apply Keeps.foldl_fst
    | with_reducible refine Keeps.of_eq (by assumption) (Keeps.foldl_fst ?_ ?_)
    | intro _ _
    | intro _
    | with_reducible apply Keeps.ite
    | simp only [Keeps.mk_eq]
    | with_reducible apply KeepsMk.fields
    | with_reducible apply KeepsMk.memFields
    | with_reducible apply KeepsMk.msixFields
    | with_reducible apply KeepsMk.logFields
    | dsimp only
    | split)

theorem execStrHoopState_keeps : ∀ h k s, NextKeeps s (execStrHoopState h k s) := by
  intro h k s
  unfold execStrHoopState
  repeat' (first
    | with_reducible apply NextKeeps.next
    | with_reducible apply NextKeeps.ite
    | with_reducible exact Keeps.refl _
    | with_reducible assumption
    | with_reducible apply State.csrInvalid_keeps
    | with_reducible apply State.csrDone_keeps
    | with_reducible apply csrEvent_keeps
    | with_reducible apply Keeps.foldl
    | with_reducible apply Keeps.foldl_fst
    | with_reducible refine Keeps.of_eq (by assumption) (Keeps.foldl_fst ?_ ?_)
    | intro _ _
    | intro _
    | with_reducible apply Keeps.ite
    | simp only [Keeps.mk_eq]
    | with_reducible apply KeepsMk.fields
    | with_reducible apply KeepsMk.memFields
    | with_reducible apply KeepsMk.msixFields
    | with_reducible apply KeepsMk.logFields
    | dsimp only
    | split)

theorem execStrDrawStream_keeps : ∀ h k s, NextKeeps s (execStrDrawStream h k s) := by
  intro h k s
  unfold execStrDrawStream
  repeat' (first
    | with_reducible apply NextKeeps.next
    | with_reducible apply NextKeeps.ite
    | with_reducible exact Keeps.refl _
    | with_reducible assumption
    | with_reducible apply State.csrSwap_keeps
    | with_reducible apply csrEvent_keeps
    | with_reducible apply Keeps.foldl
    | with_reducible apply Keeps.foldl_fst
    | with_reducible refine Keeps.of_eq (by assumption) (Keeps.foldl_fst ?_ ?_)
    | intro _ _)

theorem execStrDrawIndex_keeps : ∀ h k s, NextKeeps s (execStrDrawIndex h k s) := by
  intro h k s
  unfold execStrDrawIndex
  repeat' (first
    | with_reducible apply NextKeeps.next
    | with_reducible apply NextKeeps.ite
    | with_reducible exact Keeps.refl _
    | with_reducible assumption
    | with_reducible apply State.csrSwap_keeps
    | with_reducible apply csrEvent_keeps
    | with_reducible apply Keeps.foldl
    | with_reducible apply Keeps.foldl_fst
    | with_reducible refine Keeps.of_eq (by assumption) (Keeps.foldl_fst ?_ ?_)
    | intro _ _)

theorem execStrDraw_keeps : ∀ h k s, NextKeeps s (execStrDraw h k s) := by
  intro h k s
  unfold execStrDraw
  repeat' (first
    | with_reducible apply NextKeeps.next
    | with_reducible apply NextKeeps.ite
    | with_reducible exact Keeps.refl _
    | with_reducible assumption
    | with_reducible apply State.retire_keeps
    | with_reducible apply State.free_keeps
    | with_reducible apply csrEvent_keeps
    | with_reducible refine Keeps.of_eq2 (by assumption) ?_
    | with_reducible apply Keeps.foldl
    | with_reducible apply Keeps.foldl_fst
    | with_reducible refine Keeps.of_eq (by assumption) (Keeps.foldl_fst ?_ ?_)
    | intro _ _
    | intro _
    | with_reducible apply Keeps.ite
    | dsimp only
    | with_reducible apply KeepsMk.fields
    | with_reducible apply KeepsMk.memFields
    | with_reducible apply KeepsMk.msixFields
    | with_reducible apply KeepsMk.logFields
    | dsimp only
    | split)

theorem execStrBeat_keeps : ∀ h k s, NextKeeps s (execStrBeat h k s) := by
  intro h k s
  unfold execStrBeat
  repeat' (first
    | with_reducible apply NextKeeps.next
    | with_reducible apply NextKeeps.ite
    | with_reducible exact Keeps.refl _
    | with_reducible assumption
    | with_reducible apply State.csrDone_keeps
    | with_reducible apply csrEvent_keeps
    | with_reducible apply Keeps.foldl
    | with_reducible apply Keeps.foldl_fst
    | with_reducible refine Keeps.of_eq (by assumption) (Keeps.foldl_fst ?_ ?_)
    | intro _ _)

theorem execStrTaskSeq_keeps : ∀ h k s, NextKeeps s (execStrTaskSeq h k s) := by
  intro h k s
  unfold execStrTaskSeq
  repeat' (first
    | with_reducible apply NextKeeps.next
    | with_reducible apply NextKeeps.ite
    | with_reducible exact Keeps.refl _
    | with_reducible assumption
    | with_reducible apply State.csrDone_keeps
    | with_reducible apply csrEvent_keeps
    | with_reducible apply Keeps.foldl
    | with_reducible apply Keeps.foldl_fst
    | with_reducible refine Keeps.of_eq (by assumption) (Keeps.foldl_fst ?_ ?_)
    | intro _ _)

theorem execStrSampleBase_keeps : ∀ h k s, NextKeeps s (execStrSampleBase h k s) := by
  intro h k s
  unfold execStrSampleBase
  repeat' (first
    | with_reducible apply NextKeeps.next
    | with_reducible apply NextKeeps.ite
    | with_reducible exact Keeps.refl _
    | with_reducible assumption
    | with_reducible apply State.csrDone_keeps
    | with_reducible apply csrEvent_keeps
    | with_reducible apply Keeps.foldl
    | with_reducible apply Keeps.foldl_fst
    | with_reducible refine Keeps.of_eq (by assumption) (Keeps.foldl_fst ?_ ?_)
    | intro _ _)

theorem execStrAbort_keeps : ∀ h k s, NextKeeps s (execStrAbort h k s) := by
  intro h k s
  unfold execStrAbort
  repeat' (first
    | with_reducible apply NextKeeps.next
    | with_reducible apply NextKeeps.ite
    | with_reducible exact Keeps.refl _
    | with_reducible assumption
    | with_reducible apply State.strandFault_keeps
    | with_reducible apply State.csrInvalid_keeps
    | with_reducible apply State.csrDone_keeps
    | with_reducible apply csrEvent_keeps
    | with_reducible apply Keeps.foldl
    | with_reducible apply Keeps.foldl_fst
    | with_reducible refine Keeps.of_eq (by assumption) (Keeps.foldl_fst ?_ ?_)
    | intro _ _
    | intro _
    | with_reducible apply Keeps.ite
    | dsimp only
    | with_reducible apply KeepsMk.fields
    | with_reducible apply KeepsMk.memFields
    | with_reducible apply KeepsMk.msixFields
    | with_reducible apply KeepsMk.logFields
    | dsimp only
    | split)

theorem State.endRoutine_keeps : ∀ {a0 s e}, Keeps a0 s → Keeps a0 (State.endRoutine s e) := by
  intro a0 s e hk0
  unfold State.endRoutine
  repeat' (first
    | with_reducible exact Keeps.refl _
    | with_reducible assumption
    | with_reducible apply State.drainAll_keeps
    | with_reducible apply State.updCore_keeps
    | with_reducible apply State.vcount_keeps
    | with_reducible refine Keeps.of_eq (by assumption) ?_
    | with_reducible apply Keeps.foldl
    | with_reducible apply Keeps.foldl_fst
    | with_reducible refine Keeps.of_eq (by assumption) (Keeps.foldl_fst ?_ ?_)
    | intro _ _
    | intro _
    | with_reducible apply Keeps.ite
    | simp only [Keeps.mk_eq]
    | with_reducible apply KeepsMk.fields
    | with_reducible apply KeepsMk.memFields
    | with_reducible apply KeepsMk.msixFields
    | with_reducible apply KeepsMk.logFields
    | dsimp only
    | split)

theorem execRoutineEnd_keeps : ∀ h k s, NextKeeps s (execRoutineEnd h k s) := by
  intro h k s
  unfold execRoutineEnd
  repeat' (first
    | with_reducible apply NextKeeps.next
    | with_reducible apply NextKeeps.ite
    | with_reducible exact Keeps.refl _
    | with_reducible assumption
    | with_reducible apply State.endRoutine_keeps
    | with_reducible apply State.retire_keeps
    | with_reducible apply Keeps.foldl
    | with_reducible apply Keeps.foldl_fst
    | with_reducible refine Keeps.of_eq (by assumption) (Keeps.foldl_fst ?_ ?_)
    | intro _ _
    | intro _
    | with_reducible apply Keeps.ite
    | dsimp only
    | with_reducible apply KeepsMk.fields
    | with_reducible apply KeepsMk.memFields
    | with_reducible apply KeepsMk.msixFields
    | with_reducible apply KeepsMk.logFields
    | dsimp only
    | split)

theorem execStrandTrap_keeps : ∀ h k s, NextKeeps s (execStrandTrap h k s) := by
  intro h k s
  unfold execStrandTrap
  repeat' (first
    | with_reducible apply NextKeeps.next
    | with_reducible apply NextKeeps.ite
    | with_reducible exact Keeps.refl _
    | with_reducible assumption
    | with_reducible apply State.strandFault_keeps
    | with_reducible apply State.coreAtomic_keeps
    | with_reducible apply Keeps.foldl
    | with_reducible apply Keeps.foldl_fst
    | with_reducible refine Keeps.of_eq (by assumption) (Keeps.foldl_fst ?_ ?_)
    | intro _ _
    | intro _
    | with_reducible apply Keeps.ite
    | simp only [Keeps.mk_eq]
    | with_reducible apply KeepsMk.fields
    | with_reducible apply KeepsMk.memFields
    | with_reducible apply KeepsMk.msixFields
    | with_reducible apply KeepsMk.logFields
    | dsimp only
    | split)

/-! ### Machine/Network.lean -/

theorem execFrameReceive_keeps : ∀ p frame s, NextKeeps s (execFrameReceive p frame s) := by
  intro p frame s
  unfold execFrameReceive
  repeat' (first
    | with_reducible apply NextKeeps.next
    | with_reducible apply NextKeeps.ite
    | with_reducible exact Keeps.refl _
    | with_reducible assumption
    | with_reducible apply State.count_keeps
    | with_reducible apply Keeps.foldl
    | with_reducible apply Keeps.foldl_fst
    | with_reducible refine Keeps.of_eq (by assumption) (Keeps.foldl_fst ?_ ?_)
    | intro _ _
    | intro _)

theorem execArpRequest_keeps : ∀ p mac ip target s, NextKeeps s (execArpRequest p mac ip target s) := by
  intro p mac ip target s
  unfold execArpRequest
  repeat' (first
    | with_reducible apply NextKeeps.next
    | with_reducible apply NextKeeps.ite
    | with_reducible exact Keeps.refl _
    | with_reducible assumption
    | with_reducible apply State.count_keeps
    | with_reducible apply State.emit_keeps
    | with_reducible apply Keeps.foldl
    | with_reducible apply Keeps.foldl_fst
    | with_reducible refine Keeps.of_eq (by assumption) (Keeps.foldl_fst ?_ ?_)
    | intro _ _
    | intro _)

theorem execNeighbourSolicitation_keeps : ∀ p mac ip target s, NextKeeps s (execNeighbourSolicitation p mac ip target s) := by
  intro p mac ip target s
  unfold execNeighbourSolicitation
  repeat' (first
    | with_reducible apply NextKeeps.next
    | with_reducible apply NextKeeps.ite
    | with_reducible exact Keeps.refl _
    | with_reducible assumption
    | with_reducible apply State.count_keeps
    | with_reducible apply State.emit_keeps
    | with_reducible apply Keeps.foldl
    | with_reducible apply Keeps.foldl_fst
    | with_reducible refine Keeps.of_eq (by assumption) (Keeps.foldl_fst ?_ ?_)
    | intro _ _
    | intro _)

theorem State.sendWaiting_keeps : ∀ {a0 s t q}, Keeps a0 s → Keeps a0 (State.sendWaiting s t q) := by
  intro a0 s t q hk0
  unfold State.sendWaiting
  repeat' (first
    | with_reducible exact Keeps.refl _
    | with_reducible assumption
    | with_reducible apply State.transmit_keeps
    | with_reducible apply State.updQp_keeps
    | with_reducible apply Keeps.foldl
    | with_reducible apply Keeps.foldl_fst
    | with_reducible refine Keeps.of_eq (by assumption) (Keeps.foldl_fst ?_ ?_)
    | intro _ _
    | intro _
    | with_reducible apply Keeps.ite
    | dsimp only
    | with_reducible apply KeepsMk.fields
    | with_reducible apply KeepsMk.memFields
    | with_reducible apply KeepsMk.msixFields
    | with_reducible apply KeepsMk.logFields
    | dsimp only
    | split)

theorem State.sendPort_keeps : ∀ {a0 s p}, Keeps a0 s → Keeps a0 (State.sendPort s p) := by
  intro a0 s p hk0
  unfold State.sendPort
  repeat' (first
    | with_reducible exact Keeps.refl _
    | with_reducible assumption
    | with_reducible apply State.sendWaiting_keeps
    | with_reducible apply Keeps.foldl
    | with_reducible apply Keeps.foldl_fst
    | with_reducible refine Keeps.of_eq (by assumption) (Keeps.foldl_fst ?_ ?_)
    | intro _ _)

theorem execPfcPauseReceive_keeps : ∀ p prio quanta s, NextKeeps s (execPfcPauseReceive p prio quanta s) := by
  intro p prio quanta s
  unfold execPfcPauseReceive
  repeat' (first
    | with_reducible apply NextKeeps.next
    | with_reducible apply NextKeeps.ite
    | with_reducible exact Keeps.refl _
    | with_reducible assumption
    | with_reducible apply State.sendPort_keeps
    | with_reducible apply State.updPort_keeps
    | with_reducible apply Keeps.foldl
    | with_reducible apply Keeps.foldl_fst
    | with_reducible refine Keeps.of_eq (by assumption) (Keeps.foldl_fst ?_ ?_)
    | intro _ _
    | intro _
    | with_reducible apply Keeps.ite)

theorem execNetLinkDown_keeps : ∀ p s, NextKeeps s (execNetLinkDown p s) := by
  intro p s
  unfold execNetLinkDown
  repeat' (first
    | with_reducible apply NextKeeps.next
    | with_reducible apply NextKeeps.ite
    | with_reducible exact Keeps.refl _
    | with_reducible assumption
    | with_reducible apply State.logOpen_keeps
    | with_reducible apply State.setF_keeps
    | with_reducible apply Keeps.foldl
    | with_reducible apply Keeps.foldl_fst
    | with_reducible refine Keeps.of_eq (by assumption) (Keeps.foldl_fst ?_ ?_)
    | intro _ _
    | intro _)

theorem execNetLinkUp_keeps : ∀ p s, NextKeeps s (execNetLinkUp p s) := by
  intro p s
  unfold execNetLinkUp
  repeat' (first
    | with_reducible apply NextKeeps.next
    | with_reducible apply NextKeeps.ite
    | with_reducible exact Keeps.refl _
    | with_reducible assumption
    | with_reducible apply State.sendPort_keeps
    | with_reducible apply State.updPort_keeps
    | with_reducible apply State.setF_keeps
    | with_reducible apply Keeps.foldl
    | with_reducible apply Keeps.foldl_fst
    | with_reducible refine Keeps.of_eq (by assumption) (Keeps.foldl_fst ?_ ?_)
    | intro _ _
    | intro _)

theorem execOsfpModulePresence_keeps : ∀ p media s, NextKeeps s (execOsfpModulePresence p media s) := by
  intro p media s
  unfold execOsfpModulePresence
  repeat' (first
    | with_reducible apply NextKeeps.next
    | with_reducible apply NextKeeps.ite
    | with_reducible exact Keeps.refl _
    | with_reducible assumption
    | with_reducible apply State.setF_keeps
    | with_reducible apply Keeps.foldl
    | with_reducible apply Keeps.foldl_fst
    | with_reducible refine Keeps.of_eq (by assumption) (Keeps.foldl_fst ?_ ?_)
    | intro _ _
    | intro _)

theorem State.qpResult_keeps : ∀ {a0 s t code}, Keeps a0 s → Keeps a0 (State.qpResult s t code) := by
  intro a0 s t code hk0
  unfold State.qpResult
  repeat' (first
    | with_reducible exact Keeps.refl _
    | with_reducible assumption
    | with_reducible apply State.vsetF_keeps)

theorem State.flushQp_keeps : ∀ {a0 s t q}, Keeps a0 s → Keeps a0 (State.flushQp s t q) := by
  intro a0 s t q hk0
  unfold State.flushQp
  repeat' (first
    | with_reducible exact Keeps.refl _
    | with_reducible assumption
    | with_reducible apply State.updTask_keeps
    | with_reducible apply State.updQp_keeps
    | with_reducible apply Keeps.foldl
    | with_reducible apply Keeps.foldl_fst
    | with_reducible refine Keeps.of_eq (by assumption) (Keeps.foldl_fst ?_ ?_)
    | intro _ _
    | intro _
    | with_reducible apply Keeps.ite
    | dsimp only
    | with_reducible apply KeepsMk.fields
    | with_reducible apply KeepsMk.memFields
    | with_reducible apply KeepsMk.msixFields
    | with_reducible apply KeepsMk.logFields
    | dsimp only
    | split)

theorem State.qpError_keeps : ∀ {a0 s t q}, Keeps a0 s → Keeps a0 (State.qpError s t q) := by
  intro a0 s t q hk0
  unfold State.qpError
  repeat' (first
    | with_reducible exact Keeps.refl _
    | with_reducible assumption
    | with_reducible apply State.logEvent_keeps
    | with_reducible apply State.flushQp_keeps
    | with_reducible apply State.vcount_keeps
    | with_reducible apply State.free_keeps
    | with_reducible refine Keeps.of_eq2 (by assumption) ?_
    | with_reducible apply Keeps.foldl
    | with_reducible apply Keeps.foldl_fst
    | with_reducible refine Keeps.of_eq (by assumption) (Keeps.foldl_fst ?_ ?_)
    | intro _ _
    | intro _
    | with_reducible apply Keeps.ite
    | dsimp only
    | with_reducible apply KeepsMk.fields
    | with_reducible apply KeepsMk.memFields
    | with_reducible apply KeepsMk.msixFields
    | with_reducible apply KeepsMk.logFields
    | dsimp only
    | split)

theorem State.qpCommand_keeps : ∀ {a0 s t from_ ctx busy f}, (∀ {a0} y0 y1, Keeps a0 y0 → Keeps a0 (f y0 y1)) → Keeps a0 s → Keeps a0 (State.qpCommand s t from_ ctx busy f) := by
  intro a0 s t from_ ctx busy f h_f hk0
  unfold State.qpCommand
  repeat' (first
    | with_reducible exact Keeps.refl _
    | with_reducible assumption
    | with_reducible apply h_f
    | with_reducible refine Keeps.of_eq (by assumption) ?_
    | with_reducible apply State.qpResult_keeps
    | with_reducible apply Keeps.foldl
    | with_reducible apply Keeps.foldl_fst
    | with_reducible refine Keeps.of_eq (by assumption) (Keeps.foldl_fst ?_ ?_)
    | intro _ _
    | intro _
    | with_reducible apply Keeps.ite)

theorem execQpInit_keeps : ∀ t s, NextKeeps s (execQpInit t s) := by
  intro t s
  unfold execQpInit
  repeat' (first
    | with_reducible apply NextKeeps.next
    | with_reducible apply NextKeeps.ite
    | with_reducible exact Keeps.refl _
    | with_reducible assumption
    | with_reducible apply State.qpCommand_keeps
    | with_reducible apply State.updQp_keeps
    | with_reducible apply Keeps.foldl
    | with_reducible apply Keeps.foldl_fst
    | with_reducible refine Keeps.of_eq (by assumption) (Keeps.foldl_fst ?_ ?_)
    | intro _ _)

theorem execQpRtr_keeps : ∀ t s, NextKeeps s (execQpRtr t s) := by
  intro t s
  unfold execQpRtr
  repeat' (first
    | with_reducible apply NextKeeps.next
    | with_reducible apply NextKeeps.ite
    | with_reducible exact Keeps.refl _
    | with_reducible assumption
    | with_reducible apply State.qpCommand_keeps
    | with_reducible apply State.updQp_keeps
    | with_reducible apply Keeps.foldl
    | with_reducible apply Keeps.foldl_fst
    | with_reducible refine Keeps.of_eq (by assumption) (Keeps.foldl_fst ?_ ?_)
    | intro _ _)

theorem execQpRts_keeps : ∀ t s, NextKeeps s (execQpRts t s) := by
  intro t s
  unfold execQpRts
  repeat' (first
    | with_reducible apply NextKeeps.next
    | with_reducible apply NextKeeps.ite
    | with_reducible exact Keeps.refl _
    | with_reducible assumption
    | with_reducible apply State.qpCommand_keeps
    | with_reducible apply State.updQp_keeps
    | with_reducible apply Keeps.foldl
    | with_reducible apply Keeps.foldl_fst
    | with_reducible refine Keeps.of_eq (by assumption) (Keeps.foldl_fst ?_ ?_)
    | intro _ _)

theorem execQpErr_keeps : ∀ t s, NextKeeps s (execQpErr t s) := by
  intro t s
  unfold execQpErr
  repeat' (first
    | with_reducible apply NextKeeps.next
    | with_reducible apply NextKeeps.ite
    | with_reducible exact Keeps.refl _
    | with_reducible assumption
    | with_reducible apply State.qpCommand_keeps
    | with_reducible apply State.flushQp_keeps
    | with_reducible apply Keeps.foldl
    | with_reducible apply Keeps.foldl_fst
    | intro _ _)

theorem execQpReset_keeps : ∀ t s, NextKeeps s (execQpReset t s) := by
  intro t s
  unfold execQpReset
  repeat' (first
    | with_reducible apply NextKeeps.next
    | with_reducible apply NextKeeps.ite
    | with_reducible exact Keeps.refl _
    | with_reducible assumption
    | with_reducible apply State.qpCommand_keeps
    | with_reducible apply State.updQp_keeps
    | with_reducible apply Keeps.foldl
    | with_reducible apply Keeps.foldl_fst
    | with_reducible refine Keeps.of_eq (by assumption) (Keeps.foldl_fst ?_ ?_)
    | intro _ _)

theorem State.putRegion_keeps : ∀ {a0 s t i base len v}, Keeps a0 s → Keeps a0 (State.putRegion s t i base len v).1 := by
  intro a0 s t i base len v hk0
  unfold State.putRegion
  repeat' (first
    | with_reducible exact Keeps.refl _
    | with_reducible assumption
    | with_reducible apply State.updTenant_keeps
    | with_reducible apply Keeps.foldl
    | with_reducible apply Keeps.foldl_fst
    | with_reducible refine Keeps.of_eq (by assumption) (Keeps.foldl_fst ?_ ?_)
    | intro _ _
    | intro _
    | with_reducible apply Keeps.ite
    | dsimp only
    | with_reducible apply KeepsMk.fields
    | with_reducible apply KeepsMk.memFields
    | with_reducible apply KeepsMk.msixFields
    | with_reducible apply KeepsMk.logFields
    | dsimp only
    | split)

theorem execNetTMrCtrl_keeps : ∀ t value s, NextKeeps s (execNetTMrCtrl t value s) := by
  intro t value s
  unfold execNetTMrCtrl
  repeat' (first
    | with_reducible apply NextKeeps.next
    | with_reducible apply NextKeeps.ite
    | with_reducible exact Keeps.refl _
    | with_reducible assumption
    | with_reducible apply State.putRegion_keeps
    | with_reducible apply State.vsetF_keeps
    | with_reducible apply State.vset_keeps
    | with_reducible refine Keeps.of_eq (by assumption) ?_
    | with_reducible apply Keeps.foldl
    | with_reducible apply Keeps.foldl_fst
    | with_reducible refine Keeps.of_eq (by assumption) (Keeps.foldl_fst ?_ ?_)
    | intro _ _
    | intro _)

theorem State.noteCe_keeps : ∀ {a0 s p}, Keeps a0 s → Keeps a0 (State.noteCe s p) := by
  intro a0 s p hk0
  unfold State.noteCe
  repeat' (first
    | with_reducible exact Keeps.refl _
    | with_reducible assumption
    | with_reducible apply State.updQp_keeps
    | with_reducible apply State.emit_keeps
    | with_reducible apply Keeps.foldl
    | with_reducible apply Keeps.foldl_fst
    | with_reducible refine Keeps.of_eq (by assumption) (Keeps.foldl_fst ?_ ?_)
    | intro _ _
    | intro _
    | with_reducible apply Keeps.ite
    | dsimp only
    | with_reducible apply KeepsMk.fields
    | with_reducible apply KeepsMk.memFields
    | with_reducible apply KeepsMk.msixFields
    | with_reducible apply KeepsMk.logFields
    | dsimp only
    | split)

theorem State.bumpRecv_keeps : ∀ {a0 s p n}, Keeps a0 s → Keeps a0 (State.bumpRecv s p n) := by
  intro a0 s p n hk0
  unfold State.bumpRecv
  repeat' (first
    | with_reducible exact Keeps.refl _
    | with_reducible assumption
    | with_reducible apply State.updQp_keeps)

theorem State.ackRecv_keeps : ∀ {a0 s p n bytes}, Keeps a0 s → Keeps a0 (State.ackRecv s p n bytes) := by
  intro a0 s p n bytes hk0
  unfold State.ackRecv
  repeat' (first
    | with_reducible exact Keeps.refl _
    | with_reducible assumption
    | with_reducible apply State.bumpRecv_keeps
    | with_reducible apply State.vcount64_keeps
    | with_reducible apply State.emit_keeps)

theorem State.accessError_keeps : ∀ {a0 s p}, Keeps a0 s → Keeps a0 (State.accessError s p) := by
  intro a0 s p hk0
  unfold State.accessError
  repeat' (first
    | with_reducible exact Keeps.refl _
    | with_reducible assumption
    | with_reducible apply State.qpError_keeps
    | with_reducible apply State.emit_keeps)

theorem State.chargeSpare_keeps : ∀ {a0 s t n}, Keeps a0 s → Keeps a0 (State.chargeSpare s t n) := by
  intro a0 s t n hk0
  unfold State.chargeSpare
  repeat' (first
    | with_reducible exact Keeps.refl _
    | with_reducible assumption
    | with_reducible apply State.updTenant_keeps
    | with_reducible apply State.vcount64_keeps)

theorem State.windowWrite_keeps' : ∀ {a0 s p rkey addr data first}, Keeps a0 s → OptKeeps id a0 (State.windowWrite s p rkey addr data first) := by
  intro a0 s p rkey addr data first hk0
  unfold State.windowWrite
  repeat' (first
    | with_reducible exact Keeps.refl _
    | with_reducible assumption
    | with_reducible exact OptKeeps.none
    | with_reducible apply OptKeeps.some
    | with_reducible apply OptKeeps.ite
    | dsimp only [id]
    | with_reducible apply State.accessError_keeps
    | with_reducible apply State.chargeRota_keeps
    | with_reducible apply State.writeMem_keeps
    | with_reducible apply State.ackRecv_keeps
    | with_reducible apply State.vcount_keeps
    | with_reducible refine Keeps.of_eq (by assumption) ?_
    | with_reducible apply Keeps.foldl
    | with_reducible apply Keeps.foldl_fst
    | with_reducible refine Keeps.of_eq (by assumption) (Keeps.foldl_fst ?_ ?_)
    | intro _ _
    | intro _
    | with_reducible apply Keeps.ite
    | simp only [Keeps.mk_eq]
    | with_reducible apply KeepsMk.fields
    | with_reducible apply KeepsMk.memFields
    | with_reducible apply KeepsMk.msixFields
    | with_reducible apply KeepsMk.logFields
    | dsimp only
    | split)

theorem State.windowWrite_keeps {a0 s p rkey addr data first u} (hu : (State.windowWrite s p rkey addr data first) = some u) (hk0 : Keeps a0 s) : Keeps a0 u := (State.windowWrite_keeps' hk0).holds u hu

theorem State.regionWrite_keeps' : ∀ {a0 s p rkey addr data}, Keeps a0 s → OptKeeps id a0 (State.regionWrite s p rkey addr data) := by
  intro a0 s p rkey addr data hk0
  unfold State.regionWrite
  repeat' (first
    | with_reducible exact Keeps.refl _
    | with_reducible assumption
    | with_reducible exact OptKeeps.none
    | with_reducible apply OptKeeps.some
    | with_reducible apply OptKeeps.ite
    | dsimp only [id]
    | with_reducible apply State.accessError_keeps
    | with_reducible apply State.chargeSpare_keeps
    | with_reducible apply State.writeMem_keeps
    | with_reducible apply State.ackRecv_keeps
    | with_reducible apply State.vcount_keeps
    | with_reducible refine Keeps.of_eq (by assumption) ?_
    | with_reducible apply Keeps.foldl
    | with_reducible apply Keeps.foldl_fst
    | with_reducible refine Keeps.of_eq (by assumption) (Keeps.foldl_fst ?_ ?_)
    | intro _ _
    | intro _
    | with_reducible apply Keeps.ite
    | simp only [Keeps.mk_eq]
    | with_reducible apply KeepsMk.fields
    | with_reducible apply KeepsMk.memFields
    | with_reducible apply KeepsMk.msixFields
    | with_reducible apply KeepsMk.logFields
    | dsimp only
    | split)

theorem State.regionWrite_keeps {a0 s p rkey addr data u} (hu : (State.regionWrite s p rkey addr data) = some u) (hk0 : Keeps a0 s) : Keeps a0 u := (State.regionWrite_keeps' hk0).holds u hu

theorem State.regionRead_keeps' : ∀ {a0 s p rkey addr len again}, Keeps a0 s → OptKeeps id a0 (State.regionRead s p rkey addr len again) := by
  intro a0 s p rkey addr len again hk0
  unfold State.regionRead
  repeat' (first
    | with_reducible exact Keeps.refl _
    | with_reducible assumption
    | with_reducible exact OptKeeps.none
    | with_reducible apply OptKeeps.some
    | with_reducible apply OptKeeps.ite
    | dsimp only [id]
    | with_reducible apply State.accessError_keeps
    | with_reducible apply State.chargeSpare_keeps
    | with_reducible apply State.bumpRecv_keeps
    | with_reducible apply State.vcount64_keeps
    | with_reducible apply State.readMem_keeps
    | with_reducible apply State.vcount_keeps
    | with_reducible apply State.emit_keeps
    | with_reducible refine Keeps.of_eq (by assumption) ?_
    | with_reducible apply Keeps.foldl
    | with_reducible apply Keeps.foldl_fst
    | with_reducible refine Keeps.of_eq (by assumption) (Keeps.foldl_fst ?_ ?_)
    | intro _ _
    | intro _
    | with_reducible apply Keeps.ite
    | simp only [Keeps.mk_eq]
    | with_reducible apply KeepsMk.fields
    | with_reducible apply KeepsMk.memFields
    | with_reducible apply KeepsMk.msixFields
    | with_reducible apply KeepsMk.logFields
    | dsimp only
    | split)

theorem State.regionRead_keeps {a0 s p rkey addr len again u} (hu : (State.regionRead s p rkey addr len again) = some u) (hk0 : Keeps a0 s) : Keeps a0 u := (State.regionRead_keeps' hk0).holds u hu

theorem State.applyMark_keeps : ∀ {a0 s t r d w m}, Keeps a0 s → Keeps a0 (State.applyMark s t r d w m) := by
  intro a0 s t r d w m hk0
  unfold State.applyMark
  repeat' (first
    | with_reducible exact Keeps.refl _
    | with_reducible assumption
    | with_reducible apply State.countLate_keeps
    | with_reducible apply State.updRota_keeps
    | with_reducible apply State.vcount_keeps
    | with_reducible apply Keeps.foldl
    | with_reducible apply Keeps.foldl_fst
    | with_reducible refine Keeps.of_eq (by assumption) (Keeps.foldl_fst ?_ ?_)
    | intro _ _
    | intro _
    | with_reducible apply Keeps.ite)

theorem State.sendTaken_keeps' : ∀ {a0 s p data}, Keeps a0 s → OptKeeps id a0 (State.sendTaken s p data) := by
  intro a0 s p data hk0
  unfold State.sendTaken
  repeat' (first
    | with_reducible exact Keeps.refl _
    | with_reducible assumption
    | with_reducible exact OptKeeps.none
    | with_reducible apply OptKeeps.some
    | with_reducible apply OptKeeps.ite
    | dsimp only [id]
    | with_reducible apply State.chargeRota_keeps
    | with_reducible apply State.applyMark_keeps
    | with_reducible apply State.ackRecv_keeps
    | with_reducible apply State.vcount_keeps
    | with_reducible apply Keeps.foldl
    | with_reducible apply Keeps.foldl_fst
    | with_reducible refine Keeps.of_eq (by assumption) (Keeps.foldl_fst ?_ ?_)
    | intro _ _
    | intro _
    | with_reducible apply Keeps.ite
    | simp only [Keeps.mk_eq]
    | with_reducible apply KeepsMk.fields
    | with_reducible apply KeepsMk.memFields
    | with_reducible apply KeepsMk.msixFields
    | with_reducible apply KeepsMk.logFields
    | dsimp only
    | split)

theorem State.sendTaken_keeps {a0 s p data u} (hu : (State.sendTaken s p data) = some u) (hk0 : Keeps a0 s) : Keeps a0 u := (State.sendTaken_keeps' hk0).holds u hu

theorem State.takePacket_keeps' : ∀ {a0 s p f again}, (∀ {a0} y0, Keeps a0 y0 → OptKeeps id a0 (f y0)) → (∀ {a0} y0, Keeps a0 y0 → OptKeeps id a0 (again y0)) → Keeps a0 s → OptKeeps id a0 (State.takePacket s p f again) := by
  intro a0 s p f again h_f h_again hk0
  unfold State.takePacket
  repeat' (first
    | with_reducible exact Keeps.refl _
    | with_reducible assumption
    | with_reducible exact OptKeeps.none
    | with_reducible apply OptKeeps.some
    | with_reducible apply OptKeeps.ite
    | dsimp only [id]
    | with_reducible apply h_f
    | with_reducible apply h_again
    | with_reducible refine Keeps.of_eq (by assumption) ?_
    | with_reducible apply State.emit_keeps
    | with_reducible apply Keeps.foldl
    | with_reducible apply Keeps.foldl_fst
    | with_reducible refine Keeps.of_eq (by assumption) (Keeps.foldl_fst ?_ ?_)
    | intro _ _
    | intro _
    | with_reducible apply Keeps.ite
    | simp only [Keeps.mk_eq]
    | with_reducible apply KeepsMk.fields
    | with_reducible apply KeepsMk.memFields
    | with_reducible apply KeepsMk.msixFields
    | with_reducible apply KeepsMk.logFields
    | dsimp only
    | split)

theorem State.takePacket_keeps {a0 s p f again u} (hu : (State.takePacket s p f again) = some u) (h_f : ∀ {a0} y0, Keeps a0 y0 → OptKeeps id a0 (f y0)) (h_again : ∀ {a0} y0, Keeps a0 y0 → OptKeeps id a0 (again y0)) (hk0 : Keeps a0 s) : Keeps a0 u := (State.takePacket_keeps' h_f h_again hk0).holds u hu

theorem State.ackAgain_keeps' : ∀ {a0 s p}, Keeps a0 s → OptKeeps id a0 (State.ackAgain s p) := by
  intro a0 s p hk0
  unfold State.ackAgain
  repeat' (first
    | with_reducible exact Keeps.refl _
    | with_reducible assumption
    | with_reducible exact OptKeeps.none
    | with_reducible apply OptKeeps.some
    | with_reducible apply OptKeeps.ite
    | dsimp only [id]
    | with_reducible apply State.emit_keeps
    | with_reducible apply Keeps.foldl
    | with_reducible apply Keeps.foldl_fst
    | with_reducible refine Keeps.of_eq (by assumption) (Keeps.foldl_fst ?_ ?_)
    | intro _ _
    | intro _
    | with_reducible apply Keeps.ite
    | simp only [Keeps.mk_eq]
    | with_reducible apply KeepsMk.fields
    | with_reducible apply KeepsMk.memFields
    | with_reducible apply KeepsMk.msixFields
    | with_reducible apply KeepsMk.logFields
    | dsimp only
    | split)

theorem State.ackAgain_keeps {a0 s p u} (hu : (State.ackAgain s p) = some u) (hk0 : Keeps a0 s) : Keeps a0 u := (State.ackAgain_keeps' hk0).holds u hu

theorem State.tryRx_keeps' : ∀ {a0 s port x}, Keeps a0 s → OptKeeps id a0 (State.tryRx s port x) := by
  intro a0 s port x hk0
  unfold State.tryRx
  repeat' (first
    | with_reducible exact Keeps.refl _
    | with_reducible assumption
    | with_reducible exact OptKeeps.none
    | with_reducible apply OptKeeps.some
    | with_reducible apply OptKeeps.ite
    | dsimp only [id]
    | with_reducible refine State.regionWrite_keeps (by assumption) ?_
    | with_reducible refine State.windowWrite_keeps (by assumption) ?_
    | with_reducible refine State.regionRead_keeps (by assumption) ?_
    | with_reducible apply State.sensorTake_keeps
    | with_reducible refine State.takePacket_keeps (by assumption) ?_
    | with_reducible refine State.sendTaken_keeps (by assumption) ?_
    | with_reducible refine State.ackAgain_keeps (by assumption) ?_
    | with_reducible apply State.ackAgain_keeps'
    | with_reducible apply State.regionRead_keeps'
    | with_reducible apply State.regionWrite_keeps'
    | with_reducible apply State.sendTaken_keeps'
    | with_reducible apply State.takePacket_keeps'
    | with_reducible apply State.windowWrite_keeps'
    | with_reducible apply Keeps.foldl
    | with_reducible apply Keeps.foldl_fst
    | with_reducible refine Keeps.of_eq (by assumption) (Keeps.foldl_fst ?_ ?_)
    | intro _ _
    | intro _
    | with_reducible apply Keeps.ite
    | simp only [Keeps.mk_eq]
    | with_reducible apply KeepsMk.fields
    | with_reducible apply KeepsMk.memFields
    | with_reducible apply KeepsMk.msixFields
    | with_reducible apply KeepsMk.logFields
    | dsimp only
    | split)

theorem State.tryRx_keeps {a0 s port x u} (hu : (State.tryRx s port x) = some u) (hk0 : Keeps a0 s) : Keeps a0 u := (State.tryRx_keeps' hk0).holds u hu

theorem State.serveItems_keeps' : ∀ {s port stuck x0}, Keeps s (State.serveItems s port stuck x0).1 := by
  intro s port stuck x0
  fun_induction State.serveItems s port stuck x0
  all_goals
  repeat' (first
    | with_reducible exact Keeps.refl _
    | with_reducible assumption
    | with_reducible refine Keeps.trans ?_ (by assumption)
    | with_reducible refine State.tryRx_keeps (by assumption) ?_)

theorem State.serveItems_keeps : ∀ {a0 s port stuck x0}, Keeps a0 s → Keeps a0 (State.serveItems s port stuck x0).1 := by
  intro a0 s port stuck x0 hk0
  exact hk0.trans (State.serveItems_keeps')

theorem State.serveRx_keeps : ∀ {a0 s port}, Keeps a0 s → Keeps a0 (State.serveRx s port) := by
  intro a0 s port hk0
  unfold State.serveRx
  repeat' (first
    | with_reducible exact Keeps.refl _
    | with_reducible assumption
    | with_reducible apply State.settlePause_keeps
    | with_reducible apply State.serveItems_keeps
    | with_reducible apply State.updPort_keeps
    | with_reducible refine Keeps.of_eq (by assumption) ?_
    | with_reducible apply Keeps.foldl
    | with_reducible apply Keeps.foldl_fst
    | with_reducible refine Keeps.of_eq (by assumption) (Keeps.foldl_fst ?_ ?_)
    | intro _ _
    | intro _
    | with_reducible apply Keeps.ite)

theorem State.arrive_keeps : ∀ {a0 s p what bytes}, Keeps a0 s → Keeps a0 (State.arrive s p what bytes) := by
  intro a0 s p what bytes hk0
  unfold State.arrive
  repeat' (first
    | with_reducible exact Keeps.refl _
    | with_reducible assumption
    | with_reducible apply State.holdRx_keeps
    | with_reducible apply State.noteCe_keeps
    | with_reducible refine State.tryRx_keeps (by assumption) ?_
    | with_reducible refine Keeps.of_eq (by assumption) ?_
    | with_reducible apply Keeps.foldl
    | with_reducible apply Keeps.foldl_fst
    | with_reducible refine Keeps.of_eq (by assumption) (Keeps.foldl_fst ?_ ?_)
    | intro _ _
    | intro _
    | with_reducible apply Keeps.ite
    | dsimp only
    | with_reducible apply KeepsMk.fields
    | with_reducible apply KeepsMk.memFields
    | with_reducible apply KeepsMk.msixFields
    | with_reducible apply KeepsMk.logFields
    | dsimp only
    | split)

theorem execRdmaWriteReceive_keeps : ∀ p rkey addr data first s, NextKeeps s (execRdmaWriteReceive p rkey addr data first s) := by
  intro p rkey addr data first s
  unfold execRdmaWriteReceive
  repeat' (first
    | with_reducible apply NextKeeps.next
    | with_reducible apply NextKeeps.ite
    | with_reducible exact Keeps.refl _
    | with_reducible assumption
    | with_reducible apply State.arrive_keeps)

theorem execRdmaReadReceive_keeps : ∀ p rkey addr len s, NextKeeps s (execRdmaReadReceive p rkey addr len s) := by
  intro p rkey addr len s
  unfold execRdmaReadReceive
  repeat' (first
    | with_reducible apply NextKeeps.next
    | with_reducible apply NextKeeps.ite
    | with_reducible exact Keeps.refl _
    | with_reducible assumption
    | with_reducible apply State.arrive_keeps)

theorem execSendReceive_keeps : ∀ p data s, NextKeeps s (execSendReceive p data s) := by
  intro p data s
  unfold execSendReceive
  repeat' (first
    | with_reducible apply NextKeeps.next
    | with_reducible apply NextKeeps.ite
    | with_reducible exact Keeps.refl _
    | with_reducible assumption
    | with_reducible apply State.arrive_keeps)

theorem execAtomicReceive_keeps : ∀ p s, NextKeeps s (execAtomicReceive p s) := by
  intro p s
  unfold execAtomicReceive
  repeat' (first
    | with_reducible apply NextKeeps.next
    | with_reducible apply NextKeeps.ite
    | with_reducible exact Keeps.refl _
    | with_reducible assumption
    | with_reducible apply State.noteCe_keeps
    | with_reducible apply State.emit_keeps
    | with_reducible apply Keeps.foldl
    | with_reducible apply Keeps.foldl_fst
    | with_reducible refine Keeps.of_eq (by assumption) (Keeps.foldl_fst ?_ ?_)
    | intro _ _
    | intro _
    | with_reducible apply Keeps.ite
    | simp only [Keeps.mk_eq]
    | with_reducible apply KeepsMk.fields
    | with_reducible apply KeepsMk.memFields
    | with_reducible apply KeepsMk.msixFields
    | with_reducible apply KeepsMk.logFields
    | dsimp only
    | split)

theorem execAckReceive_keeps : ∀ t q psn s, NextKeeps s (execAckReceive t q psn s) := by
  intro t q psn s
  unfold execAckReceive
  repeat' (first
    | with_reducible apply NextKeeps.next
    | with_reducible apply NextKeeps.ite
    | with_reducible exact Keeps.refl _
    | with_reducible assumption
    | with_reducible apply State.updQp_keeps
    | with_reducible apply Keeps.foldl
    | with_reducible apply Keeps.foldl_fst
    | with_reducible refine Keeps.of_eq (by assumption) (Keeps.foldl_fst ?_ ?_)
    | intro _ _
    | intro _
    | with_reducible apply Keeps.ite
    | dsimp only
    | with_reducible apply KeepsMk.fields
    | with_reducible apply KeepsMk.memFields
    | with_reducible apply KeepsMk.msixFields
    | with_reducible apply KeepsMk.logFields
    | dsimp only
    | split)

theorem State.resend_keeps : ∀ {a0 s t q psn}, Keeps a0 s → Keeps a0 (State.resend s t q psn) := by
  intro a0 s t q psn hk0
  unfold State.resend
  repeat' (first
    | with_reducible exact Keeps.refl _
    | with_reducible assumption
    | with_reducible apply State.transmit_keeps
    | with_reducible apply State.updQp_keeps
    | with_reducible apply Keeps.foldl
    | with_reducible apply Keeps.foldl_fst
    | with_reducible refine Keeps.of_eq (by assumption) (Keeps.foldl_fst ?_ ?_)
    | intro _ _
    | intro _
    | with_reducible apply Keeps.ite
    | dsimp only
    | with_reducible apply KeepsMk.fields
    | with_reducible apply KeepsMk.memFields
    | with_reducible apply KeepsMk.msixFields
    | with_reducible apply KeepsMk.logFields
    | dsimp only
    | split)

theorem execNakReceive_keeps : ∀ t q psn rnr s, NextKeeps s (execNakReceive t q psn rnr s) := by
  intro t q psn rnr s
  unfold execNakReceive
  repeat' (first
    | with_reducible apply NextKeeps.next
    | with_reducible apply NextKeeps.ite
    | with_reducible exact Keeps.refl _
    | with_reducible assumption
    | with_reducible apply State.qpError_keeps
    | with_reducible apply State.resend_keeps
    | with_reducible apply State.updQp_keeps
    | with_reducible apply Keeps.foldl
    | with_reducible apply Keeps.foldl_fst
    | with_reducible refine Keeps.of_eq (by assumption) (Keeps.foldl_fst ?_ ?_)
    | intro _ _
    | intro _
    | with_reducible apply Keeps.ite
    | simp only [Keeps.mk_eq]
    | with_reducible apply KeepsMk.fields
    | with_reducible apply KeepsMk.memFields
    | with_reducible apply KeepsMk.msixFields
    | with_reducible apply KeepsMk.logFields
    | dsimp only
    | split)

theorem execRetransmitTimeout_keeps : ∀ t q s, NextKeeps s (execRetransmitTimeout t q s) := by
  intro t q s
  unfold execRetransmitTimeout
  repeat' (first
    | with_reducible apply NextKeeps.next
    | with_reducible apply NextKeeps.ite
    | with_reducible exact Keeps.refl _
    | with_reducible assumption
    | with_reducible apply State.qpError_keeps
    | with_reducible apply State.resend_keeps
    | with_reducible apply State.updQp_keeps
    | with_reducible apply Keeps.foldl
    | with_reducible apply Keeps.foldl_fst
    | with_reducible refine Keeps.of_eq (by assumption) (Keeps.foldl_fst ?_ ?_)
    | intro _ _
    | intro _
    | with_reducible apply Keeps.ite
    | simp only [Keeps.mk_eq]
    | with_reducible apply KeepsMk.fields
    | with_reducible apply KeepsMk.memFields
    | with_reducible apply KeepsMk.msixFields
    | with_reducible apply KeepsMk.logFields
    | dsimp only
    | split)

theorem execCnpReceive_keeps : ∀ t q s, NextKeeps s (execCnpReceive t q s) := by
  intro t q s
  unfold execCnpReceive
  repeat' (first
    | with_reducible apply NextKeeps.next
    | with_reducible apply NextKeeps.ite
    | with_reducible exact Keeps.refl _
    | with_reducible assumption
    | with_reducible apply State.count_keeps
    | with_reducible apply State.updQp_keeps
    | with_reducible apply Keeps.foldl
    | with_reducible apply Keeps.foldl_fst
    | with_reducible refine Keeps.of_eq (by assumption) (Keeps.foldl_fst ?_ ?_)
    | intro _ _
    | intro _
    | with_reducible apply Keeps.ite
    | dsimp only
    | with_reducible apply KeepsMk.fields
    | with_reducible apply KeepsMk.memFields
    | with_reducible apply KeepsMk.msixFields
    | with_reducible apply KeepsMk.logFields
    | dsimp only
    | split)

theorem execAlphaTimer_keeps : ∀ t q s, NextKeeps s (execAlphaTimer t q s) := by
  intro t q s
  unfold execAlphaTimer
  repeat' (first
    | with_reducible apply NextKeeps.next
    | with_reducible apply NextKeeps.ite
    | with_reducible exact Keeps.refl _
    | with_reducible assumption
    | with_reducible apply State.updQp_keeps)

theorem execRateTimer_keeps : ∀ t q bytes s, NextKeeps s (execRateTimer t q bytes s) := by
  intro t q bytes s
  unfold execRateTimer
  repeat' (first
    | with_reducible apply NextKeeps.next
    | with_reducible apply NextKeeps.ite
    | with_reducible exact Keeps.refl _
    | with_reducible assumption
    | with_reducible apply State.updQp_keeps
    | with_reducible apply Keeps.foldl
    | with_reducible apply Keeps.foldl_fst
    | with_reducible refine Keeps.of_eq (by assumption) (Keeps.foldl_fst ?_ ?_)
    | intro _ _
    | intro _
    | with_reducible apply Keeps.ite
    | dsimp only
    | with_reducible apply KeepsMk.fields
    | with_reducible apply KeepsMk.memFields
    | with_reducible apply KeepsMk.msixFields
    | with_reducible apply KeepsMk.logFields
    | dsimp only
    | split)

theorem State.peerEntry_keeps : ∀ {a0 s e p}, Keeps a0 s → Keeps a0 (State.peerEntry s e p).1 := by
  intro a0 s e p hk0
  unfold State.peerEntry
  repeat' (first
    | with_reducible exact Keeps.refl _
    | with_reducible assumption
    | with_reducible apply State.readTable_keeps
    | with_reducible refine Keeps.of_eq (by assumption) ?_
    | with_reducible apply Keeps.foldl
    | with_reducible apply Keeps.foldl_fst
    | with_reducible refine Keeps.of_eq (by assumption) (Keeps.foldl_fst ?_ ?_)
    | intro _ _
    | intro _
    | with_reducible apply Keeps.ite
    | simp only [Keeps.mk_eq]
    | with_reducible apply KeepsMk.fields
    | with_reducible apply KeepsMk.memFields
    | with_reducible apply KeepsMk.msixFields
    | with_reducible apply KeepsMk.logFields
    | dsimp only
    | split)

theorem State.shufSend_keeps : ∀ {a0 s e ent send addr data}, Keeps a0 s → Keeps a0 ((State.shufSend s e ent send addr data).stateOr a0) := by
  intro a0 s e ent send addr data hk0
  unfold State.shufSend
  repeat' (first
    | with_reducible exact Keeps.refl _
    | with_reducible assumption
    | with_reducible apply State.chargeRota_keeps
    | with_reducible apply State.peerSend_keeps
    | with_reducible refine Keeps.of_eq (by assumption) ?_
    | with_reducible apply Keeps.foldl
    | with_reducible apply Keeps.foldl_fst
    | with_reducible refine Keeps.of_eq (by assumption) (Keeps.foldl_fst ?_ ?_)
    | intro _ _
    | intro _
    | with_reducible apply Keeps.ite
    | simp only [Keeps.mk_eq]
    | with_reducible apply KeepsMk.fields
    | with_reducible apply KeepsMk.memFields
    | with_reducible apply KeepsMk.msixFields
    | with_reducible apply KeepsMk.logFields
    | dsimp only
    | split
    | dsimp only [ShufOut.stateOr])

theorem State.shufLocal_keeps : ∀ {a0 s e addr data}, Keeps a0 s → Keeps a0 ((State.shufLocal s e addr data).stateOr a0) := by
  intro a0 s e addr data hk0
  unfold State.shufLocal
  repeat' (first
    | with_reducible exact Keeps.refl _
    | with_reducible assumption
    | with_reducible apply State.chargeRota_keeps
    | with_reducible apply State.writeMem_keeps
    | with_reducible apply State.vcount_keeps
    | with_reducible refine Keeps.of_eq (by assumption) ?_
    | with_reducible apply Keeps.foldl
    | with_reducible apply Keeps.foldl_fst
    | with_reducible refine Keeps.of_eq (by assumption) (Keeps.foldl_fst ?_ ?_)
    | intro _ _
    | intro _
    | with_reducible apply Keeps.ite
    | simp only [Keeps.mk_eq]
    | with_reducible apply KeepsMk.fields
    | with_reducible apply KeepsMk.memFields
    | with_reducible apply KeepsMk.msixFields
    | with_reducible apply KeepsMk.logFields
    | dsimp only
    | split
    | dsimp only [ShufOut.stateOr])

theorem State.shufRow_keeps : ∀ {a0 s e row}, Keeps a0 s → Keeps a0 ((State.shufRow s e row).stateOr a0) := by
  intro a0 s e row hk0
  unfold State.shufRow
  repeat' (first
    | with_reducible exact Keeps.refl _
    | with_reducible assumption
    | with_reducible apply State.peerEntry_keeps
    | with_reducible apply State.shufLocal_keeps
    | with_reducible apply State.shufSend_keeps
    | with_reducible apply State.vcount_keeps
    | with_reducible apply State.updOp_keeps
    | with_reducible refine Keeps.of_eq (by assumption) ?_
    | with_reducible refine Keeps.of_fault (by assumption) ?_
    | with_reducible refine Keeps.of_sent (by assumption) ?_
    | with_reducible apply Keeps.foldl
    | with_reducible apply Keeps.foldl_fst
    | with_reducible refine Keeps.of_eq (by assumption) (Keeps.foldl_fst ?_ ?_)
    | intro _ _
    | intro _
    | with_reducible apply Keeps.ite
    | dsimp only
    | with_reducible apply KeepsMk.fields
    | with_reducible apply KeepsMk.memFields
    | with_reducible apply KeepsMk.msixFields
    | with_reducible apply KeepsMk.logFields
    | dsimp only
    | split
    | dsimp only [ShufOut.stateOr])

theorem State.shufRowsFrom_keeps' : ∀ {s h i x0 x1}, Keeps s (State.shufRowsFrom s h i x0 x1).1 := by
  intro s h i x0 x1
  fun_induction State.shufRowsFrom s h i x0 x1
  all_goals
  repeat' (first
    | with_reducible exact Keeps.refl _
    | with_reducible assumption
    | with_reducible refine Keeps.trans ?_ (by assumption)
    | with_reducible apply State.shufRow_keeps
    | with_reducible refine Keeps.of_fault (by assumption) ?_
    | with_reducible refine Keeps.of_sent (by assumption) ?_)

theorem State.shufRowsFrom_keeps : ∀ {a0 s h i x0 x1}, Keeps a0 s → Keeps a0 (State.shufRowsFrom s h i x0 x1).1 := by
  intro a0 s h i x0 x1 hk0
  exact hk0.trans (State.shufRowsFrom_keeps')

theorem State.shufMark_keeps : ∀ {a0 s e p}, Keeps a0 s → Keeps a0 ((State.shufMark s e p).stateOr a0) := by
  intro a0 s e p hk0
  unfold State.shufMark
  repeat' (first
    | with_reducible exact Keeps.refl _
    | with_reducible assumption
    | with_reducible apply State.applyMark_keeps
    | with_reducible apply State.peerEntry_keeps
    | with_reducible apply State.shufSend_keeps
    | with_reducible refine Keeps.of_eq (by assumption) ?_
    | with_reducible refine Keeps.of_fault (by assumption) ?_
    | with_reducible refine Keeps.of_sent (by assumption) ?_
    | with_reducible apply Keeps.foldl
    | with_reducible apply Keeps.foldl_fst
    | with_reducible refine Keeps.of_eq (by assumption) (Keeps.foldl_fst ?_ ?_)
    | intro _ _
    | intro _
    | with_reducible apply Keeps.ite
    | simp only [Keeps.mk_eq]
    | with_reducible apply KeepsMk.fields
    | with_reducible apply KeepsMk.memFields
    | with_reducible apply KeepsMk.msixFields
    | with_reducible apply KeepsMk.logFields
    | dsimp only
    | split
    | dsimp only [ShufOut.stateOr])

theorem State.shufMarks_keeps' : ∀ {s h i x0 x1}, Keeps s (State.shufMarks s h i x0 x1).1 := by
  intro s h i x0 x1
  fun_induction State.shufMarks s h i x0 x1
  all_goals
  repeat' (first
    | with_reducible exact Keeps.refl _
    | with_reducible assumption
    | with_reducible refine Keeps.trans ?_ (by assumption)
    | with_reducible apply State.shufMark_keeps
    | with_reducible refine Keeps.of_fault (by assumption) ?_
    | with_reducible refine Keeps.of_sent (by assumption) ?_)

theorem State.shufMarks_keeps : ∀ {a0 s h i x0 x1}, Keeps a0 s → Keeps a0 (State.shufMarks s h i x0 x1).1 := by
  intro a0 s h i x0 x1 hk0
  exact hk0.trans (State.shufMarks_keeps')

theorem State.shufFault_keeps : ∀ {a0 s e code elem}, Keeps a0 s → Keeps a0 (State.shufFault s e code elem) := by
  intro a0 s e code elem hk0
  unfold State.shufFault
  repeat' (first
    | with_reducible exact Keeps.refl _
    | with_reducible assumption
    | with_reducible apply State.opFault_keeps)

theorem State.shufEnd_keeps : ∀ {a0 s e}, Keeps a0 s → Keeps a0 (State.shufEnd s e) := by
  intro a0 s e hk0
  unfold State.shufEnd
  repeat' (first
    | with_reducible exact Keeps.refl _
    | with_reducible assumption
    | with_reducible apply State.shufFault_keeps
    | with_reducible apply State.shufMarks_keeps
    | with_reducible apply State.updOp_keeps
    | with_reducible refine Keeps.of_eq (by assumption) ?_
    | with_reducible apply Keeps.foldl
    | with_reducible apply Keeps.foldl_fst
    | with_reducible refine Keeps.of_eq (by assumption) (Keeps.foldl_fst ?_ ?_)
    | intro _ _
    | intro _
    | with_reducible apply Keeps.ite
    | dsimp only
    | with_reducible apply KeepsMk.fields
    | with_reducible apply KeepsMk.memFields
    | with_reducible apply KeepsMk.msixFields
    | with_reducible apply KeepsMk.logFields
    | dsimp only
    | split)

theorem State.shufBatch_keeps : ∀ {a0 s e l a b}, Keeps a0 s → Keeps a0 (State.shufBatch s e l a b) := by
  intro a0 s e l a b hk0
  unfold State.shufBatch
  repeat' (first
    | with_reducible exact Keeps.refl _
    | with_reducible assumption
    | with_reducible apply State.finishInputs_keeps
    | with_reducible apply State.shufRowsFrom_keeps
    | with_reducible apply State.shufFault_keeps
    | with_reducible apply State.shufEnd_keeps
    | with_reducible apply State.updOp_keeps
    | with_reducible refine Keeps.of_eq (by assumption) ?_
    | with_reducible apply Keeps.foldl
    | with_reducible apply Keeps.foldl_fst
    | with_reducible refine Keeps.of_eq (by assumption) (Keeps.foldl_fst ?_ ?_)
    | intro _ _
    | intro _
    | with_reducible apply Keeps.ite
    | dsimp only
    | with_reducible apply KeepsMk.fields
    | with_reducible apply KeepsMk.memFields
    | with_reducible apply KeepsMk.msixFields
    | with_reducible apply KeepsMk.logFields
    | dsimp only
    | split)

theorem execShuffleOut_keeps : ∀ h i s, NextKeeps s (execShuffleOut h i s) := by
  intro h i s
  unfold execShuffleOut
  repeat' (first
    | with_reducible apply NextKeeps.next
    | with_reducible apply NextKeeps.ite
    | with_reducible exact Keeps.refl _
    | with_reducible assumption
    | with_reducible apply State.finishInputs_keeps
    | with_reducible apply State.readInputs_keeps
    | with_reducible apply State.shufBatch_keeps
    | with_reducible apply State.shufFault_keeps
    | with_reducible apply State.shufEnd_keeps
    | with_reducible refine Keeps.of_eq (by assumption) ?_
    | with_reducible apply Keeps.foldl
    | with_reducible apply Keeps.foldl_fst
    | with_reducible refine Keeps.of_eq (by assumption) (Keeps.foldl_fst ?_ ?_)
    | intro _ _
    | intro _
    | with_reducible apply Keeps.ite
    | dsimp only
    | with_reducible apply KeepsMk.fields
    | with_reducible apply KeepsMk.memFields
    | with_reducible apply KeepsMk.msixFields
    | with_reducible apply KeepsMk.logFields
    | dsimp only
    | split)

end Sys2Proof.Machine
end

