-- ==== Sys2Proof/Laws/KeepsHost.lean ====
section
/-! SUPPORT. What `Keeps` says holds of every function that changes the state: the mailbox channels, the host link, the beat boundary and PTP. -/

namespace Sys2Proof.Machine

/-! ### Machine/Channel.lean -/

theorem State.logCommand_keeps : ∀ {a0 s r code detail}, Keeps a0 s → Keeps a0 (State.logCommand s r code detail) := by
  intro a0 s r code detail hk0
  unfold State.logCommand
  repeat' (first
    | with_reducible exact Keeps.refl _
    | with_reducible assumption
    | with_reducible apply State.logEntry_keeps
    | with_reducible apply State.free_keeps)

theorem State.showResult_keeps : ∀ {a0 s tag x}, Keeps a0 s → Keeps a0 (State.showResult s tag x) := by
  intro a0 s tag x hk0
  unfold State.showResult
  repeat' (first
    | with_reducible exact Keeps.refl _
    | with_reducible assumption
    | with_reducible apply State.set64_keeps
    | with_reducible apply State.setN_keeps
    | with_reducible apply State.msg_keeps)

theorem State.showState_keeps : ∀ {a0 s r state}, Keeps a0 s → Keeps a0 (State.showState s r state) := by
  intro a0 s r state hk0
  unfold State.showState
  repeat' (first
    | with_reducible exact Keeps.refl _
    | with_reducible assumption
    | with_reducible apply State.setF_keeps)

theorem State.finishCmd_keeps : ∀ {a0 s r x}, Keeps a0 s → Keeps a0 (State.finishCmd s r x) := by
  intro a0 s r x hk0
  unfold State.finishCmd
  repeat' (first
    | with_reducible exact Keeps.refl _
    | with_reducible assumption
    | with_reducible apply State.logCommand_keeps
    | with_reducible apply State.showResult_keeps
    | with_reducible apply State.showState_keeps
    | with_reducible apply State.emit_keeps
    | with_reducible apply Keeps.foldl
    | with_reducible apply Keeps.foldl_fst
    | with_reducible refine Keeps.of_eq (by assumption) (Keeps.foldl_fst ?_ ?_)
    | intro _ _
    | intro _
    | with_reducible apply Keeps.ite
    | dsimp only
    | with_reducible apply KeepsMk.fields
    | with_reducible apply KeepsMk.memFields
    | with_reducible apply KeepsMk.msixFields
    | with_reducible apply KeepsMk.logFields
    | dsimp only
    | split)

theorem State.answerBusy_keeps : ∀ {a0 s r}, Keeps a0 s → Keeps a0 (State.answerBusy s r) := by
  intro a0 s r hk0
  unfold State.answerBusy
  repeat' (first
    | with_reducible exact Keeps.refl _
    | with_reducible assumption
    | with_reducible apply State.logCommand_keeps
    | with_reducible apply State.count_keeps
    | with_reducible apply State.emit_keeps
    | with_reducible apply State.setN_keeps
    | with_reducible apply Keeps.foldl
    | with_reducible apply Keeps.foldl_fst
    | with_reducible refine Keeps.of_eq (by assumption) (Keeps.foldl_fst ?_ ?_)
    | intro _ _
    | intro _
    | with_reducible apply Keeps.ite
    | dsimp only
    | with_reducible apply KeepsMk.fields
    | with_reducible apply KeepsMk.memFields
    | with_reducible apply KeepsMk.msixFields
    | with_reducible apply KeepsMk.logFields
    | dsimp only
    | split)

theorem State.begins_keeps : ∀ {a0 s r l}, Keeps a0 s → Keeps a0 (State.begins s r l) := by
  intro a0 s r l hk0
  unfold State.begins
  repeat' (first
    | with_reducible exact Keeps.refl _
    | with_reducible assumption
    | with_reducible refine Keeps.of_eq (by assumption) ?_
    | with_reducible apply State.showState_keeps
    | with_reducible apply State.free_keeps
    | with_reducible apply State.setF_keeps
    | with_reducible refine Keeps.of_eq2 (by assumption) ?_
    | with_reducible apply Keeps.foldl
    | with_reducible apply Keeps.foldl_fst
    | with_reducible refine Keeps.of_eq (by assumption) (Keeps.foldl_fst ?_ ?_)
    | intro _ _
    | intro _
    | with_reducible apply Keeps.ite
    | simp only [Keeps.mk_eq]
    | with_reducible apply KeepsMk.fields
    | with_reducible apply KeepsMk.memFields
    | with_reducible apply KeepsMk.msixFields
    | with_reducible apply KeepsMk.logFields
    | dsimp only
    | split
    | with_reducible refine Keeps.of_done (by assumption) ?_
    | with_reducible refine Keeps.of_runs (by assumption) ?_)

theorem State.perform_keeps : ∀ {a0 s r body}, (∀ {a0} y0 y1, Keeps a0 y0 → Keeps a0 (body y0 y1).state) → Keeps a0 s → Keeps a0 (State.perform s r body) := by
  intro a0 s r body h_body hk0
  unfold State.perform
  repeat' (first
    | with_reducible exact Keeps.refl _
    | with_reducible assumption
    | with_reducible apply h_body
    | with_reducible refine Keeps.of_eq (by assumption) ?_
    | dsimp only [Work.state_done, Work.state_runs]
    | with_reducible apply State.answerBusy_keeps
    | with_reducible apply State.finishCmd_keeps
    | with_reducible apply State.begins_keeps
    | with_reducible apply State.showState_keeps
    | with_reducible apply State.count_keeps
    | with_reducible apply State.free_keeps
    | with_reducible apply State.setF_keeps
    | with_reducible refine Keeps.of_eq2 (by assumption) ?_
    | with_reducible apply Keeps.foldl
    | with_reducible apply Keeps.foldl_fst
    | with_reducible refine Keeps.of_eq (by assumption) (Keeps.foldl_fst ?_ ?_)
    | intro _ _
    | intro _
    | with_reducible apply Keeps.ite
    | simp only [Keeps.mk_eq]
    | with_reducible apply KeepsMk.fields
    | with_reducible apply KeepsMk.memFields
    | with_reducible apply KeepsMk.msixFields
    | with_reducible apply KeepsMk.logFields
    | dsimp only
    | split
    | with_reducible refine Keeps.of_done (by assumption) ?_
    | with_reducible refine Keeps.of_runs (by assumption) ?_)

theorem State.command_keeps : ∀ {a0 s p r body}, (∀ {a0} y0 y1, Keeps a0 y0 → Keeps a0 (body y0 y1).state) → Keeps a0 s → Keeps a0 (State.command s p r body) := by
  intro a0 s p r body h_body hk0
  unfold State.command
  repeat' (first
    | with_reducible exact Keeps.refl _
    | with_reducible assumption
    | with_reducible apply h_body
    | with_reducible refine Keeps.of_eq (by assumption) ?_
    | with_reducible apply State.perform_keeps
    | with_reducible apply Keeps.foldl
    | with_reducible apply Keeps.foldl_fst
    | with_reducible refine Keeps.of_eq (by assumption) (Keeps.foldl_fst ?_ ?_)
    | intro _ _
    | intro _
    | with_reducible apply Keeps.ite)

theorem State.endLong_keeps : ∀ {a0 s x}, Keeps a0 s → Keeps a0 (State.endLong s x) := by
  intro a0 s x hk0
  unfold State.endLong
  repeat' (first
    | with_reducible exact Keeps.refl _
    | with_reducible assumption
    | with_reducible apply State.finishCmd_keeps
    | with_reducible apply State.setF_keeps
    | with_reducible apply Keeps.foldl
    | with_reducible apply Keeps.foldl_fst
    | with_reducible refine Keeps.of_eq (by assumption) (Keeps.foldl_fst ?_ ?_)
    | intro _ _
    | intro _
    | with_reducible apply Keeps.ite
    | simp only [Keeps.mk_eq]
    | with_reducible apply KeepsMk.fields
    | with_reducible apply KeepsMk.memFields
    | with_reducible apply KeepsMk.msixFields
    | with_reducible apply KeepsMk.logFields
    | dsimp only
    | split)

theorem State.updateLinkLost_keeps : ∀ {a0 s}, Keeps a0 s → Keeps a0 (State.updateLinkLost s) := by
  intro a0 s hk0
  unfold State.updateLinkLost
  repeat' (first
    | with_reducible exact Keeps.refl _
    | with_reducible assumption
    | with_reducible apply State.endLong_keeps
    | with_reducible apply Keeps.foldl
    | with_reducible apply Keeps.foldl_fst
    | with_reducible refine Keeps.of_eq (by assumption) (Keeps.foldl_fst ?_ ?_)
    | intro _ _
    | intro _
    | with_reducible apply Keeps.ite
    | simp only [Keeps.mk_eq]
    | with_reducible apply KeepsMk.fields
    | with_reducible apply KeepsMk.memFields
    | with_reducible apply KeepsMk.msixFields
    | with_reducible apply KeepsMk.logFields
    | dsimp only
    | split)

/-! ### Machine/Settings.lean -/

theorem State.noteBounded_keeps : ∀ {a0 s off layer}, Keeps a0 s → Keeps a0 (State.noteBounded s off layer) := by
  intro a0 s off layer hk0
  unfold State.noteBounded
  repeat' (first
    | with_reducible exact Keeps.refl _
    | with_reducible assumption
    | with_reducible apply sparseSet_wf
    | with_reducible apply sparseClear_wf
    | with_reducible apply sparseFilter_wf
    | with_reducible apply putRegs_wf
    | with_reducible apply applyKeys_wf
    | with_reducible apply State.logOpen_keeps
    | with_reducible apply State.count_keeps
    | with_reducible apply State.setN_keeps)

theorem State.applySettings_keeps {a0 s : State} {c : Combined} (hk : Keeps a0 s) : Keeps a0 (s.applySettings c) := by
  unfold State.applySettings
  extract_lets ws put u b v
  have hp : ∀ (f : RegFile) (l : List (Nat × Nat)), sparseWf 0 f = true → sparseWf 0 (put f l) = true := fun f l h =>
    sparseFold_wf (fun p : Nat × Nat => p.1) (fun p => BitVec.ofNat 32 p.2) l h
  have hu : Keeps a0 u := (hk.pf0 (hp _ _)).shadow (hp _ _)
  have hv : Keeps a0 v := KeepsMk.fields (u := u) hu
  exact Keeps.foldl (fun s e => State.noteBounded_keeps (Keeps.refl s)) hv

/-! ### Machine/Host.lean -/

theorem State.hostEvent_keeps : ∀ {a0 s b}, Keeps a0 s → Keeps a0 (State.hostEvent s b) := by
  intro a0 s b hk0
  unfold State.hostEvent
  repeat' (first
    | with_reducible exact Keeps.refl _
    | with_reducible assumption
    | with_reducible apply sparseSet_wf
    | with_reducible apply sparseClear_wf
    | with_reducible apply sparseFilter_wf
    | with_reducible apply putRegs_wf
    | with_reducible apply applyKeys_wf
    | with_reducible apply State.raise_keeps
    | with_reducible apply State.msg_keeps
    | with_reducible apply Keeps.foldl
    | with_reducible apply Keeps.foldl_fst
    | with_reducible refine Keeps.of_eq (by assumption) (Keeps.foldl_fst ?_ ?_)
    | intro _ _
    | intro _
    | with_reducible apply Keeps.ite)

theorem State.dropOwed_keeps : ∀ {a0 s t q}, Keeps a0 s → Keeps a0 (State.dropOwed s t q) := by
  intro a0 s t q hk0
  unfold State.dropOwed
  repeat' (first
    | with_reducible exact Keeps.refl _
    | with_reducible assumption
    | with_reducible apply sparseSet_wf
    | with_reducible apply sparseClear_wf
    | with_reducible apply sparseFilter_wf
    | with_reducible apply putRegs_wf
    | with_reducible apply applyKeys_wf
    | with_reducible apply State.updTenant_keeps
    | with_reducible apply State.vcount_keeps
    | with_reducible apply Keeps.foldl
    | with_reducible apply Keeps.foldl_fst
    | with_reducible refine Keeps.of_eq (by assumption) (Keeps.foldl_fst ?_ ?_)
    | intro _ _
    | intro _
    | with_reducible apply Keeps.ite
    | simp only [Keeps.mk_eq]
    | with_reducible apply KeepsMk.fields)

theorem execQueueEnable_keeps : ∀ t s, NextKeeps s (execQueueEnable t s) := by
  intro t s
  unfold execQueueEnable
  repeat' (first
    | with_reducible apply NextKeeps.next
    | with_reducible apply NextKeeps.ite
    | with_reducible exact Keeps.refl _
    | with_reducible assumption
    | with_reducible apply sparseSet_wf
    | with_reducible apply sparseClear_wf
    | with_reducible apply sparseFilter_wf
    | with_reducible apply putRegs_wf
    | with_reducible apply applyKeys_wf
    | with_reducible apply State.dropOwed_keeps
    | with_reducible apply State.updQueue_keeps
    | with_reducible apply Keeps.foldl
    | with_reducible apply Keeps.foldl_fst
    | with_reducible refine Keeps.of_eq (by assumption) (Keeps.foldl_fst ?_ ?_)
    | intro _ _
    | intro _
    | with_reducible apply Keeps.ite
    | dsimp only
    | with_reducible apply KeepsMk.fields
    | with_reducible apply KeepsMk.memFields
    | with_reducible apply KeepsMk.msixFields
    | with_reducible apply KeepsMk.logFields
    | with_reducible apply KeepsMk.files
    | exact rfl
    | dsimp only
    | split)

theorem execQueueDisable_keeps : ∀ t s, NextKeeps s (execQueueDisable t s) := by
  intro t s
  unfold execQueueDisable
  repeat' (first
    | with_reducible apply NextKeeps.next
    | with_reducible apply NextKeeps.ite
    | with_reducible exact Keeps.refl _
    | with_reducible assumption
    | with_reducible apply sparseSet_wf
    | with_reducible apply sparseClear_wf
    | with_reducible apply sparseFilter_wf
    | with_reducible apply putRegs_wf
    | with_reducible apply applyKeys_wf
    | with_reducible apply State.settleQueue_keeps
    | with_reducible apply State.updQueue_keeps
    | with_reducible apply Keeps.foldl
    | with_reducible apply Keeps.foldl_fst
    | with_reducible refine Keeps.of_eq (by assumption) (Keeps.foldl_fst ?_ ?_)
    | intro _ _
    | intro _)

theorem State.badDoorbell_keeps : ∀ {a0 s t}, Keeps a0 s → Keeps a0 (State.badDoorbell s t) := by
  intro a0 s t hk0
  unfold State.badDoorbell
  repeat' (first
    | with_reducible exact Keeps.refl _
    | with_reducible assumption
    | with_reducible apply sparseSet_wf
    | with_reducible apply sparseClear_wf
    | with_reducible apply sparseFilter_wf
    | with_reducible apply putRegs_wf
    | with_reducible apply applyKeys_wf
    | with_reducible apply State.logOpen_keeps)

theorem execHostTSqTailDb_keeps : ∀ t q v s, NextKeeps s (execHostTSqTailDb t q v s) := by
  intro t q v s
  unfold execHostTSqTailDb
  repeat' (first
    | with_reducible apply NextKeeps.next
    | with_reducible apply NextKeeps.ite
    | with_reducible exact Keeps.refl _
    | with_reducible assumption
    | with_reducible apply sparseSet_wf
    | with_reducible apply sparseClear_wf
    | with_reducible apply sparseFilter_wf
    | with_reducible apply putRegs_wf
    | with_reducible apply applyKeys_wf
    | with_reducible apply State.badDoorbell_keeps
    | with_reducible apply State.updQueue_keeps
    | with_reducible apply Keeps.foldl
    | with_reducible apply Keeps.foldl_fst
    | with_reducible refine Keeps.of_eq (by assumption) (Keeps.foldl_fst ?_ ?_)
    | intro _ _
    | intro _)

theorem execHostTCqHeadDb_keeps : ∀ t q v s, NextKeeps s (execHostTCqHeadDb t q v s) := by
  intro t q v s
  unfold execHostTCqHeadDb
  repeat' (first
    | with_reducible apply NextKeeps.next
    | with_reducible apply NextKeeps.ite
    | with_reducible exact Keeps.refl _
    | with_reducible assumption
    | with_reducible apply sparseSet_wf
    | with_reducible apply sparseClear_wf
    | with_reducible apply sparseFilter_wf
    | with_reducible apply putRegs_wf
    | with_reducible apply applyKeys_wf
    | with_reducible apply State.badDoorbell_keeps
    | with_reducible apply State.updQueue_keeps
    | with_reducible apply Keeps.foldl
    | with_reducible apply Keeps.foldl_fst
    | with_reducible refine Keeps.of_eq (by assumption) (Keeps.foldl_fst ?_ ?_)
    | intro _ _
    | intro _)

theorem State.queueFault_keeps : ∀ {a0 s t q code}, Keeps a0 s → Keeps a0 (State.queueFault s t q code) := by
  intro a0 s t q code hk0
  unfold State.queueFault
  repeat' (first
    | with_reducible exact Keeps.refl _
    | with_reducible assumption
    | with_reducible apply sparseSet_wf
    | with_reducible apply sparseClear_wf
    | with_reducible apply sparseFilter_wf
    | with_reducible apply putRegs_wf
    | with_reducible apply applyKeys_wf
    | with_reducible apply State.logEvent_keeps
    | with_reducible apply State.updQueue_keeps
    | with_reducible apply State.vcount_keeps
    | with_reducible apply Keeps.foldl
    | with_reducible apply Keeps.foldl_fst
    | with_reducible refine Keeps.of_eq (by assumption) (Keeps.foldl_fst ?_ ?_)
    | intro _ _
    | intro _
    | with_reducible apply Keeps.ite)

theorem State.hostFaultNote_keeps : ∀ {a0 s t code addr}, Keeps a0 s → Keeps a0 (State.hostFaultNote s t code addr) := by
  intro a0 s t code addr hk0
  unfold State.hostFaultNote
  repeat' (first
    | with_reducible exact Keeps.refl _
    | with_reducible assumption
    | with_reducible apply sparseSet_wf
    | with_reducible apply sparseClear_wf
    | with_reducible apply sparseFilter_wf
    | with_reducible apply putRegs_wf
    | with_reducible apply applyKeys_wf
    | with_reducible apply State.vcount_keeps
    | with_reducible apply State.vset64_keeps
    | with_reducible apply Keeps.foldl
    | with_reducible apply Keeps.foldl_fst
    | with_reducible refine Keeps.of_eq (by assumption) (Keeps.foldl_fst ?_ ?_)
    | intro _ _
    | intro _
    | with_reducible apply Keeps.ite)

theorem State.hostTaskFault_keeps : ∀ {a0 s t seq code ctx elem addr}, Keeps a0 s → Keeps a0 (State.hostTaskFault s t seq code ctx elem addr) := by
  intro a0 s t seq code ctx elem addr hk0
  unfold State.hostTaskFault
  repeat' (first
    | with_reducible exact Keeps.refl _
    | with_reducible assumption
    | with_reducible apply sparseSet_wf
    | with_reducible apply sparseClear_wf
    | with_reducible apply sparseFilter_wf
    | with_reducible apply putRegs_wf
    | with_reducible apply applyKeys_wf
    | with_reducible apply State.hostFaultNote_keeps
    | with_reducible apply State.abortTask_keeps
    | with_reducible apply Keeps.foldl
    | with_reducible apply Keeps.foldl_fst
    | with_reducible refine Keeps.of_eq (by assumption) (Keeps.foldl_fst ?_ ?_)
    | intro _ _
    | intro _
    | with_reducible apply Keeps.ite
    | simp only [Keeps.mk_eq]
    | with_reducible apply KeepsMk.fields
    | with_reducible apply KeepsMk.memFields
    | with_reducible apply KeepsMk.msixFields
    | with_reducible apply KeepsMk.logFields
    | with_reducible apply KeepsMk.files
    | exact rfl
    | dsimp only
    | split)

theorem State.recordFault_keeps : ∀ {a0 s t seq course aborted code addr}, Keeps a0 s → Keeps a0 (State.recordFault s t seq course aborted code addr) := by
  intro a0 s t seq course aborted code addr hk0
  unfold State.recordFault
  repeat' (first
    | with_reducible exact Keeps.refl _
    | with_reducible assumption
    | with_reducible apply sparseSet_wf
    | with_reducible apply sparseClear_wf
    | with_reducible apply sparseFilter_wf
    | with_reducible apply putRegs_wf
    | with_reducible apply applyKeys_wf
    | with_reducible apply State.hostFaultNote_keeps
    | with_reducible apply State.hostTaskFault_keeps
    | with_reducible apply State.unitFault_keeps
    | with_reducible apply State.logEntry_keeps
    | with_reducible apply State.vcount_keeps
    | with_reducible apply Keeps.foldl
    | with_reducible apply Keeps.foldl_fst
    | with_reducible refine Keeps.of_eq (by assumption) (Keeps.foldl_fst ?_ ?_)
    | intro _ _
    | intro _
    | with_reducible apply Keeps.ite
    | dsimp only
    | with_reducible apply KeepsMk.fields
    | with_reducible apply KeepsMk.memFields
    | with_reducible apply KeepsMk.msixFields
    | with_reducible apply KeepsMk.logFields
    | with_reducible apply KeepsMk.files
    | exact rfl
    | dsimp only
    | split)

theorem State.regionFault_keeps : ∀ {a0 s h table code addr}, Keeps a0 s → Keeps a0 (State.regionFault s h table code addr) := by
  intro a0 s h table code addr hk0
  unfold State.regionFault
  repeat' (first
    | with_reducible exact Keeps.refl _
    | with_reducible assumption
    | with_reducible apply sparseSet_wf
    | with_reducible apply sparseClear_wf
    | with_reducible apply sparseFilter_wf
    | with_reducible apply putRegs_wf
    | with_reducible apply applyKeys_wf
    | with_reducible apply State.hostFaultNote_keeps
    | with_reducible apply State.unitFault_keeps
    | with_reducible apply State.updRegion_keeps
    | with_reducible apply State.updResult_keeps)

theorem State.unwrite_keeps : ∀ {a0 s t k addr}, Keeps a0 s → Keeps a0 (State.unwrite s t k addr) := by
  intro a0 s t k addr hk0
  unfold State.unwrite
  repeat' (first
    | with_reducible exact Keeps.refl _
    | with_reducible assumption
    | with_reducible apply sparseSet_wf
    | with_reducible apply sparseClear_wf
    | with_reducible apply sparseFilter_wf
    | with_reducible apply putRegs_wf
    | with_reducible apply applyKeys_wf
    | with_reducible apply State.updQueue_keeps)

theorem State.dropHeld_keeps : ∀ {a0 s t k}, Keeps a0 s → Keeps a0 (State.dropHeld s t k) := by
  intro a0 s t k hk0
  unfold State.dropHeld
  repeat' (first
    | with_reducible exact Keeps.refl _
    | with_reducible assumption
    | with_reducible apply sparseSet_wf
    | with_reducible apply sparseClear_wf
    | with_reducible apply sparseFilter_wf
    | with_reducible apply putRegs_wf
    | with_reducible apply applyKeys_wf
    | with_reducible apply State.vcount_keeps
    | with_reducible apply Keeps.foldl
    | with_reducible apply Keeps.foldl_fst
    | with_reducible refine Keeps.of_eq (by assumption) (Keeps.foldl_fst ?_ ?_)
    | intro _ _
    | intro _
    | with_reducible apply Keeps.ite
    | simp only [Keeps.mk_eq]
    | with_reducible apply KeepsMk.fields)

theorem State.failReq_keeps : ∀ {a0 s q code}, Keeps a0 s → Keeps a0 (State.failReq s q code) := by
  intro a0 s q code hk0
  unfold State.failReq
  repeat' (first
    | with_reducible exact Keeps.refl _
    | with_reducible assumption
    | with_reducible apply sparseSet_wf
    | with_reducible apply sparseClear_wf
    | with_reducible apply sparseFilter_wf
    | with_reducible apply putRegs_wf
    | with_reducible apply applyKeys_wf
    | with_reducible apply State.hostTaskFault_keeps
    | with_reducible apply State.recordFault_keeps
    | with_reducible apply State.regionFault_keeps
    | with_reducible apply State.queueFault_keeps
    | with_reducible apply State.dropHeld_keeps
    | with_reducible apply State.unwrite_keeps
    | with_reducible apply State.vcount_keeps
    | with_reducible apply State.free_keeps
    | with_reducible refine Keeps.of_eq2 (by assumption) ?_
    | with_reducible apply Keeps.foldl
    | with_reducible apply Keeps.foldl_fst
    | with_reducible refine Keeps.of_eq (by assumption) (Keeps.foldl_fst ?_ ?_)
    | intro _ _
    | intro _
    | with_reducible apply Keeps.ite
    | dsimp only
    | with_reducible apply KeepsMk.fields
    | with_reducible apply KeepsMk.memFields
    | with_reducible apply KeepsMk.msixFields
    | with_reducible apply KeepsMk.logFields
    | with_reducible apply KeepsMk.files
    | exact rfl
    | dsimp only
    | split)

theorem State.takeDescriptor_keeps : ∀ {a0 s t q d}, Keeps a0 s → Keeps a0 (State.takeDescriptor s t q d) := by
  intro a0 s t q d hk0
  unfold State.takeDescriptor
  repeat' (first
    | with_reducible exact Keeps.refl _
    | with_reducible assumption
    | with_reducible apply sparseSet_wf
    | with_reducible apply sparseClear_wf
    | with_reducible apply sparseFilter_wf
    | with_reducible apply putRegs_wf
    | with_reducible apply applyKeys_wf
    | with_reducible apply State.updTenant_keeps
    | with_reducible apply State.updQueue_keeps)

theorem State.takeDescriptors_keeps' : ∀ {s t q x0}, Keeps s (State.takeDescriptors s t q x0) := by
  intro s t q x0
  fun_induction State.takeDescriptors s t q x0
  all_goals
  repeat' (first
    | with_reducible exact Keeps.refl _
    | with_reducible assumption
    | with_reducible refine Keeps.trans ?_ (by assumption)
    | with_reducible apply sparseSet_wf
    | with_reducible apply sparseClear_wf
    | with_reducible apply sparseFilter_wf
    | with_reducible apply putRegs_wf
    | with_reducible apply applyKeys_wf
    | with_reducible apply State.takeDescriptor_keeps)

theorem State.takeDescriptors_keeps : ∀ {a0 s t q x0}, Keeps a0 s → Keeps a0 (State.takeDescriptors s t q x0) := by
  intro a0 s t q x0 hk0
  exact hk0.trans (State.takeDescriptors_keeps')

theorem execDescriptorFetch_keeps : ∀ t q r s, NextKeeps s (execDescriptorFetch t q r s) := by
  intro t q r s
  unfold execDescriptorFetch
  repeat' (first
    | with_reducible apply NextKeeps.next
    | with_reducible apply NextKeeps.ite
    | with_reducible exact Keeps.refl _
    | with_reducible assumption
    | with_reducible apply sparseSet_wf
    | with_reducible apply sparseClear_wf
    | with_reducible apply sparseFilter_wf
    | with_reducible apply putRegs_wf
    | with_reducible apply applyKeys_wf
    | with_reducible apply State.takeDescriptors_keeps
    | with_reducible apply State.queueFault_keeps
    | with_reducible apply Keeps.foldl
    | with_reducible apply Keeps.foldl_fst
    | with_reducible refine Keeps.of_eq (by assumption) (Keeps.foldl_fst ?_ ?_)
    | intro _ _
    | intro _
    | with_reducible apply Keeps.ite
    | simp only [Keeps.mk_eq]
    | with_reducible apply KeepsMk.fields
    | with_reducible apply KeepsMk.memFields
    | with_reducible apply KeepsMk.msixFields
    | with_reducible apply KeepsMk.logFields
    | with_reducible apply KeepsMk.files
    | exact rfl
    | dsimp only
    | split)

theorem State.refuseTask_keeps : ∀ {a0 s t q d code detail}, Keeps a0 s → Keeps a0 (State.refuseTask s t q d code detail) := by
  intro a0 s t q d code detail hk0
  unfold State.refuseTask
  repeat' (first
    | with_reducible exact Keeps.refl _
    | with_reducible assumption
    | with_reducible apply sparseSet_wf
    | with_reducible apply sparseClear_wf
    | with_reducible apply sparseFilter_wf
    | with_reducible apply putRegs_wf
    | with_reducible apply applyKeys_wf
    | with_reducible apply State.complete_keeps
    | with_reducible apply State.logOpen_keeps
    | with_reducible apply State.message_keeps
    | with_reducible apply State.vcount_keeps
    | with_reducible apply State.vsetF_keeps
    | with_reducible apply Keeps.foldl
    | with_reducible apply Keeps.foldl_fst
    | with_reducible refine Keeps.of_eq (by assumption) (Keeps.foldl_fst ?_ ?_)
    | intro _ _
    | intro _
    | with_reducible apply Keeps.ite
    | dsimp only
    | with_reducible apply KeepsMk.fields
    | with_reducible apply KeepsMk.memFields
    | with_reducible apply KeepsMk.msixFields
    | with_reducible apply KeepsMk.logFields
    | with_reducible apply KeepsMk.files
    | exact rfl
    | dsimp only
    | split)

theorem State.submit_keeps : ∀ {a0 s t q d bind pinned}, Keeps a0 s → Keeps a0 (State.submit s t q d bind pinned) := by
  intro a0 s t q d bind pinned hk0
  unfold State.submit
  repeat' (first
    | with_reducible exact Keeps.refl _
    | with_reducible assumption
    | with_reducible apply sparseSet_wf
    | with_reducible apply sparseClear_wf
    | with_reducible apply sparseFilter_wf
    | with_reducible apply putRegs_wf
    | with_reducible apply applyKeys_wf
    | with_reducible apply State.refuseTask_keeps
    | with_reducible apply State.updTenant_keeps
    | with_reducible apply State.vcount_keeps
    | with_reducible apply State.vsetF_keeps
    | with_reducible apply Keeps.foldl
    | with_reducible apply Keeps.foldl_fst
    | with_reducible refine Keeps.of_eq (by assumption) (Keeps.foldl_fst ?_ ?_)
    | intro _ _
    | intro _
    | with_reducible apply Keeps.ite
    | simp only [Keeps.mk_eq]
    | with_reducible apply KeepsMk.fields
    | with_reducible apply KeepsMk.memFields
    | with_reducible apply KeepsMk.msixFields
    | with_reducible apply KeepsMk.logFields
    | with_reducible apply KeepsMk.files
    | exact rfl
    | dsimp only
    | split)

theorem execTaskAccept_keeps : ∀ t q r pinned s, NextKeeps s (execTaskAccept t q r pinned s) := by
  intro t q r pinned s
  unfold execTaskAccept
  repeat' (first
    | with_reducible apply NextKeeps.next
    | with_reducible apply NextKeeps.ite
    | with_reducible exact Keeps.refl _
    | with_reducible assumption
    | with_reducible apply sparseSet_wf
    | with_reducible apply sparseClear_wf
    | with_reducible apply sparseFilter_wf
    | with_reducible apply putRegs_wf
    | with_reducible apply applyKeys_wf
    | with_reducible apply State.settleQueue_keeps
    | with_reducible apply State.refuseTask_keeps
    | with_reducible apply State.updTenant_keeps
    | with_reducible apply State.submit_keeps
    | with_reducible apply Keeps.foldl
    | with_reducible apply Keeps.foldl_fst
    | with_reducible refine Keeps.of_eq (by assumption) (Keeps.foldl_fst ?_ ?_)
    | intro _ _
    | intro _
    | with_reducible apply Keeps.ite
    | dsimp only
    | with_reducible apply KeepsMk.fields
    | with_reducible apply KeepsMk.memFields
    | with_reducible apply KeepsMk.msixFields
    | with_reducible apply KeepsMk.logFields
    | with_reducible apply KeepsMk.files
    | exact rfl
    | dsimp only
    | split)

theorem State.stageMore_keeps' : ∀ {s h seq i x0}, Keeps s (State.stageMore s h seq i x0) := by
  intro s h seq i x0
  fun_induction State.stageMore s h seq i x0
  all_goals
  repeat' (first
    | with_reducible exact Keeps.refl _
    | with_reducible assumption
    | with_reducible refine Keeps.trans ?_ (by assumption)
    | with_reducible apply sparseSet_wf
    | with_reducible apply sparseClear_wf
    | with_reducible apply sparseFilter_wf
    | with_reducible apply putRegs_wf
    | with_reducible apply applyKeys_wf
    | with_reducible apply State.chargeRota_keeps
    | with_reducible apply State.hostRead_keeps
    | with_reducible apply State.vcount64_keeps
    | with_reducible apply State.updTask_keeps)

theorem State.stageMore_keeps : ∀ {a0 s h seq i x0}, Keeps a0 s → Keeps a0 (State.stageMore s h seq i x0) := by
  intro a0 s h seq i x0 hk0
  exact hk0.trans (State.stageMore_keeps')

theorem State.stageTask_keeps : ∀ {a0 s h seq}, Keeps a0 s → Keeps a0 (State.stageTask s h seq) := by
  intro a0 s h seq hk0
  unfold State.stageTask
  repeat' (first
    | with_reducible exact Keeps.refl _
    | with_reducible assumption
    | with_reducible apply sparseSet_wf
    | with_reducible apply sparseClear_wf
    | with_reducible apply sparseFilter_wf
    | with_reducible apply putRegs_wf
    | with_reducible apply applyKeys_wf
    | with_reducible apply State.stageMore_keeps
    | with_reducible apply Keeps.foldl
    | with_reducible apply Keeps.foldl_fst
    | with_reducible refine Keeps.of_eq (by assumption) (Keeps.foldl_fst ?_ ?_)
    | intro _ _
    | intro _
    | with_reducible apply Keeps.ite
    | simp only [Keeps.mk_eq]
    | with_reducible apply KeepsMk.fields
    | with_reducible apply KeepsMk.memFields
    | with_reducible apply KeepsMk.msixFields
    | with_reducible apply KeepsMk.logFields
    | with_reducible apply KeepsMk.files
    | exact rfl
    | dsimp only
    | split)

theorem execHostStagingStart_keeps : ∀ h seq s, NextKeeps s (execHostStagingStart h seq s) := by
  intro h seq s
  unfold execHostStagingStart
  repeat' (first
    | with_reducible apply NextKeeps.next
    | with_reducible apply NextKeeps.ite
    | with_reducible exact Keeps.refl _
    | with_reducible assumption
    | with_reducible apply sparseSet_wf
    | with_reducible apply sparseClear_wf
    | with_reducible apply sparseFilter_wf
    | with_reducible apply putRegs_wf
    | with_reducible apply applyKeys_wf
    | with_reducible apply State.stageTask_keeps
    | with_reducible apply State.updTask_keeps
    | with_reducible apply Keeps.foldl
    | with_reducible apply Keeps.foldl_fst
    | with_reducible refine Keeps.of_eq (by assumption) (Keeps.foldl_fst ?_ ?_)
    | intro _ _
    | intro _
    | with_reducible apply Keeps.ite
    | simp only [Keeps.mk_eq]
    | with_reducible apply KeepsMk.fields
    | with_reducible apply KeepsMk.memFields
    | with_reducible apply KeepsMk.msixFields
    | with_reducible apply KeepsMk.logFields
    | with_reducible apply KeepsMk.files
    | exact rfl
    | dsimp only
    | split)

theorem State.stageArrive_keeps : ∀ {a0 s t h seq i off d}, Keeps a0 s → Keeps a0 (State.stageArrive s t h seq i off d) := by
  intro a0 s t h seq i off d hk0
  unfold State.stageArrive
  repeat' (first
    | with_reducible exact Keeps.refl _
    | with_reducible assumption
    | with_reducible apply sparseSet_wf
    | with_reducible apply sparseClear_wf
    | with_reducible apply sparseFilter_wf
    | with_reducible apply putRegs_wf
    | with_reducible apply applyKeys_wf
    | with_reducible apply State.writeMem_keeps
    | with_reducible apply State.updTask_keeps
    | with_reducible apply State.vcount_keeps
    | with_reducible refine Keeps.of_eq (by assumption) ?_
    | with_reducible apply Keeps.foldl
    | with_reducible apply Keeps.foldl_fst
    | with_reducible refine Keeps.of_eq (by assumption) (Keeps.foldl_fst ?_ ?_)
    | intro _ _
    | intro _
    | with_reducible apply Keeps.ite
    | dsimp only
    | with_reducible apply KeepsMk.fields
    | with_reducible apply KeepsMk.memFields
    | with_reducible apply KeepsMk.msixFields
    | with_reducible apply KeepsMk.logFields
    | with_reducible apply KeepsMk.files
    | exact rfl
    | dsimp only
    | split)

theorem State.coreArrive_keeps : ∀ {a0 s h k no d}, Keeps a0 s → Keeps a0 (State.coreArrive s h k no d) := by
  intro a0 s h k no d hk0
  unfold State.coreArrive
  repeat' (first
    | with_reducible exact Keeps.refl _
    | with_reducible assumption
    | with_reducible apply sparseSet_wf
    | with_reducible apply sparseClear_wf
    | with_reducible apply sparseFilter_wf
    | with_reducible apply putRegs_wf
    | with_reducible apply applyKeys_wf
    | with_reducible apply State.updCore_keeps)

theorem State.readArrive_keeps : ∀ {a0 s q d}, Keeps a0 s → Keeps a0 (State.readArrive s q d) := by
  intro a0 s q d hk0
  unfold State.readArrive
  repeat' (first
    | with_reducible exact Keeps.refl _
    | with_reducible assumption
    | with_reducible apply sparseSet_wf
    | with_reducible apply sparseClear_wf
    | with_reducible apply sparseFilter_wf
    | with_reducible apply putRegs_wf
    | with_reducible apply applyKeys_wf
    | with_reducible apply State.placeStandby_keeps
    | with_reducible apply State.stageArrive_keeps
    | with_reducible apply State.coreArrive_keeps
    | with_reducible apply State.updRegion_keeps
    | with_reducible apply Keeps.foldl
    | with_reducible apply Keeps.foldl_fst
    | with_reducible refine Keeps.of_eq (by assumption) (Keeps.foldl_fst ?_ ?_)
    | intro _ _
    | intro _
    | with_reducible apply Keeps.ite
    | simp only [Keeps.mk_eq]
    | with_reducible apply KeepsMk.fields
    | with_reducible apply KeepsMk.memFields
    | with_reducible apply KeepsMk.msixFields
    | with_reducible apply KeepsMk.logFields
    | with_reducible apply KeepsMk.files
    | exact rfl
    | dsimp only
    | split)

theorem execHostReadCompletion_keeps : ∀ no r s, NextKeeps s (execHostReadCompletion no r s) := by
  intro no r s
  unfold execHostReadCompletion
  repeat' (first
    | with_reducible apply NextKeeps.next
    | with_reducible apply NextKeeps.ite
    | with_reducible exact Keeps.refl _
    | with_reducible assumption
    | with_reducible apply sparseSet_wf
    | with_reducible apply sparseClear_wf
    | with_reducible apply sparseFilter_wf
    | with_reducible apply putRegs_wf
    | with_reducible apply applyKeys_wf
    | with_reducible apply State.readArrive_keeps
    | with_reducible apply State.failReq_keeps
    | with_reducible apply Keeps.foldl
    | with_reducible apply Keeps.foldl_fst
    | with_reducible refine Keeps.of_eq (by assumption) (Keeps.foldl_fst ?_ ?_)
    | intro _ _
    | intro _
    | with_reducible apply Keeps.ite
    | simp only [Keeps.mk_eq]
    | with_reducible apply KeepsMk.fields
    | with_reducible apply KeepsMk.memFields
    | with_reducible apply KeepsMk.msixFields
    | with_reducible apply KeepsMk.logFields
    | with_reducible apply KeepsMk.files
    | exact rfl
    | dsimp only
    | split)

theorem execHostCplTimeout_keeps : ∀ no s, NextKeeps s (execHostCplTimeout no s) := by
  intro no s
  unfold execHostCplTimeout
  repeat' (first
    | with_reducible apply NextKeeps.next
    | with_reducible apply NextKeeps.ite
    | with_reducible exact Keeps.refl _
    | with_reducible assumption
    | with_reducible apply sparseSet_wf
    | with_reducible apply sparseClear_wf
    | with_reducible apply sparseFilter_wf
    | with_reducible apply putRegs_wf
    | with_reducible apply applyKeys_wf
    | with_reducible apply State.failReq_keeps
    | with_reducible apply Keeps.foldl
    | with_reducible apply Keeps.foldl_fst
    | with_reducible refine Keeps.of_eq (by assumption) (Keeps.foldl_fst ?_ ?_)
    | intro _ _
    | intro _
    | with_reducible apply Keeps.ite
    | simp only [Keeps.mk_eq]
    | with_reducible apply KeepsMk.fields
    | with_reducible apply KeepsMk.memFields
    | with_reducible apply KeepsMk.msixFields
    | with_reducible apply KeepsMk.logFields
    | with_reducible apply KeepsMk.files
    | exact rfl
    | dsimp only
    | split)

theorem State.cacheTranslation_keeps : ∀ {a0 s x}, Keeps a0 s → Keeps a0 (State.cacheTranslation s x) := by
  intro a0 s x hk0
  unfold State.cacheTranslation
  repeat' (first
    | with_reducible exact Keeps.refl _
    | with_reducible assumption
    | with_reducible apply sparseSet_wf
    | with_reducible apply sparseClear_wf
    | with_reducible apply sparseFilter_wf
    | with_reducible apply putRegs_wf
    | with_reducible apply applyKeys_wf
    | with_reducible apply Keeps.foldl
    | with_reducible apply Keeps.foldl_fst
    | with_reducible refine Keeps.of_eq (by assumption) (Keeps.foldl_fst ?_ ?_)
    | intro _ _
    | intro _
    | with_reducible apply Keeps.ite
    | simp only [Keeps.mk_eq]
    | with_reducible apply KeepsMk.fields)

theorem execTranslationCompletion_keeps : ∀ t base log2 rd wr s, NextKeeps s (execTranslationCompletion t base log2 rd wr s) := by
  intro t base log2 rd wr s
  unfold execTranslationCompletion
  repeat' (first
    | with_reducible apply NextKeeps.next
    | with_reducible apply NextKeeps.ite
    | with_reducible exact Keeps.refl _
    | with_reducible assumption
    | with_reducible apply sparseSet_wf
    | with_reducible apply sparseClear_wf
    | with_reducible apply sparseFilter_wf
    | with_reducible apply putRegs_wf
    | with_reducible apply applyKeys_wf
    | with_reducible apply State.cacheTranslation_keeps
    | with_reducible apply State.releaseHeld_keeps
    | with_reducible apply State.failReq_keeps
    | with_reducible apply Keeps.foldl
    | with_reducible apply Keeps.foldl_fst
    | with_reducible refine Keeps.of_eq (by assumption) (Keeps.foldl_fst ?_ ?_)
    | intro _ _
    | intro _
    | with_reducible apply Keeps.ite
    | simp only [Keeps.mk_eq]
    | with_reducible apply KeepsMk.fields
    | with_reducible apply KeepsMk.memFields
    | with_reducible apply KeepsMk.msixFields
    | with_reducible apply KeepsMk.logFields
    | with_reducible apply KeepsMk.files
    | exact rfl
    | dsimp only
    | split)

theorem execAtsInvalidationRequest_keeps : ∀ t base log2 s, NextKeeps s (execAtsInvalidationRequest t base log2 s) := by
  intro t base log2 s
  unfold execAtsInvalidationRequest
  repeat' (first
    | with_reducible apply NextKeeps.next
    | with_reducible apply NextKeeps.ite
    | with_reducible exact Keeps.refl _
    | with_reducible assumption
    | with_reducible apply sparseSet_wf
    | with_reducible apply sparseClear_wf
    | with_reducible apply sparseFilter_wf
    | with_reducible apply putRegs_wf
    | with_reducible apply applyKeys_wf
    | with_reducible apply State.count_keeps
    | with_reducible apply State.emit_keeps
    | with_reducible apply Keeps.foldl
    | with_reducible apply Keeps.foldl_fst
    | with_reducible refine Keeps.of_eq (by assumption) (Keeps.foldl_fst ?_ ?_)
    | intro _ _
    | intro _
    | with_reducible apply Keeps.ite
    | simp only [Keeps.mk_eq]
    | with_reducible apply KeepsMk.fields)

theorem State.setLink_keeps : ∀ {a0 s up gen width flit}, Keeps a0 s → Keeps a0 (State.setLink s up gen width flit) := by
  intro a0 s up gen width flit hk0
  unfold State.setLink
  repeat' (first
    | with_reducible exact Keeps.refl _
    | with_reducible assumption
    | with_reducible apply sparseSet_wf
    | with_reducible apply sparseClear_wf
    | with_reducible apply sparseFilter_wf
    | with_reducible apply putRegs_wf
    | with_reducible apply applyKeys_wf
    | with_reducible apply Keeps.foldl
    | with_reducible apply Keeps.foldl_fst
    | with_reducible refine Keeps.of_eq (by assumption) (Keeps.foldl_fst ?_ ?_)
    | intro _ _
    | intro _
    | with_reducible apply Keeps.ite
    | simp only [Keeps.mk_eq]
    | with_reducible apply KeepsMk.fields)

theorem State.orphanHosts_keeps : ∀ {a0 s}, Keeps a0 s → Keeps a0 (State.orphanHosts s) := by
  intro a0 s hk0
  unfold State.orphanHosts
  repeat' (first
    | with_reducible exact Keeps.refl _
    | with_reducible assumption
    | with_reducible apply sparseSet_wf
    | with_reducible apply sparseClear_wf
    | with_reducible apply sparseFilter_wf
    | with_reducible apply putRegs_wf
    | with_reducible apply applyKeys_wf
    | with_reducible apply Keeps.foldl
    | with_reducible apply Keeps.foldl_fst
    | with_reducible refine Keeps.of_eq (by assumption) (Keeps.foldl_fst ?_ ?_)
    | intro _ _
    | intro _
    | with_reducible apply Keeps.ite
    | simp only [Keeps.mk_eq]
    | with_reducible apply KeepsMk.fields)

theorem State.abortHostTasks_keeps : ∀ {a0 s code}, Keeps a0 s → Keeps a0 (State.abortHostTasks s code) := by
  intro a0 s code hk0
  unfold State.abortHostTasks
  repeat' (first
    | with_reducible exact Keeps.refl _
    | with_reducible assumption
    | with_reducible apply sparseSet_wf
    | with_reducible apply sparseClear_wf
    | with_reducible apply sparseFilter_wf
    | with_reducible apply putRegs_wf
    | with_reducible apply applyKeys_wf
    | with_reducible apply State.abortTask_keeps
    | with_reducible apply Keeps.foldl
    | with_reducible apply Keeps.foldl_fst
    | with_reducible refine Keeps.of_eq (by assumption) (Keeps.foldl_fst ?_ ?_)
    | intro _ _
    | intro _
    | with_reducible apply Keeps.ite)

theorem State.errQps_keeps : ∀ {a0 s p}, Keeps a0 s → Keeps a0 (State.errQps s p) := by
  intro a0 s p hk0
  unfold State.errQps
  repeat' (first
    | with_reducible exact Keeps.refl _
    | with_reducible assumption
    | with_reducible apply sparseSet_wf
    | with_reducible apply sparseClear_wf
    | with_reducible apply sparseFilter_wf
    | with_reducible apply putRegs_wf
    | with_reducible apply applyKeys_wf
    | with_reducible apply State.qpError_keeps
    | with_reducible apply Keeps.foldl
    | with_reducible apply Keeps.foldl_fst
    | with_reducible refine Keeps.of_eq (by assumption) (Keeps.foldl_fst ?_ ?_)
    | intro _ _
    | intro _
    | with_reducible apply Keeps.ite)

theorem State.dropHostWork_keeps : ∀ {a0 s}, Keeps a0 s → Keeps a0 (State.dropHostWork s) := by
  intro a0 s hk0
  unfold State.dropHostWork
  repeat' (first
    | with_reducible exact Keeps.refl _
    | with_reducible assumption
    | with_reducible apply sparseSet_wf
    | with_reducible apply sparseClear_wf
    | with_reducible apply sparseFilter_wf
    | with_reducible apply putRegs_wf
    | with_reducible apply applyKeys_wf
    | with_reducible apply Keeps.foldl
    | with_reducible apply Keeps.foldl_fst
    | with_reducible refine Keeps.of_eq (by assumption) (Keeps.foldl_fst ?_ ?_)
    | intro _ _
    | intro _
    | with_reducible apply Keeps.ite
    | simp only [Keeps.mk_eq]
    | with_reducible apply KeepsMk.fields)

theorem State.linkLost_keeps : ∀ {a0 s}, Keeps a0 s → Keeps a0 (State.linkLost s) := by
  intro a0 s hk0
  unfold State.linkLost
  repeat' (first
    | with_reducible exact Keeps.refl _
    | with_reducible assumption
    | with_reducible apply sparseSet_wf
    | with_reducible apply sparseClear_wf
    | with_reducible apply sparseFilter_wf
    | with_reducible apply putRegs_wf
    | with_reducible apply applyKeys_wf
    | with_reducible apply State.abortHostTasks_keeps
    | with_reducible apply State.updateLinkLost_keeps
    | with_reducible apply State.dropHostWork_keeps
    | with_reducible apply State.orphanHosts_keeps
    | with_reducible apply State.hostEvent_keeps
    | with_reducible apply State.logOpen_keeps
    | with_reducible apply State.setLink_keeps
    | with_reducible apply State.errQps_keeps
    | with_reducible apply State.count_keeps
    | with_reducible apply Keeps.foldl
    | with_reducible apply Keeps.foldl_fst
    | with_reducible refine Keeps.of_eq (by assumption) (Keeps.foldl_fst ?_ ?_)
    | intro _ _
    | intro _
    | with_reducible apply Keeps.ite
    | simp only [Keeps.mk_eq]
    | with_reducible apply KeepsMk.fields)

theorem execDlDown_keeps : ∀ s, NextKeeps s (execDlDown s) := by
  intro s
  unfold execDlDown
  repeat' (first
    | with_reducible apply NextKeeps.next
    | with_reducible apply NextKeeps.ite
    | with_reducible exact Keeps.refl _
    | with_reducible assumption
    | with_reducible apply sparseSet_wf
    | with_reducible apply sparseClear_wf
    | with_reducible apply sparseFilter_wf
    | with_reducible apply putRegs_wf
    | with_reducible apply applyKeys_wf
    | with_reducible apply State.linkLost_keeps
    | with_reducible apply Keeps.foldl
    | with_reducible apply Keeps.foldl_fst
    | with_reducible refine Keeps.of_eq (by assumption) (Keeps.foldl_fst ?_ ?_)
    | intro _ _
    | intro _)

theorem execDlUp_keeps : ∀ gen width flit s, NextKeeps s (execDlUp gen width flit s) := by
  intro gen width flit s
  unfold execDlUp
  repeat' (first
    | with_reducible apply NextKeeps.next
    | with_reducible apply NextKeeps.ite
    | with_reducible exact Keeps.refl _
    | with_reducible assumption
    | with_reducible apply sparseSet_wf
    | with_reducible apply sparseClear_wf
    | with_reducible apply sparseFilter_wf
    | with_reducible apply putRegs_wf
    | with_reducible apply applyKeys_wf
    | with_reducible apply State.hostEvent_keeps
    | with_reducible apply State.setLink_keeps
    | with_reducible apply Keeps.foldl
    | with_reducible apply Keeps.foldl_fst
    | with_reducible refine Keeps.of_eq (by assumption) (Keeps.foldl_fst ?_ ?_)
    | intro _ _
    | intro _
    | with_reducible apply Keeps.ite
    | simp only [Keeps.mk_eq]
    | with_reducible apply KeepsMk.fields)

theorem execLinkRetrained_keeps : ∀ gen width flit s, NextKeeps s (execLinkRetrained gen width flit s) := by
  intro gen width flit s
  unfold execLinkRetrained
  repeat' (first
    | with_reducible apply NextKeeps.next
    | with_reducible apply NextKeeps.ite
    | with_reducible exact Keeps.refl _
    | with_reducible assumption
    | with_reducible apply sparseSet_wf
    | with_reducible apply sparseClear_wf
    | with_reducible apply sparseFilter_wf
    | with_reducible apply putRegs_wf
    | with_reducible apply applyKeys_wf
    | with_reducible apply State.hostEvent_keeps
    | with_reducible apply State.setLink_keeps
    | with_reducible apply Keeps.foldl
    | with_reducible apply Keeps.foldl_fst
    | with_reducible refine Keeps.of_eq (by assumption) (Keeps.foldl_fst ?_ ?_)
    | intro _ _
    | intro _)

theorem State.pcieReset_keeps : ∀ {a0 s}, Keeps a0 s → Keeps a0 (State.pcieReset s) := by
  intro a0 s hk0
  unfold State.pcieReset
  repeat' (first
    | with_reducible exact Keeps.refl _
    | with_reducible assumption
    | with_reducible apply sparseSet_wf
    | with_reducible apply sparseClear_wf
    | with_reducible apply sparseFilter_wf
    | with_reducible apply putRegs_wf
    | with_reducible apply applyKeys_wf
    | with_reducible apply State.linkLost_keeps
    | with_reducible apply Keeps.foldl
    | with_reducible apply Keeps.foldl_fst
    | with_reducible refine Keeps.of_eq (by assumption) (Keeps.foldl_fst ?_ ?_)
    | intro _ _
    | intro _
    | with_reducible apply Keeps.ite
    | simp only [Keeps.mk_eq]
    | with_reducible apply KeepsMk.fields
    | with_reducible apply KeepsMk.memFields
    | with_reducible apply KeepsMk.msixFields
    | with_reducible apply KeepsMk.logFields
    | with_reducible apply KeepsMk.files
    | exact rfl)

theorem execPcieInterfaceReset_keeps : ∀ s, NextKeeps s (execPcieInterfaceReset s) := by
  intro s
  unfold execPcieInterfaceReset
  repeat' (first
    | with_reducible apply NextKeeps.next
    | with_reducible apply NextKeeps.ite
    | with_reducible exact Keeps.refl _
    | with_reducible assumption
    | with_reducible apply sparseSet_wf
    | with_reducible apply sparseClear_wf
    | with_reducible apply sparseFilter_wf
    | with_reducible apply putRegs_wf
    | with_reducible apply applyKeys_wf
    | with_reducible apply State.pcieReset_keeps)

theorem State.vfDisable_keeps : ∀ {a0 s}, Keeps a0 s → Keeps a0 (State.vfDisable s) := by
  intro a0 s hk0
  unfold State.vfDisable
  repeat' (first
    | with_reducible exact Keeps.refl _
    | with_reducible assumption
    | with_reducible apply sparseSet_wf
    | with_reducible apply sparseClear_wf
    | with_reducible apply sparseFilter_wf
    | with_reducible apply putRegs_wf
    | with_reducible apply applyKeys_wf
    | with_reducible apply State.abortHostTasks_keeps
    | with_reducible apply State.dropHostWork_keeps
    | with_reducible apply State.orphanHosts_keeps
    | with_reducible apply State.errQps_keeps
    | with_reducible apply Keeps.foldl
    | with_reducible apply Keeps.foldl_fst
    | with_reducible refine Keeps.of_eq (by assumption) (Keeps.foldl_fst ?_ ?_)
    | intro _ _
    | intro _
    | with_reducible apply Keeps.ite
    | simp only [Keeps.mk_eq]
    | with_reducible apply KeepsMk.fields)

theorem execConfigRequest_keeps : ∀ f r s, NextKeeps s (execConfigRequest f r s) := by
  intro f r s
  unfold execConfigRequest
  repeat' (first
    | with_reducible apply NextKeeps.next
    | with_reducible apply NextKeeps.ite
    | with_reducible exact Keeps.refl _
    | with_reducible assumption
    | with_reducible apply sparseSet_wf
    | with_reducible apply sparseClear_wf
    | with_reducible apply sparseFilter_wf
    | with_reducible apply putRegs_wf
    | with_reducible apply applyKeys_wf
    | with_reducible apply State.msixRelease_keeps
    | with_reducible apply State.vfDisable_keeps
    | with_reducible apply State.emit_keeps
    | with_reducible apply State.free_keeps
    | with_reducible refine Keeps.of_eq2 (by assumption) ?_
    | with_reducible apply Keeps.foldl
    | with_reducible apply Keeps.foldl_fst
    | with_reducible refine Keeps.of_eq (by assumption) (Keeps.foldl_fst ?_ ?_)
    | intro _ _
    | intro _
    | with_reducible apply Keeps.ite
    | simp only [Keeps.mk_eq]
    | with_reducible apply KeepsMk.fields
    | with_reducible apply KeepsMk.memFields
    | with_reducible apply KeepsMk.msixFields
    | with_reducible apply KeepsMk.logFields
    | with_reducible apply KeepsMk.files
    | exact rfl
    | dsimp only
    | split)

/-! ### Machine/Boundary.lean -/

theorem State.generateFor_keeps : ∀ {a0 s b r}, Keeps a0 s → Keeps a0 (State.generateFor s b r) := by
  intro a0 s b r hk0
  unfold State.generateFor
  repeat' (first
    | with_reducible exact Keeps.refl _
    | with_reducible assumption
    | with_reducible apply State.readMem_keeps
    | with_reducible apply State.updRota_keeps
    | with_reducible apply State.submit_keeps
    | with_reducible refine Keeps.of_eq (by assumption) ?_
    | with_reducible apply Keeps.foldl
    | with_reducible apply Keeps.foldl_fst
    | with_reducible refine Keeps.of_eq (by assumption) (Keeps.foldl_fst ?_ ?_)
    | intro _ _
    | intro _
    | with_reducible apply Keeps.ite
    | dsimp only
    | with_reducible apply KeepsMk.fields
    | with_reducible apply KeepsMk.memFields
    | with_reducible apply KeepsMk.msixFields
    | with_reducible apply KeepsMk.logFields
    | dsimp only
    | split)

theorem State.generate_keeps : ∀ {a0 s b}, Keeps a0 s → Keeps a0 (State.generate s b) := by
  intro a0 s b hk0
  unfold State.generate
  repeat' (first
    | with_reducible exact Keeps.refl _
    | with_reducible assumption
    | with_reducible apply State.generateFor_keeps
    | with_reducible apply Keeps.foldl
    | with_reducible apply Keeps.foldl_fst
    | with_reducible refine Keeps.of_eq (by assumption) (Keeps.foldl_fst ?_ ?_)
    | intro _ _)

theorem State.quiesceBeat_keeps : ∀ {a0 s}, Keeps a0 s → Keeps a0 (State.quiesceBeat s) := by
  intro a0 s hk0
  unfold State.quiesceBeat
  repeat' (first
    | with_reducible exact Keeps.refl _
    | with_reducible assumption
    | with_reducible apply Keeps.foldl
    | with_reducible apply Keeps.foldl_fst
    | with_reducible refine Keeps.of_eq (by assumption) (Keeps.foldl_fst ?_ ?_)
    | intro _ _
    | intro _
    | with_reducible apply Keeps.ite
    | simp only [Keeps.mk_eq]
    | with_reducible apply KeepsMk.fields)

theorem State.phaseZero_keeps : ∀ {a0 s b}, Keeps a0 s → Keeps a0 (State.phaseZero s b) := by
  intro a0 s b hk0
  unfold State.phaseZero
  repeat' (first
    | with_reducible exact Keeps.refl _
    | with_reducible assumption
    | with_reducible apply State.discardFrames_keeps
    | with_reducible apply State.settleOwners_keeps
    | with_reducible apply State.quiesceBeat_keeps
    | with_reducible apply State.regionsAt_keeps
    | with_reducible apply State.commitAt_keeps
    | with_reducible apply State.generate_keeps
    | with_reducible apply State.freesAt_keeps
    | with_reducible apply State.loadsAt_keeps
    | with_reducible apply State.cut_keeps
    | with_reducible apply Keeps.foldl
    | with_reducible apply Keeps.foldl_fst
    | with_reducible refine Keeps.of_eq (by assumption) (Keeps.foldl_fst ?_ ?_)
    | intro _ _
    | intro _
    | with_reducible apply Keeps.ite
    | simp only [Keeps.mk_eq]
    | with_reducible apply KeepsMk.fields
    | with_reducible apply KeepsMk.memFields)

theorem State.boundary_keeps : ∀ {a0 s src m renumber}, Keeps a0 s → Keeps a0 (State.boundary s src m renumber) := by
  intro a0 s src m renumber hk0
  unfold State.boundary
  repeat' (first
    | with_reducible exact Keeps.refl _
    | with_reducible assumption
    | with_reducible apply State.checkShort_keeps
    | with_reducible apply State.beatEvent_keeps
    | with_reducible apply State.phaseZero_keeps
    | with_reducible apply State.set64_keeps
    | with_reducible apply State.skip_keeps
    | with_reducible apply Keeps.foldl
    | with_reducible apply Keeps.foldl_fst
    | with_reducible refine Keeps.of_eq (by assumption) (Keeps.foldl_fst ?_ ?_)
    | intro _ _
    | intro _
    | with_reducible apply Keeps.ite
    | simp only [Keeps.mk_eq]
    | with_reducible apply KeepsMk.fields)

theorem execBeatBoundary_keeps : ∀ now ptp s, NextKeeps s (execBeatBoundary now ptp s) := by
  intro now ptp s
  unfold execBeatBoundary
  repeat' (first
    | with_reducible apply NextKeeps.next
    | with_reducible apply NextKeeps.ite
    | with_reducible exact Keeps.refl _
    | with_reducible assumption
    | with_reducible apply State.boundary_keeps
    | with_reducible apply State.tickTo_keeps
    | with_reducible apply Keeps.foldl
    | with_reducible apply Keeps.foldl_fst
    | with_reducible refine Keeps.of_eq (by assumption) (Keeps.foldl_fst ?_ ?_)
    | intro _ _
    | intro _)

theorem State.pulse_keeps : ∀ {a0 s src}, Keeps a0 s → Keeps a0 (State.pulse s src) := by
  intro a0 s src hk0
  unfold State.pulse
  repeat' (first
    | with_reducible exact Keeps.refl _
    | with_reducible assumption
    | with_reducible apply State.boundary_keeps
    | with_reducible apply Keeps.foldl
    | with_reducible apply Keeps.foldl_fst
    | with_reducible refine Keeps.of_eq (by assumption) (Keeps.foldl_fst ?_ ?_)
    | intro _ _
    | intro _
    | with_reducible apply Keeps.ite
    | simp only [Keeps.mk_eq]
    | with_reducible apply KeepsMk.fields
    | with_reducible apply KeepsMk.memFields
    | with_reducible apply KeepsMk.msixFields
    | with_reducible apply KeepsMk.logFields
    | dsimp only
    | split)

theorem execBeatInPulse_keeps : ∀ now ptp s, NextKeeps s (execBeatInPulse now ptp s) := by
  intro now ptp s
  unfold execBeatInPulse
  repeat' (first
    | with_reducible apply NextKeeps.next
    | with_reducible apply NextKeeps.ite
    | with_reducible exact Keeps.refl _
    | with_reducible assumption
    | with_reducible apply State.tickTo_keeps
    | with_reducible apply State.pulse_keeps
    | with_reducible apply Keeps.foldl
    | with_reducible apply Keeps.foldl_fst
    | with_reducible refine Keeps.of_eq (by assumption) (Keeps.foldl_fst ?_ ?_)
    | intro _ _
    | intro _
    | with_reducible apply Keeps.ite
    | simp only [Keeps.mk_eq]
    | with_reducible apply KeepsMk.fields)

theorem execBeatDoorbell_keeps : ∀ now ptp s, NextKeeps s (execBeatDoorbell now ptp s) := by
  intro now ptp s
  unfold execBeatDoorbell
  repeat' (first
    | with_reducible apply NextKeeps.next
    | with_reducible apply NextKeeps.ite
    | with_reducible exact Keeps.refl _
    | with_reducible assumption
    | with_reducible apply State.tickTo_keeps
    | with_reducible apply State.pulse_keeps
    | with_reducible apply Keeps.foldl
    | with_reducible apply Keeps.foldl_fst
    | with_reducible refine Keeps.of_eq (by assumption) (Keeps.foldl_fst ?_ ?_)
    | intro _ _
    | intro _)

theorem execBeatLost_keeps : ∀ now ptp s, NextKeeps s (execBeatLost now ptp s) := by
  intro now ptp s
  unfold execBeatLost
  repeat' (first
    | with_reducible apply NextKeeps.next
    | with_reducible apply NextKeeps.ite
    | with_reducible exact Keeps.refl _
    | with_reducible assumption
    | with_reducible apply State.beatEvent_keeps
    | with_reducible apply State.logOne_keeps
    | with_reducible apply State.tickTo_keeps
    | with_reducible apply State.count_keeps
    | with_reducible apply Keeps.foldl
    | with_reducible apply Keeps.foldl_fst
    | with_reducible refine Keeps.of_eq (by assumption) (Keeps.foldl_fst ?_ ?_)
    | intro _ _
    | intro _
    | with_reducible apply Keeps.ite
    | simp only [Keeps.mk_eq]
    | with_reducible apply KeepsMk.fields)

theorem execBeatNoSource_keeps : ∀ now ptp s, NextKeeps s (execBeatNoSource now ptp s) := by
  intro now ptp s
  unfold execBeatNoSource
  repeat' (first
    | with_reducible apply NextKeeps.next
    | with_reducible apply NextKeeps.ite
    | with_reducible exact Keeps.refl _
    | with_reducible assumption
    | with_reducible apply State.logOpen_keeps
    | with_reducible apply State.tickTo_keeps
    | with_reducible apply Keeps.foldl
    | with_reducible apply Keeps.foldl_fst
    | with_reducible refine Keeps.of_eq (by assumption) (Keeps.foldl_fst ?_ ?_)
    | intro _ _
    | intro _
    | with_reducible apply Keeps.ite
    | simp only [Keeps.mk_eq]
    | with_reducible apply KeepsMk.fields
    | with_reducible apply KeepsMk.memFields
    | with_reducible apply KeepsMk.msixFields
    | with_reducible apply KeepsMk.logFields
    | dsimp only
    | split)

theorem State.applySources_keeps : ∀ {a0 s}, Keeps a0 s → Keeps a0 (State.applySources s) := by
  intro a0 s hk0
  unfold State.applySources
  repeat' (first
    | with_reducible exact Keeps.refl _
    | with_reducible assumption
    | with_reducible apply Keeps.foldl
    | with_reducible apply Keeps.foldl_fst
    | with_reducible refine Keeps.of_eq (by assumption) (Keeps.foldl_fst ?_ ?_)
    | intro _ _
    | intro _
    | with_reducible apply Keeps.ite
    | simp only [Keeps.mk_eq]
    | with_reducible apply KeepsMk.fields)

/-! ### Machine/Ptp.lean -/

theorem State.stepClock_keeps : ∀ {a0 s off}, Keeps a0 s → Keeps a0 (State.stepClock s off) := by
  intro a0 s off hk0
  unfold State.stepClock
  repeat' (first
    | with_reducible exact Keeps.refl _
    | with_reducible assumption
    | with_reducible apply State.beatEvent_keeps
    | with_reducible apply State.boundary_keeps
    | with_reducible apply Keeps.foldl
    | with_reducible apply Keeps.foldl_fst
    | with_reducible refine Keeps.of_eq (by assumption) (Keeps.foldl_fst ?_ ?_)
    | intro _ _
    | intro _
    | with_reducible apply Keeps.ite
    | simp only [Keeps.mk_eq]
    | with_reducible apply KeepsMk.fields)

theorem State.showServo_keeps : ∀ {a0 s}, Keeps a0 s → Keeps a0 (State.showServo s) := by
  intro a0 s hk0
  unfold State.showServo
  repeat' (first
    | with_reducible exact Keeps.refl _
    | with_reducible assumption
    | with_reducible apply State.setF_keeps)

theorem State.ptpUnlock_keeps : ∀ {a0 s}, Keeps a0 s → Keeps a0 (State.ptpUnlock s) := by
  intro a0 s hk0
  unfold State.ptpUnlock
  repeat' (first
    | with_reducible exact Keeps.refl _
    | with_reducible assumption
    | with_reducible apply State.showServo_keeps
    | with_reducible apply State.logOpen_keeps
    | with_reducible apply Keeps.foldl
    | with_reducible apply Keeps.foldl_fst
    | with_reducible refine Keeps.of_eq (by assumption) (Keeps.foldl_fst ?_ ?_)
    | intro _ _
    | intro _
    | with_reducible apply Keeps.ite
    | simp only [Keeps.mk_eq]
    | with_reducible apply KeepsMk.fields)

theorem State.judgeLock_keeps : ∀ {a0 s off}, Keeps a0 s → Keeps a0 (State.judgeLock s off) := by
  intro a0 s off hk0
  unfold State.judgeLock
  repeat' (first
    | with_reducible exact Keeps.refl _
    | with_reducible assumption
    | with_reducible apply State.ptpUnlock_keeps
    | with_reducible apply State.showServo_keeps
    | with_reducible apply Keeps.foldl
    | with_reducible apply Keeps.foldl_fst
    | with_reducible refine Keeps.of_eq (by assumption) (Keeps.foldl_fst ?_ ?_)
    | intro _ _
    | intro _
    | with_reducible apply Keeps.ite
    | simp only [Keeps.mk_eq]
    | with_reducible apply KeepsMk.fields)

theorem State.steer_keeps : ∀ {a0 s off}, Keeps a0 s → Keeps a0 (State.steer s off) := by
  intro a0 s off hk0
  unfold State.steer
  repeat' (first
    | with_reducible exact Keeps.refl _
    | with_reducible assumption
    | with_reducible apply State.free_keeps
    | with_reducible refine Keeps.of_eq2 (by assumption) ?_
    | with_reducible apply Keeps.foldl
    | with_reducible apply Keeps.foldl_fst
    | with_reducible refine Keeps.of_eq (by assumption) (Keeps.foldl_fst ?_ ?_)
    | intro _ _
    | intro _
    | with_reducible apply Keeps.ite
    | simp only [Keeps.mk_eq]
    | with_reducible apply KeepsMk.fields)

theorem State.syncResult_keeps : ∀ {a0 s t1 t2 cf}, Keeps a0 s → Keeps a0 (State.syncResult s t1 t2 cf) := by
  intro a0 s t1 t2 cf hk0
  unfold State.syncResult
  repeat' (first
    | with_reducible exact Keeps.refl _
    | with_reducible assumption
    | with_reducible apply State.judgeLock_keeps
    | with_reducible apply State.stepClock_keeps
    | with_reducible apply State.steer_keeps
    | with_reducible apply State.emit_keeps
    | with_reducible apply State.setN_keeps
    | with_reducible apply Keeps.foldl
    | with_reducible apply Keeps.foldl_fst
    | with_reducible refine Keeps.of_eq (by assumption) (Keeps.foldl_fst ?_ ?_)
    | intro _ _
    | intro _
    | with_reducible apply Keeps.ite
    | simp only [Keeps.mk_eq]
    | with_reducible apply KeepsMk.fields)

theorem execPtpSync_keeps : ∀ m origin twoStep s, NextKeeps s (execPtpSync m origin twoStep s) := by
  intro m origin twoStep s
  unfold execPtpSync
  repeat' (first
    | with_reducible apply NextKeeps.next
    | with_reducible apply NextKeeps.ite
    | with_reducible exact Keeps.refl _
    | with_reducible assumption
    | with_reducible apply State.syncResult_keeps
    | with_reducible apply State.tickTo_keeps
    | with_reducible apply Keeps.foldl
    | with_reducible apply Keeps.foldl_fst
    | with_reducible refine Keeps.of_eq (by assumption) (Keeps.foldl_fst ?_ ?_)
    | intro _ _
    | intro _
    | with_reducible apply Keeps.ite
    | simp only [Keeps.mk_eq]
    | with_reducible apply KeepsMk.fields)

theorem execPtpFollowUp_keeps : ∀ m origin s, NextKeeps s (execPtpFollowUp m origin s) := by
  intro m origin s
  unfold execPtpFollowUp
  repeat' (first
    | with_reducible apply NextKeeps.next
    | with_reducible apply NextKeeps.ite
    | with_reducible exact Keeps.refl _
    | with_reducible assumption
    | with_reducible apply State.syncResult_keeps
    | with_reducible apply State.tickTo_keeps
    | with_reducible apply Keeps.foldl
    | with_reducible apply Keeps.foldl_fst
    | with_reducible refine Keeps.of_eq (by assumption) (Keeps.foldl_fst ?_ ?_)
    | intro _ _
    | intro _
    | with_reducible apply Keeps.ite
    | dsimp only
    | with_reducible apply KeepsMk.fields
    | with_reducible apply KeepsMk.memFields
    | with_reducible apply KeepsMk.msixFields
    | with_reducible apply KeepsMk.logFields
    | dsimp only
    | split)

theorem execPtpDelayResponse_keeps : ∀ m a b c d s, NextKeeps s (execPtpDelayResponse m a b c d s) := by
  intro m a b c d s
  unfold execPtpDelayResponse
  repeat' (first
    | with_reducible apply NextKeeps.next
    | with_reducible apply NextKeeps.ite
    | with_reducible exact Keeps.refl _
    | with_reducible assumption
    | with_reducible apply State.tickTo_keeps
    | with_reducible apply Keeps.foldl
    | with_reducible apply Keeps.foldl_fst
    | with_reducible refine Keeps.of_eq (by assumption) (Keeps.foldl_fst ?_ ?_)
    | intro _ _
    | intro _
    | with_reducible apply Keeps.ite
    | simp only [Keeps.mk_eq]
    | with_reducible apply KeepsMk.fields
    | with_reducible apply KeepsMk.memFields
    | with_reducible apply KeepsMk.msixFields
    | with_reducible apply KeepsMk.logFields
    | dsimp only
    | split)

theorem execPtpAnnounce_keeps : ∀ m attrs s, NextKeeps s (execPtpAnnounce m attrs s) := by
  intro m attrs s
  unfold execPtpAnnounce
  repeat' (first
    | with_reducible apply NextKeeps.next
    | with_reducible apply NextKeeps.ite
    | with_reducible exact Keeps.refl _
    | with_reducible assumption
    | with_reducible apply State.tickTo_keeps
    | with_reducible apply Keeps.foldl
    | with_reducible apply Keeps.foldl_fst
    | with_reducible refine Keeps.of_eq (by assumption) (Keeps.foldl_fst ?_ ?_)
    | intro _ _
    | intro _
    | with_reducible apply Keeps.ite
    | simp only [Keeps.mk_eq]
    | with_reducible apply KeepsMk.fields)

theorem execNetPtpUnlock_keeps : ∀ now ptp s, NextKeeps s (execNetPtpUnlock now ptp s) := by
  intro now ptp s
  unfold execNetPtpUnlock
  repeat' (first
    | with_reducible apply NextKeeps.next
    | with_reducible apply NextKeeps.ite
    | with_reducible exact Keeps.refl _
    | with_reducible assumption
    | with_reducible apply State.ptpUnlock_keeps
    | with_reducible apply State.tickTo_keeps
    | with_reducible apply Keeps.foldl
    | with_reducible apply Keeps.foldl_fst
    | with_reducible refine Keeps.of_eq (by assumption) (Keeps.foldl_fst ?_ ?_)
    | intro _ _
    | intro _
    | with_reducible apply Keeps.ite
    | simp only [Keeps.mk_eq]
    | with_reducible apply KeepsMk.fields)

theorem execPtpHoldoverExpiry_keeps : ∀ now ptp s, NextKeeps s (execPtpHoldoverExpiry now ptp s) := by
  intro now ptp s
  unfold execPtpHoldoverExpiry
  repeat' (first
    | with_reducible apply NextKeeps.next
    | with_reducible apply NextKeeps.ite
    | with_reducible exact Keeps.refl _
    | with_reducible assumption
    | with_reducible apply State.tickTo_keeps
    | with_reducible apply Keeps.foldl
    | with_reducible apply Keeps.foldl_fst
    | with_reducible refine Keeps.of_eq (by assumption) (Keeps.foldl_fst ?_ ?_)
    | intro _ _
    | intro _
    | with_reducible apply Keeps.ite
    | simp only [Keeps.mk_eq]
    | with_reducible apply KeepsMk.fields)

theorem execPpsEdge_keeps : ∀ now ptp s, NextKeeps s (execPpsEdge now ptp s) := by
  intro now ptp s
  unfold execPpsEdge
  repeat' (first
    | with_reducible apply NextKeeps.next
    | with_reducible apply NextKeeps.ite
    | with_reducible exact Keeps.refl _
    | with_reducible assumption
    | with_reducible apply State.tickTo_keeps
    | with_reducible apply State.steer_keeps
    | with_reducible apply State.setN_keeps
    | with_reducible apply Keeps.foldl
    | with_reducible apply Keeps.foldl_fst
    | with_reducible refine Keeps.of_eq (by assumption) (Keeps.foldl_fst ?_ ?_)
    | intro _ _
    | intro _)

end Sys2Proof.Machine
end

