-- ==== Sys2Proof/Laws/KeepsLodge.lean ====
section
/-! SUPPORT. What `Keeps` says holds of every function that changes the state: the commands of the mailbox, tenants, admission, register accesses, the flash, MCTP and PLDM, the Lodge, supplies and start-up. -/

namespace Sys2Proof.Machine

/-! ### Machine/Mailbox.lean -/

theorem execMbxNop_keeps : ∀ r s, NextKeeps s (execMbxNop r s) := by
  intro r s
  unfold execMbxNop
  repeat' (first
    | with_reducible apply NextKeeps.next
    | with_reducible apply NextKeeps.ite
    | with_reducible exact Keeps.refl _
    | with_reducible assumption
    | dsimp only [Work.state_done, Work.state_runs]
    | with_reducible apply State.command_keeps
    | with_reducible apply Keeps.foldl
    | with_reducible apply Keeps.foldl_fst
    | with_reducible refine Keeps.of_eq (by assumption) (Keeps.foldl_fst ?_ ?_)
    | intro _ _)

theorem execMbxIdentify_keeps : ∀ r s, NextKeeps s (execMbxIdentify r s) := by
  intro r s
  unfold execMbxIdentify
  repeat' (first
    | with_reducible apply NextKeeps.next
    | with_reducible apply NextKeeps.ite
    | with_reducible exact Keeps.refl _
    | with_reducible assumption
    | dsimp only [Work.state_done, Work.state_runs]
    | with_reducible apply State.command_keeps
    | with_reducible apply Keeps.foldl
    | with_reducible apply Keeps.foldl_fst
    | with_reducible refine Keeps.of_eq (by assumption) (Keeps.foldl_fst ?_ ?_)
    | intro _ _)

theorem execMbxUnknownCommand_keeps : ∀ r s, NextKeeps s (execMbxUnknownCommand r s) := by
  intro r s
  unfold execMbxUnknownCommand
  repeat' (first
    | with_reducible apply NextKeeps.next
    | with_reducible apply NextKeeps.ite
    | with_reducible exact Keeps.refl _
    | with_reducible assumption
    | dsimp only [Work.state_done, Work.state_runs]
    | with_reducible apply State.command_keeps
    | with_reducible apply Keeps.foldl
    | with_reducible apply Keeps.foldl_fst
    | with_reducible refine Keeps.of_eq (by assumption) (Keeps.foldl_fst ?_ ?_)
    | intro _ _)

theorem execDevReset_keeps : ∀ r s, NextKeeps s (execDevReset r s) := by
  intro r s
  unfold execDevReset
  repeat' (first
    | with_reducible apply NextKeeps.next
    | with_reducible apply NextKeeps.ite
    | with_reducible exact Keeps.refl _
    | with_reducible assumption
    | dsimp only [Work.state_done, Work.state_runs]
    | with_reducible apply State.command_keeps
    | with_reducible apply Keeps.foldl
    | with_reducible apply Keeps.foldl_fst
    | with_reducible refine Keeps.of_eq (by assumption) (Keeps.foldl_fst ?_ ?_)
    | intro _ _
    | intro _
    | with_reducible apply Keeps.ite
    | simp only [Keeps.mk_eq]
    | with_reducible apply KeepsMk.fields
    | with_reducible apply KeepsMk.memFields
    | with_reducible apply KeepsMk.msixFields
    | with_reducible apply KeepsMk.logFields
    | dsimp only
    | split)

theorem execBeatSetEpoch_keeps : ∀ r s, NextKeeps s (execBeatSetEpoch r s) := by
  intro r s
  unfold execBeatSetEpoch
  repeat' (first
    | with_reducible apply NextKeeps.next
    | with_reducible apply NextKeeps.ite
    | with_reducible exact Keeps.refl _
    | with_reducible assumption
    | dsimp only [Work.state_done, Work.state_runs]
    | with_reducible apply State.command_keeps
    | with_reducible apply Keeps.foldl
    | with_reducible apply Keeps.foldl_fst
    | with_reducible refine Keeps.of_eq (by assumption) (Keeps.foldl_fst ?_ ?_)
    | intro _ _
    | intro _
    | with_reducible apply Keeps.ite
    | simp only [Keeps.mk_eq]
    | with_reducible apply KeepsMk.fields
    | with_reducible apply KeepsMk.memFields
    | with_reducible apply KeepsMk.msixFields
    | with_reducible apply KeepsMk.logFields
    | dsimp only
    | split)

theorem execHostQuiesce_keeps : ∀ r s, NextKeeps s (execHostQuiesce r s) := by
  intro r s
  unfold execHostQuiesce
  repeat' (first
    | with_reducible apply NextKeeps.next
    | with_reducible apply NextKeeps.ite
    | with_reducible exact Keeps.refl _
    | with_reducible assumption
    | dsimp only [Work.state_done, Work.state_runs]
    | with_reducible apply State.command_keeps
    | with_reducible apply Keeps.foldl
    | with_reducible apply Keeps.foldl_fst
    | with_reducible refine Keeps.of_eq (by assumption) (Keeps.foldl_fst ?_ ?_)
    | intro _ _
    | intro _
    | with_reducible apply Keeps.ite
    | simp only [Keeps.mk_eq]
    | with_reducible apply KeepsMk.fields
    | with_reducible apply KeepsMk.memFields
    | with_reducible apply KeepsMk.msixFields
    | with_reducible apply KeepsMk.logFields
    | dsimp only
    | split)

theorem execHostQuiesceComplete_keeps : ∀ s, NextKeeps s (execHostQuiesceComplete s) := by
  intro s
  unfold execHostQuiesceComplete
  repeat' (first
    | with_reducible apply NextKeeps.next
    | with_reducible apply NextKeeps.ite
    | with_reducible exact Keeps.refl _
    | with_reducible assumption
    | with_reducible apply State.hostEvent_keeps
    | with_reducible apply State.endLong_keeps
    | with_reducible apply Keeps.foldl
    | with_reducible apply Keeps.foldl_fst
    | with_reducible refine Keeps.of_eq (by assumption) (Keeps.foldl_fst ?_ ?_)
    | intro _ _
    | intro _
    | with_reducible apply Keeps.ite
    | simp only [Keeps.mk_eq]
    | with_reducible apply KeepsMk.fields)

theorem execHostQuiesceAbort_keeps : ∀ s, NextKeeps s (execHostQuiesceAbort s) := by
  intro s
  unfold execHostQuiesceAbort
  repeat' (first
    | with_reducible apply NextKeeps.next
    | with_reducible apply NextKeeps.ite
    | with_reducible exact Keeps.refl _
    | with_reducible assumption
    | with_reducible apply State.abortHostTasks_keeps
    | with_reducible apply Keeps.foldl
    | with_reducible apply Keeps.foldl_fst
    | with_reducible refine Keeps.of_eq (by assumption) (Keeps.foldl_fst ?_ ?_)
    | intro _ _
    | intro _
    | with_reducible apply Keeps.ite
    | simp only [Keeps.mk_eq]
    | with_reducible apply KeepsMk.fields)

theorem execHostResume_keeps : ∀ r s, NextKeeps s (execHostResume r s) := by
  intro r s
  unfold execHostResume
  repeat' (first
    | with_reducible apply NextKeeps.next
    | with_reducible apply NextKeeps.ite
    | with_reducible exact Keeps.refl _
    | with_reducible assumption
    | dsimp only [Work.state_done, Work.state_runs]
    | with_reducible apply State.command_keeps
    | with_reducible apply Keeps.foldl
    | with_reducible apply Keeps.foldl_fst
    | with_reducible refine Keeps.of_eq (by assumption) (Keeps.foldl_fst ?_ ?_)
    | intro _ _
    | intro _
    | with_reducible apply Keeps.ite
    | simp only [Keeps.mk_eq]
    | with_reducible apply KeepsMk.fields)

/-! ### Machine/Tenants.lean -/

theorem State.dropGrant_keeps {a0 s : State} {t : Nat} (hk : Keeps a0 s) : Keeps a0 (s.dropGrant t) := by
  unfold State.dropGrant
  extract_lets mine stale
  refine State.setN_keeps (State.putGrant_keeps _ ?_)
  refine ((hk.pf0 sparseFilter_wf).shadow (f := s.shadow.filter mine) sparseFilter_wf).commit (fun w => ?_)
  have hc := (State.wf_iff.1 w).2.2.2.2.1
  revert hc
  show commitWf s.commit = true → commitWf _ = true
  cases s.commit with
  | none => exact fun _ => rfl
  | some c => exact fun hc => sparseFilter_wf hc

theorem State.holdGrant_keeps : ∀ {a0 s b standing}, Keeps a0 s → Keeps a0 (State.holdGrant s b standing) := by
  intro a0 s b standing hk0
  unfold State.holdGrant
  repeat' (first
    | with_reducible exact Keeps.refl _
    | with_reducible assumption
    | with_reducible apply sparseSet_wf
    | with_reducible apply sparseClear_wf
    | with_reducible apply sparseFilter_wf
    | with_reducible apply putRegs_wf
    | with_reducible apply applyKeys_wf
    | with_reducible apply State.putGrant_keeps
    | with_reducible apply State.vsetN_keeps
    | with_reducible apply State.setN_keeps
    | with_reducible apply Keeps.foldl
    | with_reducible apply Keeps.foldl_fst
    | with_reducible refine Keeps.of_eq (by assumption) (Keeps.foldl_fst ?_ ?_)
    | intro _ _
    | intro _
    | with_reducible apply Keeps.ite
    | simp only [Keeps.mk_eq]
    | with_reducible apply KeepsMk.fields
    | with_reducible apply KeepsMk.memFields
    | with_reducible apply KeepsMk.msixFields
    | with_reducible apply KeepsMk.logFields
    | with_reducible apply KeepsMk.files)

theorem State.settleTenant_keeps : ∀ {a0 s t hbm ory}, Keeps a0 s → Keeps a0 (State.settleTenant s t hbm ory) := by
  intro a0 s t hbm ory hk0
  unfold State.settleTenant
  repeat' (first
    | with_reducible exact Keeps.refl _
    | with_reducible assumption
    | with_reducible apply sparseSet_wf
    | with_reducible apply sparseClear_wf
    | with_reducible apply sparseFilter_wf
    | with_reducible apply putRegs_wf
    | with_reducible apply applyKeys_wf
    | with_reducible apply State.clearGranuleTags_keeps
    | with_reducible apply State.updTenant_keeps
    | with_reducible apply State.mapQps_keeps
    | with_reducible apply Keeps.foldl
    | with_reducible apply Keeps.foldl_fst
    | with_reducible refine Keeps.of_eq (by assumption) (Keeps.foldl_fst ?_ ?_)
    | intro _ _
    | intro _
    | with_reducible apply Keeps.ite
    | simp only [Keeps.mk_eq]
    | with_reducible apply KeepsMk.fields
    | with_reducible apply KeepsMk.memFields)

theorem State.undoTenant_keeps : ∀ {a0 s t}, Keeps a0 s → Keeps a0 (State.undoTenant s t) := by
  intro a0 s t hk0
  unfold State.undoTenant
  repeat' (first
    | with_reducible exact Keeps.refl _
    | with_reducible assumption
    | with_reducible apply sparseSet_wf
    | with_reducible apply sparseClear_wf
    | with_reducible apply sparseFilter_wf
    | with_reducible apply putRegs_wf
    | with_reducible apply applyKeys_wf
    | with_reducible apply State.dropGrant_keeps
    | with_reducible apply Keeps.foldl
    | with_reducible apply Keeps.foldl_fst
    | with_reducible refine Keeps.of_eq (by assumption) (Keeps.foldl_fst ?_ ?_)
    | intro _ _
    | intro _
    | with_reducible apply Keeps.ite
    | simp only [Keeps.mk_eq]
    | with_reducible apply KeepsMk.fields)

theorem State.create_keeps : ∀ {a0 s b standing}, Keeps a0 s → Keeps a0 ((State.create s b standing).stateOr a0) := by
  intro a0 s b standing hk0
  unfold State.create
  repeat' (first
    | with_reducible exact Keeps.refl _
    | with_reducible assumption
    | with_reducible apply sparseSet_wf
    | with_reducible apply sparseClear_wf
    | with_reducible apply sparseFilter_wf
    | with_reducible apply putRegs_wf
    | with_reducible apply applyKeys_wf
    | with_reducible apply State.settleTenant_keeps
    | with_reducible apply State.holdGrant_keeps
    | with_reducible apply Keeps.foldl
    | with_reducible apply Keeps.foldl_fst
    | with_reducible refine Keeps.of_eq (by assumption) (Keeps.foldl_fst ?_ ?_)
    | intro _ _
    | intro _
    | with_reducible apply Keeps.ite
    | simp only [Keeps.mk_eq]
    | with_reducible apply KeepsMk.fields
    | with_reducible apply KeepsMk.memFields
    | with_reducible apply KeepsMk.msixFields
    | with_reducible apply KeepsMk.logFields
    | with_reducible apply KeepsMk.files
    | exact rfl
    | dsimp only
    | split
    | dsimp only [CreateOut.stateOr])

theorem execTenCreate_keeps : ∀ r s, NextKeeps s (execTenCreate r s) := by
  intro r s
  unfold execTenCreate
  repeat' (first
    | with_reducible apply NextKeeps.next
    | with_reducible apply NextKeeps.ite
    | with_reducible exact Keeps.refl _
    | with_reducible assumption
    | dsimp only [Work.state_done, Work.state_runs]
    | with_reducible apply sparseSet_wf
    | with_reducible apply sparseClear_wf
    | with_reducible apply sparseFilter_wf
    | with_reducible apply putRegs_wf
    | with_reducible apply applyKeys_wf
    | with_reducible apply State.command_keeps
    | with_reducible apply State.create_keeps
    | with_reducible refine Keeps.of_created (by assumption) ?_
    | with_reducible refine Keeps.of_waits (by assumption) ?_
    | with_reducible apply Keeps.foldl
    | with_reducible apply Keeps.foldl_fst
    | with_reducible refine Keeps.of_eq (by assumption) (Keeps.foldl_fst ?_ ?_)
    | intro _ _
    | intro _
    | with_reducible apply Keeps.ite
    | simp only [Keeps.mk_eq]
    | with_reducible apply KeepsMk.fields
    | with_reducible apply KeepsMk.memFields
    | with_reducible apply KeepsMk.msixFields
    | with_reducible apply KeepsMk.logFields
    | with_reducible apply KeepsMk.files
    | exact rfl
    | dsimp only
    | split)

theorem State.retryCreate_keeps' : ∀ {a0 s x}, Keeps a0 s → OptKeeps Prod.fst a0 (State.retryCreate s x) := by
  intro a0 s x hk0
  unfold State.retryCreate
  repeat' (first
    | with_reducible exact Keeps.refl _
    | with_reducible assumption
    | with_reducible exact OptKeeps.none
    | with_reducible apply OptKeeps.some
    | with_reducible apply OptKeeps.ite
    | dsimp only [id]
    | with_reducible apply sparseSet_wf
    | with_reducible apply sparseClear_wf
    | with_reducible apply sparseFilter_wf
    | with_reducible apply putRegs_wf
    | with_reducible apply applyKeys_wf
    | with_reducible apply State.settleTenant_keeps
    | with_reducible apply State.undoTenant_keeps
    | with_reducible apply Keeps.foldl
    | with_reducible apply Keeps.foldl_fst
    | with_reducible refine Keeps.of_eq (by assumption) (Keeps.foldl_fst ?_ ?_)
    | intro _ _
    | intro _
    | with_reducible apply Keeps.ite
    | simp only [Keeps.mk_eq]
    | with_reducible apply KeepsMk.fields
    | with_reducible apply KeepsMk.memFields
    | with_reducible apply KeepsMk.msixFields
    | with_reducible apply KeepsMk.logFields
    | with_reducible apply KeepsMk.files
    | exact rfl
    | dsimp only
    | split)

theorem State.retryCreate_keeps {a0 s x u} (hu : (State.retryCreate s x) = some u) (hk0 : Keeps a0 s) : Keeps a0 u.1 := (State.retryCreate_keeps' hk0).holds u hu

theorem State.dropTasks_keeps : ∀ {a0 s t}, Keeps a0 s → Keeps a0 (State.dropTasks s t) := by
  intro a0 s t hk0
  unfold State.dropTasks
  repeat' (first
    | with_reducible exact Keeps.refl _
    | with_reducible assumption
    | with_reducible apply sparseSet_wf
    | with_reducible apply sparseClear_wf
    | with_reducible apply sparseFilter_wf
    | with_reducible apply putRegs_wf
    | with_reducible apply applyKeys_wf
    | with_reducible apply State.stopTask_keeps
    | with_reducible apply Keeps.foldl
    | with_reducible apply Keeps.foldl_fst
    | with_reducible refine Keeps.of_eq (by assumption) (Keeps.foldl_fst ?_ ?_)
    | intro _ _
    | intro _
    | with_reducible apply Keeps.ite
    | simp only [Keeps.mk_eq]
    | with_reducible apply KeepsMk.fields)

theorem State.beginReset_keeps : ∀ {a0 s t phase}, Keeps a0 s → Keeps a0 (State.beginReset s t phase) := by
  intro a0 s t phase hk0
  unfold State.beginReset
  repeat' (first
    | with_reducible exact Keeps.refl _
    | with_reducible assumption
    | with_reducible apply sparseSet_wf
    | with_reducible apply sparseClear_wf
    | with_reducible apply sparseFilter_wf
    | with_reducible apply putRegs_wf
    | with_reducible apply applyKeys_wf
    | with_reducible apply State.dropTasks_keeps
    | with_reducible apply State.updTenant_keeps
    | with_reducible apply Keeps.foldl
    | with_reducible apply Keeps.foldl_fst
    | with_reducible refine Keeps.of_eq (by assumption) (Keeps.foldl_fst ?_ ?_)
    | intro _ _
    | intro _
    | with_reducible apply Keeps.ite
    | simp only [Keeps.mk_eq]
    | with_reducible apply KeepsMk.fields
    | with_reducible apply KeepsMk.memFields
    | with_reducible apply KeepsMk.msixFields
    | with_reducible apply KeepsMk.logFields
    | with_reducible apply KeepsMk.files
    | exact rfl
    | dsimp only
    | split)

theorem State.endReset_keeps : ∀ {a0 s t phase}, Keeps a0 s → Keeps a0 (State.endReset s t phase) := by
  intro a0 s t phase hk0
  unfold State.endReset
  repeat' (first
    | with_reducible exact Keeps.refl _
    | with_reducible assumption
    | with_reducible apply sparseSet_wf
    | with_reducible apply sparseClear_wf
    | with_reducible apply sparseFilter_wf
    | with_reducible apply putRegs_wf
    | with_reducible apply applyKeys_wf
    | with_reducible apply State.clearStakes_keeps
    | with_reducible apply State.dropTasks_keeps
    | with_reducible apply State.updTenant_keeps
    | with_reducible apply State.errQps_keeps
    | with_reducible apply State.vsetF_keeps
    | with_reducible apply State.vsetN_keeps
    | with_reducible apply Keeps.foldl
    | with_reducible apply Keeps.foldl_fst
    | with_reducible refine Keeps.of_eq (by assumption) (Keeps.foldl_fst ?_ ?_)
    | intro _ _
    | intro _
    | with_reducible apply Keeps.ite
    | simp only [Keeps.mk_eq]
    | with_reducible apply KeepsMk.fields
    | with_reducible apply KeepsMk.memFields
    | with_reducible apply KeepsMk.msixFields
    | with_reducible apply KeepsMk.logFields
    | with_reducible apply KeepsMk.files)

theorem execTenReset_keeps : ∀ r s, NextKeeps s (execTenReset r s) := by
  intro r s
  unfold execTenReset
  repeat' (first
    | with_reducible apply NextKeeps.next
    | with_reducible apply NextKeeps.ite
    | with_reducible exact Keeps.refl _
    | with_reducible assumption
    | dsimp only [Work.state_done, Work.state_runs]
    | with_reducible apply sparseSet_wf
    | with_reducible apply sparseClear_wf
    | with_reducible apply sparseFilter_wf
    | with_reducible apply putRegs_wf
    | with_reducible apply applyKeys_wf
    | with_reducible apply State.beginReset_keeps
    | with_reducible apply State.command_keeps
    | with_reducible apply Keeps.foldl
    | with_reducible apply Keeps.foldl_fst
    | with_reducible refine Keeps.of_eq (by assumption) (Keeps.foldl_fst ?_ ?_)
    | intro _ _
    | intro _
    | with_reducible apply Keeps.ite
    | simp only [Keeps.mk_eq]
    | with_reducible apply KeepsMk.fields
    | with_reducible apply KeepsMk.memFields
    | with_reducible apply KeepsMk.msixFields
    | with_reducible apply KeepsMk.logFields
    | with_reducible apply KeepsMk.files
    | exact rfl
    | dsimp only
    | split)

theorem execTenResetComplete_keeps : ∀ t s, NextKeeps s (execTenResetComplete t s) := by
  intro t s
  unfold execTenResetComplete
  repeat' (first
    | with_reducible apply NextKeeps.next
    | with_reducible apply NextKeeps.ite
    | with_reducible exact Keeps.refl _
    | with_reducible assumption
    | with_reducible apply sparseSet_wf
    | with_reducible apply sparseClear_wf
    | with_reducible apply sparseFilter_wf
    | with_reducible apply putRegs_wf
    | with_reducible apply applyKeys_wf
    | with_reducible apply State.endReset_keeps
    | with_reducible apply Keeps.foldl
    | with_reducible apply Keeps.foldl_fst
    | with_reducible refine Keeps.of_eq (by assumption) (Keeps.foldl_fst ?_ ?_)
    | intro _ _
    | intro _
    | with_reducible apply Keeps.ite
    | simp only [Keeps.mk_eq]
    | with_reducible apply KeepsMk.fields
    | with_reducible apply KeepsMk.memFields
    | with_reducible apply KeepsMk.msixFields
    | with_reducible apply KeepsMk.logFields
    | with_reducible apply KeepsMk.files
    | exact rfl
    | dsimp only
    | split)

theorem execTenDestroy_keeps : ∀ r s, NextKeeps s (execTenDestroy r s) := by
  intro r s
  unfold execTenDestroy
  repeat' (first
    | with_reducible apply NextKeeps.next
    | with_reducible apply NextKeeps.ite
    | with_reducible exact Keeps.refl _
    | with_reducible assumption
    | dsimp only [Work.state_done, Work.state_runs]
    | with_reducible apply sparseSet_wf
    | with_reducible apply sparseClear_wf
    | with_reducible apply sparseFilter_wf
    | with_reducible apply putRegs_wf
    | with_reducible apply applyKeys_wf
    | with_reducible apply State.beginReset_keeps
    | with_reducible apply State.command_keeps
    | with_reducible apply Keeps.foldl
    | with_reducible apply Keeps.foldl_fst
    | with_reducible refine Keeps.of_eq (by assumption) (Keeps.foldl_fst ?_ ?_)
    | intro _ _
    | intro _
    | with_reducible apply Keeps.ite
    | simp only [Keeps.mk_eq]
    | with_reducible apply KeepsMk.fields
    | with_reducible apply KeepsMk.memFields
    | with_reducible apply KeepsMk.msixFields
    | with_reducible apply KeepsMk.logFields
    | with_reducible apply KeepsMk.files
    | exact rfl
    | dsimp only
    | split)

theorem State.destroyTenant_keeps : ∀ {a0 s t}, Keeps a0 s → Keeps a0 (State.destroyTenant s t) := by
  intro a0 s t hk0
  unfold State.destroyTenant
  repeat' (first
    | with_reducible exact Keeps.refl _
    | with_reducible assumption
    | with_reducible apply sparseSet_wf
    | with_reducible apply sparseClear_wf
    | with_reducible apply sparseFilter_wf
    | with_reducible apply putRegs_wf
    | with_reducible apply applyKeys_wf
    | with_reducible apply State.dropGrant_keeps
    | with_reducible apply State.freeRota_keeps
    | with_reducible apply State.freeHbm_keeps
    | with_reducible apply State.freeOry_keeps
    | with_reducible apply Keeps.foldl
    | with_reducible apply Keeps.foldl_fst
    | with_reducible refine Keeps.of_eq (by assumption) (Keeps.foldl_fst ?_ ?_)
    | intro _ _
    | intro _
    | with_reducible apply Keeps.ite
    | simp only [Keeps.mk_eq]
    | with_reducible apply KeepsMk.fields
    | with_reducible apply KeepsMk.memFields
    | with_reducible apply KeepsMk.msixFields
    | with_reducible apply KeepsMk.logFields
    | with_reducible apply KeepsMk.files
    | exact rfl
    | dsimp only
    | split)

theorem execFunctionLevelReset_keeps : ∀ f s, NextKeeps s (execFunctionLevelReset f s) := by
  intro f s
  unfold execFunctionLevelReset
  repeat' (first
    | with_reducible apply NextKeeps.next
    | with_reducible apply NextKeeps.ite
    | with_reducible exact Keeps.refl _
    | with_reducible assumption
    | with_reducible apply sparseSet_wf
    | with_reducible apply sparseClear_wf
    | with_reducible apply sparseFilter_wf
    | with_reducible apply putRegs_wf
    | with_reducible apply applyKeys_wf
    | with_reducible apply State.beginReset_keeps
    | with_reducible apply State.pcieReset_keeps
    | exact fun w => sparseClear_wf w
    | with_reducible apply Keeps.foldl
    | with_reducible apply Keeps.foldl_fst
    | with_reducible refine Keeps.of_eq (by assumption) (Keeps.foldl_fst ?_ ?_)
    | intro _ _
    | intro _
    | with_reducible apply Keeps.ite
    | simp only [Keeps.mk_eq]
    | with_reducible apply KeepsMk.fields
    | with_reducible apply KeepsMk.memFields
    | with_reducible apply KeepsMk.msixFields
    | with_reducible apply KeepsMk.logFields
    | with_reducible apply KeepsMk.files)

/-! ### Machine/Admission.lean -/

theorem State.noteLayout_keeps : ∀ {a0 s t f}, Keeps a0 s → Keeps a0 (State.noteLayout s t f) := by
  intro a0 s t f hk0
  unfold State.noteLayout
  repeat' (first
    | with_reducible exact Keeps.refl _
    | with_reducible assumption
    | with_reducible apply sparseSet_wf
    | with_reducible apply sparseClear_wf
    | with_reducible apply sparseFilter_wf
    | with_reducible apply putRegs_wf
    | with_reducible apply applyKeys_wf
    | with_reducible apply State.vsetF_keeps
    | with_reducible apply Keeps.foldl
    | with_reducible apply Keeps.foldl_fst
    | with_reducible refine Keeps.of_eq (by assumption) (Keeps.foldl_fst ?_ ?_)
    | intro _ _
    | intro _
    | with_reducible apply Keeps.ite
    | simp only [Keeps.mk_eq]
    | with_reducible apply KeepsMk.fields
    | with_reducible apply KeepsMk.memFields
    | with_reducible apply KeepsMk.msixFields
    | with_reducible apply KeepsMk.logFields
    | with_reducible apply KeepsMk.files
    | exact rfl
    | dsimp only
    | split)

theorem State.placeImage_keeps : ∀ {a0 s r}, Keeps a0 s → Keeps a0 (State.placeImage s r) := by
  intro a0 s r hk0
  unfold State.placeImage
  repeat' (first
    | with_reducible exact Keeps.refl _
    | with_reducible assumption
    | with_reducible apply sparseSet_wf
    | with_reducible apply sparseClear_wf
    | with_reducible apply sparseFilter_wf
    | with_reducible apply putRegs_wf
    | with_reducible apply applyKeys_wf
    | with_reducible apply State.placeBytes_keeps
    | with_reducible apply Keeps.foldl
    | with_reducible apply Keeps.foldl_fst
    | with_reducible refine Keeps.of_eq (by assumption) (Keeps.foldl_fst ?_ ?_)
    | intro _ _
    | intro _
    | with_reducible apply Keeps.ite)

theorem State.admitRota_keeps : ∀ {a0 s x b bind st}, Keeps a0 s → Keeps a0 (State.admitRota s x b bind st).1 := by
  intro a0 s x b bind st hk0
  unfold State.admitRota
  repeat' (first
    | with_reducible exact Keeps.refl _
    | with_reducible assumption
    | with_reducible apply sparseSet_wf
    | with_reducible apply sparseClear_wf
    | with_reducible apply sparseFilter_wf
    | with_reducible apply putRegs_wf
    | with_reducible apply applyKeys_wf
    | with_reducible apply State.placeImage_keeps
    | with_reducible apply State.updTenant_keeps
    | with_reducible apply Keeps.foldl
    | with_reducible apply Keeps.foldl_fst
    | with_reducible refine Keeps.of_eq (by assumption) (Keeps.foldl_fst ?_ ?_)
    | intro _ _
    | intro _
    | with_reducible apply Keeps.ite
    | simp only [Keeps.mk_eq]
    | with_reducible apply KeepsMk.fields)

theorem execRotaAdmit_keeps : ∀ r s, NextKeeps s (execRotaAdmit r s) := by
  intro r s
  unfold execRotaAdmit
  repeat' (first
    | with_reducible apply NextKeeps.next
    | with_reducible apply NextKeeps.ite
    | with_reducible exact Keeps.refl _
    | with_reducible assumption
    | dsimp only [Work.state_done, Work.state_runs]
    | with_reducible apply sparseSet_wf
    | with_reducible apply sparseClear_wf
    | with_reducible apply sparseFilter_wf
    | with_reducible apply putRegs_wf
    | with_reducible apply applyKeys_wf
    | with_reducible apply State.noteLayout_keeps
    | with_reducible apply State.admitRota_keeps
    | with_reducible apply State.command_keeps
    | with_reducible refine Keeps.of_eq (by assumption) ?_
    | with_reducible apply Keeps.foldl
    | with_reducible apply Keeps.foldl_fst
    | with_reducible refine Keeps.of_eq (by assumption) (Keeps.foldl_fst ?_ ?_)
    | intro _ _
    | intro _
    | with_reducible apply Keeps.ite
    | simp only [Keeps.mk_eq]
    | with_reducible apply KeepsMk.fields
    | with_reducible apply KeepsMk.memFields
    | with_reducible apply KeepsMk.msixFields
    | with_reducible apply KeepsMk.logFields
    | with_reducible apply KeepsMk.files
    | exact rfl
    | dsimp only
    | split)

theorem execRotaRetire_keeps : ∀ r s, NextKeeps s (execRotaRetire r s) := by
  intro r s
  unfold execRotaRetire
  repeat' (first
    | with_reducible apply NextKeeps.next
    | with_reducible apply NextKeeps.ite
    | with_reducible exact Keeps.refl _
    | with_reducible assumption
    | dsimp only [Work.state_done, Work.state_runs]
    | with_reducible apply sparseSet_wf
    | with_reducible apply sparseClear_wf
    | with_reducible apply sparseFilter_wf
    | with_reducible apply putRegs_wf
    | with_reducible apply applyKeys_wf
    | with_reducible apply State.command_keeps
    | with_reducible apply State.updRota_keeps
    | with_reducible apply Keeps.foldl
    | with_reducible apply Keeps.foldl_fst
    | with_reducible refine Keeps.of_eq (by assumption) (Keeps.foldl_fst ?_ ?_)
    | intro _ _
    | intro _
    | with_reducible apply Keeps.ite
    | simp only [Keeps.mk_eq]
    | with_reducible apply KeepsMk.fields
    | with_reducible apply KeepsMk.memFields
    | with_reducible apply KeepsMk.msixFields
    | with_reducible apply KeepsMk.logFields
    | with_reducible apply KeepsMk.files
    | exact rfl
    | dsimp only
    | split)

/-! ### Machine/Access.lean -/

theorem State.read_keeps : ∀ {a0 s fn off}, Keeps a0 s → Keeps a0 (State.read s fn off).1 := by
  intro a0 s fn off hk0
  unfold State.read
  repeat' (first
    | with_reducible exact Keeps.refl _
    | with_reducible assumption
    | with_reducible apply sparseSet_wf
    | with_reducible apply sparseClear_wf
    | with_reducible apply sparseFilter_wf
    | with_reducible apply putRegs_wf
    | with_reducible apply applyKeys_wf
    | with_reducible apply State.latchWord_keeps
    | with_reducible apply State.unlatch_keeps
    | with_reducible apply State.setN_keeps
    | with_reducible apply Keeps.foldl
    | with_reducible apply Keeps.foldl_fst
    | with_reducible refine Keeps.of_eq (by assumption) (Keeps.foldl_fst ?_ ?_)
    | intro _ _
    | intro _
    | with_reducible apply Keeps.ite)

theorem State.answerRead_keeps : ∀ {a0 s fn off}, Keeps a0 s → Keeps a0 (State.answerRead s fn off) := by
  intro a0 s fn off hk0
  unfold State.answerRead
  repeat' (first
    | with_reducible exact Keeps.refl _
    | with_reducible assumption
    | with_reducible apply sparseSet_wf
    | with_reducible apply sparseClear_wf
    | with_reducible apply sparseFilter_wf
    | with_reducible apply putRegs_wf
    | with_reducible apply applyKeys_wf
    | with_reducible apply State.emit_keeps
    | with_reducible apply State.read_keeps
    | with_reducible refine Keeps.of_eq (by assumption) ?_
    | with_reducible apply Keeps.foldl
    | with_reducible apply Keeps.foldl_fst
    | with_reducible refine Keeps.of_eq (by assumption) (Keeps.foldl_fst ?_ ?_)
    | intro _ _
    | intro _
    | with_reducible apply Keeps.ite)

theorem execLodgePwrPeakRead_keeps : ∀ s, NextKeeps s (execLodgePwrPeakRead s) := by
  intro s
  unfold execLodgePwrPeakRead
  repeat' (first
    | with_reducible apply NextKeeps.next
    | with_reducible apply NextKeeps.ite
    | with_reducible exact Keeps.refl _
    | with_reducible assumption
    | with_reducible apply sparseSet_wf
    | with_reducible apply sparseClear_wf
    | with_reducible apply sparseFilter_wf
    | with_reducible apply putRegs_wf
    | with_reducible apply applyKeys_wf
    | with_reducible apply State.answerRead_keeps)

theorem execPairLowRead_keeps : ∀ fn off s, NextKeeps s (execPairLowRead fn off s) := by
  intro fn off s
  unfold execPairLowRead
  repeat' (first
    | with_reducible apply NextKeeps.next
    | with_reducible apply NextKeeps.ite
    | with_reducible exact Keeps.refl _
    | with_reducible assumption
    | with_reducible apply sparseSet_wf
    | with_reducible apply sparseClear_wf
    | with_reducible apply sparseFilter_wf
    | with_reducible apply putRegs_wf
    | with_reducible apply applyKeys_wf
    | with_reducible apply State.answerRead_keeps)

theorem execHoopHeadRead_keeps : ∀ t s, NextKeeps s (execHoopHeadRead t s) := by
  intro t s
  unfold execHoopHeadRead
  repeat' (first
    | with_reducible apply NextKeeps.next
    | with_reducible apply NextKeeps.ite
    | with_reducible exact Keeps.refl _
    | with_reducible assumption
    | with_reducible apply sparseSet_wf
    | with_reducible apply sparseClear_wf
    | with_reducible apply sparseFilter_wf
    | with_reducible apply putRegs_wf
    | with_reducible apply applyKeys_wf
    | with_reducible apply State.answerRead_keeps)

theorem execStakeFullRead_keeps : ∀ t s, NextKeeps s (execStakeFullRead t s) := by
  intro t s
  unfold execStakeFullRead
  repeat' (first
    | with_reducible apply NextKeeps.next
    | with_reducible apply NextKeeps.ite
    | with_reducible exact Keeps.refl _
    | with_reducible assumption
    | with_reducible apply sparseSet_wf
    | with_reducible apply sparseClear_wf
    | with_reducible apply sparseFilter_wf
    | with_reducible apply putRegs_wf
    | with_reducible apply applyKeys_wf
    | with_reducible apply State.answerRead_keeps)

theorem State.setShadow_keeps : ∀ {a0 s key mask v}, Keeps a0 s → Keeps a0 (State.setShadow s key mask v) := by
  intro a0 s key mask v hk0
  unfold State.setShadow
  repeat' (first
    | with_reducible exact Keeps.refl _
    | with_reducible assumption
    | with_reducible apply sparseSet_wf
    | with_reducible apply sparseClear_wf
    | with_reducible apply sparseFilter_wf
    | with_reducible apply putRegs_wf
    | with_reducible apply applyKeys_wf
    | with_reducible apply Keeps.foldl
    | with_reducible apply Keeps.foldl_fst
    | with_reducible refine Keeps.of_eq (by assumption) (Keeps.foldl_fst ?_ ?_)
    | intro _ _
    | intro _
    | with_reducible apply Keeps.ite
    | simp only [Keeps.mk_eq]
    | with_reducible apply KeepsMk.fields
    | with_reducible apply KeepsMk.memFields
    | with_reducible apply KeepsMk.msixFields
    | with_reducible apply KeepsMk.logFields
    | with_reducible apply KeepsMk.files)

theorem State.writeShadow_keeps : ∀ {a0 s off mask v}, Keeps a0 s → Keeps a0 (State.writeShadow s off mask v) := by
  intro a0 s off mask v hk0
  unfold State.writeShadow
  repeat' (first
    | with_reducible exact Keeps.refl _
    | with_reducible assumption
    | with_reducible apply sparseSet_wf
    | with_reducible apply sparseClear_wf
    | with_reducible apply sparseFilter_wf
    | with_reducible apply putRegs_wf
    | with_reducible apply applyKeys_wf
    | with_reducible apply State.setShadow_keeps
    | with_reducible apply Keeps.foldl
    | with_reducible apply Keeps.foldl_fst
    | with_reducible refine Keeps.of_eq (by assumption) (Keeps.foldl_fst ?_ ?_)
    | intro _ _
    | intro _
    | with_reducible apply Keeps.ite
    | simp only [Keeps.mk_eq]
    | with_reducible apply KeepsMk.fields
    | with_reducible apply KeepsMk.memFields
    | with_reducible apply KeepsMk.msixFields
    | with_reducible apply KeepsMk.logFields
    | with_reducible apply KeepsMk.files
    | exact rfl
    | dsimp only
    | split)

theorem State.writePf0_keeps : ∀ {a0 s off v}, Keeps a0 s → Keeps a0 (State.writePf0 s off v) := by
  intro a0 s off v hk0
  unfold State.writePf0
  repeat' (first
    | with_reducible exact Keeps.refl _
    | with_reducible assumption
    | with_reducible apply sparseSet_wf
    | with_reducible apply sparseClear_wf
    | with_reducible apply sparseFilter_wf
    | with_reducible apply putRegs_wf
    | with_reducible apply applyKeys_wf
    | with_reducible apply State.writeShadow_keeps
    | with_reducible apply State.unlatch_keeps
    | with_reducible apply State.set_keeps
    | with_reducible apply Keeps.foldl
    | with_reducible apply Keeps.foldl_fst
    | with_reducible refine Keeps.of_eq (by assumption) (Keeps.foldl_fst ?_ ?_)
    | intro _ _
    | intro _
    | with_reducible apply Keeps.ite
    | dsimp only
    | with_reducible apply KeepsMk.fields
    | with_reducible apply KeepsMk.memFields
    | with_reducible apply KeepsMk.msixFields
    | with_reducible apply KeepsMk.logFields
    | with_reducible apply KeepsMk.files
    | exact rfl
    | dsimp only
    | split)

theorem State.writeVf_keeps : ∀ {a0 s t off v}, Keeps a0 s → Keeps a0 (State.writeVf s t off v) := by
  intro a0 s t off v hk0
  unfold State.writeVf
  repeat' (first
    | with_reducible exact Keeps.refl _
    | with_reducible assumption
    | with_reducible apply sparseSet_wf
    | with_reducible apply sparseClear_wf
    | with_reducible apply sparseFilter_wf
    | with_reducible apply putRegs_wf
    | with_reducible apply applyKeys_wf
    | with_reducible apply State.updQueue_keeps
    | with_reducible apply State.unlatch_keeps
    | with_reducible apply State.vset_keeps
    | with_reducible apply Keeps.foldl
    | with_reducible apply Keeps.foldl_fst
    | with_reducible refine Keeps.of_eq (by assumption) (Keeps.foldl_fst ?_ ?_)
    | intro _ _
    | intro _
    | with_reducible apply Keeps.ite
    | dsimp only
    | with_reducible apply KeepsMk.fields
    | with_reducible apply KeepsMk.memFields
    | with_reducible apply KeepsMk.msixFields
    | with_reducible apply KeepsMk.logFields
    | with_reducible apply KeepsMk.files
    | exact rfl
    | dsimp only
    | split)

theorem State.writeMsix_keeps : ∀ {a0 s f o v}, Keeps a0 s → Keeps a0 (State.writeMsix s f o v) := by
  intro a0 s f o v hk0
  unfold State.writeMsix
  repeat' (first
    | with_reducible exact Keeps.refl _
    | with_reducible assumption
    | with_reducible apply sparseSet_wf
    | with_reducible apply sparseClear_wf
    | with_reducible apply sparseFilter_wf
    | with_reducible apply putRegs_wf
    | with_reducible apply applyKeys_wf
    | with_reducible apply State.msixRelease_keeps
    | with_reducible apply Keeps.foldl
    | with_reducible apply Keeps.foldl_fst
    | with_reducible refine Keeps.of_eq (by assumption) (Keeps.foldl_fst ?_ ?_)
    | intro _ _
    | intro _
    | with_reducible apply Keeps.ite
    | simp only [Keeps.mk_eq]
    | with_reducible apply KeepsMk.fields
    | with_reducible apply KeepsMk.memFields
    | with_reducible apply KeepsMk.msixFields
    | with_reducible apply KeepsMk.logFields
    | with_reducible apply KeepsMk.files)

theorem State.writeWord_keeps : ∀ {a0 s fn off v}, Keeps a0 s → Keeps a0 (State.writeWord s fn off v) := by
  intro a0 s fn off v hk0
  unfold State.writeWord
  repeat' (first
    | with_reducible exact Keeps.refl _
    | with_reducible assumption
    | with_reducible apply sparseSet_wf
    | with_reducible apply sparseClear_wf
    | with_reducible apply sparseFilter_wf
    | with_reducible apply putRegs_wf
    | with_reducible apply applyKeys_wf
    | with_reducible apply State.writeMsix_keeps
    | with_reducible apply State.writePf0_keeps
    | with_reducible apply State.writeVf_keeps
    | with_reducible apply Keeps.foldl
    | with_reducible apply Keeps.foldl_fst
    | with_reducible refine Keeps.of_eq (by assumption) (Keeps.foldl_fst ?_ ?_)
    | intro _ _
    | intro _
    | with_reducible apply Keeps.ite)

theorem execRegisterWrite_keeps : ∀ fn addr data poisoned s, NextKeeps s (execRegisterWrite fn addr data poisoned s) := by
  intro fn addr data poisoned s
  unfold execRegisterWrite
  repeat' (first
    | with_reducible apply NextKeeps.next
    | with_reducible apply NextKeeps.ite
    | with_reducible exact Keeps.refl _
    | with_reducible assumption
    | with_reducible apply sparseSet_wf
    | with_reducible apply sparseClear_wf
    | with_reducible apply sparseFilter_wf
    | with_reducible apply putRegs_wf
    | with_reducible apply applyKeys_wf
    | with_reducible apply State.writeWord_keeps
    | with_reducible apply Keeps.foldl
    | with_reducible apply Keeps.foldl_fst
    | with_reducible refine Keeps.of_eq (by assumption) (Keeps.foldl_fst ?_ ?_)
    | intro _ _
    | intro _)

theorem execLodgeLogReadSeq_keeps : ∀ value s, NextKeeps s (execLodgeLogReadSeq value s) := by
  intro value s
  unfold execLodgeLogReadSeq
  repeat' (first
    | with_reducible apply NextKeeps.next
    | with_reducible apply NextKeeps.ite
    | with_reducible exact Keeps.refl _
    | with_reducible assumption
    | with_reducible apply sparseSet_wf
    | with_reducible apply sparseClear_wf
    | with_reducible apply sparseFilter_wf
    | with_reducible apply putRegs_wf
    | with_reducible apply applyKeys_wf
    | with_reducible apply State.set_keeps)

/-! ### Machine/Flash.lean -/

theorem State.showJournal_keeps : ∀ {a0 s}, Keeps a0 s → Keeps a0 (State.showJournal s) := by
  intro a0 s hk0
  unfold State.showJournal
  repeat' (first
    | with_reducible exact Keeps.refl _
    | with_reducible assumption
    | with_reducible apply sparseSet_wf
    | with_reducible apply sparseClear_wf
    | with_reducible apply sparseFilter_wf
    | with_reducible apply putRegs_wf
    | with_reducible apply applyKeys_wf
    | with_reducible apply State.setF_keeps
    | with_reducible apply State.setN_keeps)

theorem Flash.writeRec_wf {f : Flash} (half place jseq : Nat) (r : JRec) (h : f.wf = true) : (f.writeRec half place jseq r).wf = true :=
  Flash.program_wf _ _ h

theorem Flash.foldl_wf {β : Type} {g : Flash → β → Flash} (hg : ∀ f b, f.wf = true → (g f b).wf = true) :
    ∀ (l : List β) (f : Flash), f.wf = true → (l.foldl g f).wf = true
  | [], _, h => h
  | b :: l, f, h => Flash.foldl_wf hg l (g f b) (hg f b h)

theorem Flash.append_wf {f : Flash} (type slot seq : Nat) (trial : Bool) (h : f.wf = true) : (f.append type slot seq trial).wf = true := by
  unfold Flash.append
  extract_lets next r half keep
  clear_value next r half keep
  split
  · apply Flash.writeRec_wf
    exact h
  · apply Flash.foldl_wf
    · intro f e hf
      apply Flash.writeRec_wf
      exact hf
    · apply Flash.erase_wf
      exact h

theorem State.journalAdd_keeps {a0 s : State} {type slot seq : Nat} {trial : Bool} (hk : Keeps a0 s) :
    Keeps a0 (s.journalAdd type slot seq trial) :=
  State.showJournal_keeps (hk.flash (Flash.append_wf _ _ _ _))

/-! ### Machine/Images.lean -/

theorem State.showSlots_keeps : ∀ {a0 s}, Keeps a0 s → Keeps a0 (State.showSlots s) := by
  intro a0 s hk0
  unfold State.showSlots
  repeat' (first
    | with_reducible exact Keeps.refl _
    | with_reducible assumption
    | with_reducible apply sparseSet_wf
    | with_reducible apply sparseClear_wf
    | with_reducible apply sparseFilter_wf
    | with_reducible apply putRegs_wf
    | with_reducible apply applyKeys_wf
    | with_reducible apply State.setN_keeps)

theorem State.withFlash_keeps {a0 s : State} {f : Flash} (h : s.flash.wf = true → f.wf = true) (hk : Keeps a0 s) : Keeps a0 (s.withFlash f) :=
  State.showSlots_keeps (hk.flash h)

theorem State.startImage_keeps : ∀ {a0 s k b}, Keeps a0 s → Keeps a0 (State.startImage s k b) := by
  intro a0 s k b hk0
  unfold State.startImage
  repeat' (first
    | with_reducible exact Keeps.refl _
    | with_reducible assumption
    | with_reducible apply sparseSet_wf
    | with_reducible apply sparseClear_wf
    | with_reducible apply sparseFilter_wf
    | with_reducible apply putRegs_wf
    | with_reducible apply applyKeys_wf
    | with_reducible apply State.journalAdd_keeps
    | with_reducible apply State.withFlash_keeps
    | with_reducible apply Flash.erase_wf)

theorem State.endImage_keeps : ∀ {a0 s k b noActivate back}, Keeps a0 s → Keeps a0 (State.endImage s k b noActivate back).1 := by
  intro a0 s k b noActivate back hk0
  unfold State.endImage
  repeat' (first
    | with_reducible exact Keeps.refl _
    | with_reducible assumption
    | with_reducible apply sparseSet_wf
    | with_reducible apply sparseClear_wf
    | with_reducible apply sparseFilter_wf
    | with_reducible apply putRegs_wf
    | with_reducible apply applyKeys_wf
    | with_reducible apply State.journalAdd_keeps
    | with_reducible apply State.withFlash_keeps
    | with_reducible apply Flash.erase_wf
    | with_reducible apply Flash.program_wf
    | with_reducible apply Keeps.foldl
    | with_reducible apply Keeps.foldl_fst
    | with_reducible refine Keeps.of_eq (by assumption) (Keeps.foldl_fst ?_ ?_)
    | intro _ _
    | intro _
    | with_reducible apply Keeps.ite
    | dsimp only
    | with_reducible apply KeepsMk.fields
    | with_reducible apply KeepsMk.memFields
    | with_reducible apply KeepsMk.msixFields
    | with_reducible apply KeepsMk.logFields
    | with_reducible apply KeepsMk.files
    | exact rfl
    | dsimp only
    | split)

theorem execImgWrite_keeps : ∀ r s, NextKeeps s (execImgWrite r s) := by
  intro r s
  unfold execImgWrite
  repeat' (first
    | with_reducible apply NextKeeps.next
    | with_reducible apply NextKeeps.ite
    | with_reducible exact Keeps.refl _
    | with_reducible assumption
    | dsimp only [Work.state_done, Work.state_runs]
    | with_reducible apply sparseSet_wf
    | with_reducible apply sparseClear_wf
    | with_reducible apply sparseFilter_wf
    | with_reducible apply putRegs_wf
    | with_reducible apply applyKeys_wf
    | with_reducible apply State.startImage_keeps
    | with_reducible apply State.command_keeps
    | with_reducible apply Keeps.foldl
    | with_reducible apply Keeps.foldl_fst
    | with_reducible refine Keeps.of_eq (by assumption) (Keeps.foldl_fst ?_ ?_)
    | intro _ _
    | intro _
    | with_reducible apply Keeps.ite
    | simp only [Keeps.mk_eq]
    | with_reducible apply KeepsMk.fields
    | with_reducible apply KeepsMk.memFields
    | with_reducible apply KeepsMk.msixFields
    | with_reducible apply KeepsMk.logFields
    | with_reducible apply KeepsMk.files
    | exact rfl
    | dsimp only
    | split)

theorem State.activate_keeps : ∀ {a0 s k trial}, Keeps a0 s → Keeps a0 (State.activate s k trial).1 := by
  intro a0 s k trial hk0
  unfold State.activate
  repeat' (first
    | with_reducible exact Keeps.refl _
    | with_reducible assumption
    | with_reducible apply sparseSet_wf
    | with_reducible apply sparseClear_wf
    | with_reducible apply sparseFilter_wf
    | with_reducible apply putRegs_wf
    | with_reducible apply applyKeys_wf
    | with_reducible apply State.journalAdd_keeps
    | with_reducible apply Keeps.foldl
    | with_reducible apply Keeps.foldl_fst
    | with_reducible refine Keeps.of_eq (by assumption) (Keeps.foldl_fst ?_ ?_)
    | intro _ _
    | intro _
    | with_reducible apply Keeps.ite
    | dsimp only
    | with_reducible apply KeepsMk.fields
    | with_reducible apply KeepsMk.memFields
    | with_reducible apply KeepsMk.msixFields
    | with_reducible apply KeepsMk.logFields
    | with_reducible apply KeepsMk.files
    | exact rfl
    | dsimp only
    | split)

theorem execImgActivate_keeps : ∀ r s, NextKeeps s (execImgActivate r s) := by
  intro r s
  unfold execImgActivate
  repeat' (first
    | with_reducible apply NextKeeps.next
    | with_reducible apply NextKeeps.ite
    | with_reducible exact Keeps.refl _
    | with_reducible assumption
    | dsimp only [Work.state_done, Work.state_runs]
    | with_reducible apply sparseSet_wf
    | with_reducible apply sparseClear_wf
    | with_reducible apply sparseFilter_wf
    | with_reducible apply putRegs_wf
    | with_reducible apply applyKeys_wf
    | with_reducible apply State.activate_keeps
    | with_reducible apply State.command_keeps
    | with_reducible refine Keeps.of_eq (by assumption) ?_
    | with_reducible apply Keeps.foldl
    | with_reducible apply Keeps.foldl_fst
    | with_reducible refine Keeps.of_eq (by assumption) (Keeps.foldl_fst ?_ ?_)
    | intro _ _
    | intro _
    | with_reducible apply Keeps.ite
    | simp only [Keeps.mk_eq]
    | with_reducible apply KeepsMk.fields
    | with_reducible apply KeepsMk.memFields
    | with_reducible apply KeepsMk.msixFields
    | with_reducible apply KeepsMk.logFields
    | with_reducible apply KeepsMk.files
    | exact rfl
    | dsimp only
    | split)

theorem execImgConfirm_keeps : ∀ r s, NextKeeps s (execImgConfirm r s) := by
  intro r s
  unfold execImgConfirm
  repeat' (first
    | with_reducible apply NextKeeps.next
    | with_reducible apply NextKeeps.ite
    | with_reducible exact Keeps.refl _
    | with_reducible assumption
    | dsimp only [Work.state_done, Work.state_runs]
    | with_reducible apply sparseSet_wf
    | with_reducible apply sparseClear_wf
    | with_reducible apply sparseFilter_wf
    | with_reducible apply putRegs_wf
    | with_reducible apply applyKeys_wf
    | with_reducible apply State.journalAdd_keeps
    | with_reducible apply State.command_keeps
    | with_reducible apply Keeps.foldl
    | with_reducible apply Keeps.foldl_fst
    | with_reducible refine Keeps.of_eq (by assumption) (Keeps.foldl_fst ?_ ?_)
    | intro _ _
    | intro _
    | with_reducible apply Keeps.ite
    | simp only [Keeps.mk_eq]
    | with_reducible apply KeepsMk.fields
    | with_reducible apply KeepsMk.memFields
    | with_reducible apply KeepsMk.msixFields
    | with_reducible apply KeepsMk.logFields
    | with_reducible apply KeepsMk.files
    | exact rfl
    | dsimp only
    | split)

theorem execImgCalWrite_keeps (r : MbxReq) (s : State) : NextKeeps s (execImgCalWrite r s) := by
  unfold execImgCalWrite
  refine NextKeeps.next (State.command_keeps (fun s r hk => ?_) (Keeps.refl s))
  dsimp only
  split
  · exact hk
  · split
    · exact hk
    · exact hk.flash (Flash.erase_wf _ _)

theorem State.endCal_keeps {a0 s : State} {k : Nat} {b : Bytes} {back : Option Bytes} (hk : Keeps a0 s) : Keeps a0 (s.endCal k b back).1 := by
  unfold State.endCal
  extract_lets got u
  have hu : Keeps a0 u := hk.flash (Flash.program_wf _ _)
  split
  · exact hu
  · exact State.journalAdd_keeps hu

theorem execLongCommandComplete_keeps : ∀ back s, NextKeeps s (execLongCommandComplete back s) := by
  intro back s
  unfold execLongCommandComplete
  repeat' (first
    | with_reducible apply NextKeeps.next
    | with_reducible apply NextKeeps.ite
    | with_reducible exact Keeps.refl _
    | with_reducible assumption
    | with_reducible apply sparseSet_wf
    | with_reducible apply sparseClear_wf
    | with_reducible apply sparseFilter_wf
    | with_reducible apply putRegs_wf
    | with_reducible apply applyKeys_wf
    | with_reducible apply State.destroyTenant_keeps
    | with_reducible apply State.endImage_keeps
    | with_reducible apply State.endLong_keeps
    | with_reducible apply State.endCal_keeps
    | with_reducible refine Keeps.of_eq (by assumption) ?_
    | with_reducible apply Keeps.foldl
    | with_reducible apply Keeps.foldl_fst
    | with_reducible refine Keeps.of_eq (by assumption) (Keeps.foldl_fst ?_ ?_)
    | intro _ _
    | intro _
    | with_reducible apply Keeps.ite
    | dsimp only
    | with_reducible apply KeepsMk.fields
    | with_reducible apply KeepsMk.memFields
    | with_reducible apply KeepsMk.msixFields
    | with_reducible apply KeepsMk.logFields
    | with_reducible apply KeepsMk.files
    | exact rfl
    | dsimp only
    | split)

/-! ### Machine/Mctp.lean -/

theorem State.answerControl_keeps : ∀ {a0 s c inst cmd code data}, Keeps a0 s → Keeps a0 (State.answerControl s c inst cmd code data) := by
  intro a0 s c inst cmd code data hk0
  unfold State.answerControl
  repeat' (first
    | with_reducible exact Keeps.refl _
    | with_reducible assumption
    | with_reducible apply sparseSet_wf
    | with_reducible apply sparseClear_wf
    | with_reducible apply sparseFilter_wf
    | with_reducible apply putRegs_wf
    | with_reducible apply applyKeys_wf
    | with_reducible apply State.emit_keeps)

theorem State.answerPldm_keeps : ∀ {a0 s c inst type cmd code data}, Keeps a0 s → Keeps a0 (State.answerPldm s c inst type cmd code data) := by
  intro a0 s c inst type cmd code data hk0
  unfold State.answerPldm
  repeat' (first
    | with_reducible exact Keeps.refl _
    | with_reducible assumption
    | with_reducible apply sparseSet_wf
    | with_reducible apply sparseClear_wf
    | with_reducible apply sparseFilter_wf
    | with_reducible apply putRegs_wf
    | with_reducible apply applyKeys_wf
    | with_reducible apply State.emit_keeps)

theorem State.requestPldm_keeps : ∀ {a0 s c type cmd data}, Keeps a0 s → Keeps a0 (State.requestPldm s c type cmd data) := by
  intro a0 s c type cmd data hk0
  unfold State.requestPldm
  repeat' (first
    | with_reducible exact Keeps.refl _
    | with_reducible assumption
    | with_reducible apply sparseSet_wf
    | with_reducible apply sparseClear_wf
    | with_reducible apply sparseFilter_wf
    | with_reducible apply putRegs_wf
    | with_reducible apply applyKeys_wf
    | with_reducible apply State.emit_keeps
    | with_reducible apply State.free_keeps)

theorem State.setEid_keeps : ∀ {a0 s c inst op eid}, Keeps a0 s → Keeps a0 (State.setEid s c inst op eid) := by
  intro a0 s c inst op eid hk0
  unfold State.setEid
  repeat' (first
    | with_reducible exact Keeps.refl _
    | with_reducible assumption
    | with_reducible apply sparseSet_wf
    | with_reducible apply sparseClear_wf
    | with_reducible apply sparseFilter_wf
    | with_reducible apply putRegs_wf
    | with_reducible apply applyKeys_wf
    | with_reducible apply State.answerControl_keeps
    | with_reducible apply State.setN_keeps
    | with_reducible apply Keeps.foldl
    | with_reducible apply Keeps.foldl_fst
    | with_reducible refine Keeps.of_eq (by assumption) (Keeps.foldl_fst ?_ ?_)
    | intro _ _
    | intro _
    | with_reducible apply Keeps.ite)

theorem execMctpSetEndpointId_keeps : ∀ chan inst op eid s, NextKeeps s (execMctpSetEndpointId chan inst op eid s) := by
  intro chan inst op eid s
  unfold execMctpSetEndpointId
  repeat' (first
    | with_reducible apply NextKeeps.next
    | with_reducible apply NextKeeps.ite
    | with_reducible exact Keeps.refl _
    | with_reducible assumption
    | with_reducible apply sparseSet_wf
    | with_reducible apply sparseClear_wf
    | with_reducible apply sparseFilter_wf
    | with_reducible apply putRegs_wf
    | with_reducible apply applyKeys_wf
    | with_reducible apply State.setEid_keeps
    | with_reducible apply Keeps.foldl
    | with_reducible apply Keeps.foldl_fst
    | with_reducible refine Keeps.of_eq (by assumption) (Keeps.foldl_fst ?_ ?_)
    | intro _ _
    | intro _
    | with_reducible apply Keeps.ite)

theorem execMctpGetEndpointId_keeps : ∀ chan inst s, NextKeeps s (execMctpGetEndpointId chan inst s) := by
  intro chan inst s
  unfold execMctpGetEndpointId
  repeat' (first
    | with_reducible apply NextKeeps.next
    | with_reducible apply NextKeeps.ite
    | with_reducible exact Keeps.refl _
    | with_reducible assumption
    | with_reducible apply sparseSet_wf
    | with_reducible apply sparseClear_wf
    | with_reducible apply sparseFilter_wf
    | with_reducible apply putRegs_wf
    | with_reducible apply applyKeys_wf
    | with_reducible apply State.answerControl_keeps
    | with_reducible apply State.freeBytes_keeps
    | with_reducible refine Keeps.of_eq (by assumption) ?_
    | with_reducible apply Keeps.foldl
    | with_reducible apply Keeps.foldl_fst
    | with_reducible refine Keeps.of_eq (by assumption) (Keeps.foldl_fst ?_ ?_)
    | intro _ _
    | intro _)

theorem State.versionSupport_keeps : ∀ {a0 s c inst type}, Keeps a0 s → Keeps a0 (State.versionSupport s c inst type) := by
  intro a0 s c inst type hk0
  unfold State.versionSupport
  repeat' (first
    | with_reducible exact Keeps.refl _
    | with_reducible assumption
    | with_reducible apply sparseSet_wf
    | with_reducible apply sparseClear_wf
    | with_reducible apply sparseFilter_wf
    | with_reducible apply putRegs_wf
    | with_reducible apply applyKeys_wf
    | with_reducible apply State.answerControl_keeps
    | with_reducible apply State.freeBytes_keeps
    | with_reducible refine Keeps.of_eq (by assumption) ?_
    | with_reducible apply Keeps.foldl
    | with_reducible apply Keeps.foldl_fst
    | with_reducible refine Keeps.of_eq (by assumption) (Keeps.foldl_fst ?_ ?_)
    | intro _ _
    | intro _
    | with_reducible apply Keeps.ite)

theorem execMctpGetVersionSupport_keeps : ∀ chan inst type s, NextKeeps s (execMctpGetVersionSupport chan inst type s) := by
  intro chan inst type s
  unfold execMctpGetVersionSupport
  repeat' (first
    | with_reducible apply NextKeeps.next
    | with_reducible apply NextKeeps.ite
    | with_reducible exact Keeps.refl _
    | with_reducible assumption
    | with_reducible apply sparseSet_wf
    | with_reducible apply sparseClear_wf
    | with_reducible apply sparseFilter_wf
    | with_reducible apply putRegs_wf
    | with_reducible apply applyKeys_wf
    | with_reducible apply State.versionSupport_keeps
    | with_reducible apply Keeps.foldl
    | with_reducible apply Keeps.foldl_fst
    | with_reducible refine Keeps.of_eq (by assumption) (Keeps.foldl_fst ?_ ?_)
    | intro _ _
    | intro _
    | with_reducible apply Keeps.ite)

theorem execMctpGetMessageTypeSupport_keeps : ∀ chan inst s, NextKeeps s (execMctpGetMessageTypeSupport chan inst s) := by
  intro chan inst s
  unfold execMctpGetMessageTypeSupport
  repeat' (first
    | with_reducible apply NextKeeps.next
    | with_reducible apply NextKeeps.ite
    | with_reducible exact Keeps.refl _
    | with_reducible assumption
    | with_reducible apply sparseSet_wf
    | with_reducible apply sparseClear_wf
    | with_reducible apply sparseFilter_wf
    | with_reducible apply putRegs_wf
    | with_reducible apply applyKeys_wf
    | with_reducible apply State.answerControl_keeps
    | with_reducible apply Keeps.foldl
    | with_reducible apply Keeps.foldl_fst
    | with_reducible refine Keeps.of_eq (by assumption) (Keeps.foldl_fst ?_ ?_)
    | intro _ _
    | intro _
    | with_reducible apply Keeps.ite)

theorem State.vendorSupport_keeps : ∀ {a0 s c inst sel}, Keeps a0 s → Keeps a0 (State.vendorSupport s c inst sel) := by
  intro a0 s c inst sel hk0
  unfold State.vendorSupport
  repeat' (first
    | with_reducible exact Keeps.refl _
    | with_reducible assumption
    | with_reducible apply sparseSet_wf
    | with_reducible apply sparseClear_wf
    | with_reducible apply sparseFilter_wf
    | with_reducible apply putRegs_wf
    | with_reducible apply applyKeys_wf
    | with_reducible apply State.answerControl_keeps
    | with_reducible apply State.freeBytes_keeps
    | with_reducible refine Keeps.of_eq (by assumption) ?_
    | with_reducible apply Keeps.foldl
    | with_reducible apply Keeps.foldl_fst
    | with_reducible refine Keeps.of_eq (by assumption) (Keeps.foldl_fst ?_ ?_)
    | intro _ _
    | intro _
    | with_reducible apply Keeps.ite)

theorem execMctpGetVendorMessageSupport_keeps : ∀ chan inst sel s, NextKeeps s (execMctpGetVendorMessageSupport chan inst sel s) := by
  intro chan inst sel s
  unfold execMctpGetVendorMessageSupport
  repeat' (first
    | with_reducible apply NextKeeps.next
    | with_reducible apply NextKeeps.ite
    | with_reducible exact Keeps.refl _
    | with_reducible assumption
    | with_reducible apply sparseSet_wf
    | with_reducible apply sparseClear_wf
    | with_reducible apply sparseFilter_wf
    | with_reducible apply putRegs_wf
    | with_reducible apply applyKeys_wf
    | with_reducible apply State.vendorSupport_keeps
    | with_reducible apply Keeps.foldl
    | with_reducible apply Keeps.foldl_fst
    | with_reducible refine Keeps.of_eq (by assumption) (Keeps.foldl_fst ?_ ?_)
    | intro _ _
    | intro _
    | with_reducible apply Keeps.ite)

theorem State.pldmBase_keeps : ∀ {a0 s c inst cmd arg}, Keeps a0 s → Keeps a0 (State.pldmBase s c inst cmd arg) := by
  intro a0 s c inst cmd arg hk0
  unfold State.pldmBase
  repeat' (first
    | with_reducible exact Keeps.refl _
    | with_reducible assumption
    | with_reducible apply sparseSet_wf
    | with_reducible apply sparseClear_wf
    | with_reducible apply sparseFilter_wf
    | with_reducible apply putRegs_wf
    | with_reducible apply applyKeys_wf
    | with_reducible apply State.answerPldm_keeps
    | with_reducible apply State.freeBytes_keeps
    | with_reducible refine Keeps.of_eq (by assumption) ?_
    | with_reducible apply Keeps.foldl
    | with_reducible apply Keeps.foldl_fst
    | with_reducible refine Keeps.of_eq (by assumption) (Keeps.foldl_fst ?_ ?_)
    | intro _ _
    | intro _
    | with_reducible apply Keeps.ite
    | simp only [Keeps.mk_eq]
    | with_reducible apply KeepsMk.fields)

theorem execPldmType0Message_keeps : ∀ chan inst cmd arg s, NextKeeps s (execPldmType0Message chan inst cmd arg s) := by
  intro chan inst cmd arg s
  unfold execPldmType0Message
  repeat' (first
    | with_reducible apply NextKeeps.next
    | with_reducible apply NextKeeps.ite
    | with_reducible exact Keeps.refl _
    | with_reducible assumption
    | with_reducible apply sparseSet_wf
    | with_reducible apply sparseClear_wf
    | with_reducible apply sparseFilter_wf
    | with_reducible apply putRegs_wf
    | with_reducible apply applyKeys_wf
    | with_reducible apply State.pldmBase_keeps
    | with_reducible apply Keeps.foldl
    | with_reducible apply Keeps.foldl_fst
    | with_reducible refine Keeps.of_eq (by assumption) (Keeps.foldl_fst ?_ ?_)
    | intro _ _
    | intro _
    | with_reducible apply Keeps.ite)

theorem execPldmGetPdrRepositoryInfo_keeps : ∀ chan inst s, NextKeeps s (execPldmGetPdrRepositoryInfo chan inst s) := by
  intro chan inst s
  unfold execPldmGetPdrRepositoryInfo
  repeat' (first
    | with_reducible apply NextKeeps.next
    | with_reducible apply NextKeeps.ite
    | with_reducible exact Keeps.refl _
    | with_reducible assumption
    | with_reducible apply sparseSet_wf
    | with_reducible apply sparseClear_wf
    | with_reducible apply sparseFilter_wf
    | with_reducible apply putRegs_wf
    | with_reducible apply applyKeys_wf
    | with_reducible apply State.answerPldm_keeps
    | with_reducible apply State.freeBytes_keeps
    | with_reducible refine Keeps.of_eq (by assumption) ?_
    | with_reducible apply Keeps.foldl
    | with_reducible apply Keeps.foldl_fst
    | with_reducible refine Keeps.of_eq (by assumption) (Keeps.foldl_fst ?_ ?_)
    | intro _ _
    | intro _)

theorem State.getPdr_keeps : ∀ {a0 s c inst k}, Keeps a0 s → Keeps a0 (State.getPdr s c inst k) := by
  intro a0 s c inst k hk0
  unfold State.getPdr
  repeat' (first
    | with_reducible exact Keeps.refl _
    | with_reducible assumption
    | with_reducible apply sparseSet_wf
    | with_reducible apply sparseClear_wf
    | with_reducible apply sparseFilter_wf
    | with_reducible apply putRegs_wf
    | with_reducible apply applyKeys_wf
    | with_reducible apply State.answerPldm_keeps
    | with_reducible apply State.freeBytes_keeps
    | with_reducible apply State.free_keeps
    | with_reducible refine Keeps.of_eq (by assumption) ?_
    | with_reducible refine Keeps.of_eq2 (by assumption) ?_
    | with_reducible apply Keeps.foldl
    | with_reducible apply Keeps.foldl_fst
    | with_reducible refine Keeps.of_eq (by assumption) (Keeps.foldl_fst ?_ ?_)
    | intro _ _
    | intro _
    | with_reducible apply Keeps.ite)

theorem execPldmGetPdr_keeps : ∀ chan inst record s, NextKeeps s (execPldmGetPdr chan inst record s) := by
  intro chan inst record s
  unfold execPldmGetPdr
  repeat' (first
    | with_reducible apply NextKeeps.next
    | with_reducible apply NextKeeps.ite
    | with_reducible exact Keeps.refl _
    | with_reducible assumption
    | with_reducible apply sparseSet_wf
    | with_reducible apply sparseClear_wf
    | with_reducible apply sparseFilter_wf
    | with_reducible apply putRegs_wf
    | with_reducible apply applyKeys_wf
    | with_reducible apply State.getPdr_keeps
    | with_reducible apply Keeps.foldl
    | with_reducible apply Keeps.foldl_fst
    | with_reducible refine Keeps.of_eq (by assumption) (Keeps.foldl_fst ?_ ?_)
    | intro _ _
    | intro _
    | with_reducible apply Keeps.ite)

theorem execPldmGetSensorReading_keeps : ∀ chan inst sensor s, NextKeeps s (execPldmGetSensorReading chan inst sensor s) := by
  intro chan inst sensor s
  unfold execPldmGetSensorReading
  repeat' (first
    | with_reducible apply NextKeeps.next
    | with_reducible apply NextKeeps.ite
    | with_reducible exact Keeps.refl _
    | with_reducible assumption
    | with_reducible apply sparseSet_wf
    | with_reducible apply sparseClear_wf
    | with_reducible apply sparseFilter_wf
    | with_reducible apply putRegs_wf
    | with_reducible apply applyKeys_wf
    | with_reducible apply State.answerPldm_keeps
    | with_reducible apply State.freeBytes_keeps
    | with_reducible refine Keeps.of_eq (by assumption) ?_
    | with_reducible apply Keeps.foldl
    | with_reducible apply Keeps.foldl_fst
    | with_reducible refine Keeps.of_eq (by assumption) (Keeps.foldl_fst ?_ ?_)
    | intro _ _
    | intro _
    | with_reducible apply Keeps.ite
    | dsimp only
    | with_reducible apply KeepsMk.fields
    | with_reducible apply KeepsMk.memFields
    | with_reducible apply KeepsMk.msixFields
    | with_reducible apply KeepsMk.logFields
    | with_reducible apply KeepsMk.files
    | exact rfl
    | dsimp only
    | split)

theorem execPldmGetStateSensorReadings_keeps : ∀ chan inst s, NextKeeps s (execPldmGetStateSensorReadings chan inst s) := by
  intro chan inst s
  unfold execPldmGetStateSensorReadings
  repeat' (first
    | with_reducible apply NextKeeps.next
    | with_reducible apply NextKeeps.ite
    | with_reducible exact Keeps.refl _
    | with_reducible assumption
    | with_reducible apply sparseSet_wf
    | with_reducible apply sparseClear_wf
    | with_reducible apply sparseFilter_wf
    | with_reducible apply putRegs_wf
    | with_reducible apply applyKeys_wf
    | with_reducible apply State.answerPldm_keeps
    | with_reducible apply State.freeBytes_keeps
    | with_reducible refine Keeps.of_eq (by assumption) ?_
    | with_reducible apply Keeps.foldl
    | with_reducible apply Keeps.foldl_fst
    | with_reducible refine Keeps.of_eq (by assumption) (Keeps.foldl_fst ?_ ?_)
    | intro _ _
    | intro _)

theorem execPldmSetEventReceiver_keeps : ∀ chan inst enable eid s, NextKeeps s (execPldmSetEventReceiver chan inst enable eid s) := by
  intro chan inst enable eid s
  unfold execPldmSetEventReceiver
  repeat' (first
    | with_reducible apply NextKeeps.next
    | with_reducible apply NextKeeps.ite
    | with_reducible exact Keeps.refl _
    | with_reducible assumption
    | with_reducible apply sparseSet_wf
    | with_reducible apply sparseClear_wf
    | with_reducible apply sparseFilter_wf
    | with_reducible apply putRegs_wf
    | with_reducible apply applyKeys_wf
    | with_reducible apply State.answerPldm_keeps
    | with_reducible apply Keeps.foldl
    | with_reducible apply Keeps.foldl_fst
    | with_reducible refine Keeps.of_eq (by assumption) (Keeps.foldl_fst ?_ ?_)
    | intro _ _
    | intro _
    | with_reducible apply Keeps.ite
    | simp only [Keeps.mk_eq]
    | with_reducible apply KeepsMk.fields)

theorem State.levelEvent_keeps : ∀ {a0 s was}, Keeps a0 s → Keeps a0 (State.levelEvent s was) := by
  intro a0 s was hk0
  unfold State.levelEvent
  repeat' (first
    | with_reducible exact Keeps.refl _
    | with_reducible assumption
    | with_reducible apply sparseSet_wf
    | with_reducible apply sparseClear_wf
    | with_reducible apply sparseFilter_wf
    | with_reducible apply putRegs_wf
    | with_reducible apply applyKeys_wf
    | with_reducible apply State.requestPldm_keeps
    | with_reducible apply State.freeBytes_keeps
    | with_reducible refine Keeps.of_eq (by assumption) ?_
    | with_reducible apply Keeps.foldl
    | with_reducible apply Keeps.foldl_fst
    | with_reducible refine Keeps.of_eq (by assumption) (Keeps.foldl_fst ?_ ?_)
    | intro _ _
    | intro _
    | with_reducible apply Keeps.ite
    | dsimp only
    | with_reducible apply KeepsMk.fields
    | with_reducible apply KeepsMk.memFields
    | with_reducible apply KeepsMk.msixFields
    | with_reducible apply KeepsMk.logFields
    | with_reducible apply KeepsMk.files
    | exact rfl
    | dsimp only
    | split)

theorem State.logPldm_keeps : ∀ {a0 s c code detail}, Keeps a0 s → Keeps a0 (State.logPldm s c code detail) := by
  intro a0 s c code detail hk0
  unfold State.logPldm
  repeat' (first
    | with_reducible exact Keeps.refl _
    | with_reducible assumption
    | with_reducible apply sparseSet_wf
    | with_reducible apply sparseClear_wf
    | with_reducible apply sparseFilter_wf
    | with_reducible apply putRegs_wf
    | with_reducible apply applyKeys_wf
    | with_reducible apply State.logEntry_keeps
    | with_reducible apply State.free_keeps)

theorem State.setUpdate_keeps : ∀ {a0 s u}, Keeps a0 s → Keeps a0 (State.setUpdate s u) := by
  intro a0 s u hk0
  unfold State.setUpdate
  repeat' (first
    | with_reducible exact Keeps.refl _
    | with_reducible assumption
    | with_reducible apply sparseSet_wf
    | with_reducible apply sparseClear_wf
    | with_reducible apply sparseFilter_wf
    | with_reducible apply putRegs_wf
    | with_reducible apply applyKeys_wf
    | with_reducible apply Keeps.foldl
    | with_reducible apply Keeps.foldl_fst
    | with_reducible refine Keeps.of_eq (by assumption) (Keeps.foldl_fst ?_ ?_)
    | intro _ _
    | intro _
    | with_reducible apply Keeps.ite
    | simp only [Keeps.mk_eq]
    | with_reducible apply KeepsMk.fields)

theorem State.endUpdate_keeps : ∀ {a0 s}, Keeps a0 s → Keeps a0 (State.endUpdate s) := by
  intro a0 s hk0
  unfold State.endUpdate
  repeat' (first
    | with_reducible exact Keeps.refl _
    | with_reducible assumption
    | with_reducible apply sparseSet_wf
    | with_reducible apply sparseClear_wf
    | with_reducible apply sparseFilter_wf
    | with_reducible apply putRegs_wf
    | with_reducible apply applyKeys_wf
    | with_reducible apply State.setUpdate_keeps
    | with_reducible apply State.setF_keeps)

theorem State.pullData_keeps : ∀ {a0 s u}, Keeps a0 s → Keeps a0 (State.pullData s u) := by
  intro a0 s u hk0
  unfold State.pullData
  repeat' (first
    | with_reducible exact Keeps.refl _
    | with_reducible assumption
    | with_reducible apply sparseSet_wf
    | with_reducible apply sparseClear_wf
    | with_reducible apply sparseFilter_wf
    | with_reducible apply putRegs_wf
    | with_reducible apply applyKeys_wf
    | with_reducible apply State.requestPldm_keeps
    | with_reducible apply State.freeBytes_keeps
    | with_reducible refine Keeps.of_eq (by assumption) ?_
    | with_reducible apply Keeps.foldl
    | with_reducible apply Keeps.foldl_fst
    | with_reducible refine Keeps.of_eq (by assumption) (Keeps.foldl_fst ?_ ?_)
    | intro _ _
    | intro _
    | with_reducible apply Keeps.ite)

theorem State.beginUpdate_keeps : ∀ {a0 s c inst now size}, Keeps a0 s → Keeps a0 (State.beginUpdate s c inst now size) := by
  intro a0 s c inst now size hk0
  unfold State.beginUpdate
  repeat' (first
    | with_reducible exact Keeps.refl _
    | with_reducible assumption
    | with_reducible apply sparseSet_wf
    | with_reducible apply sparseClear_wf
    | with_reducible apply sparseFilter_wf
    | with_reducible apply putRegs_wf
    | with_reducible apply applyKeys_wf
    | with_reducible apply State.answerPldm_keeps
    | with_reducible apply State.setUpdate_keeps
    | with_reducible apply State.pullData_keeps
    | with_reducible apply State.free_keeps
    | with_reducible apply State.setF_keeps)

theorem execPldmRequestUpdate_keeps : ∀ chan inst now size s, NextKeeps s (execPldmRequestUpdate chan inst now size s) := by
  intro chan inst now size s
  unfold execPldmRequestUpdate
  repeat' (first
    | with_reducible apply NextKeeps.next
    | with_reducible apply NextKeeps.ite
    | with_reducible exact Keeps.refl _
    | with_reducible assumption
    | with_reducible apply sparseSet_wf
    | with_reducible apply sparseClear_wf
    | with_reducible apply sparseFilter_wf
    | with_reducible apply putRegs_wf
    | with_reducible apply applyKeys_wf
    | with_reducible apply State.beginUpdate_keeps
    | with_reducible apply State.answerPldm_keeps
    | with_reducible apply State.logPldm_keeps
    | with_reducible apply Keeps.foldl
    | with_reducible apply Keeps.foldl_fst
    | with_reducible refine Keeps.of_eq (by assumption) (Keeps.foldl_fst ?_ ?_)
    | intro _ _
    | intro _)

theorem execPldmFirmwareData_keeps : ∀ chan now data s, NextKeeps s (execPldmFirmwareData chan now data s) := by
  intro chan now data s
  unfold execPldmFirmwareData
  repeat' (first
    | with_reducible apply NextKeeps.next
    | with_reducible apply NextKeeps.ite
    | with_reducible exact Keeps.refl _
    | with_reducible assumption
    | with_reducible apply sparseSet_wf
    | with_reducible apply sparseClear_wf
    | with_reducible apply sparseFilter_wf
    | with_reducible apply putRegs_wf
    | with_reducible apply applyKeys_wf
    | with_reducible apply State.setUpdate_keeps
    | with_reducible apply State.pullData_keeps
    | with_reducible apply Keeps.foldl
    | with_reducible apply Keeps.foldl_fst
    | with_reducible refine Keeps.of_eq (by assumption) (Keeps.foldl_fst ?_ ?_)
    | intro _ _
    | intro _
    | with_reducible apply Keeps.ite
    | dsimp only
    | with_reducible apply KeepsMk.fields
    | with_reducible apply KeepsMk.memFields
    | with_reducible apply KeepsMk.msixFields
    | with_reducible apply KeepsMk.logFields
    | with_reducible apply KeepsMk.files
    | exact rfl
    | dsimp only
    | split)

theorem State.writeComponent_keeps : ∀ {a0 s u back ecc}, Keeps a0 s → Keeps a0 (State.writeComponent s u back ecc).1 := by
  intro a0 s u back ecc hk0
  unfold State.writeComponent
  repeat' (first
    | with_reducible exact Keeps.refl _
    | with_reducible assumption
    | with_reducible apply sparseSet_wf
    | with_reducible apply sparseClear_wf
    | with_reducible apply sparseFilter_wf
    | with_reducible apply putRegs_wf
    | with_reducible apply applyKeys_wf
    | with_reducible apply State.startImage_keeps
    | with_reducible apply State.endImage_keeps
    | with_reducible refine Keeps.of_eq (by assumption) ?_
    | with_reducible apply Keeps.foldl
    | with_reducible apply Keeps.foldl_fst
    | with_reducible refine Keeps.of_eq (by assumption) (Keeps.foldl_fst ?_ ?_)
    | intro _ _
    | intro _
    | with_reducible apply Keeps.ite
    | simp only [Keeps.mk_eq]
    | with_reducible apply KeepsMk.fields
    | with_reducible apply KeepsMk.memFields
    | with_reducible apply KeepsMk.msixFields
    | with_reducible apply KeepsMk.logFields
    | with_reducible apply KeepsMk.files
    | exact rfl
    | dsimp only
    | split)

theorem execPldmTransferComplete_keeps : ∀ chan now back ecc s, NextKeeps s (execPldmTransferComplete chan now back ecc s) := by
  intro chan now back ecc s
  unfold execPldmTransferComplete
  repeat' (first
    | with_reducible apply NextKeeps.next
    | with_reducible apply NextKeeps.ite
    | with_reducible exact Keeps.refl _
    | with_reducible assumption
    | with_reducible apply sparseSet_wf
    | with_reducible apply sparseClear_wf
    | with_reducible apply sparseFilter_wf
    | with_reducible apply putRegs_wf
    | with_reducible apply applyKeys_wf
    | with_reducible apply State.writeComponent_keeps
    | with_reducible apply State.requestPldm_keeps
    | with_reducible apply State.setUpdate_keeps
    | with_reducible apply State.logPldm_keeps
    | with_reducible apply State.free_keeps
    | with_reducible refine Keeps.of_eq (by assumption) ?_
    | with_reducible refine Keeps.of_eq2 (by assumption) ?_
    | with_reducible apply Keeps.foldl
    | with_reducible apply Keeps.foldl_fst
    | with_reducible refine Keeps.of_eq (by assumption) (Keeps.foldl_fst ?_ ?_)
    | intro _ _
    | intro _
    | with_reducible apply Keeps.ite
    | dsimp only
    | with_reducible apply KeepsMk.fields
    | with_reducible apply KeepsMk.memFields
    | with_reducible apply KeepsMk.msixFields
    | with_reducible apply KeepsMk.logFields
    | with_reducible apply KeepsMk.files
    | exact rfl
    | dsimp only
    | split)

theorem execPldmActivateFirmware_keeps : ∀ chan inst now selfContained s, NextKeeps s (execPldmActivateFirmware chan inst now selfContained s) := by
  intro chan inst now selfContained s
  unfold execPldmActivateFirmware
  repeat' (first
    | with_reducible apply NextKeeps.next
    | with_reducible apply NextKeeps.ite
    | with_reducible exact Keeps.refl _
    | with_reducible assumption
    | with_reducible apply sparseSet_wf
    | with_reducible apply sparseClear_wf
    | with_reducible apply sparseFilter_wf
    | with_reducible apply putRegs_wf
    | with_reducible apply applyKeys_wf
    | with_reducible apply State.answerPldm_keeps
    | with_reducible apply State.endUpdate_keeps
    | with_reducible apply State.freeBytes_keeps
    | with_reducible apply State.setUpdate_keeps
    | with_reducible apply State.activate_keeps
    | with_reducible apply State.logPldm_keeps
    | with_reducible refine Keeps.of_eq (by assumption) ?_
    | with_reducible apply Keeps.foldl
    | with_reducible apply Keeps.foldl_fst
    | with_reducible refine Keeps.of_eq (by assumption) (Keeps.foldl_fst ?_ ?_)
    | intro _ _
    | intro _
    | with_reducible apply Keeps.ite
    | dsimp only
    | with_reducible apply KeepsMk.fields
    | with_reducible apply KeepsMk.memFields
    | with_reducible apply KeepsMk.msixFields
    | with_reducible apply KeepsMk.logFields
    | with_reducible apply KeepsMk.files
    | exact rfl
    | dsimp only
    | split)

theorem execPldmCancelUpdate_keeps : ∀ chan inst s, NextKeeps s (execPldmCancelUpdate chan inst s) := by
  intro chan inst s
  unfold execPldmCancelUpdate
  repeat' (first
    | with_reducible apply NextKeeps.next
    | with_reducible apply NextKeeps.ite
    | with_reducible exact Keeps.refl _
    | with_reducible assumption
    | with_reducible apply sparseSet_wf
    | with_reducible apply sparseClear_wf
    | with_reducible apply sparseFilter_wf
    | with_reducible apply putRegs_wf
    | with_reducible apply applyKeys_wf
    | with_reducible apply State.answerPldm_keeps
    | with_reducible apply State.endUpdate_keeps
    | with_reducible apply Keeps.foldl
    | with_reducible apply Keeps.foldl_fst
    | with_reducible refine Keeps.of_eq (by assumption) (Keeps.foldl_fst ?_ ?_)
    | intro _ _
    | intro _
    | with_reducible apply Keeps.ite
    | simp only [Keeps.mk_eq]
    | with_reducible apply KeepsMk.fields
    | with_reducible apply KeepsMk.memFields
    | with_reducible apply KeepsMk.msixFields
    | with_reducible apply KeepsMk.logFields
    | with_reducible apply KeepsMk.files
    | exact rfl
    | dsimp only
    | split)

theorem execPldmUpdateTimeout_keeps : ∀ now s, NextKeeps s (execPldmUpdateTimeout now s) := by
  intro now s
  unfold execPldmUpdateTimeout
  repeat' (first
    | with_reducible apply NextKeeps.next
    | with_reducible apply NextKeeps.ite
    | with_reducible exact Keeps.refl _
    | with_reducible assumption
    | with_reducible apply sparseSet_wf
    | with_reducible apply sparseClear_wf
    | with_reducible apply sparseFilter_wf
    | with_reducible apply putRegs_wf
    | with_reducible apply applyKeys_wf
    | with_reducible apply State.endUpdate_keeps
    | with_reducible apply Keeps.foldl
    | with_reducible apply Keeps.foldl_fst
    | with_reducible refine Keeps.of_eq (by assumption) (Keeps.foldl_fst ?_ ?_)
    | intro _ _
    | intro _
    | with_reducible apply Keeps.ite
    | simp only [Keeps.mk_eq]
    | with_reducible apply KeepsMk.fields
    | with_reducible apply KeepsMk.memFields
    | with_reducible apply KeepsMk.msixFields
    | with_reducible apply KeepsMk.logFields
    | with_reducible apply KeepsMk.files
    | exact rfl
    | dsimp only
    | split)

/-! ### Machine/Lodge.lean -/

theorem State.showTemps_keeps : ∀ {a0 s x}, Keeps a0 s → Keeps a0 (State.showTemps s x) := by
  intro a0 s x hk0
  unfold State.showTemps
  repeat' (first
    | with_reducible exact Keeps.refl _
    | with_reducible assumption
    | with_reducible apply sparseSet_wf
    | with_reducible apply sparseClear_wf
    | with_reducible apply sparseFilter_wf
    | with_reducible apply putRegs_wf
    | with_reducible apply applyKeys_wf
    | with_reducible apply State.setN_keeps
    | with_reducible apply Keeps.foldl
    | with_reducible apply Keeps.foldl_fst
    | with_reducible refine Keeps.of_eq (by assumption) (Keeps.foldl_fst ?_ ?_)
    | intro _ _)

theorem State.noteSample_keeps : ∀ {a0 s x}, Keeps a0 s → Keeps a0 (State.noteSample s x) := by
  intro a0 s x hk0
  unfold State.noteSample
  repeat' (first
    | with_reducible exact Keeps.refl _
    | with_reducible assumption
    | with_reducible apply sparseSet_wf
    | with_reducible apply sparseClear_wf
    | with_reducible apply sparseFilter_wf
    | with_reducible apply putRegs_wf
    | with_reducible apply applyKeys_wf
    | with_reducible apply Keeps.foldl
    | with_reducible apply Keeps.foldl_fst
    | with_reducible refine Keeps.of_eq (by assumption) (Keeps.foldl_fst ?_ ?_)
    | intro _ _
    | intro _
    | with_reducible apply Keeps.ite
    | simp only [Keeps.mk_eq]
    | with_reducible apply KeepsMk.fields)

theorem State.showPower_keeps : ∀ {a0 s x}, Keeps a0 s → Keeps a0 (State.showPower s x) := by
  intro a0 s x hk0
  unfold State.showPower
  repeat' (first
    | with_reducible exact Keeps.refl _
    | with_reducible assumption
    | with_reducible apply sparseSet_wf
    | with_reducible apply sparseClear_wf
    | with_reducible apply sparseFilter_wf
    | with_reducible apply putRegs_wf
    | with_reducible apply applyKeys_wf
    | with_reducible apply State.setN_keeps
    | with_reducible apply Keeps.foldl
    | with_reducible apply Keeps.foldl_fst
    | with_reducible refine Keeps.of_eq (by assumption) (Keeps.foldl_fst ?_ ?_)
    | intro _ _
    | intro _
    | with_reducible apply Keeps.ite
    | dsimp only
    | with_reducible apply KeepsMk.fields
    | with_reducible apply KeepsMk.memFields
    | with_reducible apply KeepsMk.msixFields
    | with_reducible apply KeepsMk.logFields
    | with_reducible apply KeepsMk.files
    | exact rfl
    | dsimp only
    | split)

theorem State.logReading_keeps : ∀ {a0 s code reading}, Keeps a0 s → Keeps a0 (State.logReading s code reading) := by
  intro a0 s code reading hk0
  unfold State.logReading
  repeat' (first
    | with_reducible exact Keeps.refl _
    | with_reducible assumption
    | with_reducible apply sparseSet_wf
    | with_reducible apply sparseClear_wf
    | with_reducible apply sparseFilter_wf
    | with_reducible apply putRegs_wf
    | with_reducible apply applyKeys_wf
    | with_reducible apply State.logEntry_keeps
    | with_reducible apply State.free_keeps)

theorem State.showOver_keeps : ∀ {a0 s}, Keeps a0 s → Keeps a0 (State.showOver s) := by
  intro a0 s hk0
  unfold State.showOver
  repeat' (first
    | with_reducible exact Keeps.refl _
    | with_reducible assumption
    | with_reducible apply sparseSet_wf
    | with_reducible apply sparseClear_wf
    | with_reducible apply sparseFilter_wf
    | with_reducible apply putRegs_wf
    | with_reducible apply applyKeys_wf
    | with_reducible apply State.logReading_keeps
    | with_reducible apply State.raise_keeps
    | with_reducible apply State.setN_keeps
    | with_reducible apply Keeps.foldl
    | with_reducible apply Keeps.foldl_fst
    | with_reducible refine Keeps.of_eq (by assumption) (Keeps.foldl_fst ?_ ?_)
    | intro _ _
    | intro _
    | with_reducible apply Keeps.ite)

theorem State.stopAll_keeps : ∀ {a0 s}, Keeps a0 s → Keeps a0 (State.stopAll s) := by
  intro a0 s hk0
  unfold State.stopAll
  repeat' (first
    | with_reducible exact Keeps.refl _
    | with_reducible assumption
    | with_reducible apply sparseSet_wf
    | with_reducible apply sparseClear_wf
    | with_reducible apply sparseFilter_wf
    | with_reducible apply putRegs_wf
    | with_reducible apply applyKeys_wf
    | with_reducible apply State.setF_keeps
    | with_reducible apply Keeps.foldl
    | with_reducible apply Keeps.foldl_fst
    | with_reducible refine Keeps.of_eq (by assumption) (Keeps.foldl_fst ?_ ?_)
    | intro _ _
    | intro _
    | with_reducible apply Keeps.ite
    | simp only [Keeps.mk_eq]
    | with_reducible apply KeepsMk.fields)

theorem State.abandon_keeps : ∀ {a0 s}, Keeps a0 s → Keeps a0 (State.abandon s) := by
  intro a0 s hk0
  unfold State.abandon
  repeat' (first
    | with_reducible exact Keeps.refl _
    | with_reducible assumption
    | with_reducible apply sparseSet_wf
    | with_reducible apply sparseClear_wf
    | with_reducible apply sparseFilter_wf
    | with_reducible apply putRegs_wf
    | with_reducible apply applyKeys_wf
    | with_reducible apply State.endUpdate_keeps
    | with_reducible apply State.endLong_keeps
    | with_reducible apply State.logPldm_keeps
    | with_reducible apply Keeps.foldl
    | with_reducible apply Keeps.foldl_fst
    | with_reducible refine Keeps.of_eq (by assumption) (Keeps.foldl_fst ?_ ?_)
    | intro _ _
    | intro _
    | with_reducible apply Keeps.ite
    | dsimp only
    | with_reducible apply KeepsMk.fields
    | with_reducible apply KeepsMk.memFields
    | with_reducible apply KeepsMk.msixFields
    | with_reducible apply KeepsMk.logFields
    | with_reducible apply KeepsMk.files
    | exact rfl
    | dsimp only
    | split)

theorem State.trip_keeps : ∀ {a0 s reading}, Keeps a0 s → Keeps a0 (State.trip s reading) := by
  intro a0 s reading hk0
  unfold State.trip
  repeat' (first
    | with_reducible exact Keeps.refl _
    | with_reducible assumption
    | with_reducible apply sparseSet_wf
    | with_reducible apply sparseClear_wf
    | with_reducible apply sparseFilter_wf
    | with_reducible apply putRegs_wf
    | with_reducible apply applyKeys_wf
    | with_reducible apply State.levelEvent_keeps
    | with_reducible apply State.logReading_keeps
    | with_reducible apply State.abandon_keeps
    | with_reducible apply State.stopAll_keeps
    | with_reducible apply State.emit_keeps
    | with_reducible apply State.setF_keeps
    | with_reducible apply Keeps.foldl
    | with_reducible apply Keeps.foldl_fst
    | with_reducible refine Keeps.of_eq (by assumption) (Keeps.foldl_fst ?_ ?_)
    | intro _ _
    | intro _
    | with_reducible apply Keeps.ite
    | simp only [Keeps.mk_eq]
    | with_reducible apply KeepsMk.fields)

theorem State.tripCheck_keeps : ∀ {a0 s}, Keeps a0 s → Keeps a0 (State.tripCheck s) := by
  intro a0 s hk0
  unfold State.tripCheck
  repeat' (first
    | with_reducible exact Keeps.refl _
    | with_reducible assumption
    | with_reducible apply sparseSet_wf
    | with_reducible apply sparseClear_wf
    | with_reducible apply sparseFilter_wf
    | with_reducible apply putRegs_wf
    | with_reducible apply applyKeys_wf
    | with_reducible apply State.trip_keeps
    | with_reducible apply Keeps.foldl
    | with_reducible apply Keeps.foldl_fst
    | with_reducible refine Keeps.of_eq (by assumption) (Keeps.foldl_fst ?_ ?_)
    | intro _ _
    | intro _
    | with_reducible apply Keeps.ite
    | simp only [Keeps.mk_eq]
    | with_reducible apply KeepsMk.fields
    | with_reducible apply KeepsMk.memFields
    | with_reducible apply KeepsMk.msixFields
    | with_reducible apply KeepsMk.logFields
    | with_reducible apply KeepsMk.files
    | exact rfl
    | dsimp only
    | split)

theorem execLodgeTick_keeps : ∀ now ptp x s, NextKeeps s (execLodgeTick now ptp x s) := by
  intro now ptp x s
  unfold execLodgeTick
  repeat' (first
    | with_reducible apply NextKeeps.next
    | with_reducible apply NextKeeps.ite
    | with_reducible exact Keeps.refl _
    | with_reducible assumption
    | with_reducible apply sparseSet_wf
    | with_reducible apply sparseClear_wf
    | with_reducible apply sparseFilter_wf
    | with_reducible apply putRegs_wf
    | with_reducible apply applyKeys_wf
    | with_reducible apply State.applySources_keeps
    | with_reducible apply State.noteSample_keeps
    | with_reducible apply State.showPower_keeps
    | with_reducible apply State.showTemps_keeps
    | with_reducible apply State.tripCheck_keeps
    | with_reducible apply State.showOver_keeps
    | with_reducible apply State.count64_keeps
    | with_reducible apply State.tickTo_keeps
    | with_reducible apply Keeps.foldl
    | with_reducible apply Keeps.foldl_fst
    | with_reducible refine Keeps.of_eq (by assumption) (Keeps.foldl_fst ?_ ?_)
    | intro _ _
    | intro _)

theorem State.setAvail_keeps : ∀ {a0 s a}, Keeps a0 s → Keeps a0 (State.setAvail s a) := by
  intro a0 s a hk0
  unfold State.setAvail
  repeat' (first
    | with_reducible exact Keeps.refl _
    | with_reducible assumption
    | with_reducible apply sparseSet_wf
    | with_reducible apply sparseClear_wf
    | with_reducible apply sparseFilter_wf
    | with_reducible apply putRegs_wf
    | with_reducible apply applyKeys_wf
    | with_reducible apply State.setN_keeps
    | with_reducible apply Keeps.foldl
    | with_reducible apply Keeps.foldl_fst
    | with_reducible refine Keeps.of_eq (by assumption) (Keeps.foldl_fst ?_ ?_)
    | intro _ _
    | intro _
    | with_reducible apply Keeps.ite
    | simp only [Keeps.mk_eq]
    | with_reducible apply KeepsMk.fields)

theorem State.setLevel_keeps : ∀ {a0 s l}, Keeps a0 s → Keeps a0 (State.setLevel s l) := by
  intro a0 s l hk0
  unfold State.setLevel
  repeat' (first
    | with_reducible exact Keeps.refl _
    | with_reducible assumption
    | with_reducible apply sparseSet_wf
    | with_reducible apply sparseClear_wf
    | with_reducible apply sparseFilter_wf
    | with_reducible apply putRegs_wf
    | with_reducible apply applyKeys_wf
    | with_reducible apply State.levelEvent_keeps
    | with_reducible apply State.logReading_keeps
    | with_reducible apply State.raise_keeps
    | with_reducible apply State.setF_keeps
    | with_reducible apply Keeps.foldl
    | with_reducible apply Keeps.foldl_fst
    | with_reducible refine Keeps.of_eq (by assumption) (Keeps.foldl_fst ?_ ?_)
    | intro _ _
    | intro _
    | with_reducible apply Keeps.ite)

theorem execPowerRecompute_keeps : ∀ s, NextKeeps s (execPowerRecompute s) := by
  intro s
  unfold execPowerRecompute
  repeat' (first
    | with_reducible apply NextKeeps.next
    | with_reducible apply NextKeeps.ite
    | with_reducible exact Keeps.refl _
    | with_reducible assumption
    | with_reducible apply sparseSet_wf
    | with_reducible apply sparseClear_wf
    | with_reducible apply sparseFilter_wf
    | with_reducible apply putRegs_wf
    | with_reducible apply applyKeys_wf
    | with_reducible apply State.setAvail_keeps
    | with_reducible apply State.setLevel_keeps
    | with_reducible apply Keeps.foldl
    | with_reducible apply Keeps.foldl_fst
    | with_reducible refine Keeps.of_eq (by assumption) (Keeps.foldl_fst ?_ ?_)
    | intro _ _
    | intro _)

theorem execLogEntryWrite_keeps : ∀ now ptp s, NextKeeps s (execLogEntryWrite now ptp s) := by
  intro now ptp s
  unfold execLogEntryWrite
  repeat' (first
    | with_reducible apply NextKeeps.next
    | with_reducible apply NextKeeps.ite
    | with_reducible exact Keeps.refl _
    | with_reducible assumption
    | with_reducible apply sparseSet_wf
    | with_reducible apply sparseClear_wf
    | with_reducible apply sparseFilter_wf
    | with_reducible apply putRegs_wf
    | with_reducible apply applyKeys_wf
    | with_reducible apply State.tickTo_keeps
    | with_reducible apply State.count_keeps
    | with_reducible apply State.setN_keeps
    | with_reducible apply State.msg_keeps
    | with_reducible apply Keeps.foldl
    | with_reducible apply Keeps.foldl_fst
    | with_reducible refine Keeps.of_eq (by assumption) (Keeps.foldl_fst ?_ ?_)
    | intro _ _
    | intro _
    | with_reducible apply Keeps.ite
    | simp only [Keeps.mk_eq]
    | with_reducible apply KeepsMk.fields
    | with_reducible apply KeepsMk.memFields
    | with_reducible apply KeepsMk.msixFields
    | with_reducible apply KeepsMk.logFields
    | with_reducible apply KeepsMk.files
    | exact rfl
    | dsimp only
    | split)

/-! ### Machine/Power.lean -/

theorem State.fresh_keeps : ∀ {a0 s p}, Keeps a0 s → Keeps a0 (State.fresh s p) := by
  intro a0 s p hk0
  unfold State.fresh
  repeat' (first
    | with_reducible exact Keeps.refl _
    | with_reducible assumption
    | with_reducible apply sparseSet_wf
    | with_reducible apply sparseClear_wf
    | with_reducible apply sparseFilter_wf
    | with_reducible apply putRegs_wf
    | with_reducible apply applyKeys_wf
    | with_reducible apply State.emit_keeps
    | with_reducible apply State.setN_keeps
    | with_reducible apply Keeps.foldl
    | with_reducible apply Keeps.foldl_fst
    | with_reducible refine Keeps.of_eq (by assumption) (Keeps.foldl_fst ?_ ?_)
    | intro _ _
    | intro _
    | with_reducible apply Keeps.ite
    | simp only [Keeps.mk_eq]
    | with_reducible apply KeepsMk.fields
    | with_reducible apply KeepsMk.memFields
    | with_reducible apply KeepsMk.msixFields
    | with_reducible apply KeepsMk.logFields
    | with_reducible apply KeepsMk.files
    | exact rfl)

theorem execAuxPowerOn_keeps : ∀ s, NextKeeps s (execAuxPowerOn s) := by
  intro s
  unfold execAuxPowerOn
  repeat' (first
    | with_reducible apply NextKeeps.next
    | with_reducible apply NextKeeps.ite
    | with_reducible exact Keeps.refl _
    | with_reducible assumption
    | with_reducible apply sparseSet_wf
    | with_reducible apply sparseClear_wf
    | with_reducible apply sparseFilter_wf
    | with_reducible apply putRegs_wf
    | with_reducible apply applyKeys_wf
    | with_reducible apply State.fresh_keeps
    | with_reducible apply Keeps.foldl
    | with_reducible apply Keeps.foldl_fst
    | with_reducible refine Keeps.of_eq (by assumption) (Keeps.foldl_fst ?_ ?_)
    | intro _ _
    | intro _)

theorem execVinPowerOn_keeps : ∀ s, NextKeeps s (execVinPowerOn s) := by
  intro s
  unfold execVinPowerOn
  repeat' (first
    | with_reducible apply NextKeeps.next
    | with_reducible apply NextKeeps.ite
    | with_reducible exact Keeps.refl _
    | with_reducible assumption
    | with_reducible apply sparseSet_wf
    | with_reducible apply sparseClear_wf
    | with_reducible apply sparseFilter_wf
    | with_reducible apply putRegs_wf
    | with_reducible apply applyKeys_wf
    | with_reducible apply Keeps.foldl
    | with_reducible apply Keeps.foldl_fst
    | with_reducible refine Keeps.of_eq (by assumption) (Keeps.foldl_fst ?_ ?_)
    | intro _ _
    | intro _
    | with_reducible apply Keeps.ite
    | simp only [Keeps.mk_eq]
    | with_reducible apply KeepsMk.fields)

theorem State.mainDown_keeps : ∀ {a0 s}, Keeps a0 s → Keeps a0 (State.mainDown s) := by
  intro a0 s hk0
  unfold State.mainDown
  repeat' (first
    | with_reducible exact Keeps.refl _
    | with_reducible assumption
    | with_reducible apply sparseSet_wf
    | with_reducible apply sparseClear_wf
    | with_reducible apply sparseFilter_wf
    | with_reducible apply putRegs_wf
    | with_reducible apply applyKeys_wf
    | with_reducible apply State.fresh_keeps
    | with_reducible apply Keeps.foldl
    | with_reducible apply Keeps.foldl_fst
    | with_reducible refine Keeps.of_eq (by assumption) (Keeps.foldl_fst ?_ ?_)
    | intro _ _
    | intro _
    | with_reducible apply Keeps.ite)

theorem execVinFailure_keeps : ∀ s, NextKeeps s (execVinFailure s) := by
  intro s
  unfold execVinFailure
  repeat' (first
    | with_reducible apply NextKeeps.next
    | with_reducible apply NextKeeps.ite
    | with_reducible exact Keeps.refl _
    | with_reducible assumption
    | with_reducible apply sparseSet_wf
    | with_reducible apply sparseClear_wf
    | with_reducible apply sparseFilter_wf
    | with_reducible apply putRegs_wf
    | with_reducible apply applyKeys_wf
    | with_reducible apply State.mainDown_keeps)

theorem execPowerGoodLoss_keeps : ∀ s, NextKeeps s (execPowerGoodLoss s) := by
  intro s
  unfold execPowerGoodLoss
  repeat' (first
    | with_reducible apply NextKeeps.next
    | with_reducible apply NextKeeps.ite
    | with_reducible exact Keeps.refl _
    | with_reducible assumption
    | with_reducible apply sparseSet_wf
    | with_reducible apply sparseClear_wf
    | with_reducible apply sparseFilter_wf
    | with_reducible apply putRegs_wf
    | with_reducible apply applyKeys_wf
    | with_reducible apply State.mainDown_keeps)

theorem execAuxFailure_keeps : ∀ s, NextKeeps s (execAuxFailure s) := by
  intro s
  unfold execAuxFailure
  repeat' (first
    | with_reducible apply NextKeeps.next
    | with_reducible apply NextKeeps.ite
    | with_reducible exact Keeps.refl _
    | with_reducible assumption
    | with_reducible apply sparseSet_wf
    | with_reducible apply sparseClear_wf
    | with_reducible apply sparseFilter_wf
    | with_reducible apply putRegs_wf
    | with_reducible apply applyKeys_wf
    | with_reducible apply State.fresh_keeps
    | with_reducible apply Keeps.foldl
    | with_reducible apply Keeps.foldl_fst
    | with_reducible refine Keeps.of_eq (by assumption) (Keeps.foldl_fst ?_ ?_)
    | intro _ _
    | intro _)

theorem execDeviceReset_keeps : ∀ s, NextKeeps s (execDeviceReset s) := by
  intro s
  unfold execDeviceReset
  repeat' (first
    | with_reducible apply NextKeeps.next
    | with_reducible apply NextKeeps.ite
    | with_reducible exact Keeps.refl _
    | with_reducible assumption
    | with_reducible apply sparseSet_wf
    | with_reducible apply sparseClear_wf
    | with_reducible apply sparseFilter_wf
    | with_reducible apply putRegs_wf
    | with_reducible apply applyKeys_wf
    | with_reducible apply State.fresh_keeps
    | with_reducible apply Keeps.foldl
    | with_reducible apply Keeps.foldl_fst
    | with_reducible refine Keeps.of_eq (by assumption) (Keeps.foldl_fst ?_ ?_)
    | intro _ _
    | intro _)

theorem State.loadJtag_keeps : ∀ {a0 s i}, Keeps a0 s → Keeps a0 (State.loadJtag s i) := by
  intro a0 s i hk0
  unfold State.loadJtag
  repeat' (first
    | with_reducible exact Keeps.refl _
    | with_reducible assumption
    | with_reducible apply sparseSet_wf
    | with_reducible apply sparseClear_wf
    | with_reducible apply sparseFilter_wf
    | with_reducible apply putRegs_wf
    | with_reducible apply applyKeys_wf
    | with_reducible apply Keeps.foldl
    | with_reducible apply Keeps.foldl_fst
    | with_reducible refine Keeps.of_eq (by assumption) (Keeps.foldl_fst ?_ ?_)
    | intro _ _
    | intro _
    | with_reducible apply Keeps.ite
    | simp only [Keeps.mk_eq]
    | with_reducible apply KeepsMk.fields)

theorem execJtagBypass_keeps : ∀ s, NextKeeps s (execJtagBypass s) := by
  intro s
  unfold execJtagBypass
  repeat' (first
    | with_reducible apply NextKeeps.next
    | with_reducible apply NextKeeps.ite
    | with_reducible exact Keeps.refl _
    | with_reducible assumption
    | with_reducible apply sparseSet_wf
    | with_reducible apply sparseClear_wf
    | with_reducible apply sparseFilter_wf
    | with_reducible apply putRegs_wf
    | with_reducible apply applyKeys_wf
    | with_reducible apply State.loadJtag_keeps)

theorem execJtagIdcode_keeps : ∀ s, NextKeeps s (execJtagIdcode s) := by
  intro s
  unfold execJtagIdcode
  repeat' (first
    | with_reducible apply NextKeeps.next
    | with_reducible apply NextKeeps.ite
    | with_reducible exact Keeps.refl _
    | with_reducible assumption
    | with_reducible apply sparseSet_wf
    | with_reducible apply sparseClear_wf
    | with_reducible apply sparseFilter_wf
    | with_reducible apply putRegs_wf
    | with_reducible apply applyKeys_wf
    | with_reducible apply State.loadJtag_keeps
    | with_reducible apply State.emit_keeps
    | with_reducible apply Keeps.foldl
    | with_reducible apply Keeps.foldl_fst
    | with_reducible refine Keeps.of_eq (by assumption) (Keeps.foldl_fst ?_ ?_)
    | intro _ _
    | intro _)

theorem execJtagSamplePreload_keeps : ∀ s, NextKeeps s (execJtagSamplePreload s) := by
  intro s
  unfold execJtagSamplePreload
  repeat' (first
    | with_reducible apply NextKeeps.next
    | with_reducible apply NextKeeps.ite
    | with_reducible exact Keeps.refl _
    | with_reducible assumption
    | with_reducible apply sparseSet_wf
    | with_reducible apply sparseClear_wf
    | with_reducible apply sparseFilter_wf
    | with_reducible apply putRegs_wf
    | with_reducible apply applyKeys_wf
    | with_reducible apply State.loadJtag_keeps)

theorem State.holdReset_keeps : ∀ {a0 s i}, Keeps a0 s → Keeps a0 (State.holdReset s i) := by
  intro a0 s i hk0
  unfold State.holdReset
  repeat' (first
    | with_reducible exact Keeps.refl _
    | with_reducible assumption
    | with_reducible apply sparseSet_wf
    | with_reducible apply sparseClear_wf
    | with_reducible apply sparseFilter_wf
    | with_reducible apply putRegs_wf
    | with_reducible apply applyKeys_wf
    | with_reducible apply State.loadJtag_keeps
    | with_reducible apply State.fresh_keeps
    | with_reducible apply Keeps.foldl
    | with_reducible apply Keeps.foldl_fst
    | with_reducible refine Keeps.of_eq (by assumption) (Keeps.foldl_fst ?_ ?_)
    | intro _ _
    | intro _
    | with_reducible apply Keeps.ite)

theorem execJtagExtest_keeps : ∀ s, NextKeeps s (execJtagExtest s) := by
  intro s
  unfold execJtagExtest
  repeat' (first
    | with_reducible apply NextKeeps.next
    | with_reducible apply NextKeeps.ite
    | with_reducible exact Keeps.refl _
    | with_reducible assumption
    | with_reducible apply sparseSet_wf
    | with_reducible apply sparseClear_wf
    | with_reducible apply sparseFilter_wf
    | with_reducible apply putRegs_wf
    | with_reducible apply applyKeys_wf
    | with_reducible apply State.holdReset_keeps)

theorem execJtagClamp_keeps : ∀ s, NextKeeps s (execJtagClamp s) := by
  intro s
  unfold execJtagClamp
  repeat' (first
    | with_reducible apply NextKeeps.next
    | with_reducible apply NextKeeps.ite
    | with_reducible exact Keeps.refl _
    | with_reducible assumption
    | with_reducible apply sparseSet_wf
    | with_reducible apply sparseClear_wf
    | with_reducible apply sparseFilter_wf
    | with_reducible apply putRegs_wf
    | with_reducible apply applyKeys_wf
    | with_reducible apply State.holdReset_keeps)

/-! ### Machine/StartUp.lean -/

theorem State.bootFlash_keeps : ∀ {a0 s}, Keeps a0 s → Keeps a0 (State.bootFlash s) := by
  intro a0 s hk0
  unfold State.bootFlash
  repeat' (first
    | with_reducible exact Keeps.refl _
    | with_reducible assumption
    | with_reducible apply sparseSet_wf
    | with_reducible apply sparseClear_wf
    | with_reducible apply sparseFilter_wf
    | with_reducible apply putRegs_wf
    | with_reducible apply applyKeys_wf
    | with_reducible apply State.logOpen_keeps
    | with_reducible apply State.setF_keeps
    | with_reducible apply State.setN_keeps
    | with_reducible apply Keeps.foldl
    | with_reducible apply Keeps.foldl_fst
    | with_reducible refine Keeps.of_eq (by assumption) (Keeps.foldl_fst ?_ ?_)
    | intro _ _
    | intro _
    | with_reducible apply Keeps.ite)

theorem State.bootFactory_keeps : ∀ {a0 s}, Keeps a0 s → Keeps a0 (State.bootFactory s) := by
  intro a0 s hk0
  unfold State.bootFactory
  repeat' (first
    | with_reducible exact Keeps.refl _
    | with_reducible assumption
    | with_reducible apply sparseSet_wf
    | with_reducible apply sparseClear_wf
    | with_reducible apply sparseFilter_wf
    | with_reducible apply putRegs_wf
    | with_reducible apply applyKeys_wf
    | with_reducible apply State.logOpen_keeps
    | with_reducible apply State.setF_keeps
    | with_reducible apply State.setN_keeps
    | with_reducible apply Keeps.foldl
    | with_reducible apply Keeps.foldl_fst
    | with_reducible refine Keeps.of_eq (by assumption) (Keeps.foldl_fst ?_ ?_)
    | intro _ _
    | intro _
    | with_reducible apply Keeps.ite
    | simp only [Keeps.mk_eq]
    | with_reducible apply KeepsMk.fields
    | with_reducible apply KeepsMk.memFields
    | with_reducible apply KeepsMk.msixFields
    | with_reducible apply KeepsMk.logFields
    | with_reducible apply KeepsMk.files
    | exact rfl
    | dsimp only
    | split)

theorem State.fellBack_keeps : ∀ {a0 s slot reason}, Keeps a0 s → Keeps a0 (State.fellBack s slot reason) := by
  intro a0 s slot reason hk0
  unfold State.fellBack
  repeat' (first
    | with_reducible exact Keeps.refl _
    | with_reducible assumption
    | with_reducible apply sparseSet_wf
    | with_reducible apply sparseClear_wf
    | with_reducible apply sparseFilter_wf
    | with_reducible apply putRegs_wf
    | with_reducible apply applyKeys_wf
    | with_reducible apply State.logOpen_keeps
    | with_reducible apply State.setF_keeps)

theorem State.trySlot_keeps : ∀ {a0 s k ecc}, Keeps a0 s → Keeps a0 (State.trySlot s k ecc).1 := by
  intro a0 s k ecc hk0
  unfold State.trySlot
  repeat' (first
    | with_reducible exact Keeps.refl _
    | with_reducible assumption
    | with_reducible apply sparseSet_wf
    | with_reducible apply sparseClear_wf
    | with_reducible apply sparseFilter_wf
    | with_reducible apply putRegs_wf
    | with_reducible apply applyKeys_wf
    | with_reducible apply State.journalAdd_keeps
    | with_reducible apply State.logOpen_keeps
    | with_reducible apply State.free_keeps
    | with_reducible refine Keeps.of_eq2 (by assumption) ?_
    | with_reducible apply Keeps.foldl
    | with_reducible apply Keeps.foldl_fst
    | with_reducible refine Keeps.of_eq (by assumption) (Keeps.foldl_fst ?_ ?_)
    | intro _ _
    | intro _
    | with_reducible apply Keeps.ite
    | simp only [Keeps.mk_eq]
    | with_reducible apply KeepsMk.fields
    | with_reducible apply KeepsMk.memFields
    | with_reducible apply KeepsMk.msixFields
    | with_reducible apply KeepsMk.logFields
    | with_reducible apply KeepsMk.files
    | exact rfl
    | dsimp only
    | split)

theorem State.trySlots_keeps' : ∀ {s ecc first x0}, Keeps s (State.trySlots s ecc first x0) := by
  intro s ecc first x0
  fun_induction State.trySlots s ecc first x0
  all_goals
  repeat' (first
    | with_reducible exact Keeps.refl _
    | with_reducible assumption
    | with_reducible refine Keeps.trans ?_ (by assumption)
    | with_reducible refine Keeps.trans ?_ (Keeps.of_eq (by assumption) (by assumption))
    | with_reducible apply sparseSet_wf
    | with_reducible apply sparseClear_wf
    | with_reducible apply sparseFilter_wf
    | with_reducible apply putRegs_wf
    | with_reducible apply applyKeys_wf
    | with_reducible apply State.fellBack_keeps
    | with_reducible apply State.logOpen_keeps
    | with_reducible apply State.trySlot_keeps
    | with_reducible refine Keeps.of_eq (by assumption) ?_)

theorem State.trySlots_keeps : ∀ {a0 s ecc first x0}, Keeps a0 s → Keeps a0 (State.trySlots s ecc first x0) := by
  intro a0 s ecc first x0 hk0
  exact hk0.trans (State.trySlots_keeps')

theorem State.bootSlot_keeps : ∀ {a0 s ecc}, Keeps a0 s → Keeps a0 (State.bootSlot s ecc) := by
  intro a0 s ecc hk0
  unfold State.bootSlot
  repeat' (first
    | with_reducible exact Keeps.refl _
    | with_reducible assumption
    | with_reducible apply sparseSet_wf
    | with_reducible apply sparseClear_wf
    | with_reducible apply sparseFilter_wf
    | with_reducible apply putRegs_wf
    | with_reducible apply applyKeys_wf
    | with_reducible apply State.showJournal_keeps
    | with_reducible apply State.fellBack_keeps
    | with_reducible apply State.trySlots_keeps
    | with_reducible apply State.set64_keeps
    | with_reducible apply State.setF_keeps
    | with_reducible apply State.setN_keeps
    | with_reducible apply Keeps.foldl
    | with_reducible apply Keeps.foldl_fst
    | with_reducible refine Keeps.of_eq (by assumption) (Keeps.foldl_fst ?_ ?_)
    | intro _ _
    | intro _
    | with_reducible apply Keeps.ite
    | dsimp only
    | with_reducible apply KeepsMk.fields
    | with_reducible apply KeepsMk.memFields
    | with_reducible apply KeepsMk.msixFields
    | with_reducible apply KeepsMk.logFields
    | with_reducible apply KeepsMk.files
    | exact rfl
    | dsimp only
    | split)

theorem State.bootCal_keeps : ∀ {a0 s}, Keeps a0 s → Keeps a0 (State.bootCal s).1 := by
  intro a0 s hk0
  unfold State.bootCal
  repeat' (first
    | with_reducible exact Keeps.refl _
    | with_reducible assumption
    | with_reducible apply sparseSet_wf
    | with_reducible apply sparseClear_wf
    | with_reducible apply sparseFilter_wf
    | with_reducible apply putRegs_wf
    | with_reducible apply applyKeys_wf
    | with_reducible apply State.logOpen_keeps
    | with_reducible apply State.setF_keeps
    | with_reducible apply State.setN_keeps
    | with_reducible apply Keeps.foldl
    | with_reducible apply Keeps.foldl_fst
    | with_reducible refine Keeps.of_eq (by assumption) (Keeps.foldl_fst ?_ ?_)
    | intro _ _
    | intro _
    | with_reducible apply Keeps.ite
    | simp only [Keeps.mk_eq]
    | with_reducible apply KeepsMk.fields
    | with_reducible apply KeepsMk.memFields
    | with_reducible apply KeepsMk.msixFields
    | with_reducible apply KeepsMk.logFields
    | with_reducible apply KeepsMk.files
    | exact rfl
    | dsimp only
    | split)

theorem State.bootValues_keeps : ∀ {a0 s cal}, Keeps a0 s → Keeps a0 (State.bootValues s cal) := by
  intro a0 s cal hk0
  unfold State.bootValues
  repeat' (first
    | with_reducible exact Keeps.refl _
    | with_reducible assumption
    | with_reducible apply sparseSet_wf
    | with_reducible apply sparseClear_wf
    | with_reducible apply sparseFilter_wf
    | with_reducible apply putRegs_wf
    | with_reducible apply applyKeys_wf
    | with_reducible apply State.applySettings_keeps
    | with_reducible apply State.putGrant_keeps
    | with_reducible apply State.logOpen_keeps
    | with_reducible apply State.setN_keeps
    | with_reducible apply Keeps.foldl
    | with_reducible apply Keeps.foldl_fst
    | with_reducible refine Keeps.of_eq (by assumption) (Keeps.foldl_fst ?_ ?_)
    | intro _ _
    | intro _
    | with_reducible apply Keeps.ite
    | simp only [Keeps.mk_eq]
    | with_reducible apply KeepsMk.fields)

theorem State.logBist_keeps : ∀ {a0 s weave side}, Keeps a0 s → Keeps a0 (State.logBist s weave side) := by
  intro a0 s weave side hk0
  unfold State.logBist
  repeat' (first
    | with_reducible exact Keeps.refl _
    | with_reducible assumption
    | with_reducible apply sparseSet_wf
    | with_reducible apply sparseClear_wf
    | with_reducible apply sparseFilter_wf
    | with_reducible apply putRegs_wf
    | with_reducible apply applyKeys_wf
    | with_reducible apply State.logOpen_keeps
    | with_reducible apply Keeps.foldl
    | with_reducible apply Keeps.foldl_fst
    | with_reducible refine Keeps.of_eq (by assumption) (Keeps.foldl_fst ?_ ?_)
    | intro _ _)

theorem State.putCaps_keeps : ∀ {a0 s weave side mw ms bw bs}, Keeps a0 s → Keeps a0 (State.putCaps s weave side mw ms bw bs) := by
  intro a0 s weave side mw ms bw bs hk0
  unfold State.putCaps
  repeat' (first
    | with_reducible exact Keeps.refl _
    | with_reducible assumption
    | with_reducible apply sparseSet_wf
    | with_reducible apply sparseClear_wf
    | with_reducible apply sparseFilter_wf
    | with_reducible apply putRegs_wf
    | with_reducible apply applyKeys_wf
    | with_reducible apply Keeps.foldl
    | with_reducible apply Keeps.foldl_fst
    | with_reducible refine Keeps.of_eq (by assumption) (Keeps.foldl_fst ?_ ?_)
    | intro _ _
    | intro _
    | with_reducible apply Keeps.ite
    | simp only [Keeps.mk_eq]
    | with_reducible apply KeepsMk.fields
    | with_reducible apply KeepsMk.memFields
    | with_reducible apply KeepsMk.msixFields
    | with_reducible apply KeepsMk.logFields
    | with_reducible apply KeepsMk.files)

theorem State.stopStart_keeps : ∀ {a0 s x}, Keeps a0 s → Keeps a0 (State.stopStart s x) := by
  intro a0 s x hk0
  unfold State.stopStart
  repeat' (first
    | with_reducible exact Keeps.refl _
    | with_reducible assumption
    | with_reducible apply sparseSet_wf
    | with_reducible apply sparseClear_wf
    | with_reducible apply sparseFilter_wf
    | with_reducible apply putRegs_wf
    | with_reducible apply applyKeys_wf
    | with_reducible apply State.logOpen_keeps
    | with_reducible apply State.setF_keeps
    | with_reducible apply Keeps.foldl
    | with_reducible apply Keeps.foldl_fst
    | with_reducible refine Keeps.of_eq (by assumption) (Keeps.foldl_fst ?_ ?_)
    | intro _ _
    | intro _
    | with_reducible apply Keeps.ite
    | simp only [Keeps.mk_eq]
    | with_reducible apply KeepsMk.fields)

theorem State.bootUnits_keeps {a0 s : State} {x : SelfTest} (hk : Keeps a0 s) : Keeps a0 (s.bootUnits x) := by
  unfold State.bootUnits
  extract_lets fw fs bw bs m void u mw ms weave side side2 v
  have hu : Keeps a0 u := State.logBist_keeps (Keeps.ite (fun _ => State.logOpen_keeps hk) (fun _ => hk))
  clear_value u
  refine Keeps.ite (fun _ => State.stopStart_keeps hu) (fun _ => ?_)
  have hv : Keeps a0 v := State.putCaps_keeps hu
  clear_value v
  refine hv.mem fun w => ?_
  rw [Mem.wf_iff] at w ⊢
  exact ⟨w.1, w.2.1, rfl, w.2.2.2⟩

theorem State.skipSection_keeps : ∀ {a0 s k t code}, Keeps a0 s → Keeps a0 (State.skipSection s k t code) := by
  intro a0 s k t code hk0
  unfold State.skipSection
  repeat' (first
    | with_reducible exact Keeps.refl _
    | with_reducible assumption
    | with_reducible apply sparseSet_wf
    | with_reducible apply sparseClear_wf
    | with_reducible apply sparseFilter_wf
    | with_reducible apply putRegs_wf
    | with_reducible apply applyKeys_wf
    | with_reducible apply State.logOpen_keeps
    | with_reducible apply State.logOne_keeps
    | with_reducible apply Keeps.foldl
    | with_reducible apply Keeps.foldl_fst
    | with_reducible refine Keeps.of_eq (by assumption) (Keeps.foldl_fst ?_ ?_)
    | intro _ _
    | intro _
    | with_reducible apply Keeps.ite
    | simp only [Keeps.mk_eq]
    | with_reducible apply KeepsMk.fields
    | with_reducible apply KeepsMk.memFields
    | with_reducible apply KeepsMk.msixFields
    | with_reducible apply KeepsMk.logFields
    | with_reducible apply KeepsMk.files
    | exact rfl
    | dsimp only
    | split)

theorem State.bootData_keeps : ∀ {a0 s k t b}, Keeps a0 s → Keeps a0 (State.bootData s k t b) := by
  intro a0 s k t b hk0
  unfold State.bootData
  repeat' (first
    | with_reducible exact Keeps.refl _
    | with_reducible assumption
    | with_reducible apply sparseSet_wf
    | with_reducible apply sparseClear_wf
    | with_reducible apply sparseFilter_wf
    | with_reducible apply putRegs_wf
    | with_reducible apply applyKeys_wf
    | with_reducible apply State.skipSection_keeps
    | with_reducible apply State.writeMem_keeps
    | with_reducible refine Keeps.of_eq (by assumption) ?_
    | with_reducible apply Keeps.foldl
    | with_reducible apply Keeps.foldl_fst
    | with_reducible refine Keeps.of_eq (by assumption) (Keeps.foldl_fst ?_ ?_)
    | intro _ _
    | intro _
    | with_reducible apply Keeps.ite
    | simp only [Keeps.mk_eq]
    | with_reducible apply KeepsMk.fields
    | with_reducible apply KeepsMk.memFields
    | with_reducible apply KeepsMk.msixFields
    | with_reducible apply KeepsMk.logFields
    | with_reducible apply KeepsMk.files
    | exact rfl
    | dsimp only
    | split)

theorem State.bootQp_keeps : ∀ {a0 s k t b}, Keeps a0 s → Keeps a0 (State.bootQp s k t b) := by
  intro a0 s k t b hk0
  unfold State.bootQp
  repeat' (first
    | with_reducible exact Keeps.refl _
    | with_reducible assumption
    | with_reducible apply sparseSet_wf
    | with_reducible apply sparseClear_wf
    | with_reducible apply sparseFilter_wf
    | with_reducible apply putRegs_wf
    | with_reducible apply applyKeys_wf
    | with_reducible apply State.skipSection_keeps
    | with_reducible apply State.updQp_keeps
    | with_reducible apply Keeps.foldl
    | with_reducible apply Keeps.foldl_fst
    | with_reducible refine Keeps.of_eq (by assumption) (Keeps.foldl_fst ?_ ?_)
    | intro _ _
    | intro _
    | with_reducible apply Keeps.ite
    | dsimp only
    | with_reducible apply KeepsMk.fields
    | with_reducible apply KeepsMk.memFields
    | with_reducible apply KeepsMk.msixFields
    | with_reducible apply KeepsMk.logFields
    | with_reducible apply KeepsMk.files
    | exact rfl
    | dsimp only
    | split)

theorem State.bootRegion_keeps : ∀ {a0 s k t b}, Keeps a0 s → Keeps a0 (State.bootRegion s k t b) := by
  intro a0 s k t b hk0
  unfold State.bootRegion
  repeat' (first
    | with_reducible exact Keeps.refl _
    | with_reducible assumption
    | with_reducible apply sparseSet_wf
    | with_reducible apply sparseClear_wf
    | with_reducible apply sparseFilter_wf
    | with_reducible apply putRegs_wf
    | with_reducible apply applyKeys_wf
    | with_reducible apply State.skipSection_keeps
    | with_reducible apply State.putRegion_keeps
    | with_reducible refine Keeps.of_eq (by assumption) ?_
    | with_reducible apply Keeps.foldl
    | with_reducible apply Keeps.foldl_fst
    | with_reducible refine Keeps.of_eq (by assumption) (Keeps.foldl_fst ?_ ?_)
    | intro _ _
    | intro _
    | with_reducible apply Keeps.ite)

theorem State.bootSection_keeps : ∀ {a0 s t k}, Keeps a0 s → Keeps a0 (State.bootSection s t k) := by
  intro a0 s t k hk0
  unfold State.bootSection
  repeat' (first
    | with_reducible exact Keeps.refl _
    | with_reducible assumption
    | with_reducible apply sparseSet_wf
    | with_reducible apply sparseClear_wf
    | with_reducible apply sparseFilter_wf
    | with_reducible apply putRegs_wf
    | with_reducible apply applyKeys_wf
    | with_reducible apply State.bootRegion_keeps
    | with_reducible apply State.bootData_keeps
    | with_reducible apply State.bootQp_keeps
    | with_reducible apply Keeps.foldl
    | with_reducible apply Keeps.foldl_fst
    | with_reducible refine Keeps.of_eq (by assumption) (Keeps.foldl_fst ?_ ?_)
    | intro _ _
    | intro _
    | with_reducible apply Keeps.ite
    | dsimp only
    | with_reducible apply KeepsMk.fields
    | with_reducible apply KeepsMk.memFields
    | with_reducible apply KeepsMk.msixFields
    | with_reducible apply KeepsMk.logFields
    | with_reducible apply KeepsMk.files
    | exact rfl
    | dsimp only
    | split)

theorem State.fillTenant_keeps : ∀ {a0 s t}, Keeps a0 s → Keeps a0 (State.fillTenant s t) := by
  intro a0 s t hk0
  unfold State.fillTenant
  repeat' (first
    | with_reducible exact Keeps.refl _
    | with_reducible assumption
    | with_reducible apply sparseSet_wf
    | with_reducible apply sparseClear_wf
    | with_reducible apply sparseFilter_wf
    | with_reducible apply putRegs_wf
    | with_reducible apply applyKeys_wf
    | with_reducible apply State.bootSection_keeps
    | with_reducible apply Keeps.foldl
    | with_reducible apply Keeps.foldl_fst
    | with_reducible refine Keeps.of_eq (by assumption) (Keeps.foldl_fst ?_ ?_)
    | intro _ _)

theorem State.bootRefused_keeps : ∀ {a0 s code tenant detail}, Keeps a0 s → Keeps a0 (State.bootRefused s code tenant detail) := by
  intro a0 s code tenant detail hk0
  unfold State.bootRefused
  repeat' (first
    | with_reducible exact Keeps.refl _
    | with_reducible assumption
    | with_reducible apply sparseSet_wf
    | with_reducible apply sparseClear_wf
    | with_reducible apply sparseFilter_wf
    | with_reducible apply putRegs_wf
    | with_reducible apply applyKeys_wf
    | with_reducible apply State.logOpen_keeps
    | with_reducible apply Keeps.foldl
    | with_reducible apply Keeps.foldl_fst
    | with_reducible refine Keeps.of_eq (by assumption) (Keeps.foldl_fst ?_ ?_)
    | intro _ _
    | intro _
    | with_reducible apply Keeps.ite
    | simp only [Keeps.mk_eq]
    | with_reducible apply KeepsMk.fields)

theorem State.setupTenants_keeps' : ∀ {s x0}, Keeps s (State.setupTenants s x0).1 := by
  intro s x0
  fun_induction State.setupTenants s x0
  all_goals
  repeat' (first
    | with_reducible exact Keeps.refl _
    | with_reducible assumption
    | with_reducible refine Keeps.trans ?_ (by assumption)
    | with_reducible apply sparseSet_wf
    | with_reducible apply sparseClear_wf
    | with_reducible apply sparseFilter_wf
    | with_reducible apply putRegs_wf
    | with_reducible apply applyKeys_wf
    | with_reducible apply State.bootRefused_keeps
    | with_reducible apply State.fillTenant_keeps
    | with_reducible apply State.create_keeps
    | with_reducible refine Keeps.of_created (by assumption) ?_
    | with_reducible refine Keeps.of_waits (by assumption) ?_
    | with_reducible apply Keeps.foldl
    | with_reducible apply Keeps.foldl_fst
    | with_reducible refine Keeps.of_eq (by assumption) (Keeps.foldl_fst ?_ ?_)
    | intro _ _
    | intro _
    | with_reducible apply Keeps.ite
    | simp only [Keeps.mk_eq]
    | with_reducible apply KeepsMk.fields)

theorem State.setupTenants_keeps : ∀ {a0 s x0}, Keeps a0 s → Keeps a0 (State.setupTenants s x0).1 := by
  intro a0 s x0 hk0
  exact hk0.trans (State.setupTenants_keeps')

theorem State.admitStanding_keeps : ∀ {a0 s x b}, Keeps a0 s → Keeps a0 (State.admitStanding s x b) := by
  intro a0 s x b hk0
  unfold State.admitStanding
  repeat' (first
    | with_reducible exact Keeps.refl _
    | with_reducible assumption
    | with_reducible apply sparseSet_wf
    | with_reducible apply sparseClear_wf
    | with_reducible apply sparseFilter_wf
    | with_reducible apply putRegs_wf
    | with_reducible apply applyKeys_wf
    | with_reducible apply State.bootRefused_keeps
    | with_reducible apply State.noteLayout_keeps
    | with_reducible apply State.admitRota_keeps
    | with_reducible apply State.readMem_keeps
    | with_reducible refine Keeps.of_eq (by assumption) ?_
    | with_reducible apply Keeps.foldl
    | with_reducible apply Keeps.foldl_fst
    | with_reducible refine Keeps.of_eq (by assumption) (Keeps.foldl_fst ?_ ?_)
    | intro _ _
    | intro _
    | with_reducible apply Keeps.ite
    | dsimp only
    | with_reducible apply KeepsMk.fields
    | with_reducible apply KeepsMk.memFields
    | with_reducible apply KeepsMk.msixFields
    | with_reducible apply KeepsMk.logFields
    | with_reducible apply KeepsMk.files
    | exact rfl
    | dsimp only
    | split)

theorem State.bootStanding_keeps : ∀ {a0 s k}, Keeps a0 s → Keeps a0 (State.bootStanding s k) := by
  intro a0 s k hk0
  unfold State.bootStanding
  repeat' (first
    | with_reducible exact Keeps.refl _
    | with_reducible assumption
    | with_reducible apply sparseSet_wf
    | with_reducible apply sparseClear_wf
    | with_reducible apply sparseFilter_wf
    | with_reducible apply putRegs_wf
    | with_reducible apply applyKeys_wf
    | with_reducible apply State.admitStanding_keeps
    | with_reducible apply State.bootRefused_keeps
    | with_reducible apply State.writeMem_keeps
    | with_reducible refine Keeps.of_eq (by assumption) ?_
    | with_reducible apply Keeps.foldl
    | with_reducible apply Keeps.foldl_fst
    | with_reducible refine Keeps.of_eq (by assumption) (Keeps.foldl_fst ?_ ?_)
    | intro _ _
    | intro _
    | with_reducible apply Keeps.ite
    | dsimp only
    | with_reducible apply KeepsMk.fields
    | with_reducible apply KeepsMk.memFields
    | with_reducible apply KeepsMk.msixFields
    | with_reducible apply KeepsMk.logFields
    | with_reducible apply KeepsMk.files
    | exact rfl
    | dsimp only
    | split)

theorem State.skipOrphans_keeps : ∀ {a0 s}, Keeps a0 s → Keeps a0 (State.skipOrphans s) := by
  intro a0 s hk0
  unfold State.skipOrphans
  repeat' (first
    | with_reducible exact Keeps.refl _
    | with_reducible assumption
    | with_reducible apply sparseSet_wf
    | with_reducible apply sparseClear_wf
    | with_reducible apply sparseFilter_wf
    | with_reducible apply putRegs_wf
    | with_reducible apply applyKeys_wf
    | with_reducible apply State.skipSection_keeps
    | with_reducible apply Keeps.foldl
    | with_reducible apply Keeps.foldl_fst
    | with_reducible refine Keeps.of_eq (by assumption) (Keeps.foldl_fst ?_ ?_)
    | intro _ _)

theorem State.ready_keeps : ∀ {a0 s}, Keeps a0 s → Keeps a0 (State.ready s) := by
  intro a0 s hk0
  unfold State.ready
  repeat' (first
    | with_reducible exact Keeps.refl _
    | with_reducible assumption
    | with_reducible apply sparseSet_wf
    | with_reducible apply sparseClear_wf
    | with_reducible apply sparseFilter_wf
    | with_reducible apply putRegs_wf
    | with_reducible apply applyKeys_wf
    | with_reducible apply State.journalAdd_keeps
    | with_reducible apply State.setF_keeps
    | with_reducible apply Keeps.foldl
    | with_reducible apply Keeps.foldl_fst
    | with_reducible refine Keeps.of_eq (by assumption) (Keeps.foldl_fst ?_ ?_)
    | intro _ _
    | intro _
    | with_reducible apply Keeps.ite
    | simp only [Keeps.mk_eq]
    | with_reducible apply KeepsMk.fields
    | with_reducible apply KeepsMk.memFields
    | with_reducible apply KeepsMk.msixFields
    | with_reducible apply KeepsMk.logFields
    | with_reducible apply KeepsMk.files
    | exact rfl
    | dsimp only
    | split)

theorem State.bootFrom_keeps : ∀ {a0 s l}, Keeps a0 s → Keeps a0 (State.bootFrom s l) := by
  intro a0 s l hk0
  unfold State.bootFrom
  repeat' (first
    | with_reducible exact Keeps.refl _
    | with_reducible assumption
    | with_reducible apply sparseSet_wf
    | with_reducible apply sparseClear_wf
    | with_reducible apply sparseFilter_wf
    | with_reducible apply putRegs_wf
    | with_reducible apply applyKeys_wf
    | with_reducible apply State.bootStanding_keeps
    | with_reducible apply State.setupTenants_keeps
    | with_reducible apply State.skipOrphans_keeps
    | with_reducible apply State.ready_keeps
    | with_reducible refine Keeps.of_eq (by assumption) ?_
    | with_reducible apply Keeps.foldl
    | with_reducible apply Keeps.foldl_fst
    | with_reducible refine Keeps.of_eq (by assumption) (Keeps.foldl_fst ?_ ?_)
    | intro _ _
    | intro _
    | with_reducible apply Keeps.ite
    | simp only [Keeps.mk_eq]
    | with_reducible apply KeepsMk.fields
    | with_reducible apply KeepsMk.memFields
    | with_reducible apply KeepsMk.msixFields
    | with_reducible apply KeepsMk.logFields
    | with_reducible apply KeepsMk.files
    | exact rfl
    | dsimp only
    | split)

theorem execStartUp_keeps (flash : Option FlashImage) (self : SelfTest) (now ptp : Nat) (s : State) :
    NextKeeps s (execStartUp flash self now ptp s) := by
  unfold execStartUp
  refine NextKeeps.ite (fun _ => NextKeeps.next (Keeps.refl s)) (fun _ => ?_)
  extract_lets b u v c w
  have hu : Keeps s u := by
    have hf : s.flash.wf = true → (match flash with | some x => FlashImage.flash x | none => s.flash).wf = true := by
      split
      · exact fun _ => FlashImage.flash_wf _
      · exact id
    exact KeepsMk.files (u := s) (Keeps.refl s) id id id id id id id hf id
  clear_value u
  have hv : Keeps s v := State.bootSlot_keeps (State.bootFactory_keeps (State.bootFlash_keeps (State.noteTimes_keeps hu)))
  clear_value v
  have hc : Keeps s c.1 := State.bootCal_keeps hv
  clear_value c
  have hw : Keeps s w := State.bootUnits_keeps (State.bootValues_keeps hc)
  clear_value w
  exact NextKeeps.ite (fun _ => NextKeeps.next hw) (fun _ => NextKeeps.next (State.bootFrom_keeps hw))

theorem execTenCreateComplete_keeps : ∀ s, NextKeeps s (execTenCreateComplete s) := by
  intro s
  unfold execTenCreateComplete
  repeat' (first
    | with_reducible apply NextKeeps.next
    | with_reducible apply NextKeeps.ite
    | with_reducible exact Keeps.refl _
    | with_reducible assumption
    | with_reducible apply sparseSet_wf
    | with_reducible apply sparseClear_wf
    | with_reducible apply sparseFilter_wf
    | with_reducible apply putRegs_wf
    | with_reducible apply applyKeys_wf
    | with_reducible apply State.bootRefused_keeps
    | with_reducible refine State.retryCreate_keeps (by assumption) ?_
    | with_reducible apply State.fillTenant_keeps
    | with_reducible apply State.bootFrom_keeps
    | with_reducible apply State.endLong_keeps
    | with_reducible apply Keeps.foldl
    | with_reducible apply Keeps.foldl_fst
    | with_reducible refine Keeps.of_eq (by assumption) (Keeps.foldl_fst ?_ ?_)
    | intro _ _
    | intro _
    | with_reducible apply Keeps.ite
    | simp only [Keeps.mk_eq]
    | with_reducible apply KeepsMk.fields
    | with_reducible apply KeepsMk.memFields
    | with_reducible apply KeepsMk.msixFields
    | with_reducible apply KeepsMk.logFields
    | with_reducible apply KeepsMk.files
    | exact rfl
    | dsimp only
    | split)

/-! ### Machine/Tick.lean -/

theorem State.fillAccounts_keeps : ∀ {a0 s}, Keeps a0 s → Keeps a0 (State.fillAccounts s) := by
  intro a0 s hk0
  unfold State.fillAccounts
  repeat' (first
    | with_reducible exact Keeps.refl _
    | with_reducible assumption
    | with_reducible apply Keeps.foldl
    | with_reducible apply Keeps.foldl_fst
    | with_reducible refine Keeps.of_eq (by assumption) (Keeps.foldl_fst ?_ ?_)
    | intro _ _
    | intro _
    | with_reducible apply Keeps.ite
    | simp only [Keeps.mk_eq]
    | with_reducible apply KeepsMk.fields
    | with_reducible apply KeepsMk.memFields)

theorem State.runCourses_keeps : ∀ {a0 s}, Keeps a0 s → Keeps a0 (State.runCourses s) := by
  intro a0 s hk0
  unfold State.runCourses
  repeat' (first
    | with_reducible exact Keeps.refl _
    | with_reducible assumption
    | with_reducible apply Keeps.foldl
    | with_reducible apply Keeps.foldl_fst
    | with_reducible refine Keeps.of_eq (by assumption) (Keeps.foldl_fst ?_ ?_)
    | intro _ _
    | intro _
    | with_reducible apply Keeps.ite
    | simp only [Keeps.mk_eq]
    | with_reducible apply KeepsMk.fields)

theorem State.tickPause_keeps : ∀ {a0 s p}, Keeps a0 s → Keeps a0 (State.tickPause s p) := by
  intro a0 s p hk0
  unfold State.tickPause
  repeat' (first
    | with_reducible exact Keeps.refl _
    | with_reducible assumption
    | with_reducible apply State.sendPort_keeps
    | with_reducible apply State.updPort_keeps
    | with_reducible apply Keeps.foldl
    | with_reducible apply Keeps.foldl_fst
    | with_reducible refine Keeps.of_eq (by assumption) (Keeps.foldl_fst ?_ ?_)
    | intro _ _
    | intro _
    | with_reducible apply Keeps.ite)

theorem State.tickStaging_keeps : ∀ {a0 s}, Keeps a0 s → Keeps a0 (State.tickStaging s) := by
  intro a0 s hk0
  unfold State.tickStaging
  repeat' (first
    | with_reducible exact Keeps.refl _
    | with_reducible assumption
    | with_reducible apply State.stageTask_keeps
    | with_reducible apply Keeps.foldl
    | with_reducible apply Keeps.foldl_fst
    | with_reducible refine Keeps.of_eq (by assumption) (Keeps.foldl_fst ?_ ?_)
    | intro _ _)

theorem State.schedCycle_keeps : ∀ {a0 s}, Keeps a0 s → Keeps a0 (State.schedCycle s) := by
  intro a0 s hk0
  unfold State.schedCycle
  repeat' (first
    | with_reducible exact Keeps.refl _
    | with_reducible assumption
    | with_reducible apply State.fillAccounts_keeps
    | with_reducible apply State.tickStaging_keeps
    | with_reducible apply State.runCourses_keeps
    | with_reducible apply State.count64_keeps
    | with_reducible apply State.serveRx_keeps
    | with_reducible apply Keeps.foldl
    | with_reducible apply Keeps.foldl_fst
    | with_reducible refine Keeps.of_eq (by assumption) (Keeps.foldl_fst ?_ ?_)
    | intro _ _)

theorem State.idle_keeps : ∀ {a0 s}, Keeps a0 s → Keeps a0 (State.idle s) := by
  intro a0 s hk0
  unfold State.idle
  repeat' (first
    | with_reducible exact Keeps.refl _
    | with_reducible assumption
    | with_reducible apply State.schedCycle_keeps
    | with_reducible apply State.tickPause_keeps
    | with_reducible apply Keeps.foldl
    | with_reducible apply Keeps.foldl_fst
    | with_reducible refine Keeps.of_eq (by assumption) (Keeps.foldl_fst ?_ ?_)
    | intro _ _
    | intro _
    | with_reducible apply Keeps.ite)

end Sys2Proof.Machine
end

