-- ==== Sys2Proof/Laws/State.lean ====
section
/-! SUPPORT. The updates of the state: what each leaves of every field, and what a read finds after a write. -/

namespace Sys2Proof.Machine

/-! ### `State.set` -/

@[simp] theorem State.set_pending (s : State) (off : Nat) (v : Word) : (s.set off v).pending = s.pending := rfl
@[simp] theorem State.set_freeNo (s : State) (off : Nat) (v : Word) : (s.set off v).freeNo = s.freeNo := rfl
@[simp] theorem State.set_chip (s : State) (off : Nat) (v : Word) : (s.set off v).chip = s.chip := rfl
@[simp] theorem State.set_shadow (s : State) (off : Nat) (v : Word) : (s.set off v).shadow = s.shadow := rfl
@[simp] theorem State.set_vf (s : State) (off : Nat) (v : Word) : (s.set off v).vf = s.vf := rfl
@[simp] theorem State.set_latch (s : State) (off : Nat) (v : Word) : (s.set off v).latch = s.latch := rfl
@[simp] theorem State.set_beat (s : State) (off : Nat) (v : Word) : (s.set off v).beat = s.beat := rfl
@[simp] theorem State.set_ptp (s : State) (off : Nat) (v : Word) : (s.set off v).ptp = s.ptp := rfl
@[simp] theorem State.set_mem (s : State) (off : Nat) (v : Word) : (s.set off v).mem = s.mem := rfl
@[simp] theorem State.set_host (s : State) (off : Nat) (v : Word) : (s.set off v).host = s.host := rfl
@[simp] theorem State.set_msix (s : State) (off : Nat) (v : Word) : (s.set off v).msix = s.msix := rfl
@[simp] theorem State.set_tenants (s : State) (off : Nat) (v : Word) : (s.set off v).tenants = s.tenants := rfl
@[simp] theorem State.set_epochs (s : State) (off : Nat) (v : Word) : (s.set off v).epochs = s.epochs := rfl
@[simp] theorem State.set_rotas (s : State) (off : Nat) (v : Word) : (s.set off v).rotas = s.rotas := rfl
@[simp] theorem State.set_tasks (s : State) (off : Nat) (v : Word) : (s.set off v).tasks = s.tasks := rfl
@[simp] theorem State.set_stakes (s : State) (off : Nat) (v : Word) : (s.set off v).stakes = s.stakes := rfl
@[simp] theorem State.set_waits (s : State) (off : Nat) (v : Word) : (s.set off v).waits = s.waits := rfl
@[simp] theorem State.set_commit (s : State) (off : Nat) (v : Word) : (s.set off v).commit = s.commit := rfl
@[simp] theorem State.set_qps (s : State) (off : Nat) (v : Word) : (s.set off v).qps = s.qps := rfl
@[simp] theorem State.set_net (s : State) (off : Nat) (v : Word) : (s.set off v).net = s.net := rfl
@[simp] theorem State.set_coilReqs (s : State) (off : Nat) (v : Word) : (s.set off v).coilReqs = s.coilReqs := rfl
@[simp] theorem State.set_mbx (s : State) (off : Nat) (v : Word) : (s.set off v).mbx = s.mbx := rfl
@[simp] theorem State.set_pldm (s : State) (off : Nat) (v : Word) : (s.set off v).pldm = s.pldm := rfl
@[simp] theorem State.set_tele (s : State) (off : Nat) (v : Word) : (s.set off v).tele = s.tele := rfl
@[simp] theorem State.set_flash (s : State) (off : Nat) (v : Word) : (s.set off v).flash = s.flash := rfl
@[simp] theorem State.set_boot (s : State) (off : Nat) (v : Word) : (s.set off v).boot = s.boot := rfl
@[simp] theorem State.set_power (s : State) (off : Nat) (v : Word) : (s.set off v).power = s.power := rfl
@[simp] theorem State.set_log (s : State) (off : Nat) (v : Word) : (s.set off v).log = s.log := rfl
@[simp] theorem State.set_hostNo (s : State) (off : Nat) (v : Word) : (s.set off v).hostNo = s.hostNo := rfl
@[simp] theorem State.set_atc (s : State) (off : Nat) (v : Word) : (s.set off v).atc = s.atc := rfl
@[simp] theorem State.set_held (s : State) (off : Nat) (v : Word) : (s.set off v).held = s.held := rfl
@[simp] theorem State.set_reads (s : State) (off : Nat) (v : Word) : (s.set off v).reads = s.reads := rfl
@[simp] theorem State.set_out (s : State) (off : Nat) (v : Word) : (s.set off v).out = s.out := rfl

/-! ### `State.setN` -/

@[simp] theorem State.setN_pending (s : State) (off v : Nat) : (s.setN off v).pending = s.pending := rfl
@[simp] theorem State.setN_freeNo (s : State) (off v : Nat) : (s.setN off v).freeNo = s.freeNo := rfl
@[simp] theorem State.setN_chip (s : State) (off v : Nat) : (s.setN off v).chip = s.chip := rfl
@[simp] theorem State.setN_shadow (s : State) (off v : Nat) : (s.setN off v).shadow = s.shadow := rfl
@[simp] theorem State.setN_vf (s : State) (off v : Nat) : (s.setN off v).vf = s.vf := rfl
@[simp] theorem State.setN_latch (s : State) (off v : Nat) : (s.setN off v).latch = s.latch := rfl
@[simp] theorem State.setN_beat (s : State) (off v : Nat) : (s.setN off v).beat = s.beat := rfl
@[simp] theorem State.setN_ptp (s : State) (off v : Nat) : (s.setN off v).ptp = s.ptp := rfl
@[simp] theorem State.setN_mem (s : State) (off v : Nat) : (s.setN off v).mem = s.mem := rfl
@[simp] theorem State.setN_host (s : State) (off v : Nat) : (s.setN off v).host = s.host := rfl
@[simp] theorem State.setN_msix (s : State) (off v : Nat) : (s.setN off v).msix = s.msix := rfl
@[simp] theorem State.setN_tenants (s : State) (off v : Nat) : (s.setN off v).tenants = s.tenants := rfl
@[simp] theorem State.setN_epochs (s : State) (off v : Nat) : (s.setN off v).epochs = s.epochs := rfl
@[simp] theorem State.setN_rotas (s : State) (off v : Nat) : (s.setN off v).rotas = s.rotas := rfl
@[simp] theorem State.setN_tasks (s : State) (off v : Nat) : (s.setN off v).tasks = s.tasks := rfl
@[simp] theorem State.setN_stakes (s : State) (off v : Nat) : (s.setN off v).stakes = s.stakes := rfl
@[simp] theorem State.setN_waits (s : State) (off v : Nat) : (s.setN off v).waits = s.waits := rfl
@[simp] theorem State.setN_commit (s : State) (off v : Nat) : (s.setN off v).commit = s.commit := rfl
@[simp] theorem State.setN_qps (s : State) (off v : Nat) : (s.setN off v).qps = s.qps := rfl
@[simp] theorem State.setN_net (s : State) (off v : Nat) : (s.setN off v).net = s.net := rfl
@[simp] theorem State.setN_coilReqs (s : State) (off v : Nat) : (s.setN off v).coilReqs = s.coilReqs := rfl
@[simp] theorem State.setN_mbx (s : State) (off v : Nat) : (s.setN off v).mbx = s.mbx := rfl
@[simp] theorem State.setN_pldm (s : State) (off v : Nat) : (s.setN off v).pldm = s.pldm := rfl
@[simp] theorem State.setN_tele (s : State) (off v : Nat) : (s.setN off v).tele = s.tele := rfl
@[simp] theorem State.setN_flash (s : State) (off v : Nat) : (s.setN off v).flash = s.flash := rfl
@[simp] theorem State.setN_boot (s : State) (off v : Nat) : (s.setN off v).boot = s.boot := rfl
@[simp] theorem State.setN_power (s : State) (off v : Nat) : (s.setN off v).power = s.power := rfl
@[simp] theorem State.setN_log (s : State) (off v : Nat) : (s.setN off v).log = s.log := rfl
@[simp] theorem State.setN_hostNo (s : State) (off v : Nat) : (s.setN off v).hostNo = s.hostNo := rfl
@[simp] theorem State.setN_atc (s : State) (off v : Nat) : (s.setN off v).atc = s.atc := rfl
@[simp] theorem State.setN_held (s : State) (off v : Nat) : (s.setN off v).held = s.held := rfl
@[simp] theorem State.setN_reads (s : State) (off v : Nat) : (s.setN off v).reads = s.reads := rfl
@[simp] theorem State.setN_out (s : State) (off v : Nat) : (s.setN off v).out = s.out := rfl

/-! ### `State.setF` -/

@[simp] theorem State.setF_pending (s : State) (off hi lo v : Nat) : (s.setF off hi lo v).pending = s.pending := rfl
@[simp] theorem State.setF_freeNo (s : State) (off hi lo v : Nat) : (s.setF off hi lo v).freeNo = s.freeNo := rfl
@[simp] theorem State.setF_chip (s : State) (off hi lo v : Nat) : (s.setF off hi lo v).chip = s.chip := rfl
@[simp] theorem State.setF_shadow (s : State) (off hi lo v : Nat) : (s.setF off hi lo v).shadow = s.shadow := rfl
@[simp] theorem State.setF_vf (s : State) (off hi lo v : Nat) : (s.setF off hi lo v).vf = s.vf := rfl
@[simp] theorem State.setF_latch (s : State) (off hi lo v : Nat) : (s.setF off hi lo v).latch = s.latch := rfl
@[simp] theorem State.setF_beat (s : State) (off hi lo v : Nat) : (s.setF off hi lo v).beat = s.beat := rfl
@[simp] theorem State.setF_ptp (s : State) (off hi lo v : Nat) : (s.setF off hi lo v).ptp = s.ptp := rfl
@[simp] theorem State.setF_mem (s : State) (off hi lo v : Nat) : (s.setF off hi lo v).mem = s.mem := rfl
@[simp] theorem State.setF_host (s : State) (off hi lo v : Nat) : (s.setF off hi lo v).host = s.host := rfl
@[simp] theorem State.setF_msix (s : State) (off hi lo v : Nat) : (s.setF off hi lo v).msix = s.msix := rfl
@[simp] theorem State.setF_tenants (s : State) (off hi lo v : Nat) : (s.setF off hi lo v).tenants = s.tenants := rfl
@[simp] theorem State.setF_epochs (s : State) (off hi lo v : Nat) : (s.setF off hi lo v).epochs = s.epochs := rfl
@[simp] theorem State.setF_rotas (s : State) (off hi lo v : Nat) : (s.setF off hi lo v).rotas = s.rotas := rfl
@[simp] theorem State.setF_tasks (s : State) (off hi lo v : Nat) : (s.setF off hi lo v).tasks = s.tasks := rfl
@[simp] theorem State.setF_stakes (s : State) (off hi lo v : Nat) : (s.setF off hi lo v).stakes = s.stakes := rfl
@[simp] theorem State.setF_waits (s : State) (off hi lo v : Nat) : (s.setF off hi lo v).waits = s.waits := rfl
@[simp] theorem State.setF_commit (s : State) (off hi lo v : Nat) : (s.setF off hi lo v).commit = s.commit := rfl
@[simp] theorem State.setF_qps (s : State) (off hi lo v : Nat) : (s.setF off hi lo v).qps = s.qps := rfl
@[simp] theorem State.setF_net (s : State) (off hi lo v : Nat) : (s.setF off hi lo v).net = s.net := rfl
@[simp] theorem State.setF_coilReqs (s : State) (off hi lo v : Nat) : (s.setF off hi lo v).coilReqs = s.coilReqs := rfl
@[simp] theorem State.setF_mbx (s : State) (off hi lo v : Nat) : (s.setF off hi lo v).mbx = s.mbx := rfl
@[simp] theorem State.setF_pldm (s : State) (off hi lo v : Nat) : (s.setF off hi lo v).pldm = s.pldm := rfl
@[simp] theorem State.setF_tele (s : State) (off hi lo v : Nat) : (s.setF off hi lo v).tele = s.tele := rfl
@[simp] theorem State.setF_flash (s : State) (off hi lo v : Nat) : (s.setF off hi lo v).flash = s.flash := rfl
@[simp] theorem State.setF_boot (s : State) (off hi lo v : Nat) : (s.setF off hi lo v).boot = s.boot := rfl
@[simp] theorem State.setF_power (s : State) (off hi lo v : Nat) : (s.setF off hi lo v).power = s.power := rfl
@[simp] theorem State.setF_log (s : State) (off hi lo v : Nat) : (s.setF off hi lo v).log = s.log := rfl
@[simp] theorem State.setF_hostNo (s : State) (off hi lo v : Nat) : (s.setF off hi lo v).hostNo = s.hostNo := rfl
@[simp] theorem State.setF_atc (s : State) (off hi lo v : Nat) : (s.setF off hi lo v).atc = s.atc := rfl
@[simp] theorem State.setF_held (s : State) (off hi lo v : Nat) : (s.setF off hi lo v).held = s.held := rfl
@[simp] theorem State.setF_reads (s : State) (off hi lo v : Nat) : (s.setF off hi lo v).reads = s.reads := rfl
@[simp] theorem State.setF_out (s : State) (off hi lo v : Nat) : (s.setF off hi lo v).out = s.out := rfl

/-! ### `State.set64` -/

@[simp] theorem State.set64_pending (s : State) (off v : Nat) : (s.set64 off v).pending = s.pending := rfl
@[simp] theorem State.set64_freeNo (s : State) (off v : Nat) : (s.set64 off v).freeNo = s.freeNo := rfl
@[simp] theorem State.set64_chip (s : State) (off v : Nat) : (s.set64 off v).chip = s.chip := rfl
@[simp] theorem State.set64_shadow (s : State) (off v : Nat) : (s.set64 off v).shadow = s.shadow := rfl
@[simp] theorem State.set64_vf (s : State) (off v : Nat) : (s.set64 off v).vf = s.vf := rfl
@[simp] theorem State.set64_latch (s : State) (off v : Nat) : (s.set64 off v).latch = s.latch := rfl
@[simp] theorem State.set64_beat (s : State) (off v : Nat) : (s.set64 off v).beat = s.beat := rfl
@[simp] theorem State.set64_ptp (s : State) (off v : Nat) : (s.set64 off v).ptp = s.ptp := rfl
@[simp] theorem State.set64_mem (s : State) (off v : Nat) : (s.set64 off v).mem = s.mem := rfl
@[simp] theorem State.set64_host (s : State) (off v : Nat) : (s.set64 off v).host = s.host := rfl
@[simp] theorem State.set64_msix (s : State) (off v : Nat) : (s.set64 off v).msix = s.msix := rfl
@[simp] theorem State.set64_tenants (s : State) (off v : Nat) : (s.set64 off v).tenants = s.tenants := rfl
@[simp] theorem State.set64_epochs (s : State) (off v : Nat) : (s.set64 off v).epochs = s.epochs := rfl
@[simp] theorem State.set64_rotas (s : State) (off v : Nat) : (s.set64 off v).rotas = s.rotas := rfl
@[simp] theorem State.set64_tasks (s : State) (off v : Nat) : (s.set64 off v).tasks = s.tasks := rfl
@[simp] theorem State.set64_stakes (s : State) (off v : Nat) : (s.set64 off v).stakes = s.stakes := rfl
@[simp] theorem State.set64_waits (s : State) (off v : Nat) : (s.set64 off v).waits = s.waits := rfl
@[simp] theorem State.set64_commit (s : State) (off v : Nat) : (s.set64 off v).commit = s.commit := rfl
@[simp] theorem State.set64_qps (s : State) (off v : Nat) : (s.set64 off v).qps = s.qps := rfl
@[simp] theorem State.set64_net (s : State) (off v : Nat) : (s.set64 off v).net = s.net := rfl
@[simp] theorem State.set64_coilReqs (s : State) (off v : Nat) : (s.set64 off v).coilReqs = s.coilReqs := rfl
@[simp] theorem State.set64_mbx (s : State) (off v : Nat) : (s.set64 off v).mbx = s.mbx := rfl
@[simp] theorem State.set64_pldm (s : State) (off v : Nat) : (s.set64 off v).pldm = s.pldm := rfl
@[simp] theorem State.set64_tele (s : State) (off v : Nat) : (s.set64 off v).tele = s.tele := rfl
@[simp] theorem State.set64_flash (s : State) (off v : Nat) : (s.set64 off v).flash = s.flash := rfl
@[simp] theorem State.set64_boot (s : State) (off v : Nat) : (s.set64 off v).boot = s.boot := rfl
@[simp] theorem State.set64_power (s : State) (off v : Nat) : (s.set64 off v).power = s.power := rfl
@[simp] theorem State.set64_log (s : State) (off v : Nat) : (s.set64 off v).log = s.log := rfl
@[simp] theorem State.set64_hostNo (s : State) (off v : Nat) : (s.set64 off v).hostNo = s.hostNo := rfl
@[simp] theorem State.set64_atc (s : State) (off v : Nat) : (s.set64 off v).atc = s.atc := rfl
@[simp] theorem State.set64_held (s : State) (off v : Nat) : (s.set64 off v).held = s.held := rfl
@[simp] theorem State.set64_reads (s : State) (off v : Nat) : (s.set64 off v).reads = s.reads := rfl
@[simp] theorem State.set64_out (s : State) (off v : Nat) : (s.set64 off v).out = s.out := rfl

/-! ### `State.vset` -/

@[simp] theorem State.vset_pending (s : State) (t off : Nat) (v : Word) : (s.vset t off v).pending = s.pending := rfl
@[simp] theorem State.vset_freeNo (s : State) (t off : Nat) (v : Word) : (s.vset t off v).freeNo = s.freeNo := rfl
@[simp] theorem State.vset_chip (s : State) (t off : Nat) (v : Word) : (s.vset t off v).chip = s.chip := rfl
@[simp] theorem State.vset_pf0 (s : State) (t off : Nat) (v : Word) : (s.vset t off v).pf0 = s.pf0 := rfl
@[simp] theorem State.vset_shadow (s : State) (t off : Nat) (v : Word) : (s.vset t off v).shadow = s.shadow := rfl
@[simp] theorem State.vset_latch (s : State) (t off : Nat) (v : Word) : (s.vset t off v).latch = s.latch := rfl
@[simp] theorem State.vset_beat (s : State) (t off : Nat) (v : Word) : (s.vset t off v).beat = s.beat := rfl
@[simp] theorem State.vset_ptp (s : State) (t off : Nat) (v : Word) : (s.vset t off v).ptp = s.ptp := rfl
@[simp] theorem State.vset_mem (s : State) (t off : Nat) (v : Word) : (s.vset t off v).mem = s.mem := rfl
@[simp] theorem State.vset_host (s : State) (t off : Nat) (v : Word) : (s.vset t off v).host = s.host := rfl
@[simp] theorem State.vset_msix (s : State) (t off : Nat) (v : Word) : (s.vset t off v).msix = s.msix := rfl
@[simp] theorem State.vset_tenants (s : State) (t off : Nat) (v : Word) : (s.vset t off v).tenants = s.tenants := rfl
@[simp] theorem State.vset_epochs (s : State) (t off : Nat) (v : Word) : (s.vset t off v).epochs = s.epochs := rfl
@[simp] theorem State.vset_rotas (s : State) (t off : Nat) (v : Word) : (s.vset t off v).rotas = s.rotas := rfl
@[simp] theorem State.vset_tasks (s : State) (t off : Nat) (v : Word) : (s.vset t off v).tasks = s.tasks := rfl
@[simp] theorem State.vset_stakes (s : State) (t off : Nat) (v : Word) : (s.vset t off v).stakes = s.stakes := rfl
@[simp] theorem State.vset_waits (s : State) (t off : Nat) (v : Word) : (s.vset t off v).waits = s.waits := rfl
@[simp] theorem State.vset_commit (s : State) (t off : Nat) (v : Word) : (s.vset t off v).commit = s.commit := rfl
@[simp] theorem State.vset_qps (s : State) (t off : Nat) (v : Word) : (s.vset t off v).qps = s.qps := rfl
@[simp] theorem State.vset_net (s : State) (t off : Nat) (v : Word) : (s.vset t off v).net = s.net := rfl
@[simp] theorem State.vset_coilReqs (s : State) (t off : Nat) (v : Word) : (s.vset t off v).coilReqs = s.coilReqs := rfl
@[simp] theorem State.vset_mbx (s : State) (t off : Nat) (v : Word) : (s.vset t off v).mbx = s.mbx := rfl
@[simp] theorem State.vset_pldm (s : State) (t off : Nat) (v : Word) : (s.vset t off v).pldm = s.pldm := rfl
@[simp] theorem State.vset_tele (s : State) (t off : Nat) (v : Word) : (s.vset t off v).tele = s.tele := rfl
@[simp] theorem State.vset_flash (s : State) (t off : Nat) (v : Word) : (s.vset t off v).flash = s.flash := rfl
@[simp] theorem State.vset_boot (s : State) (t off : Nat) (v : Word) : (s.vset t off v).boot = s.boot := rfl
@[simp] theorem State.vset_power (s : State) (t off : Nat) (v : Word) : (s.vset t off v).power = s.power := rfl
@[simp] theorem State.vset_log (s : State) (t off : Nat) (v : Word) : (s.vset t off v).log = s.log := rfl
@[simp] theorem State.vset_hostNo (s : State) (t off : Nat) (v : Word) : (s.vset t off v).hostNo = s.hostNo := rfl
@[simp] theorem State.vset_atc (s : State) (t off : Nat) (v : Word) : (s.vset t off v).atc = s.atc := rfl
@[simp] theorem State.vset_held (s : State) (t off : Nat) (v : Word) : (s.vset t off v).held = s.held := rfl
@[simp] theorem State.vset_reads (s : State) (t off : Nat) (v : Word) : (s.vset t off v).reads = s.reads := rfl
@[simp] theorem State.vset_out (s : State) (t off : Nat) (v : Word) : (s.vset t off v).out = s.out := rfl

/-! ### `State.vsetN` -/

@[simp] theorem State.vsetN_pending (s : State) (t off v : Nat) : (s.vsetN t off v).pending = s.pending := rfl
@[simp] theorem State.vsetN_freeNo (s : State) (t off v : Nat) : (s.vsetN t off v).freeNo = s.freeNo := rfl
@[simp] theorem State.vsetN_chip (s : State) (t off v : Nat) : (s.vsetN t off v).chip = s.chip := rfl
@[simp] theorem State.vsetN_pf0 (s : State) (t off v : Nat) : (s.vsetN t off v).pf0 = s.pf0 := rfl
@[simp] theorem State.vsetN_shadow (s : State) (t off v : Nat) : (s.vsetN t off v).shadow = s.shadow := rfl
@[simp] theorem State.vsetN_latch (s : State) (t off v : Nat) : (s.vsetN t off v).latch = s.latch := rfl
@[simp] theorem State.vsetN_beat (s : State) (t off v : Nat) : (s.vsetN t off v).beat = s.beat := rfl
@[simp] theorem State.vsetN_ptp (s : State) (t off v : Nat) : (s.vsetN t off v).ptp = s.ptp := rfl
@[simp] theorem State.vsetN_mem (s : State) (t off v : Nat) : (s.vsetN t off v).mem = s.mem := rfl
@[simp] theorem State.vsetN_host (s : State) (t off v : Nat) : (s.vsetN t off v).host = s.host := rfl
@[simp] theorem State.vsetN_msix (s : State) (t off v : Nat) : (s.vsetN t off v).msix = s.msix := rfl
@[simp] theorem State.vsetN_tenants (s : State) (t off v : Nat) : (s.vsetN t off v).tenants = s.tenants := rfl
@[simp] theorem State.vsetN_epochs (s : State) (t off v : Nat) : (s.vsetN t off v).epochs = s.epochs := rfl
@[simp] theorem State.vsetN_rotas (s : State) (t off v : Nat) : (s.vsetN t off v).rotas = s.rotas := rfl
@[simp] theorem State.vsetN_tasks (s : State) (t off v : Nat) : (s.vsetN t off v).tasks = s.tasks := rfl
@[simp] theorem State.vsetN_stakes (s : State) (t off v : Nat) : (s.vsetN t off v).stakes = s.stakes := rfl
@[simp] theorem State.vsetN_waits (s : State) (t off v : Nat) : (s.vsetN t off v).waits = s.waits := rfl
@[simp] theorem State.vsetN_commit (s : State) (t off v : Nat) : (s.vsetN t off v).commit = s.commit := rfl
@[simp] theorem State.vsetN_qps (s : State) (t off v : Nat) : (s.vsetN t off v).qps = s.qps := rfl
@[simp] theorem State.vsetN_net (s : State) (t off v : Nat) : (s.vsetN t off v).net = s.net := rfl
@[simp] theorem State.vsetN_coilReqs (s : State) (t off v : Nat) : (s.vsetN t off v).coilReqs = s.coilReqs := rfl
@[simp] theorem State.vsetN_mbx (s : State) (t off v : Nat) : (s.vsetN t off v).mbx = s.mbx := rfl
@[simp] theorem State.vsetN_pldm (s : State) (t off v : Nat) : (s.vsetN t off v).pldm = s.pldm := rfl
@[simp] theorem State.vsetN_tele (s : State) (t off v : Nat) : (s.vsetN t off v).tele = s.tele := rfl
@[simp] theorem State.vsetN_flash (s : State) (t off v : Nat) : (s.vsetN t off v).flash = s.flash := rfl
@[simp] theorem State.vsetN_boot (s : State) (t off v : Nat) : (s.vsetN t off v).boot = s.boot := rfl
@[simp] theorem State.vsetN_power (s : State) (t off v : Nat) : (s.vsetN t off v).power = s.power := rfl
@[simp] theorem State.vsetN_log (s : State) (t off v : Nat) : (s.vsetN t off v).log = s.log := rfl
@[simp] theorem State.vsetN_hostNo (s : State) (t off v : Nat) : (s.vsetN t off v).hostNo = s.hostNo := rfl
@[simp] theorem State.vsetN_atc (s : State) (t off v : Nat) : (s.vsetN t off v).atc = s.atc := rfl
@[simp] theorem State.vsetN_held (s : State) (t off v : Nat) : (s.vsetN t off v).held = s.held := rfl
@[simp] theorem State.vsetN_reads (s : State) (t off v : Nat) : (s.vsetN t off v).reads = s.reads := rfl
@[simp] theorem State.vsetN_out (s : State) (t off v : Nat) : (s.vsetN t off v).out = s.out := rfl

/-! ### `State.vsetF` -/

@[simp] theorem State.vsetF_pending (s : State) (t off hi lo v : Nat) : (s.vsetF t off hi lo v).pending = s.pending := rfl
@[simp] theorem State.vsetF_freeNo (s : State) (t off hi lo v : Nat) : (s.vsetF t off hi lo v).freeNo = s.freeNo := rfl
@[simp] theorem State.vsetF_chip (s : State) (t off hi lo v : Nat) : (s.vsetF t off hi lo v).chip = s.chip := rfl
@[simp] theorem State.vsetF_pf0 (s : State) (t off hi lo v : Nat) : (s.vsetF t off hi lo v).pf0 = s.pf0 := rfl
@[simp] theorem State.vsetF_shadow (s : State) (t off hi lo v : Nat) : (s.vsetF t off hi lo v).shadow = s.shadow := rfl
@[simp] theorem State.vsetF_latch (s : State) (t off hi lo v : Nat) : (s.vsetF t off hi lo v).latch = s.latch := rfl
@[simp] theorem State.vsetF_beat (s : State) (t off hi lo v : Nat) : (s.vsetF t off hi lo v).beat = s.beat := rfl
@[simp] theorem State.vsetF_ptp (s : State) (t off hi lo v : Nat) : (s.vsetF t off hi lo v).ptp = s.ptp := rfl
@[simp] theorem State.vsetF_mem (s : State) (t off hi lo v : Nat) : (s.vsetF t off hi lo v).mem = s.mem := rfl
@[simp] theorem State.vsetF_host (s : State) (t off hi lo v : Nat) : (s.vsetF t off hi lo v).host = s.host := rfl
@[simp] theorem State.vsetF_msix (s : State) (t off hi lo v : Nat) : (s.vsetF t off hi lo v).msix = s.msix := rfl
@[simp] theorem State.vsetF_tenants (s : State) (t off hi lo v : Nat) : (s.vsetF t off hi lo v).tenants = s.tenants := rfl
@[simp] theorem State.vsetF_epochs (s : State) (t off hi lo v : Nat) : (s.vsetF t off hi lo v).epochs = s.epochs := rfl
@[simp] theorem State.vsetF_rotas (s : State) (t off hi lo v : Nat) : (s.vsetF t off hi lo v).rotas = s.rotas := rfl
@[simp] theorem State.vsetF_tasks (s : State) (t off hi lo v : Nat) : (s.vsetF t off hi lo v).tasks = s.tasks := rfl
@[simp] theorem State.vsetF_stakes (s : State) (t off hi lo v : Nat) : (s.vsetF t off hi lo v).stakes = s.stakes := rfl
@[simp] theorem State.vsetF_waits (s : State) (t off hi lo v : Nat) : (s.vsetF t off hi lo v).waits = s.waits := rfl
@[simp] theorem State.vsetF_commit (s : State) (t off hi lo v : Nat) : (s.vsetF t off hi lo v).commit = s.commit := rfl
@[simp] theorem State.vsetF_qps (s : State) (t off hi lo v : Nat) : (s.vsetF t off hi lo v).qps = s.qps := rfl
@[simp] theorem State.vsetF_net (s : State) (t off hi lo v : Nat) : (s.vsetF t off hi lo v).net = s.net := rfl
@[simp] theorem State.vsetF_coilReqs (s : State) (t off hi lo v : Nat) : (s.vsetF t off hi lo v).coilReqs = s.coilReqs := rfl
@[simp] theorem State.vsetF_mbx (s : State) (t off hi lo v : Nat) : (s.vsetF t off hi lo v).mbx = s.mbx := rfl
@[simp] theorem State.vsetF_pldm (s : State) (t off hi lo v : Nat) : (s.vsetF t off hi lo v).pldm = s.pldm := rfl
@[simp] theorem State.vsetF_tele (s : State) (t off hi lo v : Nat) : (s.vsetF t off hi lo v).tele = s.tele := rfl
@[simp] theorem State.vsetF_flash (s : State) (t off hi lo v : Nat) : (s.vsetF t off hi lo v).flash = s.flash := rfl
@[simp] theorem State.vsetF_boot (s : State) (t off hi lo v : Nat) : (s.vsetF t off hi lo v).boot = s.boot := rfl
@[simp] theorem State.vsetF_power (s : State) (t off hi lo v : Nat) : (s.vsetF t off hi lo v).power = s.power := rfl
@[simp] theorem State.vsetF_log (s : State) (t off hi lo v : Nat) : (s.vsetF t off hi lo v).log = s.log := rfl
@[simp] theorem State.vsetF_hostNo (s : State) (t off hi lo v : Nat) : (s.vsetF t off hi lo v).hostNo = s.hostNo := rfl
@[simp] theorem State.vsetF_atc (s : State) (t off hi lo v : Nat) : (s.vsetF t off hi lo v).atc = s.atc := rfl
@[simp] theorem State.vsetF_held (s : State) (t off hi lo v : Nat) : (s.vsetF t off hi lo v).held = s.held := rfl
@[simp] theorem State.vsetF_reads (s : State) (t off hi lo v : Nat) : (s.vsetF t off hi lo v).reads = s.reads := rfl
@[simp] theorem State.vsetF_out (s : State) (t off hi lo v : Nat) : (s.vsetF t off hi lo v).out = s.out := rfl

/-! ### `State.vset64` -/

@[simp] theorem State.vset64_pending (s : State) (t off v : Nat) : (s.vset64 t off v).pending = s.pending := rfl
@[simp] theorem State.vset64_freeNo (s : State) (t off v : Nat) : (s.vset64 t off v).freeNo = s.freeNo := rfl
@[simp] theorem State.vset64_chip (s : State) (t off v : Nat) : (s.vset64 t off v).chip = s.chip := rfl
@[simp] theorem State.vset64_pf0 (s : State) (t off v : Nat) : (s.vset64 t off v).pf0 = s.pf0 := rfl
@[simp] theorem State.vset64_shadow (s : State) (t off v : Nat) : (s.vset64 t off v).shadow = s.shadow := rfl
@[simp] theorem State.vset64_latch (s : State) (t off v : Nat) : (s.vset64 t off v).latch = s.latch := rfl
@[simp] theorem State.vset64_beat (s : State) (t off v : Nat) : (s.vset64 t off v).beat = s.beat := rfl
@[simp] theorem State.vset64_ptp (s : State) (t off v : Nat) : (s.vset64 t off v).ptp = s.ptp := rfl
@[simp] theorem State.vset64_mem (s : State) (t off v : Nat) : (s.vset64 t off v).mem = s.mem := rfl
@[simp] theorem State.vset64_host (s : State) (t off v : Nat) : (s.vset64 t off v).host = s.host := rfl
@[simp] theorem State.vset64_msix (s : State) (t off v : Nat) : (s.vset64 t off v).msix = s.msix := rfl
@[simp] theorem State.vset64_tenants (s : State) (t off v : Nat) : (s.vset64 t off v).tenants = s.tenants := rfl
@[simp] theorem State.vset64_epochs (s : State) (t off v : Nat) : (s.vset64 t off v).epochs = s.epochs := rfl
@[simp] theorem State.vset64_rotas (s : State) (t off v : Nat) : (s.vset64 t off v).rotas = s.rotas := rfl
@[simp] theorem State.vset64_tasks (s : State) (t off v : Nat) : (s.vset64 t off v).tasks = s.tasks := rfl
@[simp] theorem State.vset64_stakes (s : State) (t off v : Nat) : (s.vset64 t off v).stakes = s.stakes := rfl
@[simp] theorem State.vset64_waits (s : State) (t off v : Nat) : (s.vset64 t off v).waits = s.waits := rfl
@[simp] theorem State.vset64_commit (s : State) (t off v : Nat) : (s.vset64 t off v).commit = s.commit := rfl
@[simp] theorem State.vset64_qps (s : State) (t off v : Nat) : (s.vset64 t off v).qps = s.qps := rfl
@[simp] theorem State.vset64_net (s : State) (t off v : Nat) : (s.vset64 t off v).net = s.net := rfl
@[simp] theorem State.vset64_coilReqs (s : State) (t off v : Nat) : (s.vset64 t off v).coilReqs = s.coilReqs := rfl
@[simp] theorem State.vset64_mbx (s : State) (t off v : Nat) : (s.vset64 t off v).mbx = s.mbx := rfl
@[simp] theorem State.vset64_pldm (s : State) (t off v : Nat) : (s.vset64 t off v).pldm = s.pldm := rfl
@[simp] theorem State.vset64_tele (s : State) (t off v : Nat) : (s.vset64 t off v).tele = s.tele := rfl
@[simp] theorem State.vset64_flash (s : State) (t off v : Nat) : (s.vset64 t off v).flash = s.flash := rfl
@[simp] theorem State.vset64_boot (s : State) (t off v : Nat) : (s.vset64 t off v).boot = s.boot := rfl
@[simp] theorem State.vset64_power (s : State) (t off v : Nat) : (s.vset64 t off v).power = s.power := rfl
@[simp] theorem State.vset64_log (s : State) (t off v : Nat) : (s.vset64 t off v).log = s.log := rfl
@[simp] theorem State.vset64_hostNo (s : State) (t off v : Nat) : (s.vset64 t off v).hostNo = s.hostNo := rfl
@[simp] theorem State.vset64_atc (s : State) (t off v : Nat) : (s.vset64 t off v).atc = s.atc := rfl
@[simp] theorem State.vset64_held (s : State) (t off v : Nat) : (s.vset64 t off v).held = s.held := rfl
@[simp] theorem State.vset64_reads (s : State) (t off v : Nat) : (s.vset64 t off v).reads = s.reads := rfl
@[simp] theorem State.vset64_out (s : State) (t off v : Nat) : (s.vset64 t off v).out = s.out := rfl

/-! ### `State.emit` -/

@[simp] theorem State.emit_pending (s : State) (o : Out) : (s.emit o).pending = s.pending := rfl
@[simp] theorem State.emit_freeNo (s : State) (o : Out) : (s.emit o).freeNo = s.freeNo := rfl
@[simp] theorem State.emit_chip (s : State) (o : Out) : (s.emit o).chip = s.chip := rfl
@[simp] theorem State.emit_pf0 (s : State) (o : Out) : (s.emit o).pf0 = s.pf0 := rfl
@[simp] theorem State.emit_shadow (s : State) (o : Out) : (s.emit o).shadow = s.shadow := rfl
@[simp] theorem State.emit_vf (s : State) (o : Out) : (s.emit o).vf = s.vf := rfl
@[simp] theorem State.emit_latch (s : State) (o : Out) : (s.emit o).latch = s.latch := rfl
@[simp] theorem State.emit_beat (s : State) (o : Out) : (s.emit o).beat = s.beat := rfl
@[simp] theorem State.emit_ptp (s : State) (o : Out) : (s.emit o).ptp = s.ptp := rfl
@[simp] theorem State.emit_mem (s : State) (o : Out) : (s.emit o).mem = s.mem := rfl
@[simp] theorem State.emit_host (s : State) (o : Out) : (s.emit o).host = s.host := rfl
@[simp] theorem State.emit_msix (s : State) (o : Out) : (s.emit o).msix = s.msix := rfl
@[simp] theorem State.emit_tenants (s : State) (o : Out) : (s.emit o).tenants = s.tenants := rfl
@[simp] theorem State.emit_epochs (s : State) (o : Out) : (s.emit o).epochs = s.epochs := rfl
@[simp] theorem State.emit_rotas (s : State) (o : Out) : (s.emit o).rotas = s.rotas := rfl
@[simp] theorem State.emit_tasks (s : State) (o : Out) : (s.emit o).tasks = s.tasks := rfl
@[simp] theorem State.emit_stakes (s : State) (o : Out) : (s.emit o).stakes = s.stakes := rfl
@[simp] theorem State.emit_waits (s : State) (o : Out) : (s.emit o).waits = s.waits := rfl
@[simp] theorem State.emit_commit (s : State) (o : Out) : (s.emit o).commit = s.commit := rfl
@[simp] theorem State.emit_qps (s : State) (o : Out) : (s.emit o).qps = s.qps := rfl
@[simp] theorem State.emit_net (s : State) (o : Out) : (s.emit o).net = s.net := rfl
@[simp] theorem State.emit_coilReqs (s : State) (o : Out) : (s.emit o).coilReqs = s.coilReqs := rfl
@[simp] theorem State.emit_mbx (s : State) (o : Out) : (s.emit o).mbx = s.mbx := rfl
@[simp] theorem State.emit_pldm (s : State) (o : Out) : (s.emit o).pldm = s.pldm := rfl
@[simp] theorem State.emit_tele (s : State) (o : Out) : (s.emit o).tele = s.tele := rfl
@[simp] theorem State.emit_flash (s : State) (o : Out) : (s.emit o).flash = s.flash := rfl
@[simp] theorem State.emit_boot (s : State) (o : Out) : (s.emit o).boot = s.boot := rfl
@[simp] theorem State.emit_power (s : State) (o : Out) : (s.emit o).power = s.power := rfl
@[simp] theorem State.emit_log (s : State) (o : Out) : (s.emit o).log = s.log := rfl
@[simp] theorem State.emit_hostNo (s : State) (o : Out) : (s.emit o).hostNo = s.hostNo := rfl
@[simp] theorem State.emit_atc (s : State) (o : Out) : (s.emit o).atc = s.atc := rfl
@[simp] theorem State.emit_held (s : State) (o : Out) : (s.emit o).held = s.held := rfl
@[simp] theorem State.emit_reads (s : State) (o : Out) : (s.emit o).reads = s.reads := rfl

/-! ### `State.latchWord` -/

@[simp] theorem State.latchWord_pending (s : State) (fn off v : Nat) : (s.latchWord fn off v).pending = s.pending := rfl
@[simp] theorem State.latchWord_freeNo (s : State) (fn off v : Nat) : (s.latchWord fn off v).freeNo = s.freeNo := rfl
@[simp] theorem State.latchWord_chip (s : State) (fn off v : Nat) : (s.latchWord fn off v).chip = s.chip := rfl
@[simp] theorem State.latchWord_pf0 (s : State) (fn off v : Nat) : (s.latchWord fn off v).pf0 = s.pf0 := rfl
@[simp] theorem State.latchWord_shadow (s : State) (fn off v : Nat) : (s.latchWord fn off v).shadow = s.shadow := rfl
@[simp] theorem State.latchWord_vf (s : State) (fn off v : Nat) : (s.latchWord fn off v).vf = s.vf := rfl
@[simp] theorem State.latchWord_beat (s : State) (fn off v : Nat) : (s.latchWord fn off v).beat = s.beat := rfl
@[simp] theorem State.latchWord_ptp (s : State) (fn off v : Nat) : (s.latchWord fn off v).ptp = s.ptp := rfl
@[simp] theorem State.latchWord_mem (s : State) (fn off v : Nat) : (s.latchWord fn off v).mem = s.mem := rfl
@[simp] theorem State.latchWord_host (s : State) (fn off v : Nat) : (s.latchWord fn off v).host = s.host := rfl
@[simp] theorem State.latchWord_msix (s : State) (fn off v : Nat) : (s.latchWord fn off v).msix = s.msix := rfl
@[simp] theorem State.latchWord_tenants (s : State) (fn off v : Nat) : (s.latchWord fn off v).tenants = s.tenants := rfl
@[simp] theorem State.latchWord_epochs (s : State) (fn off v : Nat) : (s.latchWord fn off v).epochs = s.epochs := rfl
@[simp] theorem State.latchWord_rotas (s : State) (fn off v : Nat) : (s.latchWord fn off v).rotas = s.rotas := rfl
@[simp] theorem State.latchWord_tasks (s : State) (fn off v : Nat) : (s.latchWord fn off v).tasks = s.tasks := rfl
@[simp] theorem State.latchWord_stakes (s : State) (fn off v : Nat) : (s.latchWord fn off v).stakes = s.stakes := rfl
@[simp] theorem State.latchWord_waits (s : State) (fn off v : Nat) : (s.latchWord fn off v).waits = s.waits := rfl
@[simp] theorem State.latchWord_commit (s : State) (fn off v : Nat) : (s.latchWord fn off v).commit = s.commit := rfl
@[simp] theorem State.latchWord_qps (s : State) (fn off v : Nat) : (s.latchWord fn off v).qps = s.qps := rfl
@[simp] theorem State.latchWord_net (s : State) (fn off v : Nat) : (s.latchWord fn off v).net = s.net := rfl
@[simp] theorem State.latchWord_coilReqs (s : State) (fn off v : Nat) : (s.latchWord fn off v).coilReqs = s.coilReqs := rfl
@[simp] theorem State.latchWord_mbx (s : State) (fn off v : Nat) : (s.latchWord fn off v).mbx = s.mbx := rfl
@[simp] theorem State.latchWord_pldm (s : State) (fn off v : Nat) : (s.latchWord fn off v).pldm = s.pldm := rfl
@[simp] theorem State.latchWord_tele (s : State) (fn off v : Nat) : (s.latchWord fn off v).tele = s.tele := rfl
@[simp] theorem State.latchWord_flash (s : State) (fn off v : Nat) : (s.latchWord fn off v).flash = s.flash := rfl
@[simp] theorem State.latchWord_boot (s : State) (fn off v : Nat) : (s.latchWord fn off v).boot = s.boot := rfl
@[simp] theorem State.latchWord_power (s : State) (fn off v : Nat) : (s.latchWord fn off v).power = s.power := rfl
@[simp] theorem State.latchWord_log (s : State) (fn off v : Nat) : (s.latchWord fn off v).log = s.log := rfl
@[simp] theorem State.latchWord_hostNo (s : State) (fn off v : Nat) : (s.latchWord fn off v).hostNo = s.hostNo := rfl
@[simp] theorem State.latchWord_atc (s : State) (fn off v : Nat) : (s.latchWord fn off v).atc = s.atc := rfl
@[simp] theorem State.latchWord_held (s : State) (fn off v : Nat) : (s.latchWord fn off v).held = s.held := rfl
@[simp] theorem State.latchWord_reads (s : State) (fn off v : Nat) : (s.latchWord fn off v).reads = s.reads := rfl
@[simp] theorem State.latchWord_out (s : State) (fn off v : Nat) : (s.latchWord fn off v).out = s.out := rfl

/-! ### `State.unlatch` -/

@[simp] theorem State.unlatch_pending (s : State) (fn off : Nat) : (s.unlatch fn off).pending = s.pending := rfl
@[simp] theorem State.unlatch_freeNo (s : State) (fn off : Nat) : (s.unlatch fn off).freeNo = s.freeNo := rfl
@[simp] theorem State.unlatch_chip (s : State) (fn off : Nat) : (s.unlatch fn off).chip = s.chip := rfl
@[simp] theorem State.unlatch_pf0 (s : State) (fn off : Nat) : (s.unlatch fn off).pf0 = s.pf0 := rfl
@[simp] theorem State.unlatch_shadow (s : State) (fn off : Nat) : (s.unlatch fn off).shadow = s.shadow := rfl
@[simp] theorem State.unlatch_vf (s : State) (fn off : Nat) : (s.unlatch fn off).vf = s.vf := rfl
@[simp] theorem State.unlatch_beat (s : State) (fn off : Nat) : (s.unlatch fn off).beat = s.beat := rfl
@[simp] theorem State.unlatch_ptp (s : State) (fn off : Nat) : (s.unlatch fn off).ptp = s.ptp := rfl
@[simp] theorem State.unlatch_mem (s : State) (fn off : Nat) : (s.unlatch fn off).mem = s.mem := rfl
@[simp] theorem State.unlatch_host (s : State) (fn off : Nat) : (s.unlatch fn off).host = s.host := rfl
@[simp] theorem State.unlatch_msix (s : State) (fn off : Nat) : (s.unlatch fn off).msix = s.msix := rfl
@[simp] theorem State.unlatch_tenants (s : State) (fn off : Nat) : (s.unlatch fn off).tenants = s.tenants := rfl
@[simp] theorem State.unlatch_epochs (s : State) (fn off : Nat) : (s.unlatch fn off).epochs = s.epochs := rfl
@[simp] theorem State.unlatch_rotas (s : State) (fn off : Nat) : (s.unlatch fn off).rotas = s.rotas := rfl
@[simp] theorem State.unlatch_tasks (s : State) (fn off : Nat) : (s.unlatch fn off).tasks = s.tasks := rfl
@[simp] theorem State.unlatch_stakes (s : State) (fn off : Nat) : (s.unlatch fn off).stakes = s.stakes := rfl
@[simp] theorem State.unlatch_waits (s : State) (fn off : Nat) : (s.unlatch fn off).waits = s.waits := rfl
@[simp] theorem State.unlatch_commit (s : State) (fn off : Nat) : (s.unlatch fn off).commit = s.commit := rfl
@[simp] theorem State.unlatch_qps (s : State) (fn off : Nat) : (s.unlatch fn off).qps = s.qps := rfl
@[simp] theorem State.unlatch_net (s : State) (fn off : Nat) : (s.unlatch fn off).net = s.net := rfl
@[simp] theorem State.unlatch_coilReqs (s : State) (fn off : Nat) : (s.unlatch fn off).coilReqs = s.coilReqs := rfl
@[simp] theorem State.unlatch_mbx (s : State) (fn off : Nat) : (s.unlatch fn off).mbx = s.mbx := rfl
@[simp] theorem State.unlatch_pldm (s : State) (fn off : Nat) : (s.unlatch fn off).pldm = s.pldm := rfl
@[simp] theorem State.unlatch_tele (s : State) (fn off : Nat) : (s.unlatch fn off).tele = s.tele := rfl
@[simp] theorem State.unlatch_flash (s : State) (fn off : Nat) : (s.unlatch fn off).flash = s.flash := rfl
@[simp] theorem State.unlatch_boot (s : State) (fn off : Nat) : (s.unlatch fn off).boot = s.boot := rfl
@[simp] theorem State.unlatch_power (s : State) (fn off : Nat) : (s.unlatch fn off).power = s.power := rfl
@[simp] theorem State.unlatch_log (s : State) (fn off : Nat) : (s.unlatch fn off).log = s.log := rfl
@[simp] theorem State.unlatch_hostNo (s : State) (fn off : Nat) : (s.unlatch fn off).hostNo = s.hostNo := rfl
@[simp] theorem State.unlatch_atc (s : State) (fn off : Nat) : (s.unlatch fn off).atc = s.atc := rfl
@[simp] theorem State.unlatch_held (s : State) (fn off : Nat) : (s.unlatch fn off).held = s.held := rfl
@[simp] theorem State.unlatch_reads (s : State) (fn off : Nat) : (s.unlatch fn off).reads = s.reads := rfl
@[simp] theorem State.unlatch_out (s : State) (fn off : Nat) : (s.unlatch fn off).out = s.out := rfl

/-! ### `State.count` -/

@[simp] theorem State.count_pending (s : State) (off n : Nat) : (s.count off n).pending = s.pending := rfl
@[simp] theorem State.count_freeNo (s : State) (off n : Nat) : (s.count off n).freeNo = s.freeNo := rfl
@[simp] theorem State.count_chip (s : State) (off n : Nat) : (s.count off n).chip = s.chip := rfl
@[simp] theorem State.count_shadow (s : State) (off n : Nat) : (s.count off n).shadow = s.shadow := rfl
@[simp] theorem State.count_vf (s : State) (off n : Nat) : (s.count off n).vf = s.vf := rfl
@[simp] theorem State.count_latch (s : State) (off n : Nat) : (s.count off n).latch = s.latch := rfl
@[simp] theorem State.count_beat (s : State) (off n : Nat) : (s.count off n).beat = s.beat := rfl
@[simp] theorem State.count_ptp (s : State) (off n : Nat) : (s.count off n).ptp = s.ptp := rfl
@[simp] theorem State.count_mem (s : State) (off n : Nat) : (s.count off n).mem = s.mem := rfl
@[simp] theorem State.count_host (s : State) (off n : Nat) : (s.count off n).host = s.host := rfl
@[simp] theorem State.count_msix (s : State) (off n : Nat) : (s.count off n).msix = s.msix := rfl
@[simp] theorem State.count_tenants (s : State) (off n : Nat) : (s.count off n).tenants = s.tenants := rfl
@[simp] theorem State.count_epochs (s : State) (off n : Nat) : (s.count off n).epochs = s.epochs := rfl
@[simp] theorem State.count_rotas (s : State) (off n : Nat) : (s.count off n).rotas = s.rotas := rfl
@[simp] theorem State.count_tasks (s : State) (off n : Nat) : (s.count off n).tasks = s.tasks := rfl
@[simp] theorem State.count_stakes (s : State) (off n : Nat) : (s.count off n).stakes = s.stakes := rfl
@[simp] theorem State.count_waits (s : State) (off n : Nat) : (s.count off n).waits = s.waits := rfl
@[simp] theorem State.count_commit (s : State) (off n : Nat) : (s.count off n).commit = s.commit := rfl
@[simp] theorem State.count_qps (s : State) (off n : Nat) : (s.count off n).qps = s.qps := rfl
@[simp] theorem State.count_net (s : State) (off n : Nat) : (s.count off n).net = s.net := rfl
@[simp] theorem State.count_coilReqs (s : State) (off n : Nat) : (s.count off n).coilReqs = s.coilReqs := rfl
@[simp] theorem State.count_mbx (s : State) (off n : Nat) : (s.count off n).mbx = s.mbx := rfl
@[simp] theorem State.count_pldm (s : State) (off n : Nat) : (s.count off n).pldm = s.pldm := rfl
@[simp] theorem State.count_tele (s : State) (off n : Nat) : (s.count off n).tele = s.tele := rfl
@[simp] theorem State.count_flash (s : State) (off n : Nat) : (s.count off n).flash = s.flash := rfl
@[simp] theorem State.count_boot (s : State) (off n : Nat) : (s.count off n).boot = s.boot := rfl
@[simp] theorem State.count_power (s : State) (off n : Nat) : (s.count off n).power = s.power := rfl
@[simp] theorem State.count_log (s : State) (off n : Nat) : (s.count off n).log = s.log := rfl
@[simp] theorem State.count_hostNo (s : State) (off n : Nat) : (s.count off n).hostNo = s.hostNo := rfl
@[simp] theorem State.count_atc (s : State) (off n : Nat) : (s.count off n).atc = s.atc := rfl
@[simp] theorem State.count_held (s : State) (off n : Nat) : (s.count off n).held = s.held := rfl
@[simp] theorem State.count_reads (s : State) (off n : Nat) : (s.count off n).reads = s.reads := rfl
@[simp] theorem State.count_out (s : State) (off n : Nat) : (s.count off n).out = s.out := rfl

/-! ### `State.vcount` -/

@[simp] theorem State.vcount_pending (s : State) (t off n : Nat) : (s.vcount t off n).pending = s.pending := rfl
@[simp] theorem State.vcount_freeNo (s : State) (t off n : Nat) : (s.vcount t off n).freeNo = s.freeNo := rfl
@[simp] theorem State.vcount_chip (s : State) (t off n : Nat) : (s.vcount t off n).chip = s.chip := rfl
@[simp] theorem State.vcount_pf0 (s : State) (t off n : Nat) : (s.vcount t off n).pf0 = s.pf0 := rfl
@[simp] theorem State.vcount_shadow (s : State) (t off n : Nat) : (s.vcount t off n).shadow = s.shadow := rfl
@[simp] theorem State.vcount_latch (s : State) (t off n : Nat) : (s.vcount t off n).latch = s.latch := rfl
@[simp] theorem State.vcount_beat (s : State) (t off n : Nat) : (s.vcount t off n).beat = s.beat := rfl
@[simp] theorem State.vcount_ptp (s : State) (t off n : Nat) : (s.vcount t off n).ptp = s.ptp := rfl
@[simp] theorem State.vcount_mem (s : State) (t off n : Nat) : (s.vcount t off n).mem = s.mem := rfl
@[simp] theorem State.vcount_host (s : State) (t off n : Nat) : (s.vcount t off n).host = s.host := rfl
@[simp] theorem State.vcount_msix (s : State) (t off n : Nat) : (s.vcount t off n).msix = s.msix := rfl
@[simp] theorem State.vcount_tenants (s : State) (t off n : Nat) : (s.vcount t off n).tenants = s.tenants := rfl
@[simp] theorem State.vcount_epochs (s : State) (t off n : Nat) : (s.vcount t off n).epochs = s.epochs := rfl
@[simp] theorem State.vcount_rotas (s : State) (t off n : Nat) : (s.vcount t off n).rotas = s.rotas := rfl
@[simp] theorem State.vcount_tasks (s : State) (t off n : Nat) : (s.vcount t off n).tasks = s.tasks := rfl
@[simp] theorem State.vcount_stakes (s : State) (t off n : Nat) : (s.vcount t off n).stakes = s.stakes := rfl
@[simp] theorem State.vcount_waits (s : State) (t off n : Nat) : (s.vcount t off n).waits = s.waits := rfl
@[simp] theorem State.vcount_commit (s : State) (t off n : Nat) : (s.vcount t off n).commit = s.commit := rfl
@[simp] theorem State.vcount_qps (s : State) (t off n : Nat) : (s.vcount t off n).qps = s.qps := rfl
@[simp] theorem State.vcount_net (s : State) (t off n : Nat) : (s.vcount t off n).net = s.net := rfl
@[simp] theorem State.vcount_coilReqs (s : State) (t off n : Nat) : (s.vcount t off n).coilReqs = s.coilReqs := rfl
@[simp] theorem State.vcount_mbx (s : State) (t off n : Nat) : (s.vcount t off n).mbx = s.mbx := rfl
@[simp] theorem State.vcount_pldm (s : State) (t off n : Nat) : (s.vcount t off n).pldm = s.pldm := rfl
@[simp] theorem State.vcount_tele (s : State) (t off n : Nat) : (s.vcount t off n).tele = s.tele := rfl
@[simp] theorem State.vcount_flash (s : State) (t off n : Nat) : (s.vcount t off n).flash = s.flash := rfl
@[simp] theorem State.vcount_boot (s : State) (t off n : Nat) : (s.vcount t off n).boot = s.boot := rfl
@[simp] theorem State.vcount_power (s : State) (t off n : Nat) : (s.vcount t off n).power = s.power := rfl
@[simp] theorem State.vcount_log (s : State) (t off n : Nat) : (s.vcount t off n).log = s.log := rfl
@[simp] theorem State.vcount_hostNo (s : State) (t off n : Nat) : (s.vcount t off n).hostNo = s.hostNo := rfl
@[simp] theorem State.vcount_atc (s : State) (t off n : Nat) : (s.vcount t off n).atc = s.atc := rfl
@[simp] theorem State.vcount_held (s : State) (t off n : Nat) : (s.vcount t off n).held = s.held := rfl
@[simp] theorem State.vcount_reads (s : State) (t off n : Nat) : (s.vcount t off n).reads = s.reads := rfl
@[simp] theorem State.vcount_out (s : State) (t off n : Nat) : (s.vcount t off n).out = s.out := rfl

/-! ### `State.count64` -/

@[simp] theorem State.count64_pending (s : State) (off n : Nat) : (s.count64 off n).pending = s.pending := rfl
@[simp] theorem State.count64_freeNo (s : State) (off n : Nat) : (s.count64 off n).freeNo = s.freeNo := rfl
@[simp] theorem State.count64_chip (s : State) (off n : Nat) : (s.count64 off n).chip = s.chip := rfl
@[simp] theorem State.count64_shadow (s : State) (off n : Nat) : (s.count64 off n).shadow = s.shadow := rfl
@[simp] theorem State.count64_vf (s : State) (off n : Nat) : (s.count64 off n).vf = s.vf := rfl
@[simp] theorem State.count64_latch (s : State) (off n : Nat) : (s.count64 off n).latch = s.latch := rfl
@[simp] theorem State.count64_beat (s : State) (off n : Nat) : (s.count64 off n).beat = s.beat := rfl
@[simp] theorem State.count64_ptp (s : State) (off n : Nat) : (s.count64 off n).ptp = s.ptp := rfl
@[simp] theorem State.count64_mem (s : State) (off n : Nat) : (s.count64 off n).mem = s.mem := rfl
@[simp] theorem State.count64_host (s : State) (off n : Nat) : (s.count64 off n).host = s.host := rfl
@[simp] theorem State.count64_msix (s : State) (off n : Nat) : (s.count64 off n).msix = s.msix := rfl
@[simp] theorem State.count64_tenants (s : State) (off n : Nat) : (s.count64 off n).tenants = s.tenants := rfl
@[simp] theorem State.count64_epochs (s : State) (off n : Nat) : (s.count64 off n).epochs = s.epochs := rfl
@[simp] theorem State.count64_rotas (s : State) (off n : Nat) : (s.count64 off n).rotas = s.rotas := rfl
@[simp] theorem State.count64_tasks (s : State) (off n : Nat) : (s.count64 off n).tasks = s.tasks := rfl
@[simp] theorem State.count64_stakes (s : State) (off n : Nat) : (s.count64 off n).stakes = s.stakes := rfl
@[simp] theorem State.count64_waits (s : State) (off n : Nat) : (s.count64 off n).waits = s.waits := rfl
@[simp] theorem State.count64_commit (s : State) (off n : Nat) : (s.count64 off n).commit = s.commit := rfl
@[simp] theorem State.count64_qps (s : State) (off n : Nat) : (s.count64 off n).qps = s.qps := rfl
@[simp] theorem State.count64_net (s : State) (off n : Nat) : (s.count64 off n).net = s.net := rfl
@[simp] theorem State.count64_coilReqs (s : State) (off n : Nat) : (s.count64 off n).coilReqs = s.coilReqs := rfl
@[simp] theorem State.count64_mbx (s : State) (off n : Nat) : (s.count64 off n).mbx = s.mbx := rfl
@[simp] theorem State.count64_pldm (s : State) (off n : Nat) : (s.count64 off n).pldm = s.pldm := rfl
@[simp] theorem State.count64_tele (s : State) (off n : Nat) : (s.count64 off n).tele = s.tele := rfl
@[simp] theorem State.count64_flash (s : State) (off n : Nat) : (s.count64 off n).flash = s.flash := rfl
@[simp] theorem State.count64_boot (s : State) (off n : Nat) : (s.count64 off n).boot = s.boot := rfl
@[simp] theorem State.count64_power (s : State) (off n : Nat) : (s.count64 off n).power = s.power := rfl
@[simp] theorem State.count64_log (s : State) (off n : Nat) : (s.count64 off n).log = s.log := rfl
@[simp] theorem State.count64_hostNo (s : State) (off n : Nat) : (s.count64 off n).hostNo = s.hostNo := rfl
@[simp] theorem State.count64_atc (s : State) (off n : Nat) : (s.count64 off n).atc = s.atc := rfl
@[simp] theorem State.count64_held (s : State) (off n : Nat) : (s.count64 off n).held = s.held := rfl
@[simp] theorem State.count64_reads (s : State) (off n : Nat) : (s.count64 off n).reads = s.reads := rfl
@[simp] theorem State.count64_out (s : State) (off n : Nat) : (s.count64 off n).out = s.out := rfl

/-! ### `State.vcount64` -/

@[simp] theorem State.vcount64_pending (s : State) (t off n : Nat) : (s.vcount64 t off n).pending = s.pending := rfl
@[simp] theorem State.vcount64_freeNo (s : State) (t off n : Nat) : (s.vcount64 t off n).freeNo = s.freeNo := rfl
@[simp] theorem State.vcount64_chip (s : State) (t off n : Nat) : (s.vcount64 t off n).chip = s.chip := rfl
@[simp] theorem State.vcount64_pf0 (s : State) (t off n : Nat) : (s.vcount64 t off n).pf0 = s.pf0 := rfl
@[simp] theorem State.vcount64_shadow (s : State) (t off n : Nat) : (s.vcount64 t off n).shadow = s.shadow := rfl
@[simp] theorem State.vcount64_latch (s : State) (t off n : Nat) : (s.vcount64 t off n).latch = s.latch := rfl
@[simp] theorem State.vcount64_beat (s : State) (t off n : Nat) : (s.vcount64 t off n).beat = s.beat := rfl
@[simp] theorem State.vcount64_ptp (s : State) (t off n : Nat) : (s.vcount64 t off n).ptp = s.ptp := rfl
@[simp] theorem State.vcount64_mem (s : State) (t off n : Nat) : (s.vcount64 t off n).mem = s.mem := rfl
@[simp] theorem State.vcount64_host (s : State) (t off n : Nat) : (s.vcount64 t off n).host = s.host := rfl
@[simp] theorem State.vcount64_msix (s : State) (t off n : Nat) : (s.vcount64 t off n).msix = s.msix := rfl
@[simp] theorem State.vcount64_tenants (s : State) (t off n : Nat) : (s.vcount64 t off n).tenants = s.tenants := rfl
@[simp] theorem State.vcount64_epochs (s : State) (t off n : Nat) : (s.vcount64 t off n).epochs = s.epochs := rfl
@[simp] theorem State.vcount64_rotas (s : State) (t off n : Nat) : (s.vcount64 t off n).rotas = s.rotas := rfl
@[simp] theorem State.vcount64_tasks (s : State) (t off n : Nat) : (s.vcount64 t off n).tasks = s.tasks := rfl
@[simp] theorem State.vcount64_stakes (s : State) (t off n : Nat) : (s.vcount64 t off n).stakes = s.stakes := rfl
@[simp] theorem State.vcount64_waits (s : State) (t off n : Nat) : (s.vcount64 t off n).waits = s.waits := rfl
@[simp] theorem State.vcount64_commit (s : State) (t off n : Nat) : (s.vcount64 t off n).commit = s.commit := rfl
@[simp] theorem State.vcount64_qps (s : State) (t off n : Nat) : (s.vcount64 t off n).qps = s.qps := rfl
@[simp] theorem State.vcount64_net (s : State) (t off n : Nat) : (s.vcount64 t off n).net = s.net := rfl
@[simp] theorem State.vcount64_coilReqs (s : State) (t off n : Nat) : (s.vcount64 t off n).coilReqs = s.coilReqs := rfl
@[simp] theorem State.vcount64_mbx (s : State) (t off n : Nat) : (s.vcount64 t off n).mbx = s.mbx := rfl
@[simp] theorem State.vcount64_pldm (s : State) (t off n : Nat) : (s.vcount64 t off n).pldm = s.pldm := rfl
@[simp] theorem State.vcount64_tele (s : State) (t off n : Nat) : (s.vcount64 t off n).tele = s.tele := rfl
@[simp] theorem State.vcount64_flash (s : State) (t off n : Nat) : (s.vcount64 t off n).flash = s.flash := rfl
@[simp] theorem State.vcount64_boot (s : State) (t off n : Nat) : (s.vcount64 t off n).boot = s.boot := rfl
@[simp] theorem State.vcount64_power (s : State) (t off n : Nat) : (s.vcount64 t off n).power = s.power := rfl
@[simp] theorem State.vcount64_log (s : State) (t off n : Nat) : (s.vcount64 t off n).log = s.log := rfl
@[simp] theorem State.vcount64_hostNo (s : State) (t off n : Nat) : (s.vcount64 t off n).hostNo = s.hostNo := rfl
@[simp] theorem State.vcount64_atc (s : State) (t off n : Nat) : (s.vcount64 t off n).atc = s.atc := rfl
@[simp] theorem State.vcount64_held (s : State) (t off n : Nat) : (s.vcount64 t off n).held = s.held := rfl
@[simp] theorem State.vcount64_reads (s : State) (t off n : Nat) : (s.vcount64 t off n).reads = s.reads := rfl
@[simp] theorem State.vcount64_out (s : State) (t off n : Nat) : (s.vcount64 t off n).out = s.out := rfl

/-! ### `State.raise` -/

@[simp] theorem State.raise_pending (s : State) (off mask : Nat) : (s.raise off mask).pending = s.pending := rfl
@[simp] theorem State.raise_freeNo (s : State) (off mask : Nat) : (s.raise off mask).freeNo = s.freeNo := rfl
@[simp] theorem State.raise_chip (s : State) (off mask : Nat) : (s.raise off mask).chip = s.chip := rfl
@[simp] theorem State.raise_shadow (s : State) (off mask : Nat) : (s.raise off mask).shadow = s.shadow := rfl
@[simp] theorem State.raise_vf (s : State) (off mask : Nat) : (s.raise off mask).vf = s.vf := rfl
@[simp] theorem State.raise_latch (s : State) (off mask : Nat) : (s.raise off mask).latch = s.latch := rfl
@[simp] theorem State.raise_beat (s : State) (off mask : Nat) : (s.raise off mask).beat = s.beat := rfl
@[simp] theorem State.raise_ptp (s : State) (off mask : Nat) : (s.raise off mask).ptp = s.ptp := rfl
@[simp] theorem State.raise_mem (s : State) (off mask : Nat) : (s.raise off mask).mem = s.mem := rfl
@[simp] theorem State.raise_host (s : State) (off mask : Nat) : (s.raise off mask).host = s.host := rfl
@[simp] theorem State.raise_msix (s : State) (off mask : Nat) : (s.raise off mask).msix = s.msix := rfl
@[simp] theorem State.raise_tenants (s : State) (off mask : Nat) : (s.raise off mask).tenants = s.tenants := rfl
@[simp] theorem State.raise_epochs (s : State) (off mask : Nat) : (s.raise off mask).epochs = s.epochs := rfl
@[simp] theorem State.raise_rotas (s : State) (off mask : Nat) : (s.raise off mask).rotas = s.rotas := rfl
@[simp] theorem State.raise_tasks (s : State) (off mask : Nat) : (s.raise off mask).tasks = s.tasks := rfl
@[simp] theorem State.raise_stakes (s : State) (off mask : Nat) : (s.raise off mask).stakes = s.stakes := rfl
@[simp] theorem State.raise_waits (s : State) (off mask : Nat) : (s.raise off mask).waits = s.waits := rfl
@[simp] theorem State.raise_commit (s : State) (off mask : Nat) : (s.raise off mask).commit = s.commit := rfl
@[simp] theorem State.raise_qps (s : State) (off mask : Nat) : (s.raise off mask).qps = s.qps := rfl
@[simp] theorem State.raise_net (s : State) (off mask : Nat) : (s.raise off mask).net = s.net := rfl
@[simp] theorem State.raise_coilReqs (s : State) (off mask : Nat) : (s.raise off mask).coilReqs = s.coilReqs := rfl
@[simp] theorem State.raise_mbx (s : State) (off mask : Nat) : (s.raise off mask).mbx = s.mbx := rfl
@[simp] theorem State.raise_pldm (s : State) (off mask : Nat) : (s.raise off mask).pldm = s.pldm := rfl
@[simp] theorem State.raise_tele (s : State) (off mask : Nat) : (s.raise off mask).tele = s.tele := rfl
@[simp] theorem State.raise_flash (s : State) (off mask : Nat) : (s.raise off mask).flash = s.flash := rfl
@[simp] theorem State.raise_boot (s : State) (off mask : Nat) : (s.raise off mask).boot = s.boot := rfl
@[simp] theorem State.raise_power (s : State) (off mask : Nat) : (s.raise off mask).power = s.power := rfl
@[simp] theorem State.raise_log (s : State) (off mask : Nat) : (s.raise off mask).log = s.log := rfl
@[simp] theorem State.raise_hostNo (s : State) (off mask : Nat) : (s.raise off mask).hostNo = s.hostNo := rfl
@[simp] theorem State.raise_atc (s : State) (off mask : Nat) : (s.raise off mask).atc = s.atc := rfl
@[simp] theorem State.raise_held (s : State) (off mask : Nat) : (s.raise off mask).held = s.held := rfl
@[simp] theorem State.raise_reads (s : State) (off mask : Nat) : (s.raise off mask).reads = s.reads := rfl
@[simp] theorem State.raise_out (s : State) (off mask : Nat) : (s.raise off mask).out = s.out := rfl

/-! ### `State.updTenant` -/

@[simp] theorem State.updTenant_pending (s : State) (t : Nat) (f : Tenant → Tenant) : (s.updTenant t f).pending = s.pending := rfl
@[simp] theorem State.updTenant_freeNo (s : State) (t : Nat) (f : Tenant → Tenant) : (s.updTenant t f).freeNo = s.freeNo := rfl
@[simp] theorem State.updTenant_chip (s : State) (t : Nat) (f : Tenant → Tenant) : (s.updTenant t f).chip = s.chip := rfl
@[simp] theorem State.updTenant_pf0 (s : State) (t : Nat) (f : Tenant → Tenant) : (s.updTenant t f).pf0 = s.pf0 := rfl
@[simp] theorem State.updTenant_shadow (s : State) (t : Nat) (f : Tenant → Tenant) : (s.updTenant t f).shadow = s.shadow := rfl
@[simp] theorem State.updTenant_vf (s : State) (t : Nat) (f : Tenant → Tenant) : (s.updTenant t f).vf = s.vf := rfl
@[simp] theorem State.updTenant_latch (s : State) (t : Nat) (f : Tenant → Tenant) : (s.updTenant t f).latch = s.latch := rfl
@[simp] theorem State.updTenant_beat (s : State) (t : Nat) (f : Tenant → Tenant) : (s.updTenant t f).beat = s.beat := rfl
@[simp] theorem State.updTenant_ptp (s : State) (t : Nat) (f : Tenant → Tenant) : (s.updTenant t f).ptp = s.ptp := rfl
@[simp] theorem State.updTenant_mem (s : State) (t : Nat) (f : Tenant → Tenant) : (s.updTenant t f).mem = s.mem := rfl
@[simp] theorem State.updTenant_host (s : State) (t : Nat) (f : Tenant → Tenant) : (s.updTenant t f).host = s.host := rfl
@[simp] theorem State.updTenant_msix (s : State) (t : Nat) (f : Tenant → Tenant) : (s.updTenant t f).msix = s.msix := rfl
@[simp] theorem State.updTenant_epochs (s : State) (t : Nat) (f : Tenant → Tenant) : (s.updTenant t f).epochs = s.epochs := rfl
@[simp] theorem State.updTenant_rotas (s : State) (t : Nat) (f : Tenant → Tenant) : (s.updTenant t f).rotas = s.rotas := rfl
@[simp] theorem State.updTenant_tasks (s : State) (t : Nat) (f : Tenant → Tenant) : (s.updTenant t f).tasks = s.tasks := rfl
@[simp] theorem State.updTenant_stakes (s : State) (t : Nat) (f : Tenant → Tenant) : (s.updTenant t f).stakes = s.stakes := rfl
@[simp] theorem State.updTenant_waits (s : State) (t : Nat) (f : Tenant → Tenant) : (s.updTenant t f).waits = s.waits := rfl
@[simp] theorem State.updTenant_commit (s : State) (t : Nat) (f : Tenant → Tenant) : (s.updTenant t f).commit = s.commit := rfl
@[simp] theorem State.updTenant_qps (s : State) (t : Nat) (f : Tenant → Tenant) : (s.updTenant t f).qps = s.qps := rfl
@[simp] theorem State.updTenant_net (s : State) (t : Nat) (f : Tenant → Tenant) : (s.updTenant t f).net = s.net := rfl
@[simp] theorem State.updTenant_coilReqs (s : State) (t : Nat) (f : Tenant → Tenant) : (s.updTenant t f).coilReqs = s.coilReqs := rfl
@[simp] theorem State.updTenant_mbx (s : State) (t : Nat) (f : Tenant → Tenant) : (s.updTenant t f).mbx = s.mbx := rfl
@[simp] theorem State.updTenant_pldm (s : State) (t : Nat) (f : Tenant → Tenant) : (s.updTenant t f).pldm = s.pldm := rfl
@[simp] theorem State.updTenant_tele (s : State) (t : Nat) (f : Tenant → Tenant) : (s.updTenant t f).tele = s.tele := rfl
@[simp] theorem State.updTenant_flash (s : State) (t : Nat) (f : Tenant → Tenant) : (s.updTenant t f).flash = s.flash := rfl
@[simp] theorem State.updTenant_boot (s : State) (t : Nat) (f : Tenant → Tenant) : (s.updTenant t f).boot = s.boot := rfl
@[simp] theorem State.updTenant_power (s : State) (t : Nat) (f : Tenant → Tenant) : (s.updTenant t f).power = s.power := rfl
@[simp] theorem State.updTenant_log (s : State) (t : Nat) (f : Tenant → Tenant) : (s.updTenant t f).log = s.log := rfl
@[simp] theorem State.updTenant_hostNo (s : State) (t : Nat) (f : Tenant → Tenant) : (s.updTenant t f).hostNo = s.hostNo := rfl
@[simp] theorem State.updTenant_atc (s : State) (t : Nat) (f : Tenant → Tenant) : (s.updTenant t f).atc = s.atc := rfl
@[simp] theorem State.updTenant_held (s : State) (t : Nat) (f : Tenant → Tenant) : (s.updTenant t f).held = s.held := rfl
@[simp] theorem State.updTenant_reads (s : State) (t : Nat) (f : Tenant → Tenant) : (s.updTenant t f).reads = s.reads := rfl
@[simp] theorem State.updTenant_out (s : State) (t : Nat) (f : Tenant → Tenant) : (s.updTenant t f).out = s.out := rfl

/-! ### `State.updRota` -/

@[simp] theorem State.updRota_pending (s : State) (h : Nat) (f : Rota → Rota) : (s.updRota h f).pending = s.pending := rfl
@[simp] theorem State.updRota_freeNo (s : State) (h : Nat) (f : Rota → Rota) : (s.updRota h f).freeNo = s.freeNo := rfl
@[simp] theorem State.updRota_chip (s : State) (h : Nat) (f : Rota → Rota) : (s.updRota h f).chip = s.chip := rfl
@[simp] theorem State.updRota_pf0 (s : State) (h : Nat) (f : Rota → Rota) : (s.updRota h f).pf0 = s.pf0 := rfl
@[simp] theorem State.updRota_shadow (s : State) (h : Nat) (f : Rota → Rota) : (s.updRota h f).shadow = s.shadow := rfl
@[simp] theorem State.updRota_vf (s : State) (h : Nat) (f : Rota → Rota) : (s.updRota h f).vf = s.vf := rfl
@[simp] theorem State.updRota_latch (s : State) (h : Nat) (f : Rota → Rota) : (s.updRota h f).latch = s.latch := rfl
@[simp] theorem State.updRota_beat (s : State) (h : Nat) (f : Rota → Rota) : (s.updRota h f).beat = s.beat := rfl
@[simp] theorem State.updRota_ptp (s : State) (h : Nat) (f : Rota → Rota) : (s.updRota h f).ptp = s.ptp := rfl
@[simp] theorem State.updRota_mem (s : State) (h : Nat) (f : Rota → Rota) : (s.updRota h f).mem = s.mem := rfl
@[simp] theorem State.updRota_host (s : State) (h : Nat) (f : Rota → Rota) : (s.updRota h f).host = s.host := rfl
@[simp] theorem State.updRota_msix (s : State) (h : Nat) (f : Rota → Rota) : (s.updRota h f).msix = s.msix := rfl
@[simp] theorem State.updRota_tenants (s : State) (h : Nat) (f : Rota → Rota) : (s.updRota h f).tenants = s.tenants := rfl
@[simp] theorem State.updRota_epochs (s : State) (h : Nat) (f : Rota → Rota) : (s.updRota h f).epochs = s.epochs := rfl
@[simp] theorem State.updRota_tasks (s : State) (h : Nat) (f : Rota → Rota) : (s.updRota h f).tasks = s.tasks := rfl
@[simp] theorem State.updRota_stakes (s : State) (h : Nat) (f : Rota → Rota) : (s.updRota h f).stakes = s.stakes := rfl
@[simp] theorem State.updRota_waits (s : State) (h : Nat) (f : Rota → Rota) : (s.updRota h f).waits = s.waits := rfl
@[simp] theorem State.updRota_commit (s : State) (h : Nat) (f : Rota → Rota) : (s.updRota h f).commit = s.commit := rfl
@[simp] theorem State.updRota_qps (s : State) (h : Nat) (f : Rota → Rota) : (s.updRota h f).qps = s.qps := rfl
@[simp] theorem State.updRota_net (s : State) (h : Nat) (f : Rota → Rota) : (s.updRota h f).net = s.net := rfl
@[simp] theorem State.updRota_coilReqs (s : State) (h : Nat) (f : Rota → Rota) : (s.updRota h f).coilReqs = s.coilReqs := rfl
@[simp] theorem State.updRota_mbx (s : State) (h : Nat) (f : Rota → Rota) : (s.updRota h f).mbx = s.mbx := rfl
@[simp] theorem State.updRota_pldm (s : State) (h : Nat) (f : Rota → Rota) : (s.updRota h f).pldm = s.pldm := rfl
@[simp] theorem State.updRota_tele (s : State) (h : Nat) (f : Rota → Rota) : (s.updRota h f).tele = s.tele := rfl
@[simp] theorem State.updRota_flash (s : State) (h : Nat) (f : Rota → Rota) : (s.updRota h f).flash = s.flash := rfl
@[simp] theorem State.updRota_boot (s : State) (h : Nat) (f : Rota → Rota) : (s.updRota h f).boot = s.boot := rfl
@[simp] theorem State.updRota_power (s : State) (h : Nat) (f : Rota → Rota) : (s.updRota h f).power = s.power := rfl
@[simp] theorem State.updRota_log (s : State) (h : Nat) (f : Rota → Rota) : (s.updRota h f).log = s.log := rfl
@[simp] theorem State.updRota_hostNo (s : State) (h : Nat) (f : Rota → Rota) : (s.updRota h f).hostNo = s.hostNo := rfl
@[simp] theorem State.updRota_atc (s : State) (h : Nat) (f : Rota → Rota) : (s.updRota h f).atc = s.atc := rfl
@[simp] theorem State.updRota_held (s : State) (h : Nat) (f : Rota → Rota) : (s.updRota h f).held = s.held := rfl
@[simp] theorem State.updRota_reads (s : State) (h : Nat) (f : Rota → Rota) : (s.updRota h f).reads = s.reads := rfl
@[simp] theorem State.updRota_out (s : State) (h : Nat) (f : Rota → Rota) : (s.updRota h f).out = s.out := rfl

/-! ### `State.updTask` -/

@[simp] theorem State.updTask_pending (s : State) (t q : Nat) (f : Task → Task) : (s.updTask t q f).pending = s.pending := rfl
@[simp] theorem State.updTask_freeNo (s : State) (t q : Nat) (f : Task → Task) : (s.updTask t q f).freeNo = s.freeNo := rfl
@[simp] theorem State.updTask_chip (s : State) (t q : Nat) (f : Task → Task) : (s.updTask t q f).chip = s.chip := rfl
@[simp] theorem State.updTask_pf0 (s : State) (t q : Nat) (f : Task → Task) : (s.updTask t q f).pf0 = s.pf0 := rfl
@[simp] theorem State.updTask_shadow (s : State) (t q : Nat) (f : Task → Task) : (s.updTask t q f).shadow = s.shadow := rfl
@[simp] theorem State.updTask_vf (s : State) (t q : Nat) (f : Task → Task) : (s.updTask t q f).vf = s.vf := rfl
@[simp] theorem State.updTask_latch (s : State) (t q : Nat) (f : Task → Task) : (s.updTask t q f).latch = s.latch := rfl
@[simp] theorem State.updTask_beat (s : State) (t q : Nat) (f : Task → Task) : (s.updTask t q f).beat = s.beat := rfl
@[simp] theorem State.updTask_ptp (s : State) (t q : Nat) (f : Task → Task) : (s.updTask t q f).ptp = s.ptp := rfl
@[simp] theorem State.updTask_mem (s : State) (t q : Nat) (f : Task → Task) : (s.updTask t q f).mem = s.mem := rfl
@[simp] theorem State.updTask_host (s : State) (t q : Nat) (f : Task → Task) : (s.updTask t q f).host = s.host := rfl
@[simp] theorem State.updTask_msix (s : State) (t q : Nat) (f : Task → Task) : (s.updTask t q f).msix = s.msix := rfl
@[simp] theorem State.updTask_tenants (s : State) (t q : Nat) (f : Task → Task) : (s.updTask t q f).tenants = s.tenants := rfl
@[simp] theorem State.updTask_epochs (s : State) (t q : Nat) (f : Task → Task) : (s.updTask t q f).epochs = s.epochs := rfl
@[simp] theorem State.updTask_rotas (s : State) (t q : Nat) (f : Task → Task) : (s.updTask t q f).rotas = s.rotas := rfl
@[simp] theorem State.updTask_stakes (s : State) (t q : Nat) (f : Task → Task) : (s.updTask t q f).stakes = s.stakes := rfl
@[simp] theorem State.updTask_waits (s : State) (t q : Nat) (f : Task → Task) : (s.updTask t q f).waits = s.waits := rfl
@[simp] theorem State.updTask_commit (s : State) (t q : Nat) (f : Task → Task) : (s.updTask t q f).commit = s.commit := rfl
@[simp] theorem State.updTask_qps (s : State) (t q : Nat) (f : Task → Task) : (s.updTask t q f).qps = s.qps := rfl
@[simp] theorem State.updTask_net (s : State) (t q : Nat) (f : Task → Task) : (s.updTask t q f).net = s.net := rfl
@[simp] theorem State.updTask_coilReqs (s : State) (t q : Nat) (f : Task → Task) : (s.updTask t q f).coilReqs = s.coilReqs := rfl
@[simp] theorem State.updTask_mbx (s : State) (t q : Nat) (f : Task → Task) : (s.updTask t q f).mbx = s.mbx := rfl
@[simp] theorem State.updTask_pldm (s : State) (t q : Nat) (f : Task → Task) : (s.updTask t q f).pldm = s.pldm := rfl
@[simp] theorem State.updTask_tele (s : State) (t q : Nat) (f : Task → Task) : (s.updTask t q f).tele = s.tele := rfl
@[simp] theorem State.updTask_flash (s : State) (t q : Nat) (f : Task → Task) : (s.updTask t q f).flash = s.flash := rfl
@[simp] theorem State.updTask_boot (s : State) (t q : Nat) (f : Task → Task) : (s.updTask t q f).boot = s.boot := rfl
@[simp] theorem State.updTask_power (s : State) (t q : Nat) (f : Task → Task) : (s.updTask t q f).power = s.power := rfl
@[simp] theorem State.updTask_log (s : State) (t q : Nat) (f : Task → Task) : (s.updTask t q f).log = s.log := rfl
@[simp] theorem State.updTask_hostNo (s : State) (t q : Nat) (f : Task → Task) : (s.updTask t q f).hostNo = s.hostNo := rfl
@[simp] theorem State.updTask_atc (s : State) (t q : Nat) (f : Task → Task) : (s.updTask t q f).atc = s.atc := rfl
@[simp] theorem State.updTask_held (s : State) (t q : Nat) (f : Task → Task) : (s.updTask t q f).held = s.held := rfl
@[simp] theorem State.updTask_reads (s : State) (t q : Nat) (f : Task → Task) : (s.updTask t q f).reads = s.reads := rfl
@[simp] theorem State.updTask_out (s : State) (t q : Nat) (f : Task → Task) : (s.updTask t q f).out = s.out := rfl

/-! ### `State.updQp` -/

@[simp] theorem State.updQp_pending (s : State) (t q : Nat) (f : Qp → Qp) : (s.updQp t q f).pending = s.pending := rfl
@[simp] theorem State.updQp_freeNo (s : State) (t q : Nat) (f : Qp → Qp) : (s.updQp t q f).freeNo = s.freeNo := rfl
@[simp] theorem State.updQp_chip (s : State) (t q : Nat) (f : Qp → Qp) : (s.updQp t q f).chip = s.chip := rfl
@[simp] theorem State.updQp_pf0 (s : State) (t q : Nat) (f : Qp → Qp) : (s.updQp t q f).pf0 = s.pf0 := rfl
@[simp] theorem State.updQp_shadow (s : State) (t q : Nat) (f : Qp → Qp) : (s.updQp t q f).shadow = s.shadow := rfl
@[simp] theorem State.updQp_vf (s : State) (t q : Nat) (f : Qp → Qp) : (s.updQp t q f).vf = s.vf := rfl
@[simp] theorem State.updQp_latch (s : State) (t q : Nat) (f : Qp → Qp) : (s.updQp t q f).latch = s.latch := rfl
@[simp] theorem State.updQp_beat (s : State) (t q : Nat) (f : Qp → Qp) : (s.updQp t q f).beat = s.beat := rfl
@[simp] theorem State.updQp_ptp (s : State) (t q : Nat) (f : Qp → Qp) : (s.updQp t q f).ptp = s.ptp := rfl
@[simp] theorem State.updQp_mem (s : State) (t q : Nat) (f : Qp → Qp) : (s.updQp t q f).mem = s.mem := rfl
@[simp] theorem State.updQp_host (s : State) (t q : Nat) (f : Qp → Qp) : (s.updQp t q f).host = s.host := rfl
@[simp] theorem State.updQp_msix (s : State) (t q : Nat) (f : Qp → Qp) : (s.updQp t q f).msix = s.msix := rfl
@[simp] theorem State.updQp_tenants (s : State) (t q : Nat) (f : Qp → Qp) : (s.updQp t q f).tenants = s.tenants := rfl
@[simp] theorem State.updQp_epochs (s : State) (t q : Nat) (f : Qp → Qp) : (s.updQp t q f).epochs = s.epochs := rfl
@[simp] theorem State.updQp_rotas (s : State) (t q : Nat) (f : Qp → Qp) : (s.updQp t q f).rotas = s.rotas := rfl
@[simp] theorem State.updQp_tasks (s : State) (t q : Nat) (f : Qp → Qp) : (s.updQp t q f).tasks = s.tasks := rfl
@[simp] theorem State.updQp_stakes (s : State) (t q : Nat) (f : Qp → Qp) : (s.updQp t q f).stakes = s.stakes := rfl
@[simp] theorem State.updQp_waits (s : State) (t q : Nat) (f : Qp → Qp) : (s.updQp t q f).waits = s.waits := rfl
@[simp] theorem State.updQp_commit (s : State) (t q : Nat) (f : Qp → Qp) : (s.updQp t q f).commit = s.commit := rfl
@[simp] theorem State.updQp_net (s : State) (t q : Nat) (f : Qp → Qp) : (s.updQp t q f).net = s.net := rfl
@[simp] theorem State.updQp_coilReqs (s : State) (t q : Nat) (f : Qp → Qp) : (s.updQp t q f).coilReqs = s.coilReqs := rfl
@[simp] theorem State.updQp_mbx (s : State) (t q : Nat) (f : Qp → Qp) : (s.updQp t q f).mbx = s.mbx := rfl
@[simp] theorem State.updQp_pldm (s : State) (t q : Nat) (f : Qp → Qp) : (s.updQp t q f).pldm = s.pldm := rfl
@[simp] theorem State.updQp_tele (s : State) (t q : Nat) (f : Qp → Qp) : (s.updQp t q f).tele = s.tele := rfl
@[simp] theorem State.updQp_flash (s : State) (t q : Nat) (f : Qp → Qp) : (s.updQp t q f).flash = s.flash := rfl
@[simp] theorem State.updQp_boot (s : State) (t q : Nat) (f : Qp → Qp) : (s.updQp t q f).boot = s.boot := rfl
@[simp] theorem State.updQp_power (s : State) (t q : Nat) (f : Qp → Qp) : (s.updQp t q f).power = s.power := rfl
@[simp] theorem State.updQp_log (s : State) (t q : Nat) (f : Qp → Qp) : (s.updQp t q f).log = s.log := rfl
@[simp] theorem State.updQp_hostNo (s : State) (t q : Nat) (f : Qp → Qp) : (s.updQp t q f).hostNo = s.hostNo := rfl
@[simp] theorem State.updQp_atc (s : State) (t q : Nat) (f : Qp → Qp) : (s.updQp t q f).atc = s.atc := rfl
@[simp] theorem State.updQp_held (s : State) (t q : Nat) (f : Qp → Qp) : (s.updQp t q f).held = s.held := rfl
@[simp] theorem State.updQp_reads (s : State) (t q : Nat) (f : Qp → Qp) : (s.updQp t q f).reads = s.reads := rfl
@[simp] theorem State.updQp_out (s : State) (t q : Nat) (f : Qp → Qp) : (s.updQp t q f).out = s.out := rfl

/-! ### `State.updPort` -/

@[simp] theorem State.updPort_pending (s : State) (p : Nat) (f : NetPort → NetPort) : (s.updPort p f).pending = s.pending := rfl
@[simp] theorem State.updPort_freeNo (s : State) (p : Nat) (f : NetPort → NetPort) : (s.updPort p f).freeNo = s.freeNo := rfl
@[simp] theorem State.updPort_chip (s : State) (p : Nat) (f : NetPort → NetPort) : (s.updPort p f).chip = s.chip := rfl
@[simp] theorem State.updPort_pf0 (s : State) (p : Nat) (f : NetPort → NetPort) : (s.updPort p f).pf0 = s.pf0 := rfl
@[simp] theorem State.updPort_shadow (s : State) (p : Nat) (f : NetPort → NetPort) : (s.updPort p f).shadow = s.shadow := rfl
@[simp] theorem State.updPort_vf (s : State) (p : Nat) (f : NetPort → NetPort) : (s.updPort p f).vf = s.vf := rfl
@[simp] theorem State.updPort_latch (s : State) (p : Nat) (f : NetPort → NetPort) : (s.updPort p f).latch = s.latch := rfl
@[simp] theorem State.updPort_beat (s : State) (p : Nat) (f : NetPort → NetPort) : (s.updPort p f).beat = s.beat := rfl
@[simp] theorem State.updPort_ptp (s : State) (p : Nat) (f : NetPort → NetPort) : (s.updPort p f).ptp = s.ptp := rfl
@[simp] theorem State.updPort_mem (s : State) (p : Nat) (f : NetPort → NetPort) : (s.updPort p f).mem = s.mem := rfl
@[simp] theorem State.updPort_host (s : State) (p : Nat) (f : NetPort → NetPort) : (s.updPort p f).host = s.host := rfl
@[simp] theorem State.updPort_msix (s : State) (p : Nat) (f : NetPort → NetPort) : (s.updPort p f).msix = s.msix := rfl
@[simp] theorem State.updPort_tenants (s : State) (p : Nat) (f : NetPort → NetPort) : (s.updPort p f).tenants = s.tenants := rfl
@[simp] theorem State.updPort_epochs (s : State) (p : Nat) (f : NetPort → NetPort) : (s.updPort p f).epochs = s.epochs := rfl
@[simp] theorem State.updPort_rotas (s : State) (p : Nat) (f : NetPort → NetPort) : (s.updPort p f).rotas = s.rotas := rfl
@[simp] theorem State.updPort_tasks (s : State) (p : Nat) (f : NetPort → NetPort) : (s.updPort p f).tasks = s.tasks := rfl
@[simp] theorem State.updPort_stakes (s : State) (p : Nat) (f : NetPort → NetPort) : (s.updPort p f).stakes = s.stakes := rfl
@[simp] theorem State.updPort_waits (s : State) (p : Nat) (f : NetPort → NetPort) : (s.updPort p f).waits = s.waits := rfl
@[simp] theorem State.updPort_commit (s : State) (p : Nat) (f : NetPort → NetPort) : (s.updPort p f).commit = s.commit := rfl
@[simp] theorem State.updPort_qps (s : State) (p : Nat) (f : NetPort → NetPort) : (s.updPort p f).qps = s.qps := rfl
@[simp] theorem State.updPort_coilReqs (s : State) (p : Nat) (f : NetPort → NetPort) : (s.updPort p f).coilReqs = s.coilReqs := rfl
@[simp] theorem State.updPort_mbx (s : State) (p : Nat) (f : NetPort → NetPort) : (s.updPort p f).mbx = s.mbx := rfl
@[simp] theorem State.updPort_pldm (s : State) (p : Nat) (f : NetPort → NetPort) : (s.updPort p f).pldm = s.pldm := rfl
@[simp] theorem State.updPort_tele (s : State) (p : Nat) (f : NetPort → NetPort) : (s.updPort p f).tele = s.tele := rfl
@[simp] theorem State.updPort_flash (s : State) (p : Nat) (f : NetPort → NetPort) : (s.updPort p f).flash = s.flash := rfl
@[simp] theorem State.updPort_boot (s : State) (p : Nat) (f : NetPort → NetPort) : (s.updPort p f).boot = s.boot := rfl
@[simp] theorem State.updPort_power (s : State) (p : Nat) (f : NetPort → NetPort) : (s.updPort p f).power = s.power := rfl
@[simp] theorem State.updPort_log (s : State) (p : Nat) (f : NetPort → NetPort) : (s.updPort p f).log = s.log := rfl
@[simp] theorem State.updPort_hostNo (s : State) (p : Nat) (f : NetPort → NetPort) : (s.updPort p f).hostNo = s.hostNo := rfl
@[simp] theorem State.updPort_atc (s : State) (p : Nat) (f : NetPort → NetPort) : (s.updPort p f).atc = s.atc := rfl
@[simp] theorem State.updPort_held (s : State) (p : Nat) (f : NetPort → NetPort) : (s.updPort p f).held = s.held := rfl
@[simp] theorem State.updPort_reads (s : State) (p : Nat) (f : NetPort → NetPort) : (s.updPort p f).reads = s.reads := rfl
@[simp] theorem State.updPort_out (s : State) (p : Nat) (f : NetPort → NetPort) : (s.updPort p f).out = s.out := rfl

/-! ### `State.free` -/

@[simp] theorem State.free_pending (s : State) (w : Nat) : (s.free w).2.pending = s.pending := rfl
@[simp] theorem State.free_chip (s : State) (w : Nat) : (s.free w).2.chip = s.chip := rfl
@[simp] theorem State.free_pf0 (s : State) (w : Nat) : (s.free w).2.pf0 = s.pf0 := rfl
@[simp] theorem State.free_shadow (s : State) (w : Nat) : (s.free w).2.shadow = s.shadow := rfl
@[simp] theorem State.free_vf (s : State) (w : Nat) : (s.free w).2.vf = s.vf := rfl
@[simp] theorem State.free_latch (s : State) (w : Nat) : (s.free w).2.latch = s.latch := rfl
@[simp] theorem State.free_beat (s : State) (w : Nat) : (s.free w).2.beat = s.beat := rfl
@[simp] theorem State.free_ptp (s : State) (w : Nat) : (s.free w).2.ptp = s.ptp := rfl
@[simp] theorem State.free_mem (s : State) (w : Nat) : (s.free w).2.mem = s.mem := rfl
@[simp] theorem State.free_host (s : State) (w : Nat) : (s.free w).2.host = s.host := rfl
@[simp] theorem State.free_msix (s : State) (w : Nat) : (s.free w).2.msix = s.msix := rfl
@[simp] theorem State.free_tenants (s : State) (w : Nat) : (s.free w).2.tenants = s.tenants := rfl
@[simp] theorem State.free_epochs (s : State) (w : Nat) : (s.free w).2.epochs = s.epochs := rfl
@[simp] theorem State.free_rotas (s : State) (w : Nat) : (s.free w).2.rotas = s.rotas := rfl
@[simp] theorem State.free_tasks (s : State) (w : Nat) : (s.free w).2.tasks = s.tasks := rfl
@[simp] theorem State.free_stakes (s : State) (w : Nat) : (s.free w).2.stakes = s.stakes := rfl
@[simp] theorem State.free_waits (s : State) (w : Nat) : (s.free w).2.waits = s.waits := rfl
@[simp] theorem State.free_commit (s : State) (w : Nat) : (s.free w).2.commit = s.commit := rfl
@[simp] theorem State.free_qps (s : State) (w : Nat) : (s.free w).2.qps = s.qps := rfl
@[simp] theorem State.free_net (s : State) (w : Nat) : (s.free w).2.net = s.net := rfl
@[simp] theorem State.free_coilReqs (s : State) (w : Nat) : (s.free w).2.coilReqs = s.coilReqs := rfl
@[simp] theorem State.free_mbx (s : State) (w : Nat) : (s.free w).2.mbx = s.mbx := rfl
@[simp] theorem State.free_pldm (s : State) (w : Nat) : (s.free w).2.pldm = s.pldm := rfl
@[simp] theorem State.free_tele (s : State) (w : Nat) : (s.free w).2.tele = s.tele := rfl
@[simp] theorem State.free_flash (s : State) (w : Nat) : (s.free w).2.flash = s.flash := rfl
@[simp] theorem State.free_boot (s : State) (w : Nat) : (s.free w).2.boot = s.boot := rfl
@[simp] theorem State.free_power (s : State) (w : Nat) : (s.free w).2.power = s.power := rfl
@[simp] theorem State.free_log (s : State) (w : Nat) : (s.free w).2.log = s.log := rfl
@[simp] theorem State.free_hostNo (s : State) (w : Nat) : (s.free w).2.hostNo = s.hostNo := rfl
@[simp] theorem State.free_atc (s : State) (w : Nat) : (s.free w).2.atc = s.atc := rfl
@[simp] theorem State.free_held (s : State) (w : Nat) : (s.free w).2.held = s.held := rfl
@[simp] theorem State.free_reads (s : State) (w : Nat) : (s.free w).2.reads = s.reads := rfl
@[simp] theorem State.free_out (s : State) (w : Nat) : (s.free w).2.out = s.out := rfl
@[simp] theorem State.free_freeNo (s : State) (w : Nat) : (s.free w).2.freeNo = s.freeNo + 1 := rfl

/-! ### `State.putByte` -/

@[simp] theorem State.putByte_pending (s : State) (sp : Space) (a : Nat) (b : Byte) : (s.putByte sp a b).pending = s.pending := by cases sp <;> rfl
@[simp] theorem State.putByte_freeNo (s : State) (sp : Space) (a : Nat) (b : Byte) : (s.putByte sp a b).freeNo = s.freeNo := by cases sp <;> rfl
@[simp] theorem State.putByte_chip (s : State) (sp : Space) (a : Nat) (b : Byte) : (s.putByte sp a b).chip = s.chip := by cases sp <;> rfl
@[simp] theorem State.putByte_pf0 (s : State) (sp : Space) (a : Nat) (b : Byte) : (s.putByte sp a b).pf0 = s.pf0 := by cases sp <;> rfl
@[simp] theorem State.putByte_shadow (s : State) (sp : Space) (a : Nat) (b : Byte) : (s.putByte sp a b).shadow = s.shadow := by cases sp <;> rfl
@[simp] theorem State.putByte_vf (s : State) (sp : Space) (a : Nat) (b : Byte) : (s.putByte sp a b).vf = s.vf := by cases sp <;> rfl
@[simp] theorem State.putByte_latch (s : State) (sp : Space) (a : Nat) (b : Byte) : (s.putByte sp a b).latch = s.latch := by cases sp <;> rfl
@[simp] theorem State.putByte_beat (s : State) (sp : Space) (a : Nat) (b : Byte) : (s.putByte sp a b).beat = s.beat := by cases sp <;> rfl
@[simp] theorem State.putByte_ptp (s : State) (sp : Space) (a : Nat) (b : Byte) : (s.putByte sp a b).ptp = s.ptp := by cases sp <;> rfl
@[simp] theorem State.putByte_host (s : State) (sp : Space) (a : Nat) (b : Byte) : (s.putByte sp a b).host = s.host := by cases sp <;> rfl
@[simp] theorem State.putByte_msix (s : State) (sp : Space) (a : Nat) (b : Byte) : (s.putByte sp a b).msix = s.msix := by cases sp <;> rfl
@[simp] theorem State.putByte_tenants (s : State) (sp : Space) (a : Nat) (b : Byte) : (s.putByte sp a b).tenants = s.tenants := by cases sp <;> rfl
@[simp] theorem State.putByte_epochs (s : State) (sp : Space) (a : Nat) (b : Byte) : (s.putByte sp a b).epochs = s.epochs := by cases sp <;> rfl
@[simp] theorem State.putByte_rotas (s : State) (sp : Space) (a : Nat) (b : Byte) : (s.putByte sp a b).rotas = s.rotas := by cases sp <;> rfl
@[simp] theorem State.putByte_tasks (s : State) (sp : Space) (a : Nat) (b : Byte) : (s.putByte sp a b).tasks = s.tasks := by cases sp <;> rfl
@[simp] theorem State.putByte_stakes (s : State) (sp : Space) (a : Nat) (b : Byte) : (s.putByte sp a b).stakes = s.stakes := by cases sp <;> rfl
@[simp] theorem State.putByte_waits (s : State) (sp : Space) (a : Nat) (b : Byte) : (s.putByte sp a b).waits = s.waits := by cases sp <;> rfl
@[simp] theorem State.putByte_commit (s : State) (sp : Space) (a : Nat) (b : Byte) : (s.putByte sp a b).commit = s.commit := by cases sp <;> rfl
@[simp] theorem State.putByte_qps (s : State) (sp : Space) (a : Nat) (b : Byte) : (s.putByte sp a b).qps = s.qps := by cases sp <;> rfl
@[simp] theorem State.putByte_net (s : State) (sp : Space) (a : Nat) (b : Byte) : (s.putByte sp a b).net = s.net := by cases sp <;> rfl
@[simp] theorem State.putByte_coilReqs (s : State) (sp : Space) (a : Nat) (b : Byte) : (s.putByte sp a b).coilReqs = s.coilReqs := by cases sp <;> rfl
@[simp] theorem State.putByte_mbx (s : State) (sp : Space) (a : Nat) (b : Byte) : (s.putByte sp a b).mbx = s.mbx := by cases sp <;> rfl
@[simp] theorem State.putByte_pldm (s : State) (sp : Space) (a : Nat) (b : Byte) : (s.putByte sp a b).pldm = s.pldm := by cases sp <;> rfl
@[simp] theorem State.putByte_tele (s : State) (sp : Space) (a : Nat) (b : Byte) : (s.putByte sp a b).tele = s.tele := by cases sp <;> rfl
@[simp] theorem State.putByte_flash (s : State) (sp : Space) (a : Nat) (b : Byte) : (s.putByte sp a b).flash = s.flash := by cases sp <;> rfl
@[simp] theorem State.putByte_boot (s : State) (sp : Space) (a : Nat) (b : Byte) : (s.putByte sp a b).boot = s.boot := by cases sp <;> rfl
@[simp] theorem State.putByte_power (s : State) (sp : Space) (a : Nat) (b : Byte) : (s.putByte sp a b).power = s.power := by cases sp <;> rfl
@[simp] theorem State.putByte_log (s : State) (sp : Space) (a : Nat) (b : Byte) : (s.putByte sp a b).log = s.log := by cases sp <;> rfl
@[simp] theorem State.putByte_hostNo (s : State) (sp : Space) (a : Nat) (b : Byte) : (s.putByte sp a b).hostNo = s.hostNo := by cases sp <;> rfl
@[simp] theorem State.putByte_atc (s : State) (sp : Space) (a : Nat) (b : Byte) : (s.putByte sp a b).atc = s.atc := by cases sp <;> rfl
@[simp] theorem State.putByte_held (s : State) (sp : Space) (a : Nat) (b : Byte) : (s.putByte sp a b).held = s.held := by cases sp <;> rfl
@[simp] theorem State.putByte_reads (s : State) (sp : Space) (a : Nat) (b : Byte) : (s.putByte sp a b).reads = s.reads := by cases sp <;> rfl
@[simp] theorem State.putByte_out (s : State) (sp : Space) (a : Nat) (b : Byte) : (s.putByte sp a b).out = s.out := by cases sp <;> rfl

/-! ### Reads after writes -/

/-- A register holds what was last written to it, the files in canonical form. -/
theorem State.get_set_same {s : State} (h : sparseWf 0 s.pf0 = true) (off : Nat) (v : Word) : (s.set off v).get off = v := sparseGet_set_same h

/-- A write leaves every other register alone. -/
theorem State.get_set_other (s : State) {off o : Nat} (v : Word) (n : o ≠ off) : (s.set off v).get o = s.get o := sparseGet_set_other n _

@[simp] theorem State.get_vset (s : State) (t off o : Nat) (v : Word) : (s.vset t off v).get o = s.get o := rfl

@[simp] theorem State.vget_set (s : State) (off t o : Nat) (v : Word) : (s.set off v).vget t o = s.vget t o := rfl

theorem State.vget_vset_same {s : State} (h : sparseWf 0 s.vf = true) (t off : Nat) (v : Word) : (s.vset t off v).vget t off = v :=
  sparseGet_set_same h

/-- A write to one register of one tenant's VF leaves every other alone. -/
theorem State.vget_vset_other (s : State) {t off t' o : Nat} (v : Word) (n : vfKey t' o ≠ vfKey t off) :
    (s.vset t off v).vget t' o = s.vget t' o := sparseGet_set_other n _

@[simp] theorem State.get_emit (s : State) (o : Out) (off : Nat) : (s.emit o).get off = s.get off := rfl

@[simp] theorem State.vget_emit (s : State) (o : Out) (t off : Nat) : (s.emit o).vget t off = s.vget t off := rfl

/-- A byte of memory holds what was last written to it. -/
theorem State.byteAt_putByte_same {s : State} (h : s.mem.wf = true) (sp : Space) (a : Nat) (b : Byte) : (s.putByte sp a b).byteAt sp a = b := by
  simp only [Mem.wf, Bool.and_eq_true] at h
  cases sp with
  | hbm => exact sparseGet_set_same h.1.1.1.1
  | ory => exact sparseGet_set_same h.1.1.1.2

/-- A write of a byte leaves every other byte alone, of this memory and of the other. -/
theorem State.byteAt_putByte_other (s : State) {sp sq : Space} {a x : Nat} (b : Byte) (n : sq ≠ sp ∨ x ≠ a) :
    (s.putByte sp a b).byteAt sq x = s.byteAt sq x := by
  cases sp <;> cases sq
  · exact sparseGet_set_other (n.resolve_left (fun h => h rfl)) _
  · rfl
  · rfl
  · exact sparseGet_set_other (n.resolve_left (fun h => h rfl)) _

/-- Bytes written at `a` leave every byte outside them alone. -/
theorem State.byteAt_putBytes_other {sp sq : Space} {x : Nat} : ∀ (b : Bytes) (s : State) (a : Nat), sq ≠ sp ∨ x < a ∨ a + b.length ≤ x →
    (s.putBytes sp a b).byteAt sq x = s.byteAt sq x
  | [], _, _, _ => rfl
  | c :: b, s, a, n => by
    unfold State.putBytes
    rw [State.byteAt_putBytes_other b, State.byteAt_putByte_other]
    · rcases n with n | n | n
      · exact .inl n
      · exact .inr (by omega)
      · exact .inr (by simp only [List.length_cons] at n; omega)
    · rcases n with n | n | n
      · exact .inl n
      · exact .inr (.inl (by omega))
      · exact .inr (.inr (by simp only [List.length_cons] at n; omega))

end Sys2Proof.Machine
end

