-- ==== Sys2Proof/Laws/Memory.lean ====
section
/-! SUPPORT. What a write to tenant memory does, once: where its words have no bit in error and its lines are open, it changes the bytes it names
and no other. -/

namespace Sys2Proof.Machine

/-- A byte stays clean when a byte is put. -/
@[simp] theorem State.clean_putByte (s : State) (sp sq : Space) (a x : Nat) (b : Byte) : (s.putByte sp a b).clean sq x = s.clean sq x := by
  cases sp <;> rfl

/-- Setting the errors of a word to 0 keeps clean bytes clean. -/
theorem State.clean_setErr {s : State} (w : s.mem.wf = true) {sp : Space} {x : Nat} (n : Nat) (h : s.clean sp x = true) :
    (s.setErr sp n 0).clean sp x = true := by
  simp only [Mem.wf, Bool.and_eq_true] at w
  simp only [State.clean, Bool.and_eq_true] at h ⊢
  refine ⟨?_, by cases sp <;> exact h.2⟩
  by_cases e : x / 8 = n
  · subst e
    cases sp
    · simpa [State.errOf, State.setErr, State.errs] using sparseGet_set_same w.1.2
    · simpa [State.errOf, State.setErr, State.errs] using sparseGet_set_same w.2
  · have g := h.1
    cases sp
    · simpa [State.errOf, State.setErr, State.errs, sparseGet_set_other e] using g
    · simpa [State.errOf, State.setErr, State.errs, sparseGet_set_other e] using g

theorem Mem.wf_putByte {s : State} (w : s.mem.wf = true) (sp : Space) (a : Nat) (b : Byte) : (s.putByte sp a b).mem.wf = true := by
  simp only [Mem.wf, Bool.and_eq_true] at w ⊢
  cases sp <;> simp only [State.putByte] <;> simp only [w, sparseSet_wf, and_self]

theorem Mem.wf_setErr {s : State} (w : s.mem.wf = true) (sp : Space) (n k : Nat) : (s.setErr sp n k).mem.wf = true := by
  simp only [Mem.wf, Bool.and_eq_true] at w ⊢
  cases sp <;> simp only [State.setErr] <;> simp only [w, sparseSet_wf, and_self]

/-- A clean piece of a write needs no correction. -/
theorem State.eccWrite_clean {s : State} (w : s.mem.wf = true) {sp : Space} {a : Nat} (k : Nat) (h : s.clean sp a = true) :
    ∃ m, s.eccWrite sp (a / 8) k = ({ s with mem := m }, true) ∧ m.wf = true ∧ (∀ c x, ({ s with mem := m } : State).byteAt c x = s.byteAt c x)
      ∧ ∀ x, s.clean sp x = true → ({ s with mem := m } : State).clean sp x = true := by
  have h0 : s.errOf sp (a / 8) = 0 := by simp only [State.clean, Bool.and_eq_true, beq_iff_eq] at h; exact h.1
  unfold State.eccWrite
  split
  · refine ⟨(s.setErr sp (a / 8) 0).mem, ?_, Mem.wf_setErr w _ _ _, ?_, ?_⟩
    · cases sp <;> rfl
    · intro c x; cases sp <;> cases c <;> rfl
    · intro x hx
      have := State.clean_setErr w (a / 8) hx
      cases sp <;> exact this
  · refine ⟨s.mem, ?_, w, fun _ _ => rfl, fun _ hx => hx⟩
    simp only [State.eccRead, h0]

/-- Pieces of a write that are all clean: they are all written, each byte named holds its new value, and no other byte changes. -/
theorem State.writePieces_clean (t : Nat) (sp : Space) : ∀ (l : List (Nat × Byte)) (k : Nat) (s : State), s.mem.wf = true →
    (∀ p ∈ l, s.clean sp p.1 = true) → ∃ m, s.writePieces t sp l k = ({ s with mem := m }, true) ∧ m.wf = true
      ∧ (∀ c x, c ≠ sp ∨ x ∉ l.map Prod.fst → ({ s with mem := m } : State).byteAt c x = s.byteAt c x)
      ∧ ((l.map Prod.fst).Nodup → ∀ p ∈ l, ({ s with mem := m } : State).byteAt sp p.1 = p.2)
  | [], k, s, w, _ => ⟨s.mem, by cases k <;> rfl, w, fun _ _ _ => rfl, by simp⟩
  | (a, b) :: rest, k + 1, s, w, hc => by
    obtain ⟨m, e, wm, f, g⟩ := State.writePieces_clean t sp rest k (s.putByte sp a b) (Mem.wf_putByte w sp a b)
      (fun p hp => by rw [State.clean_putByte]; exact hc p (List.mem_cons_of_mem _ hp))
    have eq : ({ s.putByte sp a b with mem := m } : State) = { s with mem := m } := by cases sp <;> rfl
    rw [eq] at e f g
    refine ⟨m, by rw [State.writePieces]; exact e, wm, ?_, ?_⟩
    · intro c x hx
      rw [f c x (hx.imp id (fun h => by simp only [List.map_cons, List.mem_cons, not_or] at h; exact h.2))]
      exact State.byteAt_putByte_other s b (hx.imp id (fun h => by simp only [List.map_cons, List.mem_cons, not_or] at h; exact h.1))
    · intro nd p hp
      simp only [List.map_cons, List.nodup_cons] at nd
      rcases List.mem_cons.1 hp with rfl | hp
      · rw [f sp a (.inr nd.1)]; exact State.byteAt_putByte_same w sp a b
      · exact g nd.2 p hp
  | (a, b) :: rest, 0, s, w, hc => by
    have ha := hc (a, b) (List.mem_cons_self ..)
    have open_ : (if sp = .ory then s.openLine t (a / 128) else s) = s := by
      split
      · next e =>
        subst e
        have : s.tagged (a / 128) = true := by simp only [State.clean, Bool.and_eq_true] at ha; simpa using ha.2
        simp [State.openLine, this]
      · rfl
    obtain ⟨m1, e1, w1, f1, c1⟩ := State.eccWrite_clean w (1 + (rest.takeWhile (fun p => p.1 / 8 == a / 8)).length) ha
    obtain ⟨m, e, wm, f, g⟩ := State.writePieces_clean t sp rest (1 + (rest.takeWhile (fun p => p.1 / 8 == a / 8)).length - 1)
      (({ s with mem := m1 } : State).putByte sp a b) (Mem.wf_putByte w1 sp a b)
      (fun p hp => by rw [State.clean_putByte]; exact c1 _ (hc p (List.mem_cons_of_mem _ hp)))
    have eq : ({ ({ s with mem := m1 } : State).putByte sp a b with mem := m } : State) = { s with mem := m } := by cases sp <;> rfl
    rw [eq] at e f g
    refine ⟨m, ?_, wm, ?_, ?_⟩
    · rw [State.writePieces]; simp only [open_, e1]; exact e
    · intro c x hx
      rw [f c x (hx.imp id (fun h => by simp only [List.map_cons, List.mem_cons, not_or] at h; exact h.2)), ← f1 c x]
      exact State.byteAt_putByte_other _ b (hx.imp id (fun h => by simp only [List.map_cons, List.mem_cons, not_or] at h; exact h.1))
    · intro nd p hp
      simp only [List.map_cons, List.nodup_cons] at nd
      rcases List.mem_cons.1 hp with rfl | hp
      · rw [f sp a (.inr nd.1)]; exact State.byteAt_putByte_same w1 sp a b
      · exact g nd.2 p hp

/-- A translated range has as many addresses as bytes. -/
theorem translateAll_length {e : Runs} : ∀ {n a : Nat} {l : List Nat}, translateAll e a n = some l → l.length = n
  | 0, _, _, h => by simp only [translateAll, Option.some.injEq] at h; subst h; rfl
  | n + 1, a, l, h => by
    simp only [translateAll] at h
    split at h
    · next h2 => simp only [Option.some.injEq] at h; subst h; simp [translateAll_length h2]
    · cases h

/-- A write to tenant memory whose bytes are all clean is done: the bytes at its translated addresses are its data, and every other byte is as before. -/
theorem State.writeMem_clean {s : State} (w : s.mem.wf = true) {t : Nat} {sp : Space} {a : Nat} {data : Bytes} {pas : List Nat}
    (ht : translateAll (s.extents t sp) a data.length = some pas) (hc : ∀ p ∈ pas, s.clean sp p = true) :
    ∃ m, s.writeMem t sp a data = ({ s with mem := m }, none) ∧ m.wf = true
      ∧ (∀ c x, c ≠ sp ∨ x ∉ pas → ({ s with mem := m } : State).byteAt c x = s.byteAt c x)
      ∧ (pas.Nodup → pas.map (({ s with mem := m } : State).byteAt sp) = data) := by
  have len := translateAll_length ht
  have fst : (pas.zip data).map Prod.fst = pas := List.map_fst_zip (by omega)
  obtain ⟨m, e, wm, f, g⟩ := State.writePieces_clean t sp (pas.zip data) 0 s w (fun p hp => hc p.1 (List.of_mem_zip hp).1)
  rw [fst] at f g
  refine ⟨{ m with writes := m.writes + 1 }, ?_, by simpa [Mem.wf] using wm, ?_, ?_⟩
  · simp only [State.writeMem, ht, e]
  · intro c x hx; have := f c x hx; cases c <;> exact this
  · intro nd
    have k : ∀ p ∈ pas.zip data, ({ s with mem := m } : State).byteAt sp p.1 = p.2 := g nd
    have : pas.map (({ s with mem := m } : State).byteAt sp) = data := by
      conv_rhs => rw [← List.map_snd_zip (l₁ := pas) (l₂ := data) (by omega)]
      conv_lhs => rw [← fst]
      rw [List.map_map]
      exact List.map_congr_left (fun p hp => k p hp)
    cases sp <;> exact this

end Sys2Proof.Machine
end

