-- ==== Sys2Proof/Tests/Slice0.lean ====
section
/-! SUPPORT. -/

namespace Sys2Proof.Machine
theorem test_reset_wf : State.reset.wf = true := by decide
end Sys2Proof.Machine
end

section
/-! SUPPORT. The register file of PF0 and the event log: what is read after a count, a raised bit, a message and a log entry. -/

namespace Sys2Proof.Machine

/-! ### Numbers and their bits -/

/-- The first whole ns at or past half of `n` is not yet reached exactly while twice the time is below `n`. -/
theorem lt_add_ceilDiv_two_iff {t b n : Nat} : t < b + ceilDiv n 2 ↔ 2 * t < 2 * b + n := by
  unfold ceilDiv
  omega

theorem bit_eq_testBit (v i : Nat) : bit v i = v.testBit i := by
  rw [Nat.testBit_eq_decide_div_mod_eq]
  rfl

theorem satAdd_toNat (w : Word) (n : Nat) : (satAdd w n).toNat = Nat.min (w.toNat + n) 0xFFFFFFFF := by
  have : Nat.min (w.toNat + n) 0xFFFFFFFF ≤ 0xFFFFFFFF := Nat.min_le_right _ _
  exact Nat.mod_eq_of_lt (by omega)

/-! ### Counters and event bits -/

/-- A count saturates at 2^32 - 1 (R641). -/
theorem State.getN_count_same {s : State} (h : sparseWf 0 s.pf0 = true) (off n : Nat) :
    (s.count off n).getN off = Nat.min (s.getN off + n) 0xFFFFFFFF := by
  unfold State.getN State.count
  rw [State.get_set_same h, satAdd_toNat]

theorem State.getN_count_other (s : State) {off o : Nat} (n : Nat) (h : o ≠ off) : (s.count off n).getN o = s.getN o :=
  congrArg BitVec.toNat (State.get_set_other s _ h)

theorem State.bit_getN_raise_same {s : State} (h : sparseWf 0 s.pf0 = true) (off : Nat) {i : Nat} (hi : i < 32) :
    bit ((s.raise off (2 ^ i)).getN off) i = true := by
  unfold State.getN State.raise
  rw [State.get_set_same h, bit_eq_testBit, BitVec.toNat_or, Nat.testBit_or, BitVec.toNat_ofNat, Nat.testBit_mod_two_pow]
  simp [hi]

theorem State.getN_raise_other (s : State) {off o : Nat} (mask : Nat) (h : o ≠ off) : (s.raise off mask).getN o = s.getN o :=
  congrArg BitVec.toNat (State.get_set_other s _ h)

/-! ### Messages -/

@[simp] theorem State.msg_getN (s : State) (f v off : Nat) : (s.msg f v).getN off = s.getN off := by
  unfold State.msg
  split
  · rfl
  · split <;> rfl

@[simp] theorem State.msg_log (s : State) (f v : Nat) : (s.msg f v).log = s.log := by
  unfold State.msg
  split
  · rfl
  · split <;> rfl

/-! ### The event log -/

/-- An entry that falls due touches no register but the count of lost entries. -/
theorem State.getN_logEntry_other (s : State) (e : LogEntry) {off : Nat} (h : off ≠ rLodgeLogLostCnt) :
    (s.logEntry e).getN off = s.getN off := by
  unfold State.logEntry
  split
  · rfl
  · exact s.getN_count_other 1 h

/-- While the queue has room an entry is appended to it (R643). -/
theorem State.logEntry_queue {s : State} (e : LogEntry) (h : s.log.queue.length < 256) :
    (s.logEntry e).log.queue = s.log.queue ++ [e] := by
  unfold State.logEntry
  rw [if_pos h]

theorem State.getN_logOne_other (s : State) (code tenant detail arg0 : Nat) {off : Nat} (h : off ≠ rLodgeLogLostCnt) :
    (s.logOne code tenant detail arg0).getN off = s.getN off :=
  State.getN_logEntry_other _ _ h

/-- An event of CLASS 0 with one argument stated: the other is a free value. -/
theorem State.logOne_queue {s : State} (code tenant detail arg0 : Nat) (h : s.log.queue.length < 256) :
    ∃ a, (s.logOne code tenant detail arg0).log.queue
      = s.log.queue ++ [{ code := code, cls := 0, tenant := tenant, detail := detail, arg0 := arg0, arg1 := a }] :=
  ⟨_, State.logEntry_queue _ h⟩

end Sys2Proof.Machine
end

section
/-! SUPPORT. The beat: what the times of a command leave as it was, the events of the beat, and its loss (R71, R72). -/

namespace Sys2Proof.Machine

/-! ### The times a command brings -/

@[simp] theorem State.tickTo_mbx (s : State) (now ptp : Nat) : (s.tickTo now ptp).mbx = s.mbx := rfl
@[simp] theorem State.tickTo_started (s : State) (now ptp : Nat) : (s.tickTo now ptp).beat.started = s.beat.started := rfl
@[simp] theorem State.tickTo_lost (s : State) (now ptp : Nat) : (s.tickTo now ptp).beat.lost = s.beat.lost := rfl
@[simp] theorem State.tickTo_dbEpoch (s : State) (now ptp : Nat) : (s.tickTo now ptp).beat.dbEpoch = s.beat.dbEpoch := rfl
@[simp] theorem State.tickTo_lastBoundary (s : State) (now ptp : Nat) :
    (s.tickTo now ptp).beat.lastBoundary = s.beat.lastBoundary := rfl
@[simp] theorem State.tickTo_lossThreshold (s : State) (now ptp : Nat) : (s.tickTo now ptp).lossThreshold = s.lossThreshold := rfl

theorem State.tickTo_wf {s : State} (now ptp : Nat) (w : s.wf = true) : (s.tickTo now ptp).wf = true :=
  (State.tickTo_keeps (Keeps.refl s)).wf w

/-! ### The events of the beat -/

theorem State.beatEvent_wf {s : State} (b : Nat) (w : s.wf = true) : (s.beatEvent b).wf = true :=
  (State.beatEvent_keeps (Keeps.refl s)).wf w

theorem State.beatEvent_getN (s : State) (b off : Nat) : (s.beatEvent b).getN off = (s.raise rBeatEvent (2 ^ b)).getN off := by
  unfold State.beatEvent
  dsimp only
  split
  · rfl
  · exact State.msg_getN _ _ _ _

@[simp] theorem State.beatEvent_log (s : State) (b : Nat) : (s.beatEvent b).log = s.log := by
  unfold State.beatEvent
  dsimp only
  split
  · rfl
  · exact State.msg_log _ _ _

/-- An event of the beat sets its bit of BEAT_EVENT. -/
theorem State.bit_getN_beatEvent {s : State} (w : s.wf = true) {b : Nat} (hb : b < 32) :
    bit ((s.beatEvent b).getN rBeatEvent) b = true := by
  rw [State.beatEvent_getN]
  exact State.bit_getN_raise_same (State.wf_iff.1 w).1 rBeatEvent hb

/-! ### The registers of the beat -/

theorem State.word_beatStatus (s : State) : s.word 0 rBeatStatus = s.beatStatus % 2 ^ 32 := rfl

theorem State.word_beatPhase (s : State) : s.word 0 rBeatPhase = s.beat.phase % 2 ^ 32 := rfl

theorem BeatSrc.code_lt (src : BeatSrc) : src.code < 4 := by cases src <;> decide

theorem ofBool_le (b : Bool) : ofBool b ≤ 1 := by cases b <;> decide

/-- BEAT_STATUS.LOST shows whether the beat is lost. -/
theorem State.bit_beatStatus_lost (s : State) : bit (s.word 0 rBeatStatus) 4 = s.beat.lost := by
  have hc := s.beat.src.code_lt
  have lostBit : s.word 0 rBeatStatus / 2 ^ 4 % 2 = ofBool s.beat.lost := by
    have hl := ofBool_le s.beat.lost
    rw [State.word_beatStatus]
    unfold State.beatStatus
    omega
  unfold bit
  rw [lostBit]
  cases s.beat.lost <;> rfl

/-! ### The loss of the beat -/

/-- What the loss of the beat does to the state: its event, count and log entry, and the beat out of step. -/
def State.loseBeat (s : State) : State :=
  let u := ((s.beatEvent 1).count rBeatLostCnt 1).logOne errBeatLost noTenant 0 s.beat.number
  { u with beat := { u.beat with lost := true, hold := false, phase := 65535, chosen := .none } }

theorem State.thresholdSrc_of_active {s : State} (h : s.beat.src ≠ .none) : s.thresholdSrc = s.beat.src := by
  unfold State.thresholdSrc
  rw [if_neg h]

/-- With a source active the beat is in time while less than 1.5 times its declared maximum period has passed. -/
theorem State.lt_lossThreshold_iff {s : State} (h : s.beat.src ≠ .none) (now : Nat) :
    now < s.beat.lastBoundary + s.lossThreshold ↔ 2 * now < 2 * s.beat.lastBoundary + 3 * s.maxPeriod s.beat.src := by
  unfold State.lossThreshold
  rw [State.thresholdSrc_of_active h, lt_add_ceilDiv_two_iff]

theorem exec_beatLost (s : State) (now ptp : Nat) : exec (.beatLost now ptp) s = execBeatLost now ptp s := rfl

/-- BEAT_LOST on a running beat: before the threshold nothing but the times, from then on the loss. -/
theorem execBeatLost_running {s : State} (now ptp : Nat) (started : s.beat.started = true) (running : s.beat.lost = false) :
    execBeatLost now ptp s
      = .next (if now < s.beat.lastBoundary + s.lossThreshold then s.tickTo now ptp else (s.tickTo now ptp).loseBeat) := by
  unfold execBeatLost
  by_cases early : now < s.beat.lastBoundary + s.lossThreshold
  · simp [early]
  · simp [started, running, early, State.loseBeat]

/-- The loss sets BEAT_STATUS.LOST. -/
theorem State.loseBeat_status (s : State) : bit (s.loseBeat.word 0 rBeatStatus) 4 = true := by
  rw [State.bit_beatStatus_lost, State.loseBeat]

/-- The loss holds BEAT_PHASE at 65,535 (R72). -/
theorem State.loseBeat_phase (s : State) : s.loseBeat.word 0 rBeatPhase = 65535 := by
  simp [State.word_beatPhase, State.loseBeat]

theorem State.loseBeat_getN (s : State) {off : Nat} (h : off ≠ rLodgeLogLostCnt) :
    s.loseBeat.getN off = ((s.beatEvent 1).count rBeatLostCnt 1).getN off :=
  State.getN_logOne_other _ _ _ _ _ h

/-- The loss sets BEAT_EVENT.LOST. -/
theorem State.loseBeat_event {s : State} (w : s.wf = true) : bit (s.loseBeat.getN rBeatEvent) 1 = true := by
  rw [State.loseBeat_getN s (by decide), State.getN_count_other _ 1 (by decide)]
  exact State.bit_getN_beatEvent w (by decide)

/-- The loss adds 1 to BEAT_LOST_CNT. -/
theorem State.loseBeat_lostCnt {s : State} (w : s.wf = true) :
    s.loseBeat.getN rBeatLostCnt = Nat.min (s.getN rBeatLostCnt + 1) 0xFFFFFFFF := by
  have kept : (s.beatEvent 1).getN rBeatLostCnt = s.getN rBeatLostCnt := by
    rw [State.beatEvent_getN, State.getN_raise_other s _ (by decide)]
  rw [State.loseBeat_getN s (by decide), State.getN_count_same (State.wf_iff.1 (State.beatEvent_wf 1 w)).1, kept]

/-- The loss is logged with the last beat number. -/
theorem State.loseBeat_queue {s : State} (room : s.log.queue.length < 256) :
    ∃ a, s.loseBeat.log.queue = s.log.queue
      ++ [{ code := 0x0202, cls := 0, tenant := 0xFF, detail := 0, arg0 := s.beat.number, arg1 := a }] := by
  have logs : ((s.beatEvent 1).count rBeatLostCnt 1).log = s.log := by simp
  have := State.logOne_queue (s := (s.beatEvent 1).count rBeatLostCnt 1) 0x0202 0xFF 0 s.beat.number (by rwa [logs])
  rwa [logs] at this

/-- Settles O11: the command is in time or late by the threshold, and the late one leaves `State.loseBeat` of the ticked state. -/
theorem beatLossIsRaised : Obligations.BeatLossIsRaised := by
  unfold Obligations.BeatLossIsRaised
  intro s now ptp w started running active
  have run := (exec_beatLost s now ptp).trans (execBeatLost_running now ptp started running)
  refine ⟨fun early => ?_, fun late => ?_⟩
  · rw [run, if_pos ((State.lt_lossThreshold_iff active now).2 early)]
  · have wt := State.tickTo_wf now ptp w
    have due : ¬ now < s.beat.lastBoundary + s.lossThreshold := by
      rw [State.lt_lossThreshold_iff active]
      omega
    rw [if_neg due] at run
    exact ⟨_, run, State.loseBeat_status _, State.loseBeat_event wt, State.loseBeat_lostCnt wt, State.loseBeat_phase _,
      fun room => State.loseBeat_queue (s := s.tickTo now ptp) room⟩

/-! ### The doorbell and the arming of a source's epoch -/

theorem exec_beatDoorbell (s : State) (now ptp : Nat) : exec (.beatDoorbell now ptp) s = execBeatDoorbell now ptp s := rfl

theorem exec_beatSetEpoch (s : State) (r : MbxReq) : exec (.beatSetEpoch r) s = execBeatSetEpoch r s := rfl

/-- Settles O10: the doorbell's pulse needs READY and the armed epoch, and BEAT_SET_EPOCH arms a source that holds no admitted Rota. -/
theorem theDoorbellIsAPulse : Obligations.TheDoorbellIsAPulse := by
  unfold Obligations.TheDoorbellIsAPulse
  refine ⟨fun s now ptp ready armed => ?_, fun s r takes arg free => ?_, fun s r takes arg free => ?_⟩
  · simp [exec_beatDoorbell, execBeatDoorbell, ready, armed]
  · rw [exec_beatSetEpoch, execBeatSetEpoch, State.command_takes takes rfl]
    simp [arg, free]
  · rw [exec_beatSetEpoch, execBeatSetEpoch, State.command_takes takes rfl]
    simp [arg, free]

end Sys2Proof.Machine
end

section
/-! SUPPORT. Reads of registers: the value a read returns, with and without a latch, and what a read of a pair's low word latches (R80). -/

namespace Sys2Proof.Machine

/-- What a register reads as depends on no latch. -/
@[simp] theorem State.word_unlatch (s : State) (fn off fn' o : Nat) : (s.unlatch fn off).word fn' o = s.word fn' o := rfl

theorem State.out_foldl_latchWord (fn : Nat) (v : State → Nat → Nat) : ∀ (l : List Nat) (s : State),
    (l.foldl (fun s o => s.latchWord fn o (v s o)) s).out = s.out
  | [], _ => rfl
  | o :: l, s => State.out_foldl_latchWord fn v l (s.latchWord fn o (v s o))

/-- A read itself sends nothing: its completion does. -/
theorem State.read_out (s : State) (fn off : Nat) : (s.read fn off).1.out = s.out := by
  unfold State.read
  dsimp only
  split
  · exact State.out_foldl_latchWord fn (fun s o => s.word fn o) (latchedBy fn off) (s.unlatch fn off)
  · exact State.out_foldl_latchWord fn (fun s o => s.word fn o) (latchedBy fn off) (s.unlatch fn off)

/-- A read of a word that nothing has latched returns its value. -/
theorem State.read_value_of_unlatched {s : State} {fn off : Nat} (h : sparseGet 0 s.latch (latchKey fn off) = 0) :
    (s.read fn off).2 = BitVec.ofNat 32 (s.word fn off) := by
  simp [State.read, h]

/-- A read of a latched word of PF0 returns the latch. -/
theorem State.read_value_of_latched {s : State} {off v : Nat} (h : sparseGet 0 s.latch (latchKey 0 off) = v + 1) :
    (s.read 0 off).2 = BitVec.ofNat 32 v := by
  simp [State.read, h, State.sampleVoid]

/-- A read of the low word of a pair of PF0 latches the high word. -/
theorem State.read_latch_of_pairLow {s : State} (w : sparseWf 0 s.latch = true) {off : Nat} (low : isPairLow 0 off = true) :
    sparseGet 0 (s.read 0 off).1.latch (latchKey 0 (off + 4)) = s.word 0 (off + 4) + 1 := by
  have latched : (s.read 0 off).1.latch = ((s.unlatch 0 off).latchWord 0 (off + 4) (s.word 0 (off + 4))).latch := by
    unfold State.read latchedBy
    simp only [low, if_true, List.foldl_cons, List.foldl_nil, State.word_unlatch]
    split <;> rfl
  rw [latched]
  exact sparseGet_set_same (sparseSet_wf w)

/-- A read of an aligned word of PF0 completes with its value. -/
theorem exec_pairLowRead_pf0 (s : State) {off : Nat} (h : off / 4 * 4 = off) :
    exec (.pairLowRead 0 off) s = .next ((s.read 0 off).1.emit (.readData (s.read 0 off).2)) := by
  have answers : exec (.pairLowRead 0 off) s = .next ((s.read 0 (off / 4 * 4)).1.emit (.readData (s.read 0 (off / 4 * 4)).2)) := rfl
  rwa [h] at answers

theorem State.read_emit_out (s : State) (fn off : Nat) (o : Out) : ((s.read fn off).1.emit o).out = s.out ++ [o] :=
  congrArg (· ++ [o]) (s.read_out fn off)

/-- The low words of the pairs of Table 2-9 are words of PF0's pairs, aligned. -/
theorem beatPairs_low : ∀ off ∈ [rBeatPeriodNs, rBeatMaxPeriodNs, rBeatEpochSec, rBeatNumber, rBeatMeasPeriodNs, rBeatMinAdmittedNs],
    isPairLow 0 off = true ∧ off / 4 * 4 = off := by decide

/-- Settles O24: the read of the low word leaves the high word's value in its latch, and a read of the high word returns its latch. -/
theorem pairReadsBelongTogether : Obligations.PairReadsBelongTogether := by
  unfold Obligations.PairReadsBelongTogether
  intro s off w beatPair
  obtain ⟨low, aligned⟩ := beatPairs_low off beatPair
  obtain ⟨-, -, -, wl, -⟩ := State.wf_iff.1 w
  refine ⟨_, exec_pairLowRead_pf0 s aligned, fun fresh => ?_, fun u same => ⟨_, exec_pairLowRead_pf0 u (by omega), ?_⟩⟩
  · rw [State.read_emit_out, State.read_value_of_unlatched fresh]
  · have latched : sparseGet 0 u.latch (latchKey 0 (off + 4)) = s.word 0 (off + 4) + 1 := by
      rw [same]
      exact State.read_latch_of_pairLow wl low
    rw [State.read_emit_out, State.read_value_of_latched latched]

end Sys2Proof.Machine
end

section
/-! SUPPORT. A column operation on a batch of every input: what its event leaves when its kernel finds no fault, the kernels of one and of two
inputs on columns without an error, and the three-valued rows of the masks (R247). -/

namespace Sys2Proof.Machine

/-! ### A run on a batch -/

/-- A run without a fault leaves what `OpEnv.ran` says. -/
theorem KernOut.settle_of_faultless {k : KernOut} (faultless : k.fault = none) (e : OpEnv) (a : Agent) (slots : List (Hoop × Slot)) (stage : Nat) :
    k.settle e a slots stage = e.ran a slots stage k := by
  rw [KernOut.settle, faultless]
  rfl

/-- An operation ready on a batch that is not the last runs its kernel on it, and its end work stays undone. -/
theorem State.runOp_of_batchReady {s u : State} {h i : Nat} {l : OpList} {e : OpEnv} {ins : List Nat} {slots : List (Hoop × Slot)} {bs : List Bytes}
    {kern : Kern} {k : KernOut} (ready : BatchReady s h l i e (ins.filter (fun i => i != 0xFFFF)) slots u bs) (run : kern u e bs false = k)
    (faultless : k.fault = none) (a : Agent) (fin : Fin) : s.runOp e a ins kern fin = e.ran a slots 1 k := by
  have notEnded : ¬ 2 ≤ e.o.stage := Nat.not_le.2 ready.going
  have settled := KernOut.settle_of_faultless faultless e a slots 1
  simp [State.runOp, ready.sent, notEnded, ready.got, ready.body, ready.read, ready.more, run, settled]

/-- The event of a column operation ready on a batch runs it. -/
theorem colEvent_of_batchReady {s u : State} {h i opcode : Nat} {e : OpEnv} {slots : List (Hoop × Slot)} {bs : List Bytes} {kern : OpEnv → Kern}
    {k : KernOut} (ready : BatchReady s h .weave i e ([odIn e.d, odIn2 e.d].filter (fun i => i != 0xFFFF)) slots u bs)
    (named : odOpcode e.d = opcode) (run : kern e u e bs false = k) (faultless : k.fault = none) (fin : OpEnv → Fin) :
    colEvent opcode kern fin h i s = e.ran e.weave slots 1 k := by
  rw [colEvent, ready.env]
  exact (if_pos named).trans (State.runOp_of_batchReady ready run faultless _ _)

/-! ### The kernels on columns without an error -/

theorem colKern1_of_good {u v : State} {e : OpEnv} {a : Bytes} {et : Nat} {layouts : List Nat} {c : Col}
    (taken : u.getCol e a et layouts = (v, .ok c)) (good : c.bad = none) (nulls : c.b.nullsBad = false)
    (f : State → OpEnv → Col → Bool → State × OpRun × List OutBatch) (last : Bool) :
    colKern1 et layouts f u e [a] last = KernOut.ok (f v e c last).1 (f v e c last).2.1 (f v e c last).2.2 := by
  unfold colKern1
  dsimp only [List.headD_cons]
  rw [taken]
  dsimp only
  rw [good, nulls]
  exact if_neg Bool.false_ne_true

theorem rowLimit_of_good {c c2 : Col} (good : c.bad = none) (good2 : c2.bad = none) (h h2 : Nat) :
    (rowLimit [(c, h), (c2, h2)]).2 = none := by
  simp [rowLimit, good, good2]

theorem colKern2_of_good {u v w : State} {e : OpEnv} {a b : Bytes} {et et2 : Nat} {layouts layouts2 : List Nat} {c c2 : Col}
    (taken : u.getCol e a et layouts = (v, .ok c)) (taken2 : v.getCol e b et2 layouts2 = (w, .ok c2))
    (good : c.bad = none) (good2 : c2.bad = none) (nulls : c.b.nullsBad = false) (nulls2 : c2.b.nullsBad = false)
    (rows : c.b.rows = c2.b.rows) (base : c.b.rowBase = c2.b.rowBase)
    (f : State → OpEnv → Col → Col → Bool → State × OpRun × List OutBatch) (last : Bool) :
    colKern2 et layouts et2 layouts2 f u e [a, b] last
      = KernOut.ok (f w e c c2 last).1 (f w e c c2 last).2.1 (f w e c c2 last).2.2 := by
  have aligned : (decide (c.b.rows ≠ c2.b.rows) || decide (c.b.rowBase ≠ c2.b.rowBase)) = false := by simp [rows, base]
  have second : nth [a, b] 1 [] = b := rfl
  unfold colKern2
  dsimp only [List.headD_cons]
  rw [taken, second]
  dsimp only
  rw [taken2]
  dsimp only
  rw [aligned, if_neg Bool.false_ne_true, rowLimit_of_good good good2, nulls, nulls2]
  rfl

/-! ### The masks (R247) -/

/-- What a mask operation without a fault makes of its rows. -/
def OpEnv.maskOut (e : OpEnv) (u : State) (rowBase : Nat) (rows : List (Option Nat)) : KernOut :=
  KernOut.ok u e.o [{ hoop := odOut e.d, data := fixedBatch 0x01 rowBase rows, fin := false }]

theorem maskKern_of_good {u v w : State} {e : OpEnv} {a b : Bytes} {c c2 : Col}
    (taken : u.getCol e a 0x01 [0] = (v, .ok c)) (taken2 : v.getCol e b 0x01 [0] = (w, .ok c2))
    (good : c.bad = none) (good2 : c2.bad = none) (nulls : c.b.nullsBad = false) (nulls2 : c2.b.nullsBad = false)
    (rows : c.b.rows = c2.b.rows) (base : c.b.rowBase = c2.b.rowBase) {f : Option Bool → Option Bool → Option Bool}
    {row : Option CVal × Option CVal → Option Nat} (table : ∀ p, (f (maskRow p.1) (maskRow p.2)).map ofBool = row p) :
    maskKern f u e [a, b] false = e.maskOut w c.b.rowBase ((c.vals.zip c2.vals).map row) := by
  rw [← funext table]
  exact colKern2_of_good taken taken2 good good2 nulls nulls2 rows base _ false

/-- A row operation on bools that counts in no register. -/
theorem rowKern_bool_of_good {u v : State} {e : OpEnv} {a : Bytes} {c : Col} (taken : u.getCol e a 0x01 [0] = (v, .ok c))
    (good : c.bad = none) (nulls : c.b.nullsBad = false) {f row : Option CVal → Option Nat} (table : ∀ x, f x = row x) :
    rowKern 0x01 0x01 [] (fun _ x => (f x, [])) u e [a] false = e.maskOut v c.b.rowBase (c.vals.map row) := by
  rw [← funext table]
  refine (colKern1_of_good (layouts := flatLayouts 0x01) taken good nulls _ false).trans ?_
  simp [OpEnv.maskOut, emitRows, State.tally, Function.comp_def]

theorem exec_maskAnd (s : State) (h i : Nat) :
    exec (.maskAnd h i) s = .next (colEvent 0x02 (fun _ => maskKern andRow) (fun e => endAlone [odOut e.d]) h i s) := rfl

theorem exec_maskOr (s : State) (h i : Nat) :
    exec (.maskOr h i) s = .next (colEvent 0x03 (fun _ => maskKern orRow) (fun e => endAlone [odOut e.d]) h i s) := rfl

theorem exec_maskNot (s : State) (h i : Nat) :
    exec (.maskNot h i) s = .next (colEvent 0x04 (fun _ => rowKern 0x01 0x01 [] (fun _ x => ((maskRow x).map (fun b => ofBool (!b)), [])))
      (fun e => endAlone [odOut e.d]) h i s) := rfl

/-- Settles O48: each operation runs its kernel on the batch, and the kernel's row function is the three-valued table, by the cases of the rows. -/
theorem masksAreThreeValued : Obligations.MasksAreThreeValued := by
  unfold Obligations.MasksAreThreeValued
  intro s u v w h i e slots a b c c2 taken good nulls
  refine ⟨fun ready taken2 good2 nulls2 sameRows sameBase => ⟨?_, ?_⟩, fun ready => ?_⟩
  · rintro _ rfl named
    refine (exec_maskAnd s h i).trans (congrArg _ (colEvent_of_batchReady ready named
      (maskKern_of_good taken taken2 good good2 nulls nulls2 sameRows sameBase fun p => ?_) rfl _))
    rcases maskRow p.1 with _ | _ | _ <;> rcases maskRow p.2 with _ | _ | _ <;> rfl
  · rintro _ rfl named
    refine (exec_maskOr s h i).trans (congrArg _ (colEvent_of_batchReady ready named
      (maskKern_of_good taken taken2 good good2 nulls nulls2 sameRows sameBase fun p => ?_) rfl _))
    rcases maskRow p.1 with _ | _ | _ <;> rcases maskRow p.2 with _ | _ | _ <;> rfl
  · rintro _ rfl named
    refine (exec_maskNot s h i).trans (congrArg _ (colEvent_of_batchReady ready named
      (rowKern_bool_of_good taken good nulls fun x => ?_) rfl _))
    rcases maskRow x with _ | _ | _ <;> rfl

end Sys2Proof.Machine
end

section
/-! SUPPORT. Tenants and their reset (R543, R544, R551): a tenant read after an update, what leaves the list of tenants alone, and what a reset
requested and a reset completed make of a tenant. -/

namespace Sys2Proof.Machine

/-! ### A tenant read after an update -/

theorem State.id_of_tenant? {s : State} {t : Nat} {x : Tenant} (h : s.tenant? t = some x) : x.id = t := by
  simpa using List.find?_some h

/-- The tenant of a number is read from the list of tenants alone. -/
theorem State.tenant?_congr {s u : State} (h : u.tenants = s.tenants) (t : Nat) : u.tenant? t = s.tenant? t :=
  congrArg (List.find? fun x : Tenant => x.id == t) h

theorem State.exists?_of_tenant? {s : State} {t : Nat} {x : Tenant} (h : s.tenant? t = some x) : s.exists? t = (x.phase != TenPhase.creating) := by
  unfold State.exists?
  rw [h]

/-- A change that keeps the tenants' numbers is read back at the number it changes, and nowhere else. -/
theorem State.tenant?_updTenant (s : State) (t : Nat) {f : Tenant → Tenant} (keepsId : ∀ y, (f y).id = y.id) (n : Nat) :
    (s.updTenant t f).tenant? n = (s.tenant? n).map (fun y => if y.id == t then f y else y) := by
  have sameId : ((fun y : Tenant => y.id == n) ∘ fun y => if y.id == t then f y else y) = fun y => y.id == n := by
    funext y
    dsimp only [Function.comp_apply]
    split
    · rw [keepsId]
    · rfl
  unfold State.tenant? State.updTenant updWhere
  rw [List.find?_map, sameId]

theorem State.tenant?_updTenant_same {s : State} {t : Nat} {x : Tenant} (h : s.tenant? t = some x) {f : Tenant → Tenant}
    (keepsId : ∀ y, (f y).id = y.id) : (s.updTenant t f).tenant? t = some (f x) := by
  rw [s.tenant?_updTenant t keepsId, h, Option.map_some, State.id_of_tenant? h, if_pos (beq_self_eq_true t)]

/-- A change that leaves the tenant of its number as it is changes no tenant that can be read. -/
theorem State.tenant?_updTenant_of_fixed {s : State} {t : Nat} {x : Tenant} (h : s.tenant? t = some x) {f : Tenant → Tenant}
    (keepsId : ∀ y, (f y).id = y.id) (fixed : f x = x) (n : Nat) : (s.updTenant t f).tenant? n = s.tenant? n := by
  by_cases same : n = t
  · rw [same, State.tenant?_updTenant_same h keepsId, fixed, h]
  · rw [s.tenant?_updTenant t keepsId]
    cases found : s.tenant? n with
    | none => rfl
    | some y => simp [State.id_of_tenant? found, same]

/-! ### What leaves the list of tenants alone -/

/-- Steps that each leave the tenants as they were leave them so one after another. -/
theorem State.foldl_tenants {α : Type} {f : State → α → State} (kept : ∀ s a, (f s a).tenants = s.tenants) :
    ∀ (l : List α) (s : State), (l.foldl f s).tenants = s.tenants
  | [], _ => rfl
  | a :: l, s => (State.foldl_tenants kept l (f s a)).trans (kept s a)

@[simp] theorem State.msg_tenants (s : State) (f v : Nat) : (s.msg f v).tenants = s.tenants := by
  unfold State.msg
  split
  · rfl
  · split <;> rfl

@[simp] theorem State.logEntry_tenants (s : State) (e : LogEntry) : (s.logEntry e).tenants = s.tenants := by
  unfold State.logEntry
  split <;> rfl

@[simp] theorem State.logEvent_tenants (s : State) (code tenant detail arg0 arg1 : Nat) :
    (s.logEvent code tenant detail arg0 arg1).tenants = s.tenants := State.logEntry_tenants _ _

@[simp] theorem State.logCommand_tenants (s : State) (r : MbxReq) (code detail : Nat) :
    (s.logCommand r code detail).tenants = s.tenants := State.logEntry_tenants _ _

@[simp] theorem State.showState_tenants (s : State) (r : MbxReq) (state : Nat) : (s.showState r state).tenants = s.tenants := rfl

@[simp] theorem State.showResult_tenants (s : State) (tag : Nat) (x : MbxResult) : (s.showResult tag x).tenants = s.tenants :=
  State.msg_tenants _ _ _

/-- The completion of a mailbox command changes no tenant. -/
@[simp] theorem State.finishCmd_tenants (s : State) (r : MbxReq) (x : MbxResult) : (s.finishCmd r x).tenants = s.tenants := by
  have logged : (if x.code = 0 then s else s.logCommand r x.code x.detail).tenants = s.tenants := by
    split
    · rfl
    · exact State.logCommand_tenants _ _ _ _
  unfold State.finishCmd
  cases r.chan <;> simpa using logged

@[simp] theorem State.clearStakes_tenants (s : State) (pairs : List Nat) : (s.clearStakes pairs).tenants = s.tenants :=
  State.foldl_tenants (f := fun s p => s.setStake p { full := 0, empty := 0 }) (fun _ _ => rfl) pairs s

@[simp] theorem State.stopTask_tenants (s : State) (x : Task) : (s.stopTask x).tenants = s.tenants := by
  unfold State.stopTask
  split
  · simp
  · rfl

@[simp] theorem State.dropTasks_tenants (s : State) (t : Nat) : (s.dropTasks t).tenants = s.tenants :=
  State.foldl_tenants State.stopTask_tenants (s.tasksOf t) s

@[simp] theorem State.flushQp_tenants (s : State) (t q : Nat) : (s.flushQp t q).tenants = s.tenants := by
  unfold State.flushQp
  split
  · rfl
  · exact State.foldl_tenants (fun s w => by split <;> rfl) _ s

@[simp] theorem State.qpError_tenants (s : State) (t q : Nat) : (s.qpError t q).tenants = s.tenants := by
  unfold State.qpError
  split
  · rfl
  · dsimp only
    split <;> simp

@[simp] theorem State.errQps_tenants (s : State) (p : Nat → Bool) : (s.errQps p).tenants = s.tenants := by
  refine State.foldl_tenants (fun s k => ?_) s.qps s
  split
  · exact State.qpError_tenants _ _ _
  · rfl

/-! ### A reset requested (R543, R551) -/

theorem exec_tenReset (s : State) (r : MbxReq) : exec (.tenReset r) s = execTenReset r s := rfl

/-- TEN_RESET of a tenant that exists completes at once, its reset begun. -/
theorem exec_tenReset_of_exists {s : State} {r : MbxReq} (takes : Takes s r 0x0011) (h : s.exists? (s.snapshot r).arg0 = true) :
    exec (.tenReset r) s = .next ((s.beginReset (s.snapshot r).arg0 .resetting).finishCmd (s.snapshot r) MbxResult.ok) := by
  rw [exec_tenReset, execTenReset, State.command_takes takes rfl]
  simp [h]

/-- The phase of a tenant that is being reset, when another reset is requested that is to end in `phase`: a destruction goes on. -/
def Tenant.joined (phase : TenPhase) (x : Tenant) : Tenant :=
  { x with phase := if x.phase == TenPhase.destroying then .destroying else phase }

/-- A reset requested during a reset sets the tenant's phase and does nothing else (R551). -/
theorem State.beginReset_of_resetting {s : State} {t : Nat} {x : Tenant} (h : s.tenant? t = some x) (resetting : x.phase = .resetting)
    (phase : TenPhase) : s.beginReset t phase = s.updTenant t (Tenant.joined phase) := by
  unfold State.beginReset
  rw [h]
  simp only [resetting]
  rfl

theorem Tenant.joined_of_resetting {x : Tenant} (resetting : x.phase = .resetting) : x.joined .resetting = x := by
  cases x
  cases resetting
  rfl

/-! ### A reset completed (R544) -/

theorem exec_tenResetComplete (s : State) (t : Nat) : exec (.tenResetComplete t) s = execTenResetComplete t s := rfl

/-- The completion of a reset that is not a destruction's leaves the tenant active. -/
theorem exec_tenResetComplete_of_resetting {s : State} {t : Nat} {x : Tenant} (h : s.tenant? t = some x) (resetting : x.phase = .resetting) :
    exec (.tenResetComplete t) s = .next (s.endReset t .active) := by
  rw [exec_tenResetComplete, execTenResetComplete, h]
  simp [resetting]

/-- A tenant as its completed reset leaves it: the next epoch, and `count` the highest among the handles it keeps. -/
def Tenant.afterReset (phase : TenPhase) (count : Nat) (x : Tenant) : Tenant :=
  { x with phase := phase, orphaned := false, epoch := (x.epoch + 1) % 0x10000, nextSeq := 0, exhausted := false, lastAssigned := 0,
           handleCount := count, fetched := [], spare := { read := 0, write := 0, remote := 0 } }

theorem State.endReset_tenants (s : State) (t : Nat) (phase : TenPhase) :
    ∃ count, (s.endReset t phase).tenants = (s.updTenant t (Tenant.afterReset phase count)).tenants := by
  unfold State.endReset
  simp only [State.vsetF_tenants, State.vsetN_tenants, State.updTenant]
  rw [State.foldl_tenants fun s (r : Rota) => State.clearStakes_tenants s r.pairs, State.errQps_tenants, State.dropTasks_tenants]
  exact ⟨_, rfl⟩

/-- A completed reset leaves the tenant in the phase it names, with the next epoch. -/
theorem State.tenant?_endReset {s : State} {t : Nat} {x : Tenant} (h : s.tenant? t = some x) (phase : TenPhase) :
    ∃ count, (s.endReset t phase).tenant? t = some (x.afterReset phase count) := by
  obtain ⟨count, ended⟩ := s.endReset_tenants t phase
  exact ⟨count, (State.tenant?_congr ended t).trans (State.tenant?_updTenant_same h fun _ => rfl)⟩

/-- Settles O22: the second request only sets the phase the tenant has already, so the completion of the reset finds the tenant of before it, and it
alone adds 1 to the epoch. -/
theorem resetsJoin : Obligations.ResetsJoin := by
  unfold Obligations.ResetsJoin
  rintro s r n x takes rfl found resetting
  have runs : s.exists? (s.snapshot r).arg0 = true := by
    rw [State.exists?_of_tenant? found, resetting]
    rfl
  have joins := State.beginReset_of_resetting found resetting .resetting
  have same := State.tenant?_updTenant_of_fixed (f := Tenant.joined .resetting) found (fun _ => rfl) (Tenant.joined_of_resetting resetting)
  refine ⟨_, joins ▸ exec_tenReset_of_exists takes runs, same, State.updTenant_tasks _ _ _, ?_⟩
  have still := ((State.tenant?_congr (State.finishCmd_tenants _ (s.snapshot r) MbxResult.ok) _).trans (same _)).trans found
  obtain ⟨count, ended⟩ := State.tenant?_endReset still .active
  exact ⟨_, _, exec_tenResetComplete_of_resetting still resetting, ended, rfl⟩

end Sys2Proof.Machine
end

section
/-! SUPPORT. The event log as it is written (R600, R601, R643): when an entry overwrites an unread one, and what the write of the oldest waiting
entry leaves in the ring and in the log's registers. -/

namespace Sys2Proof.Machine

/-! ### Sequence numbers (R601) -/

/-- A difference modulo 2^32 is taken without leaving the naturals. -/
theorem ofSigned_sub (n : Nat) {r : Nat} (h : r < 2 ^ 32) : ofSigned 32 ((n : Int) - (r : Int)) = (n + 2 ^ 32 - r) % 2 ^ 32 := by
  unfold ofSigned
  omega

/-- A word read as two's complement reaches a positive bound exactly when its sign is clear and it reaches the bound. -/
theorem le_toSigned_iff {b d : Nat} (hb : 0 < b) (hd : d < 2 ^ 32) : (b : Int) ≤ toSigned 32 d ↔ b ≤ d ∧ d < 2 ^ 31 := by
  unfold toSigned
  rw [Nat.mod_eq_of_lt hd]
  split <;> omega

/-- Entry `n` overwrites an unread one when it lies 4,096 or more ahead of READ_SEQ, as sequence numbers compare. -/
theorem State.overwrites_iff (s : State) (n : Nat) :
    s.overwrites n = true ↔ 4096 ≤ (n + 2 ^ 32 - s.getN rLodgeLogReadSeq) % 2 ^ 32 ∧ (n + 2 ^ 32 - s.getN rLodgeLogReadSeq) % 2 ^ 32 < 2 ^ 31 := by
  unfold State.overwrites
  have word : s.getN rLodgeLogReadSeq < 2 ^ 32 := (s.get rLodgeLogReadSeq).isLt
  rw [decide_eq_true_iff, ofSigned_sub n word]
  exact le_toSigned_iff (b := 4096) (by decide) (Nat.mod_lt _ (by decide))

/-! ### The count of unread entries overwritten (R601) -/

/-- The entry that entry `n` overwrites is counted as lost when it is unread. -/
def State.countUnread (s : State) (n : Nat) : State := if s.overwrites n then s.count rLodgeLogLostCnt 1 else s

theorem State.countUnread_getN_other (s : State) (n : Nat) {off : Nat} (h : off ≠ rLodgeLogLostCnt) :
    (s.countUnread n).getN off = s.getN off := by
  unfold State.countUnread
  split
  · exact s.getN_count_other 1 h
  · rfl

theorem State.countUnread_lostCnt {s : State} (w : s.wf = true) (n : Nat) :
    (s.countUnread n).getN rLodgeLogLostCnt
      = if s.overwrites n then Nat.min (s.getN rLodgeLogLostCnt + 1) 0xFFFFFFFF else s.getN rLodgeLogLostCnt := by
  unfold State.countUnread
  split
  · exact State.getN_count_same (State.wf_iff.1 w).1 rLodgeLogLostCnt 1
  · rfl

theorem State.countUnread_wf {s : State} (w : s.wf = true) (n : Nat) : (s.countUnread n).wf = true := by
  unfold State.countUnread
  split
  · exact (State.count_keeps (Keeps.refl s)).wf w
  · exact w

@[simp] theorem State.countUnread_log (s : State) (n : Nat) : (s.countUnread n).log = s.log := by
  unfold State.countUnread
  split <;> rfl

@[simp] theorem State.countUnread_entryBytes (s : State) (n k : Nat) (e : LogEntry) : (s.countUnread n).entryBytes k e = s.entryBytes k e := by
  unfold State.countUnread
  split <;> rfl

/-! ### The write of an entry (R600, R643) -/

/-- The state in which entry `e` has been written at `now` and the entries `rest` still wait. -/
def State.writeEntry (s : State) (now : Nat) (e : LogEntry) (rest : List LogEntry) : State :=
  let n := s.getN rLodgeLogWriteSeq
  let u := s.countUnread n
  let u := { u with log := { queue := rest, ring := sparseSet [] u.log.ring (n % 4096) (u.entryBytes n e), last := some now } }
  (u.setN rLodgeLogWriteSeq (n + 1)).msg 0 1

theorem State.writeEntry_log (s : State) (now : Nat) (e : LogEntry) (rest : List LogEntry) :
    (s.writeEntry now e rest).log
      = { queue := rest, last := some now,
          ring := sparseSet [] s.log.ring (s.getN rLodgeLogWriteSeq % 4096) (s.entryBytes (s.getN rLodgeLogWriteSeq) e) } := by
  simp [State.writeEntry]

/-- The write of an entry touches no register but WRITE_SEQ and the count of lost entries. -/
theorem State.writeEntry_getN_other (s : State) (now : Nat) (e : LogEntry) (rest : List LogEntry) {off : Nat} (h : off ≠ rLodgeLogWriteSeq) :
    (s.writeEntry now e rest).getN off = (s.countUnread (s.getN rLodgeLogWriteSeq)).getN off :=
  (State.msg_getN _ 0 1 off).trans (congrArg BitVec.toNat (State.get_set_other _ _ h))

theorem State.writeEntry_writeSeq {s : State} (w : s.wf = true) (now : Nat) (e : LogEntry) (rest : List LogEntry) :
    (s.writeEntry now e rest).getN rLodgeLogWriteSeq = (s.getN rLodgeLogWriteSeq + 1) % 2 ^ 32 := by
  have canonical := (State.wf_iff.1 (State.countUnread_wf w (s.getN rLodgeLogWriteSeq))).1
  exact (State.msg_getN _ 0 1 _).trans ((congrArg BitVec.toNat (State.get_set_same canonical _ _)).trans (BitVec.toNat_ofNat _ 32))

theorem State.writeEntry_readSeq (s : State) (now : Nat) (e : LogEntry) (rest : List LogEntry) :
    (s.writeEntry now e rest).getN rLodgeLogReadSeq = s.getN rLodgeLogReadSeq := by
  rw [s.writeEntry_getN_other now e rest (by decide), s.countUnread_getN_other _ (by decide)]

theorem State.writeEntry_lostCnt {s : State} (w : s.wf = true) (now : Nat) (e : LogEntry) (rest : List LogEntry) :
    (s.writeEntry now e rest).getN rLodgeLogLostCnt
      = if s.overwrites (s.getN rLodgeLogWriteSeq) then Nat.min (s.getN rLodgeLogLostCnt + 1) 0xFFFFFFFF else s.getN rLodgeLogLostCnt := by
  rw [s.writeEntry_getN_other now e rest (by decide), State.countUnread_lostCnt w]

/-- The slot of the entry holds its bytes. -/
theorem State.writeEntry_ring_same {s : State} (w : s.wf = true) (now : Nat) (e : LogEntry) (rest : List LogEntry) :
    sparseGet [] (s.writeEntry now e rest).log.ring (s.getN rLodgeLogWriteSeq % 4096) = s.entryBytes (s.getN rLodgeLogWriteSeq) e := by
  obtain ⟨-, -, -, -, -, -, -, -, canonical⟩ := State.wf_iff.1 w
  rw [State.writeEntry_log]
  exact sparseGet_set_same canonical

/-- The write of an entry leaves every other slot alone. -/
theorem State.writeEntry_ring_other (s : State) (now : Nat) (e : LogEntry) (rest : List LogEntry) {k : Nat}
    (h : k ≠ s.getN rLodgeLogWriteSeq % 4096) : sparseGet [] (s.writeEntry now e rest).log.ring k = sparseGet [] s.log.ring k := by
  rw [State.writeEntry_log]
  exact sparseGet_set_other h _

/-! ### The commands of the log -/

theorem exec_lodgeLogReadSeq (s : State) (v : Word) : exec (.lodgeLogReadSeq v) s = .next (s.set rLodgeLogReadSeq v) := rfl

theorem exec_logEntryWrite (s : State) (now ptp : Nat) : exec (.logEntryWrite now ptp) s = execLogEntryWrite now ptp s := rfl

/-- Within 40 ns of the last entry none is written. -/
theorem execLogEntryWrite_early {s : State} {now l : Nat} (last : s.log.last = some l) (early : now < l + 40) (ptp : Nat) :
    execLogEntryWrite now ptp s = .next s := by
  unfold execLogEntryWrite
  cases s.log.queue with
  | nil => rfl
  | cons e rest => simp [last, early]

/-- From 40 ns after the last entry on, a running Lodge writes the oldest that waits. -/
theorem execLogEntryWrite_due {s : State} {now : Nat} {e : LogEntry} {rest : List LogEntry} (waits : s.log.queue = e :: rest)
    (runs : s.lodgeRuns = true) (due : ∀ l, s.log.last = some l → l + 40 ≤ now) (ptp : Nat) :
    execLogEntryWrite now ptp s = .next ((s.tickTo now ptp).writeEntry now e rest) := by
  unfold execLogEntryWrite
  rw [waits]
  refine if_neg ?_
  cases last : s.log.last with
  | none => simp [runs]
  | some l => simp [runs, due l last]

/-- Settles O55: a due write leaves `State.writeEntry` of the ticked state, and the ticked state has the log and the registers of before. -/
theorem logEntriesAreWrittenAndAcknowledged : Obligations.LogEntriesAreWrittenAndAcknowledged := by
  unfold Obligations.LogEntriesAreWrittenAndAcknowledged
  refine ⟨fun s v w => ?_, fun s now ptp l last early => ?_, fun s now ptp n d e rest w waits runs due hn hd => ?_⟩
  · exact ⟨_, exec_lodgeLogReadSeq s v, State.get_set_same (State.wf_iff.1 w).1 _ v, fun o h => s.get_set_other v h, rfl⟩
  · exact (exec_logEntryWrite s now ptp).trans (execLogEntryWrite_early last early ptp)
  · subst hn hd
    have run := (exec_logEntryWrite s now ptp).trans (execLogEntryWrite_due waits runs due ptp)
    have wt := State.tickTo_wf now ptp w
    refine ⟨_, run, by rw [State.writeEntry_log], State.writeEntry_ring_same wt now e rest,
      fun k h => (s.tickTo now ptp).writeEntry_ring_other now e rest h, State.writeEntry_writeSeq wt now e rest,
      (s.tickTo now ptp).writeEntry_readSeq now e rest, ?_⟩
    rw [State.writeEntry_lostCnt wt]
    exact if_congr ((s.tickTo now ptp).overwrites_iff _) rfl rfl

end Sys2Proof.Machine
end

section
/-! SUPPORT. The edges of BEAT_IN: which edge is taken as the pulse of R43 and which is ignored (R671). -/

namespace Sys2Proof.Machine

@[simp] theorem State.tickTo_lastPulse (s : State) (now ptp : Nat) : (s.tickTo now ptp).beat.lastPulse = s.beat.lastPulse := rfl

@[simp] theorem State.tickTo_inEpoch (s : State) (now ptp : Nat) : (s.tickTo now ptp).beat.inEpoch = s.beat.inEpoch := rfl

/-- The state after an edge at `now` is taken: it is the last one taken, and a pulse once the epoch of BEAT_IN is armed. -/
def State.takeEdge (s : State) (now : Nat) : State :=
  let u := { s with beat := { s.beat with lastPulse := some now } }
  if s.beat.inEpoch then u.pulse .beatIn else u

theorem exec_beatInPulse (s : State) (now ptp : Nat) : exec (.beatInPulse now ptp) s = execBeatInPulse now ptp s := rfl

/-- An edge within 10 µs of the last one taken moves nothing but the times. -/
theorem execBeatInPulse_ignored {s : State} {now p : Nat} (last : s.beat.lastPulse = some p) (within : now < p + 10000) (ptp : Nat) :
    execBeatInPulse now ptp s = .next (s.tickTo now ptp) := by
  simp [execBeatInPulse, last, within]

/-- The first edge, and one that comes 10 µs or more after the last one taken, is taken. -/
theorem execBeatInPulse_taken {s : State} {now : Nat} (apart : ∀ p, s.beat.lastPulse = some p → p + 10000 ≤ now) (ptp : Nat) :
    execBeatInPulse now ptp s = .next ((s.tickTo now ptp).takeEdge now) := by
  unfold execBeatInPulse
  refine (if_neg ?_).trans (apply_ite Host.Outcome.next _ _ _).symm
  cases last : s.beat.lastPulse with
  | none => simp [last]
  | some p => simp [last, apart p last]

/-- Settles O9: an edge within 10 µs of the last one taken is ignored, any other leaves `State.takeEdge` of the ticked state. -/
theorem beatInEdgesAreTakenTenMicrosecondsApart : Obligations.BeatInEdgesAreTakenTenMicrosecondsApart := by
  unfold Obligations.BeatInEdgesAreTakenTenMicrosecondsApart
  refine fun s now ptp => ⟨fun p last within => ?_, fun apart u hu => ?_⟩
  · rw [exec_beatInPulse, execBeatInPulse_ignored last within]
  · rw [exec_beatInPulse, execBeatInPulse_taken apart, State.takeEdge, State.tickTo_inEpoch, hu]

end Sys2Proof.Machine
end

section
/-! SUPPORT. Every command is sound: its own effect keeps what `Keeps` says (Laws/Keeps and its parts), one command after another. -/

namespace Sys2Proof.Machine

/-- Each command answers what its meaning answers, and each meaning goes on and keeps the state well. -/
theorem exec_sound : ∀ c : Instr, Sound c
  | .auxPowerOn => fun s => (execAuxPowerOn_keeps s).holds
  | .vinPowerOn => fun s => (execVinPowerOn_keeps s).holds
  | .startUp flash self now ptp => fun s => (execStartUp_keeps flash self now ptp s).holds
  | .vinFailure => fun s => (execVinFailure_keeps s).holds
  | .powerGoodLoss => fun s => (execPowerGoodLoss_keeps s).holds
  | .auxFailure => fun s => (execAuxFailure_keeps s).holds
  | .deviceReset => fun s => (execDeviceReset_keeps s).holds
  | .lodgeTick now ptp x => fun s => (execLodgeTick_keeps now ptp x s).holds
  | .powerRecompute => fun s => (execPowerRecompute_keeps s).holds
  | .beatBoundary now ptp => fun s => (execBeatBoundary_keeps now ptp s).holds
  | .beatInPulse now ptp => fun s => (execBeatInPulse_keeps now ptp s).holds
  | .beatLost now ptp => fun s => (execBeatLost_keeps now ptp s).holds
  | .beatNoSource now ptp => fun s => (execBeatNoSource_keeps now ptp s).holds
  | .ptpHoldoverExpiry now ptp => fun s => (execPtpHoldoverExpiry_keeps now ptp s).holds
  | .ptpSync m origin twoStep => fun s => (execPtpSync_keeps m origin twoStep s).holds
  | .ptpAnnounce m attrs => fun s => (execPtpAnnounce_keeps m attrs s).holds
  | .ptpFollowUp m origin => fun s => (execPtpFollowUp_keeps m origin s).holds
  | .ptpDelayResponse m a b c d => fun s => (execPtpDelayResponse_keeps m a b c d s).holds
  | .netPtpUnlock now ptp => fun s => (execNetPtpUnlock_keeps now ptp s).holds
  | .ppsEdge now ptp => fun s => (execPpsEdge_keeps now ptp s).holds
  | .guardBand => fun s => (execGuardBand_keeps s).holds
  | .coilCtxPerform t => fun s => (execCoilCtxPerform_keeps t s).holds
  | .granuleZeroed => fun s => (execGranuleZeroed_keeps s).holds
  | .logEntryWrite now ptp => fun s => (execLogEntryWrite_keeps now ptp s).holds
  | .mbxNop r => fun s => (execMbxNop_keeps r s).holds
  | .mbxIdentify r => fun s => (execMbxIdentify_keeps r s).holds
  | .mbxUnknownCommand r => fun s => (execMbxUnknownCommand_keeps r s).holds
  | .tenCreate r => fun s => (execTenCreate_keeps r s).holds
  | .tenCreateComplete => fun s => (execTenCreateComplete_keeps s).holds
  | .tenReset r => fun s => (execTenReset_keeps r s).holds
  | .tenResetComplete t => fun s => (execTenResetComplete_keeps t s).holds
  | .tenDestroy r => fun s => (execTenDestroy_keeps r s).holds
  | .rotaAdmit r => fun s => (execRotaAdmit_keeps r s).holds
  | .rotaRetire r => fun s => (execRotaRetire_keeps r s).holds
  | .beatSetEpoch r => fun s => (execBeatSetEpoch_keeps r s).holds
  | .hostQuiesce r => fun s => (execHostQuiesce_keeps r s).holds
  | .hostQuiesceComplete => fun s => (execHostQuiesceComplete_keeps s).holds
  | .hostQuiesceAbort => fun s => (execHostQuiesceAbort_keeps s).holds
  | .hostResume r => fun s => (execHostResume_keeps r s).holds
  | .imgWrite r => fun s => (execImgWrite_keeps r s).holds
  | .imgActivate r => fun s => (execImgActivate_keeps r s).holds
  | .imgConfirm r => fun s => (execImgConfirm_keeps r s).holds
  | .imgCalWrite r => fun s => (execImgCalWrite_keeps r s).holds
  | .devReset r => fun s => (execDevReset_keeps r s).holds
  | .mctpSetEndpointId chan inst op eid => fun s => (execMctpSetEndpointId_keeps chan inst op eid s).holds
  | .mctpGetEndpointId chan inst => fun s => (execMctpGetEndpointId_keeps chan inst s).holds
  | .mctpGetVersionSupport chan inst type => fun s => (execMctpGetVersionSupport_keeps chan inst type s).holds
  | .mctpGetMessageTypeSupport chan inst => fun s => (execMctpGetMessageTypeSupport_keeps chan inst s).holds
  | .mctpGetVendorMessageSupport chan inst sel => fun s => (execMctpGetVendorMessageSupport_keeps chan inst sel s).holds
  | .pldmGetPdrRepositoryInfo chan inst => fun s => (execPldmGetPdrRepositoryInfo_keeps chan inst s).holds
  | .pldmGetPdr chan inst record => fun s => (execPldmGetPdr_keeps chan inst record s).holds
  | .pldmGetSensorReading chan inst sensor => fun s => (execPldmGetSensorReading_keeps chan inst sensor s).holds
  | .pldmGetStateSensorReadings chan inst => fun s => (execPldmGetStateSensorReadings_keeps chan inst s).holds
  | .pldmSetEventReceiver chan inst enable eid => fun s => (execPldmSetEventReceiver_keeps chan inst enable eid s).holds
  | .pldmRequestUpdate chan inst now size => fun s => (execPldmRequestUpdate_keeps chan inst now size s).holds
  | .pldmFirmwareData chan now data => fun s => (execPldmFirmwareData_keeps chan now data s).holds
  | .pldmTransferComplete chan now back ecc => fun s => (execPldmTransferComplete_keeps chan now back ecc s).holds
  | .pldmActivateFirmware chan inst now selfContained => fun s => (execPldmActivateFirmware_keeps chan inst now selfContained s).holds
  | .pldmCancelUpdate chan inst => fun s => (execPldmCancelUpdate_keeps chan inst s).holds
  | .pldmUpdateTimeout now => fun s => (execPldmUpdateTimeout_keeps now s).holds
  | .cfgCommit go => fun s => (execCfgCommit_keeps go s).holds
  | .memTUpdGo t go pinned => fun s => (execMemTUpdGo_keeps t go pinned s).holds
  | .coilCtxSave t => fun s => (execCoilCtxSave_keeps t s).holds
  | .coilCtxRestore t => fun s => (execCoilCtxRestore_keeps t s).holds
  | .beatDoorbell now ptp => fun s => (execBeatDoorbell_keeps now ptp s).holds
  | .hostTSqTailDb t q v => fun s => (execHostTSqTailDb_keeps t q v s).holds
  | .hostTCqHeadDb t q v => fun s => (execHostTCqHeadDb_keeps t q v s).holds
  | .queueEnable t => fun s => (execQueueEnable_keeps t s).holds
  | .queueDisable t => fun s => (execQueueDisable_keeps t s).holds
  | .qpInit t => fun s => (execQpInit_keeps t s).holds
  | .qpRtr t => fun s => (execQpRtr_keeps t s).holds
  | .qpRts t => fun s => (execQpRts_keeps t s).holds
  | .qpErr t => fun s => (execQpErr_keeps t s).holds
  | .qpReset t => fun s => (execQpReset_keeps t s).holds
  | .netTMrCtrl t value => fun s => (execNetTMrCtrl_keeps t value s).holds
  | .lodgeLogReadSeq value => fun s => (execLodgeLogReadSeq_keeps value s).holds
  | .lodgePwrPeakRead => fun s => (execLodgePwrPeakRead_keeps s).holds
  | .pairLowRead fn off => fun s => (execPairLowRead_keeps fn off s).holds
  | .hoopHeadRead t => fun s => (execHoopHeadRead_keeps t s).holds
  | .stakeFullRead t => fun s => (execStakeFullRead_keeps t s).holds
  | .registerWrite fn addr data poisoned => fun s => (execRegisterWrite_keeps fn addr data poisoned s).holds
  | .configRequest f r => fun s => (execConfigRequest_keeps f r s).holds
  | .dlDown => fun s => (execDlDown_keeps s).holds
  | .dlUp gen width flit => fun s => (execDlUp_keeps gen width flit s).holds
  | .pcieInterfaceReset => fun s => (execPcieInterfaceReset_keeps s).holds
  | .functionLevelReset f => fun s => (execFunctionLevelReset_keeps f s).holds
  | .linkRetrained gen width flit => fun s => (execLinkRetrained_keeps gen width flit s).holds
  | .atsInvalidationRequest t base log2 => fun s => (execAtsInvalidationRequest_keeps t base log2 s).holds
  | .translationCompletion t base log2 rd wr => fun s => (execTranslationCompletion_keeps t base log2 rd wr s).holds
  | .hostReadCompletion no r => fun s => (execHostReadCompletion_keeps no r s).holds
  | .hostCplTimeout no => fun s => (execHostCplTimeout_keeps no s).holds
  | .descriptorFetch t q r => fun s => (execDescriptorFetch_keeps t q r s).holds
  | .taskAccept t q r pinned => fun s => (execTaskAccept_keeps t q r pinned s).holds
  | .hostStagingStart h seq => fun s => (execHostStagingStart_keeps h seq s).holds
  | .courseStart h c => fun s => (execCourseStart_keeps h c s).holds
  | .courseFinish h => fun s => (execCourseFinish_keeps h s).holds
  | .rotaCourseOverrun h => fun s => (execRotaCourseOverrun_keeps h s).holds
  | .transferIssue h n => fun s => (execTransferIssue_keeps h n s).holds
  | .transferComplete h n no check => fun s => (execTransferComplete_keeps h n no check s).holds
  | .slotCommit h n => fun s => (execSlotCommit_keeps h n s).holds
  | .slotAcquire h n => fun s => (execSlotAcquire_keeps h n s).holds
  | .stakeWaitRelease p => fun s => (execStakeWaitRelease_keeps p s).holds
  | .coilFrameDecode h n => fun s => (execCoilFrameDecode_keeps h n s).holds
  | .coilFrameEncode h n => fun s => (execCoilFrameEncode_keeps h n s).holds
  | .filterCmp h n => fun s => (execFilterCmp_keeps h n s).holds
  | .maskAnd h n => fun s => (execMaskAnd_keeps h n s).holds
  | .maskOr h n => fun s => (execMaskOr_keeps h n s).holds
  | .maskNot h n => fun s => (execMaskNot_keeps h n s).holds
  | .filterMask h n => fun s => (execFilterMask_keeps h n s).holds
  | .hash h n => fun s => (execHash_keeps h n s).holds
  | .hashBucket h n => fun s => (execHashBucket_keeps h n s).holds
  | .widthBucket h n => fun s => (execWidthBucket_keeps h n s).holds
  | .boundBucket h n => fun s => (execBoundBucket_keeps h n s).holds
  | .clip h n => fun s => (execClip_keeps h n s).holds
  | .log1p h n => fun s => (execLog1p_keeps h n s).holds
  | .slog1p h n => fun s => (execSlog1p_keeps h n s).holds
  | .minmax h n => fun s => (execMinmax_keeps h n s).holds
  | .zscore h n => fun s => (execZscore_keeps h n s).holds
  | .stats h n => fun s => (execStats_keeps h n s).holds
  | .statsRecordEmit h n => fun s => (execStatsRecordEmit_keeps h n s).holds
  | .joinBuild h n => fun s => (execJoinBuild_keeps h n s).holds
  | .joinProbe h n => fun s => (execJoinProbe_keeps h n s).holds
  | .groupKey h n => fun s => (execGroupKey_keeps h n s).holds
  | .groupAgg h n => fun s => (execGroupAgg_keeps h n s).holds
  | .seqGather h n => fun s => (execSeqGather_keeps h n s).holds
  | .tileMatmul h n => fun s => (execTileMatmul_keeps h n s).holds
  | .embedBag h n => fun s => (execEmbedBag_keeps h n s).holds
  | .cross h n => fun s => (execCross_keeps h n s).holds
  | .onehotMm h n => fun s => (execOnehotMm_keeps h n s).holds
  | .div h n => fun s => (execDiv_keeps h n s).holds
  | .recip h n => fun s => (execRecip_keeps h n s).holds
  | .sqrt h n => fun s => (execSqrt_keeps h n s).holds
  | .rsqrt h n => fun s => (execRsqrt_keeps h n s).holds
  | .solveSpd h n => fun s => (execSolveSpd_keeps h n s).holds
  | .zparam h n => fun s => (execZparam_keeps h n s).holds
  | .mmparam h n => fun s => (execMmparam_keeps h n s).holds
  | .selectRow h n => fun s => (execSelectRow_keeps h n s).holds
  | .arbourScore h n => fun s => (execArbourScore_keeps h n s).holds
  | .arbourLeafIndex h n => fun s => (execArbourLeafIndex_keeps h n s).holds
  | .sampleSplit h n => fun s => (execSampleSplit_keeps h n s).holds
  | .sampleMerge h n => fun s => (execSampleMerge_keeps h n s).holds
  | .augDraw h n => fun s => (execAugDraw_keeps h n s).holds
  | .trellisJob h n => fun s => (execTrellisJob_keeps h n s).holds
  | .shuffleOut h n => fun s => (execShuffleOut_keeps h n s).holds
  | .strStakeSel h k => fun s => (execStrStakeSel_keeps h k s).holds
  | .strSignal h k => fun s => (execStrSignal_keeps h k s).holds
  | .strWait h k => fun s => (execStrWait_keeps h k s).holds
  | .strCount h k => fun s => (execStrCount_keeps h k s).holds
  | .strHoopSel h k => fun s => (execStrHoopSel_keeps h k s).holds
  | .strHoopReserve h k => fun s => (execStrHoopReserve_keeps h k s).holds
  | .strHoopCommit h k => fun s => (execStrHoopCommit_keeps h k s).holds
  | .strHoopAcquire h k => fun s => (execStrHoopAcquire_keeps h k s).holds
  | .strHoopLen h k => fun s => (execStrHoopLen_keeps h k s).holds
  | .strHoopRelease h k => fun s => (execStrHoopRelease_keeps h k s).holds
  | .strHoopState h k => fun s => (execStrHoopState_keeps h k s).holds
  | .strDrawStream h k => fun s => (execStrDrawStream_keeps h k s).holds
  | .strDrawIndex h k => fun s => (execStrDrawIndex_keeps h k s).holds
  | .strDraw h k => fun s => (execStrDraw_keeps h k s).holds
  | .strBeat h k => fun s => (execStrBeat_keeps h k s).holds
  | .strTaskSeq h k => fun s => (execStrTaskSeq_keeps h k s).holds
  | .strSampleBase h k => fun s => (execStrSampleBase_keeps h k s).holds
  | .strAbort h k => fun s => (execStrAbort_keeps h k s).holds
  | .strandMemoryAccess h k => fun s => (execStrandMemoryAccess_keeps h k s).holds
  | .strandInstruction h k => fun s => (execStrandInstruction_keeps h k s).holds
  | .routineEnd h k => fun s => (execRoutineEnd_keeps h k s).holds
  | .strandTrap h k => fun s => (execStrandTrap_keeps h k s).holds
  | .frameReceive p frame => fun s => (execFrameReceive_keeps p frame s).holds
  | .arpRequest p mac ip target => fun s => (execArpRequest_keeps p mac ip target s).holds
  | .neighbourSolicitation p mac ip target => fun s => (execNeighbourSolicitation_keeps p mac ip target s).holds
  | .pfcPauseReceive p prio quanta => fun s => (execPfcPauseReceive_keeps p prio quanta s).holds
  | .rdmaWriteReceive k rkey addr data first => fun s => (execRdmaWriteReceive_keeps k rkey addr data first s).holds
  | .rdmaReadReceive k rkey addr len => fun s => (execRdmaReadReceive_keeps k rkey addr len s).holds
  | .sendReceive k data => fun s => (execSendReceive_keeps k data s).holds
  | .atomicReceive k => fun s => (execAtomicReceive_keeps k s).holds
  | .ackReceive t q psn => fun s => (execAckReceive_keeps t q psn s).holds
  | .nakReceive t q psn rnr => fun s => (execNakReceive_keeps t q psn rnr s).holds
  | .retransmitTimeout t q => fun s => (execRetransmitTimeout_keeps t q s).holds
  | .cnpReceive t q => fun s => (execCnpReceive_keeps t q s).holds
  | .alphaTimer t q => fun s => (execAlphaTimer_keeps t q s).holds
  | .rateTimer t q byBytes => fun s => (execRateTimer_keeps t q byBytes s).holds
  | .netLinkDown p => fun s => (execNetLinkDown_keeps p s).holds
  | .netLinkUp p => fun s => (execNetLinkUp_keeps p s).holds
  | .sensorDatagram p udp d ptp => fun s => (execSensorDatagram_keeps p udp d ptp s).holds
  | .sensorFrameStale h n ptp => fun s => (execSensorFrameStale_keeps h n ptp s).holds
  | .jtagBypass => fun s => (execJtagBypass_keeps s).holds
  | .jtagIdcode => fun s => (execJtagIdcode_keeps s).holds
  | .jtagSamplePreload => fun s => (execJtagSamplePreload_keeps s).holds
  | .jtagExtest => fun s => (execJtagExtest_keeps s).holds
  | .jtagClamp => fun s => (execJtagClamp_keeps s).holds
  | .longCommandComplete back => fun s => (execLongCommandComplete_keeps back s).holds
  | .pldmType0Message chan inst cmd arg => fun s => (execPldmType0Message_keeps chan inst cmd arg s).holds
  | .osfpModulePresence p media => fun s => (execOsfpModulePresence_keeps p media s).holds

/-- Settles O4: command by command, by what each meaning keeps. -/
theorem everyCommandIsSound : Obligations.EveryCommandIsSound := exec_sound

end Sys2Proof.Machine
end

section
/-! SUPPORT. The registers at reset (R656): which words of PF0 are computed from other state, and what each word reads. -/

namespace Sys2Proof.Machine

/-- The words of PF0 outside the window of the selected tenant and the log's entries that show other state than their own register. -/
def shownWords : List Nat :=
  [rLodgeCapState, rBeatStatus, rBeatNumber, rBeatNumber + 4, rBeatPhase, rBeatMinAdmittedNs, rBeatMinAdmittedNs + 4, rAdmPowerUsedW, rAdmRotaCnt,
    rCfgStatus, rMemZeroStatus, rMemFree, rStrmCtxFree, rHoopFree, rBwGrantFreeA, rBwGrantFreeB, rStakeFree, rCoilCtxFree, rHostLinkStatus,
    rHostState, rImgSrc, rLodgeRailRead, rLodgeLogQueued]

/-- A word that shows no other state reads the selected tenant's window, an entry of the log, or its own register. -/
theorem State.pf0Word_of_not_shown (s : State) {off : Nat} (h : off ∉ shownWords) :
    s.pf0Word off = if rTenState ≤ off ∧ off < rTenSeed + 16 ∧ off ≠ rTenWinInst then s.selectedWord off
      else if rLodgeLogEntry ≤ off ∧ off < rLodgeLogEntry + 0x40000 then
        fieldAt (sparseGet [] s.log.ring ((off - rLodgeLogEntry) / 64)) ((off - rLodgeLogEntry) % 64) 4
      else match indexedTenant off with
        | some t => if s.exists? t then s.getN off else 0
        | none => s.getN off := by
  simp only [shownWords, List.mem_cons, List.not_mem_nil, or_false, not_or] at h
  simp only [State.pf0Word, h, if_false] <;> rfl

/-! ### At reset -/

theorem State.reset_getN (off : Nat) : State.reset.getN off = if off = 0xC018 then 0x00010000 else if off = 0x10070 then 0x34C else 0 := by
  simp only [State.getN, State.get, State.reset, RegFile.reset, sparseGet, eq_comm (b := off)]
  split
  · rfl
  · split <;> rfl

theorem State.reset_exists? (t : Nat) : State.reset.exists? t = false := rfl

theorem State.reset_selectedWord (off : Nat) : State.reset.selectedWord off = 0 := by
  unfold State.selectedWord
  dsimp only
  split
  · rfl
  · rw [State.reset_exists?]
    rfl

/-- No tenant's register lies where a register of PF0 is not 0 at reset. -/
theorem indexedTenant_of_resetWord : indexedTenant 0xC018 = none ∧ indexedTenant 0x10070 = none := by decide

theorem fieldAt_nil (o n : Nat) : fieldAt [] o n = 0 := by
  simp [fieldAt, leNat]

theorem State.reset_shownWords : ∀ off ∈ shownWords, State.reset.pf0Word off = 0 := by decide

theorem resetWords_not_shown : ∀ off ∈ shownWords, off ≠ 0xC018 ∧ off ≠ 0x10070 := by decide

/-- At reset a word of PF0 reads its own register: no other state shows anything yet. -/
theorem State.reset_pf0Word (off : Nat) : State.reset.pf0Word off = State.reset.getN off := by
  have zero : off ≠ 0xC018 → off ≠ 0x10070 → State.reset.getN off = 0 := fun a b => by rw [State.reset_getN, if_neg a, if_neg b]
  by_cases shown : off ∈ shownWords
  · rw [State.reset_shownWords off shown, zero (resetWords_not_shown off shown).1 (resetWords_not_shown off shown).2]
  · rw [State.pf0Word_of_not_shown _ shown]
    split
    · next window =>
      obtain ⟨lo, hi, -⟩ := window
      simp only [rTenState, rTenSeed] at lo hi
      rw [State.reset_selectedWord, zero (by omega) (by omega)]
    · split
      · next entry =>
        simp only [rLodgeLogEntry] at entry
        rw [zero (by omega) (by omega)]
        exact fieldAt_nil _ _
      · split
        · next t indexed =>
          rw [State.reset_exists?, if_neg Bool.false_ne_true, zero]
          · rintro rfl; simp [indexedTenant_of_resetWord.1] at indexed
          · rintro rfl; simp [indexedTenant_of_resetWord.2] at indexed
        · rfl

/-- A file that lists one value under some keys reads that value there and nothing elsewhere. -/
theorem sparseGet_map_const {α : Type} (z v : α) (k : Nat → Nat) (a : Nat) : ∀ l : List Nat,
    sparseGet z (l.map fun t => (k t, v)) a = if a ∈ l.map k then v else z
  | [] => rfl
  | t :: l => by
    simp only [List.map_cons, sparseGet, sparseGet_map_const z v k a l, List.mem_cons, eq_comm (a := a) (b := k t)]
    split <;> simp_all

theorem State.reset_vgetN {t off : Nat} (ht : t < 128) (ho : off < 0x40000) :
    State.reset.vgetN t off = if off = 0x1014 then 0xFFFFFFFF else 0 := by
  have listed : t * 0x40000 + off ∈ (List.range 128).map (fun t => t * 0x40000 + 0x1014) ↔ off = 0x1014 := by
    simp only [List.mem_map, List.mem_range]
    exact ⟨fun ⟨u, hu, e⟩ => by omega, fun e => ⟨t, ht, by omega⟩⟩
  have read : State.reset.vget t off = if off = 0x1014 then 0xFFFFFFFF#32 else 0#32 := by
    refine (sparseGet_map_const _ _ (fun t => t * 0x40000 + 0x1014) _ (List.range 128)).trans ?_
    simp only [vfKey, listed]
    rfl
  rw [State.vgetN, read]
  split <;> rfl

/-- Settles O5: at reset no word shows other state, so every word reads the file of the registers. -/
theorem registersAtReset : Obligations.RegistersAtReset := by
  unfold Obligations.RegistersAtReset
  refine ⟨fun off h => ?_, fun t off ht ho => State.reset_vgetN ht ho⟩
  have low : ¬ bar2 ≤ off := Nat.not_le.2 h
  rw [State.word, if_neg low, if_pos rfl, State.reset_pf0Word, State.reset_getN]
  split
  · rfl
  · split <;> rfl

end Sys2Proof.Machine
end

section
/-! SUPPORT. The queue of commands: a step with a command waiting, and the cycle that passes without one. -/

namespace Sys2Proof.Machine

/-- Settles O1: the front of the queue decides the step. -/
theorem stepRunsTheFrontCommand : Obligations.StepRunsTheFrontCommand := by
  unfold Obligations.StepRunsTheFrontCommand
  intro c rest s front
  rw [step, front]

/-- A port that is not paused is left alone by a cycle. -/
theorem State.tickPause_of_not_paused {s : State} {p : Nat} (h : (s.port p).paused = 0) : s.tickPause p = s := by
  simp [State.tickPause, h]

/-- Steps that each leave `s` as it is leave it so one after another. -/
theorem State.foldl_of_fixed {α : Type} {f : State → α → State} {s : State} : ∀ {l : List α}, (∀ a ∈ l, f s a = s) → l.foldl f s = s
  | [], _ => rfl
  | a :: l, h => by
    rw [List.foldl_cons, h a List.mem_cons_self]
    exact State.foldl_of_fixed fun b hb => h b (List.mem_cons_of_mem _ hb)

/-- Settles O2: with the schedule clock stopped a cycle only runs pauses, and none runs. -/
theorem emptyQueuePassesACycle : Obligations.EmptyQueuePassesACycle := by
  unfold Obligations.EmptyQueuePassesACycle
  refine fun s empty => ⟨by rw [step, empty], fun stopped unpaused => ?_⟩
  have ports : (List.range 4).foldl State.tickPause s = s :=
    State.foldl_of_fixed fun p hp => State.tickPause_of_not_paused (unpaused p (List.mem_range.1 hp))
  rw [State.idle]
  rw [ports, stopped, if_neg Bool.false_ne_true]

/-- Settles O3: every sparse file is empty or short at reset. -/
theorem resetIsWellKept : Obligations.ResetIsWellKept := test_reset_wf

end Sys2Proof.Machine
end

section
/-! SUPPORT. Fields of register words: what a field, a bit, and the field beside it read after a field is written. -/

namespace Sys2Proof.Machine

/-! ### Words -/

theorem testBit_bits (v hi lo i : Nat) : (bits v hi lo).testBit i = (decide (i < hi - lo + 1) && v.testBit (lo + i)) := by
  rw [bits, Nat.testBit_mod_two_pow, Nat.testBit_div_two_pow, Nat.add_comm i]

/-- A number whose `n` bits from `lo` on are replaced by those of `v`. -/
theorem testBit_replace (w v n lo i : Nat) :
    (w - w / 2 ^ lo % 2 ^ n * 2 ^ lo + v % 2 ^ n * 2 ^ lo).testBit i
      = if lo ≤ i ∧ i < lo + n then v.testBit (i - lo) else w.testBit i := by
  have split : w = 2 ^ lo * (2 ^ n * (w / 2 ^ lo / 2 ^ n) + w / 2 ^ lo % 2 ^ n) + w % 2 ^ lo := by
    rw [Nat.div_add_mod, Nat.div_add_mod]
  have low : w % 2 ^ lo < 2 ^ lo := Nat.mod_lt _ (Nat.two_pow_pos lo)
  have replaced : w - w / 2 ^ lo % 2 ^ n * 2 ^ lo + v % 2 ^ n * 2 ^ lo
      = 2 ^ lo * (2 ^ n * (w / 2 ^ lo / 2 ^ n) + v % 2 ^ n) + w % 2 ^ lo := by
    have e : w - w / 2 ^ lo % 2 ^ n * 2 ^ lo = 2 ^ lo * (2 ^ n * (w / 2 ^ lo / 2 ^ n)) + w % 2 ^ lo := by
      conv_lhs => lhs; rw [split]
      rw [Nat.mul_add, Nat.mul_comm (w / 2 ^ lo % 2 ^ n)]
      omega
    rw [e, Nat.mul_add, Nat.mul_comm (v % 2 ^ n)]
    omega
  rw [replaced, Nat.testBit_two_pow_mul_add _ low, Nat.testBit_two_pow_mul_add _ (Nat.mod_lt _ (Nat.two_pow_pos n))]
  by_cases below : i < lo
  · rw [if_pos below, if_neg (by omega), Nat.testBit_mod_two_pow]
    simp [below]
  · rw [if_neg below, Nat.testBit_mod_two_pow, Nat.testBit_div_two_pow, Nat.testBit_div_two_pow]
    by_cases inside : i - lo < n
    · rw [if_pos inside, if_pos (by omega)]
      simp [inside]
    · rw [if_neg inside, if_neg (by omega)]
      congr 1
      omega

theorem testBit_wWith (w : Word) (hi lo v i : Nat) : (wWith w hi lo v).toNat.testBit i
    = (decide (i < 32) && if lo ≤ i ∧ i < lo + (hi - lo + 1) then v.testBit (i - lo) else w.toNat.testBit i) := by
  rw [wWith, BitVec.toNat_ofNat, Nat.testBit_mod_two_pow, bits, testBit_replace]

/-- A field reads what was written to it, cut to its width. -/
theorem wField_wWith_same (w : Word) {hi lo : Nat} (v : Nat) (h : lo ≤ hi) (word : hi < 32) :
    wField (wWith w hi lo v) hi lo = v % 2 ^ (hi - lo + 1) := by
  refine Nat.eq_of_testBit_eq fun i => ?_
  rw [wField, testBit_bits, testBit_wWith, Nat.testBit_mod_two_pow]
  by_cases inside : i < hi - lo + 1
  · have word : lo + i < 32 := by omega
    simp [inside, word]
  · simp [inside]

/-- A field that shares no bit with the one written is as before. -/
theorem wField_wWith_apart (w : Word) {hi lo hi' lo' : Nat} (v : Nat) (order : lo ≤ hi) (order' : lo' ≤ hi') (word : hi' < 32)
    (apart : hi' < lo ∨ hi < lo') : wField (wWith w hi lo v) hi' lo' = wField w hi' lo' := by
  refine Nat.eq_of_testBit_eq fun i => ?_
  rw [wField, wField, testBit_bits, testBit_bits, testBit_wWith]
  by_cases inside : i < hi' - lo' + 1
  · have word : lo' + i < 32 := by omega
    have outside : ¬ (lo ≤ lo' + i ∧ lo' + i < lo + (hi - lo + 1)) := by omega
    simp [inside, word, outside]
  · simp [inside]

/-- A bit is the field of that bit alone. -/
theorem bit_eq_wField (w : Word) (i : Nat) : bit w.toNat i = (wField w i i == 1) := by
  rw [bit, wField, bits, Nat.sub_self, Nat.zero_add, pow_one]

/-! ### Registers of PF0 -/

theorem State.getF_setF_same {s : State} (h : sparseWf 0 s.pf0 = true) (off : Nat) {hi lo : Nat} (v : Nat) (order : lo ≤ hi) (word : hi < 32) :
    (s.setF off hi lo v).getF off hi lo = v % 2 ^ (hi - lo + 1) := by
  rw [State.getF, State.setF, State.get_set_same h, wField_wWith_same _ v order word]

theorem State.getF_setF_apart {s : State} (h : sparseWf 0 s.pf0 = true) (off : Nat) {hi lo hi' lo' : Nat} (v : Nat) (order : lo ≤ hi)
    (order' : lo' ≤ hi') (word : hi' < 32) (apart : hi' < lo ∨ hi < lo') : (s.setF off hi lo v).getF off hi' lo' = s.getF off hi' lo' := by
  rw [State.getF, State.setF, State.get_set_same h, wField_wWith_apart _ v order order' word apart, State.getF]

theorem State.getN_setN_same {s : State} (h : sparseWf 0 s.pf0 = true) (off v : Nat) : (s.setN off v).getN off = v % 2 ^ 32 := by
  rw [State.getN, State.setN, State.get_set_same h, BitVec.toNat_ofNat]

theorem State.get_setN_other (s : State) {off o : Nat} (v : Nat) (h : o ≠ off) : (s.setN off v).get o = s.get o :=
  State.get_set_other s _ h

theorem State.getN_setN_other (s : State) {off o : Nat} (v : Nat) (h : o ≠ off) : (s.setN off v).getN o = s.getN o :=
  congrArg BitVec.toNat (s.get_setN_other v h)

theorem State.get_setF_other (s : State) {off o : Nat} (hi lo v : Nat) (h : o ≠ off) : (s.setF off hi lo v).get o = s.get o :=
  State.get_set_other s _ h

theorem State.get_set64_other (s : State) {off o : Nat} (v : Nat) (h : o ≠ off) (h' : o ≠ off + 4) : (s.set64 off v).get o = s.get o := by
  rw [State.set64, State.get_setN_other _ _ h', State.get_setN_other _ _ h]

/-- A 64-bit pair reads what was written to it, modulo 2^64. -/
theorem State.get64_set64_same {s : State} (h : sparseWf 0 s.pf0 = true) (off v : Nat) : (s.set64 off v).get64 off = v % 2 ^ 64 := by
  have apart : off ≠ off + 4 := by omega
  rw [State.get64, State.set64, State.getN_setN_other _ _ apart, State.getN_setN_same h, State.getN_setN_same (sparseSet_wf h)]
  omega

/-- A write of a pair leaves a pair that shares no word with it alone. -/
theorem State.get64_set64_other (s : State) {off o : Nat} (v : Nat) (h : o + 4 < off ∨ off + 4 < o) : (s.set64 off v).get64 o = s.get64 o := by
  rw [State.get64, State.getN, State.getN, State.get_set64_other _ _ (by omega) (by omega), State.get_set64_other _ _ (by omega) (by omega)]
  rfl

/-! ### Registers of a VF -/

theorem State.vgetN_vsetN_same {s : State} (h : sparseWf 0 s.vf = true) (t off v : Nat) : (s.vsetN t off v).vgetN t off = v % 2 ^ 32 := by
  rw [State.vgetN, State.vsetN, State.vget_vset_same h, BitVec.toNat_ofNat]

theorem State.bits_vgetN_vsetF_same {s : State} (h : sparseWf 0 s.vf = true) (t off : Nat) {hi lo : Nat} (v : Nat) (order : lo ≤ hi) (word : hi < 32) :
    bits ((s.vsetF t off hi lo v).vgetN t off) hi lo = v % 2 ^ (hi - lo + 1) := by
  rw [State.vgetN, State.vsetF, State.vget_vset_same h]
  exact wField_wWith_same _ v order word

theorem State.bits_vgetN_vsetF_apart {s : State} (h : sparseWf 0 s.vf = true) (t off : Nat) {hi lo hi' lo' : Nat} (v : Nat) (order : lo ≤ hi)
    (order' : lo' ≤ hi') (word : hi' < 32) (apart : hi' < lo ∨ hi < lo') :
    bits ((s.vsetF t off hi lo v).vgetN t off) hi' lo' = bits (s.vgetN t off) hi' lo' := by
  rw [State.vgetN, State.vsetF, State.vget_vset_same h]
  exact wField_wWith_apart _ v order order' word apart

/-- A write to one offset of a VF leaves the VF's other offsets alone. -/
theorem State.vget_vset_otherOff (s : State) (t : Nat) {off o : Nat} (v : Word) (h : o ≠ off) : (s.vset t off v).vget t o = s.vget t o :=
  s.vget_vset_other v (by unfold vfKey; omega)

end Sys2Proof.Machine
end

section
/-! SUPPORT. The frame of the memory's operations: a read or a write of tenant memory changes registers that count and record errors, the memories, and
the free values drawn, and nothing else; and a read changes no byte. -/

namespace Sys2Proof.Machine

/-- Beside the registers, the memories and the free values drawn, `t` is `s`. -/
structure MemFrame (s t : State) : Prop where
  eq : t = { s with freeNo := t.freeNo, pf0 := t.pf0, vf := t.vf, mem := t.mem }

namespace MemFrame

theorem refl (s : State) : MemFrame s s := ⟨rfl⟩

theorem trans {s t u : State} (h : MemFrame s t) (k : MemFrame t u) : MemFrame s u :=
  ⟨k.eq.trans (by rw [h.eq])⟩

theorem of_eq {α : Type} {s t : State} {p : State × α} {a : α} (e : p = (t, a)) (h : MemFrame s p.1) : MemFrame s t := by
  rw [e] at h
  exact h

section
variable {s t : State} (h : MemFrame s t)
include h

theorem tenants : t.tenants = s.tenants := by rw [h.eq]
theorem rotas : t.rotas = s.rotas := by rw [h.eq]
theorem tasks : t.tasks = s.tasks := by rw [h.eq]
theorem stakes : t.stakes = s.stakes := by rw [h.eq]
theorem waits : t.waits = s.waits := by rw [h.eq]
theorem beat : t.beat = s.beat := by rw [h.eq]

end

theorem set (s : State) (off : Nat) (v : Word) : MemFrame s (s.set off v) := ⟨rfl⟩
theorem mem (s : State) (m : Mem) : MemFrame s { s with mem := m } := ⟨rfl⟩
theorem vset (s : State) (t off : Nat) (v : Word) : MemFrame s (s.vset t off v) := ⟨rfl⟩
theorem setN (s : State) (off v : Nat) : MemFrame s (s.setN off v) := set s off _
theorem count (s : State) (off n : Nat) : MemFrame s (s.count off n) := set s off _
theorem vcount (s : State) (t off n : Nat) : MemFrame s (s.vcount t off n) := vset s t off _
theorem free (s : State) (w : Nat) : MemFrame s (s.free w).2 := ⟨rfl⟩
theorem putByte (s : State) (sp : Space) (a : Nat) (b : Byte) : MemFrame s (s.putByte sp a b) := by cases sp <;> exact mem s _
theorem setErr (s : State) (sp : Space) (w n : Nat) : MemFrame s (s.setErr sp w n) := by cases sp <;> exact mem s _
theorem countCe (s : State) (sp : Space) : MemFrame s (s.countCe sp) := by cases sp <;> exact count s _ 1
theorem countUe (s : State) (sp : Space) (w : Nat) : MemFrame s (s.countUe sp w) := by
  cases sp <;> exact (count s _ 1).trans (setN _ _ _)

theorem putBytes (sp : Space) : ∀ (b : Bytes) (s : State) (a : Nat), MemFrame s (s.putBytes sp a b)
  | [], s, _ => refl s
  | x :: b, s, a => (putByte s sp a x).trans (putBytes sp b _ (a + 1))

theorem eccRead (s : State) (sp : Space) (w : Nat) : MemFrame s (s.eccRead sp w).1 := by
  unfold State.eccRead
  split
  · exact refl s
  · exact (setErr s sp w 0).trans (countCe _ sp)
  · exact countUe s sp w
  · dsimp only
    split
    · exact (free s 2).trans (countUe _ sp w)
    · split
      · exact (free s 2).trans (countCe _ sp)
      · exact free s 2

theorem openLine (s : State) (t line : Nat) : MemFrame s (s.openLine t line) := by
  unfold State.openLine
  split
  · exact refl s
  · exact (putBytes .ory _ s (line * 128)).trans ((mem _ _).trans (mem _ _))

theorem eccWrite (s : State) (sp : Space) (w k : Nat) : MemFrame s (s.eccWrite sp w k).1 := by
  unfold State.eccWrite
  split
  · exact setErr s sp w 0
  · split
    · next h => exact of_eq h (eccRead s sp w)
    · next h => exact (of_eq h (eccRead s sp w)).trans ((free _ 64).trans ((setErr _ sp w 0).trans (putBytes sp _ _ _)))
    · next h => exact of_eq h (eccRead s sp w)

theorem writePieces (t : Nat) (sp : Space) : ∀ (l : List (Nat × Byte)) (k : Nat) (s : State), MemFrame s (s.writePieces t sp l k).1
  | [], _, s => refl s
  | (a, b) :: rest, k + 1, s => (putByte s sp a b).trans (writePieces t sp rest k _)
  | (a, b) :: rest, 0, s => by
    have opened : MemFrame s (if sp = .ory then s.openLine t (a / 128) else s) := by
      split
      · exact openLine s t (a / 128)
      · exact refl s
    rw [State.writePieces]
    split
    · next h => exact opened.trans (of_eq h (eccWrite _ sp _ _))
    · next h => exact (opened.trans (of_eq h (eccWrite _ sp _ _))).trans ((putByte _ sp a b).trans (writePieces t sp rest _ _))

/-- A write to tenant memory. -/
theorem writeMem (s : State) (t : Nat) (sp : Space) (a : Nat) (data : Bytes) : MemFrame s (s.writeMem t sp a data).1 := by
  unfold State.writeMem
  split
  · exact refl s
  · split
    · next h => exact (of_eq h (writePieces t sp _ 0 s)).trans (mem _ _)
    · next h => exact of_eq h (writePieces t sp _ 0 s)

/-- Bytes placed in the Orangery line by line. -/
theorem placeBytes (t : Nat) (dst : Nat → Nat) : ∀ (k : Nat) (d : Bytes) (o : Nat) (s : State), MemFrame s (s.placeBytes t dst o k d)
  | 0, _, _, s => by unfold State.placeBytes; exact refl s
  | _ + 1, [], _, s => by unfold State.placeBytes; exact refl s
  | k + 1, x :: d, o, s => by
    unfold State.placeBytes
    exact (writeMem s t .ory (dst o) _).trans (placeBytes t dst k _ _ _)

end MemFrame

/-! ### Bytes that stay -/

@[simp] theorem State.byteAt_set (s : State) (off : Nat) (v : Word) (sp : Space) (a : Nat) : (s.set off v).byteAt sp a = s.byteAt sp a := rfl

/-- The bytes of the memories are read from the memories alone. -/
theorem State.byteAt_congr {s t : State} (h : t.mem = s.mem) (sp : Space) (a : Nat) : t.byteAt sp a = s.byteAt sp a := by
  unfold State.byteAt
  rw [h]

@[simp] theorem State.byteAt_setErr (s : State) (sp : Space) (w n : Nat) (sq : Space) (a : Nat) :
    (s.setErr sp w n).byteAt sq a = s.byteAt sq a := by
  cases sp <;> cases sq <;> rfl

@[simp] theorem State.byteAt_countCe (s : State) (sp sq : Space) (a : Nat) : (s.countCe sp).byteAt sq a = s.byteAt sq a := by
  cases sp <;> rfl

@[simp] theorem State.byteAt_countUe (s : State) (sp : Space) (w : Nat) (sq : Space) (a : Nat) : (s.countUe sp w).byteAt sq a = s.byteAt sq a := by
  cases sp <;> rfl

@[simp] theorem State.byteAt_free (s : State) (w : Nat) (sq : Space) (a : Nat) : (s.free w).2.byteAt sq a = s.byteAt sq a := rfl

/-- A word that is decoded keeps its bytes: correction takes errors away. -/
@[simp] theorem State.byteAt_eccRead (s : State) (sp : Space) (w : Nat) (sq : Space) (a : Nat) :
    (s.eccRead sp w).1.byteAt sq a = s.byteAt sq a := by
  unfold State.eccRead
  split
  · rfl
  · simp
  · simp
  · dsimp only
    split
    · simp
    · split <;> simp

end Sys2Proof.Machine
end

section
/-! SUPPORT. The commands of the management mailbox (spec/20): how each is taken, refused and completed, and what completion shows on PF0. -/

namespace Sys2Proof.Machine

/-! ### What completion shows (R589, R600) -/

@[simp] theorem State.msg_get (s : State) (f v off : Nat) : (s.msg f v).get off = s.get off := by
  unfold State.msg
  split
  · rfl
  · split <;> rfl

@[simp] theorem State.msg_get64 (s : State) (f v off : Nat) : (s.msg f v).get64 off = s.get64 off := by
  simp [State.get64]

@[simp] theorem State.msg_mem (s : State) (f v : Nat) : (s.msg f v).mem = s.mem := by
  unfold State.msg
  split
  · rfl
  · split <;> rfl

/-- A result shows its code and the tag of its command, its detail and its values, and touches no other register. -/
theorem State.showResult_shows {s : State} (w : sparseWf 0 s.pf0 = true) (tag : Nat) (x : MbxResult) :
    (s.showResult tag x).getN rMbxResult = (x.code % 0x10000 + tag % 0x10000 * 0x10000) % 2 ^ 32
      ∧ (s.showResult tag x).getN rMbxDetail = x.detail % 2 ^ 32
      ∧ (s.showResult tag x).get64 rMbxValue0 = x.value0 % 2 ^ 64 ∧ (s.showResult tag x).get64 rMbxValue1 = x.value1 % 2 ^ 64
      ∧ (s.showResult tag x).get rMbxStatus = s.get rMbxStatus := by
  have w1 : sparseWf 0 (s.setN rMbxResult (x.code % 0x10000 + tag % 0x10000 * 0x10000)).pf0 = true := sparseSet_wf w
  have w2 : sparseWf 0 ((s.setN rMbxResult (x.code % 0x10000 + tag % 0x10000 * 0x10000)).setN rMbxDetail x.detail).pf0 = true := sparseSet_wf w1
  unfold State.showResult
  simp only [State.msg_get64, State.msg_getN, State.msg_get]
  refine ⟨?_, ?_, ?_, ?_, ?_⟩
  · rw [State.getN, State.get_set64_other _ _ (by decide) (by decide), State.get_set64_other _ _ (by decide) (by decide), State.get_setN_other _ _ (by decide)]
    exact State.getN_setN_same w _ _
  · rw [State.getN, State.get_set64_other _ _ (by decide) (by decide), State.get_set64_other _ _ (by decide) (by decide)]
    exact State.getN_setN_same w1 _ _
  · rw [State.get64_set64_other _ _ (by decide)]
    exact State.get64_set64_same w2 _ _
  · exact State.get64_set64_same (sparseSet_wf (sparseSet_wf w2)) _ _
  · rw [State.get_set64_other _ _ (by decide) (by decide), State.get_set64_other _ _ (by decide) (by decide),
      State.get_setN_other _ _ (by decide), State.get_setN_other _ _ (by decide)]

/-- MBX_STATUS.STATE shows the state of the command it names. -/
theorem State.showState_state {s : State} (w : sparseWf 0 s.pf0 = true) (r : MbxReq) (n : Nat) : (s.showState r n).getF rMbxStatus 1 0 = n % 2 ^ 2 := by
  unfold State.showState
  rw [State.getF_setF_apart (sparseSet_wf w) _ _ (by decide) (by decide) (by decide) (by decide),
    State.getF_setF_same w _ _ (by decide) (by decide)]

theorem State.finishCmd_pf0 (s : State) {r : MbxReq} {x : MbxResult} (chan : r.chan = .pf0) (done : x.code = 0) :
    s.finishCmd r x = (s.showState r 3).showResult r.tag x := by
  rw [State.finishCmd, chan, done, if_pos rfl]

@[simp] theorem State.showResult_log (s : State) (tag : Nat) (x : MbxResult) : (s.showResult tag x).log = s.log := State.msg_log _ _ _

@[simp] theorem State.showResult_mem (s : State) (tag : Nat) (x : MbxResult) : (s.showResult tag x).mem = s.mem := State.msg_mem _ _ _

/-- Settles O13: each command is taken and its work is done at once, and the result's registers lie apart. -/
theorem shortCommandsComplete : Obligations.ShortCommandsComplete := by
  unfold Obligations.ShortCommandsComplete
  refine ⟨fun s r => ⟨fun takes => ?nop, fun takes => ?identify, fun takes => ?resume, fun takes free => ?reset⟩, fun s r x w chan done => ?shown⟩
  case nop => exact congrArg _ (State.command_takes takes rfl)
  case identify => exact congrArg _ (State.command_takes takes rfl)
  case resume => exact congrArg _ (State.command_takes takes rfl)
  case reset => exact congrArg _ ((State.command_takes takes rfl).trans (by simp [free]))
  case shown =>
    have w0 := (State.wf_iff.1 w).1
    obtain ⟨result, detail, value0, value1, status⟩ := State.showResult_shows (s := s.showState r 3) (sparseSet_wf (sparseSet_wf w0)) r.tag x
    rw [State.finishCmd_pf0 s chan done]
    refine ⟨?_, detail, value0, value1, ?_, State.showResult_log _ _ _, State.showResult_mem _ _ _⟩
    · rw [result, done]
      omega
    · rw [State.getF, status]
      exact State.showState_state w0 r 3

/-! ### Requests that are refused (R590) -/

/-- A mailbox command is a command of its opcodes, with work of its own. -/
theorem exec_of_mailboxOf {c : Instr} {r : MbxReq} {p : Nat → Bool} (h : mailboxOf c = some (r, p)) :
    ∃ body, ∀ s : State, exec c s = .next (s.command p r body) := by
  unfold mailboxOf at h
  split at h <;> cases h <;> exact ⟨_, fun _ => rfl⟩

/-- A request that reaches the Lodge while it is free and that breaks Table 20-2 is answered with the code, and nothing else happens. -/
theorem State.command_of_argFault {s : State} {r : MbxReq} {p : Nat → Bool} {code : Nat} (named : p (s.snapshot r).opcode = true)
    (heard : s.hears r.chan = true) (alone : r.chan = .pf0 → s.pf0Running = false) (free : s.busyFor (s.snapshot r).opcode = false)
    (fault : argFault (s.snapshot r) = some code) (body : State → MbxReq → Work) :
    s.command p r body = s.finishCmd (s.snapshot r) (MbxResult.bad code 0) := by
  have waits : (r.chan == Channel.pf0 && s.pf0Running) = false := by
    by_cases chan : r.chan = .pf0
    · simp [alone chan]
    · simp [chan]
  simp [State.command, State.perform, named, heard, waits, free, fault]

theorem argFault_of_unknown {r : MbxReq} (h : commandRow r.opcode = none) : argFault r = some 0x1402 := by
  rw [argFault, h]
  rfl

/-- A request of a known opcode whose reserved field, unnamed flags or length breaks its row. -/
theorem argFault_of_broken {r : MbxReq} {mask : Nat} {len : Option Nat} {addr : Bool} (row : commandRow r.opcode = some (mask, len, addr))
    (chan : addr = true → r.chan = .pf0) (broken : r.reserved = true ∨ r.flags / (mask + 1) ≠ 0 ∨ ∃ n, len = some n ∧ r.bytes ≠ n) :
    argFault r = some 0x1403 := by
  have permitted : (addr && r.chan != Channel.pf0) = false := by
    cases addr with
    | false => rfl
    | true => simp [chan rfl]
  simp only [argFault, row, permitted, Bool.false_eq_true, if_false]
  refine if_pos ?_
  rcases broken with reserved | flags | ⟨n, named, length⟩
  · simp [reserved]
  · simp [flags]
  · simp [named, length]

/-- Settles O14: the Lodge refuses such a request before the command's own work. -/
theorem requestsThatBreakTheTableAreRefused : Obligations.RequestsThatBreakTheTableAreRefused := by
  unfold Obligations.RequestsThatBreakTheTableAreRefused
  refine ⟨fun s r heard alone free unknown => ?_, fun s c r p command named heard alone free mask len addr row chan broken => ?_⟩
  · exact congrArg _ (State.command_of_argFault (by simp [unknown]) heard alone free (argFault_of_unknown unknown) _)
  · obtain ⟨body, run⟩ := exec_of_mailboxOf command
    rw [run, State.command_of_argFault named heard alone free (argFault_of_broken row (by simpa using chan) broken)]
    rfl

/-! ### Quiesce (R532) -/

/-- Settles O16: HOST_QUIESCE runs on, and each of its events meets its condition. -/
theorem quiesceRunsAndEnds : Obligations.QuiesceRunsAndEnds := by
  unfold Obligations.QuiesceRunsAndEnds
  refine fun s r => ⟨fun takes low high => ?_, fun l long opcode settled => ?_, fun l long opcode left => ?_⟩
  · refine congrArg _ ((State.command_takes takes rfl).trans ?_)
    have inRange : ¬ ((s.snapshot r).arg0 = 0 ∨ 65535 < (s.snapshot r).arg0) := by omega
    simp only [if_neg inRange]
  · have quiescing : s.quiescing = true := by simp [State.quiescing, long, opcode]
    exact if_neg (by simp [quiescing, settled])
  · have quiescing : s.quiescing = true := by simp [State.quiescing, long, opcode]
    exact if_neg (by simp [quiescing, left])

/-! ### The boot image (R574 to R577) -/

theorem exec_longCommandComplete (s : State) (back : Option Bytes) : exec (.longCommandComplete back) s = execLongCommandComplete back s := rfl

/-- Settles O17: the source passes its checks, the work runs on, and the long command ends by its opcode. -/
theorem imageCommandsRun : Obligations.ImageCommandsRun := by
  unfold Obligations.ImageCommandsRun
  refine fun s r b => ⟨fun takes copied good => ⟨_, rfl, ?write⟩, fun takes slot good => ?activate, fun k takes good active trial => ?confirm,
    fun takes copied good => ?cal, fun l back long opcode => ?writeEnd, fun l back long opcode => ?calEnd,
    fun l x back long noImage noCal noDestroy result => ?otherEnd⟩
  case write => exact congrArg _ ((State.command_takes takes rfl).trans (by simp only [copied, good]))
  case activate =>
    refine congrArg _ ((State.command_takes takes rfl).trans ?_)
    simp only [if_neg (Nat.not_lt.2 slot), if_pos good]
  case confirm => exact congrArg _ ((State.command_takes takes rfl).trans (by simp [good, active, trial]))
  case cal => exact congrArg _ ((State.command_takes takes rfl).trans (by simp only [copied, good]))
  case writeEnd => simp [exec_longCommandComplete, execLongCommandComplete, long, opcode]
  case calEnd => simp [exec_longCommandComplete, execLongCommandComplete, long, opcode]
  case otherEnd => simp [exec_longCommandComplete, execLongCommandComplete, long, noImage, noCal, noDestroy, result]

end Sys2Proof.Machine
end

section
/-! SUPPORT. Tenants and Rotas come and go (spec/03, spec/18): creation, reset and destruction, the epochs of a tenant number, admission and
retirement. -/

namespace Sys2Proof.Machine

/-! ### The life of a tenant (R539, R543, R544, R547, R521) -/

/-- Settles O20: each request is taken and its outcome is the work's, and each event finds what it ends. -/
theorem tenantsLiveAndDie : Obligations.TenantsLiveAndDie := by
  unfold Obligations.TenantsLiveAndDie
  refine fun s r => ⟨fun t takes created => ?now, fun t takes waits => ?later, fun x t y creating retried done => ?complete,
    fun takes runs => exec_tenReset_of_exists takes runs, fun t x found resetting => exec_tenResetComplete_of_resetting found resetting,
    fun takes runs => ?destroy, fun l x back long opcode result => ?destroyed, fun t up enabled vf =>
      ⟨s.msix.resetOf (t + 1), { s.host with relaxed := setClear s.host.relaxed (t + 1) (t + 2) }, ?flr⟩, fun up => ?flr0⟩
  case now => exact congrArg _ ((State.command_takes takes rfl).trans (by simp only [created]))
  case later => exact congrArg _ ((State.command_takes takes rfl).trans (by simp only [waits]))
  case complete =>
    have run : exec .tenCreateComplete s = execTenCreateComplete s := rfl
    simp only [run, execTenCreateComplete, creating, retried, done]
  case destroy => exact congrArg _ ((State.command_takes takes rfl).trans (by simp [runs]))
  case destroyed => simp [exec_longCommandComplete, execLongCommandComplete, long, opcode, result]
  case flr =>
    have function : ¬ 129 ≤ t + 1 := by omega
    have run : exec (.functionLevelReset (t + 1)) s = execFunctionLevelReset (t + 1) s := rfl
    simp only [run, execFunctionLevelReset, up, enabled, function, decide_false, Bool.not_true, Bool.or_false, Bool.false_eq_true, if_false,
      Nat.add_one_ne_zero, Nat.add_sub_cancel]
  case flr0 =>
    have run : exec (.functionLevelReset 0) s = execFunctionLevelReset 0 s := rfl
    simp [run, execFunctionLevelReset, up]

/-! ### Epochs (R540) -/

/-- What is inserted into a list is found by a test that nothing else meets. -/
theorem find?_insertBy {α : Type} {key : α → Nat} {x : α} {p : α → Bool} (hx : p x = true) : ∀ {l : List α}, l.find? p = none →
    (insertBy key x l).find? p = some x
  | [], _ => by simp [insertBy, hx]
  | a :: l, h => by
    obtain ⟨ha, hl⟩ : p a = false ∧ l.find? p = none := by
      rw [List.find?_cons] at h
      split at h
      · cases h
      · next ha => exact ⟨by simpa using ha, h⟩
    rw [insertBy]
    split
    · simp [hx]
    · rw [List.find?_cons, ha]
      exact find?_insertBy hx hl

@[simp] theorem State.putGrant_tenants (s : State) (l : List (Nat × Nat)) : (s.putGrant l).tenants = s.tenants := rfl

@[simp] theorem State.putGrant_epochs (s : State) (l : List (Nat × Nat)) : (s.putGrant l).epochs = s.epochs := rfl

@[simp] theorem State.mapQps_tenants (s : State) (t quota : Nat) : (s.mapQps t quota).tenants = s.tenants := by
  unfold State.mapQps
  dsimp only
  split <;> rfl

/-- A new tenant's epoch follows the last of its number, and nothing else of the state shows in it. -/
theorem State.newTenant_congr {s u : State} (h : u.epochs = s.epochs) (t : Nat) (standing : Bool) : u.newTenant t standing = s.newTenant t standing := by
  unfold State.newTenant
  rw [h]

theorem State.holdGrant_tenants (s : State) (b : Bytes) (standing : Bool) :
    (s.holdGrant b standing).tenants = insertBy (fun x => x.id) (s.newTenant (gTenant b) standing) s.tenants := by
  unfold State.holdGrant
  simp only [State.vsetN_tenants, State.setN_tenants, State.putGrant_tenants]
  rw [State.newTenant_congr (s := s) ((State.setN_epochs _ _ _).trans (State.putGrant_epochs _ _))]

/-- The tenant whose grant is held is the new one of its number, where none of that number stood. -/
theorem State.tenant?_holdGrant {s : State} {b : Bytes} (fresh : s.tenant? (gTenant b) = none) (standing : Bool) :
    (s.holdGrant b standing).tenant? (gTenant b) = some (s.newTenant (gTenant b) standing) := by
  rw [State.tenant?, State.holdGrant_tenants]
  exact find?_insertBy (p := fun x : Tenant => x.id == gTenant b) (beq_self_eq_true (gTenant b)) fresh

/-- The end of a creation makes its tenant active and gives it its granules. -/
theorem State.tenant?_settleTenant {s : State} {t : Nat} {x : Tenant} (h : s.tenant? t = some x) (hbm ory : Runs) :
    (s.settleTenant t hbm ory).tenant? t = some { x with phase := .active, hbm := hbm, ory := ory } := by
  unfold State.settleTenant
  dsimp only
  rw [State.tenant?_congr (State.mapQps_tenants _ _ _)]
  exact State.tenant?_updTenant_same (s := State.clearGranuleTags { s with mem := _ } _) h fun _ => rfl

/-- A creation done at once has held the grant and settled the tenant. -/
theorem State.create_created {s t : State} {b : Bytes} {standing : Bool} (h : s.create b standing = .created t) :
    ∃ hbm ory, t = (s.holdGrant b standing).settleTenant (gTenant b) hbm ory := by
  unfold State.create at h
  split at h
  · cases h
  · split at h
    · cases h
    · split at h
      · next hbm ory _ => exact ⟨hbm, ory, (CreateOut.created.inj h).symm⟩
      · cases h

/-- Settles O21: a created tenant is the settled new one, and a completed reset leaves `Tenant.afterReset`. -/
theorem epochsRise : Obligations.EpochsRise := by
  unfold Obligations.EpochsRise
  refine ⟨fun s t b standing created fresh => ?_, fun s t x found resetting => ?_⟩
  · obtain ⟨hbm, ory, rfl⟩ := State.create_created created
    refine ⟨_, State.tenant?_settleTenant (State.tenant?_holdGrant fresh standing) hbm ory, rfl, ?_⟩
    cases last : s.epochs.find? (fun p => p.1 == gTenant b) <;> simp [State.newTenant, last]
  · obtain ⟨count, ended⟩ := State.tenant?_endReset found .active
    exact ⟨_, _, exec_tenResetComplete_of_resetting found resetting, ended, rfl, rfl, rfl, rfl⟩

/-! ### Admission and retirement (R93, R94, R108) -/

/-- The Strand image of a Rota is placed in memory. -/
theorem MemFrame.placeImage (s : State) (r : Rota) : MemFrame s (s.placeImage r) := by
  unfold State.placeImage
  dsimp only
  split
  · exact MemFrame.refl s
  · exact MemFrame.placeBytes _ _ _ _ _ s

/-- Settles O23: admission appends the new Rota and counts its handle, and placing its Strand image touches only memory. -/
theorem rotasAreAdmittedAndRetired : Obligations.RotasAreAdmittedAndRetired := by
  unfold Obligations.RotasAreAdmittedAndRetired
  refine fun s r => ⟨fun x b takes runs found source passes => ?granted, fun x b bind st found room => ?handle, fun q takes found going => ?retire⟩
  case granted =>
    refine congrArg _ ((State.command_takes takes rfl).trans ?_)
    simp only [runs, found, source, passes, if_true]
  case handle =>
    unfold State.admitRota
    dsimp only
    refine ⟨?_, ?_⟩
    · rw [(MemFrame.placeImage _ _).rotas, List.map_append]
      rfl
    · refine (congrArg _ (State.tenant?_congr (MemFrame.placeImage _ _).tenants x.id)).trans ?_
      exact congrArg _ (State.tenant?_updTenant_same (f := fun x => { x with handleCount := x.handleCount + 1 }) found fun _ => rfl)
  case retire =>
    refine congrArg _ ((State.command_takes takes rfl).trans ?_)
    simp only [found, going, Bool.false_eq_true, if_false]

end Sys2Proof.Machine
end

section
/-! SUPPORT. Supplies, the reset of the whole device and JTAG (spec/24; spec/20, R591). -/

namespace Sys2Proof.Machine

/-- The state a reset starts from, before THERMTRIP_N is released, and its register of the ROM's version. -/
theorem State.fresh_get (s : State) (p : Power) (off : Nat) :
    (s.fresh p).get off = if off = rImgRomVersion then s.get off else State.reset.get off := by
  have canon (w : Word) : BitVec.ofNat 32 w.toNat = w := BitVec.ofNat_toNat 32 w |>.trans (BitVec.setWidth_eq w)
  have read : ∀ r : State, r.pf0 = State.reset.pf0 →
      (r.setN rImgRomVersion (s.getN rImgRomVersion)).get off = if off = rImgRomVersion then s.get off else State.reset.get off := by
    intro r e
    split
    · next h =>
      subst h
      exact (State.get_set_same (by rw [e]; decide) _ _).trans (canon _)
    · next h =>
      rw [State.get_setN_other r _ h]
      exact congrArg (sparseGet 0 · off) e
  unfold State.fresh
  split
  · exact read _ rfl
  · exact read _ rfl

theorem State.fresh_out (s : State) (p : Power) :
    (s.fresh p).out = s.out ++ (if s.power.thermtrip then [Out.thermtrip false] else []) := by
  unfold State.fresh
  cases s.power.thermtrip
  · exact (List.append_nil _).symm
  · rfl

/-- Settles O7, by the branches of the supplies' commands; the registers by the frame of the one register that is written back. -/
theorem suppliesResetAndJtag : Obligations.SuppliesResetAndJtag := by
  unfold Obligations.SuppliesResetAndJtag
  refine ⟨fun s => ⟨fun aux => ?_, fun aux main tripped => ?_, fun main => ?_, fun main => ?_, fun aux => ?_, fun due => ?_⟩,
    fun s p => ?gone, fun s aux => ?jtag⟩
  · exact if_neg (by simp [aux])
  · exact if_neg (by simp [aux, main, tripped])
  · exact congrArg _ (if_pos main)
  · exact congrArg _ (if_pos main)
  · exact if_pos aux
  · exact if_pos due
  case gone =>
    have kept : ∀ {α : Type} (f : State → α) (a : α), (∀ r : State, f (r.emit (.thermtrip false)) = f r) →
        f (State.fresh { s with power := { s.power with thermtrip := false } } p) = a → f (s.fresh p) = a := by
      intro α f a emits h
      unfold State.fresh
      split
      · exact (emits _).trans h
      · exact h
    refine ⟨?_, ?_, ?_, ?_, ?_, ?_, ?_, ?_, ?_, ?_, ?_, ?_, ?_, s.fresh_get p, s.fresh_out p⟩ <;>
      exact kept _ _ (fun _ => rfl) rfl
  case jtag =>
    have loads (i : JtagInstr) : s.loadJtag i = { s with power := { s.power with jtag := i } } := if_pos aux
    have holds (i : JtagInstr) (held : s.power.held = false) :
        s.holdReset i = s.fresh { aux := true, main := s.power.main, jtag := i, held := true, thermtrip := false } := by
      simp [State.holdReset, aux, held]
    refine ⟨congrArg _ (loads _), congrArg _ (loads _), (if_pos aux).trans ?_, fun held => congrArg _ (holds _ held),
      fun held => congrArg _ (holds _ held)⟩
    rw [loads]
    rfl

end Sys2Proof.Machine
end

section
/-! SUPPORT. The numbering of boundaries (spec/02, R42, R43, R78). -/

namespace Sys2Proof.Machine

/-- The source PTP-scheduled is the one that gives the boundary. -/
def State.ptpGives (s : State) : Bool := if s.searching then s.beat.chosen == .ptp else s.beat.src == .ptp

theorem State.qualified_ptp {s : State} (h : s.qualified .ptp = true) : s.epochNs ≤ s.ptp.clock ∧ 0 < s.period := by
  simp only [State.qualified, Bool.and_eq_true, decide_eq_true_eq, bne_iff_ne] at h
  exact ⟨h.1.2, Nat.pos_of_ne_zero h.2⟩

/-- R42 at the instant a boundary is due: the beat of that instant is taken when its number is above the last. -/
theorem execBeatBoundary_due {s : State} {now ptp n : Nat} (q : (s.tickTo now ptp).qualified .ptp = true) (g : (s.tickTo now ptp).ptpGives = true)
    (due : (s.tickTo now ptp).ptp.clock = s.epochNs + n * s.period) :
    execBeatBoundary now ptp s = if s.beat.started && decide (n ≤ s.beat.number) then .next (s.tickTo now ptp)
      else .next ((s.tickTo now ptp).boundary .ptp n false) := by
  have pos : 0 < s.period := (State.qualified_ptp q).2
  have since : (s.tickTo now ptp).ptp.clock - (s.tickTo now ptp).epochNs = n * s.period := by
    rw [due]
    exact Nat.add_sub_cancel_left _ _
  have whole : n * s.period / s.period = n := Nat.mul_div_cancel n pos
  unfold State.ptpGives at g
  simp only [execBeatBoundary, since, show (s.tickTo now ptp).period = s.period from rfl, whole, Nat.mul_mod_left, q, g,
    State.tickTo_started, show (s.tickTo now ptp).beat.number = s.beat.number from rfl, Bool.not_true, Bool.false_or, ne_eq, not_true_eq_false,
    decide_false]

/-- R42 between two such instants: nothing but the times changes. -/
theorem execBeatBoundary_notDue {s : State} {now ptp : Nat} (q : (s.tickTo now ptp).qualified .ptp = true)
    (notDue : ∀ n, (s.tickTo now ptp).ptp.clock ≠ s.epochNs + n * s.period) : execBeatBoundary now ptp s = .next (s.tickTo now ptp) := by
  have reached : s.epochNs ≤ (s.tickTo now ptp).ptp.clock := (State.qualified_ptp q).1
  have part : ((s.tickTo now ptp).ptp.clock - s.epochNs) % s.period ≠ 0 := by
    intro whole
    refine notDue (((s.tickTo now ptp).ptp.clock - s.epochNs) / s.period) ?_
    rw [Nat.div_mul_cancel (Nat.dvd_of_mod_eq_zero whole)]
    omega
  unfold execBeatBoundary
  refine if_pos ?_
  simp only [Bool.or_eq_true, decide_eq_true_eq]
  exact .inl (.inr part)

/-- Settles O8, by whether the time is that of a boundary, and by the branches of a pulse and of the missing source. -/
theorem beatBoundariesAreNumbered : Obligations.BeatBoundariesAreNumbered := by
  unfold Obligations.BeatBoundariesAreNumbered
  refine ⟨fun s now ptp q ours => ?ptp, fun s src _ started found active => ?pulse, fun s now ptp t done quiet none' start late => ?missing⟩
  case ptp =>
    have gives : (s.tickTo now ptp).ptpGives = true := by
      unfold State.ptpGives
      split
      · next h => exact beq_iff_eq.mpr ((if_pos h).mp ours)
      · next h => exact beq_iff_eq.mpr ((if_neg h).mp ours)
    refine ⟨fun n due above => (execBeatBoundary_due q gives due).trans (if_neg ?_), fun taken => ?_⟩
    · simpa using above
    · by_cases due : ∃ n, (s.tickTo now ptp).ptp.clock = s.epochNs + n * s.period
      · obtain ⟨n, due⟩ := due
        exact (execBeatBoundary_due q gives due).trans (if_pos (by simpa using taken n due))
      · exact execBeatBoundary_notDue q (fun n h => due ⟨n, h⟩)
  case pulse =>
    have steady : s.searching = false := by simp [State.searching, started, found]
    refine ⟨fun n armed => ?_, fun unarmed => ?_⟩
    · simp [State.pulse, steady, active, armed]
    · simp [State.pulse, steady, active, unarmed]
  case missing =>
    have passed : ¬ now < t + s.lossThreshold := by
      have : s.lossThreshold = (3 * s.maxPeriod s.thresholdSrc + 2 - 1) / 2 := rfl
      omega
    simp [exec, execBeatNoSource, show (s.tickTo now ptp).beat.startDone = some t from done, show (s.tickTo now ptp).beat.noSource = false from quiet,
      show (s.tickTo now ptp).beat.src = .none from none', start, passed, errBeatNoSource, noTenant]

end Sys2Proof.Machine
end

section
/-! SUPPORT. MCTP and PLDM (spec/20, R592, R594, R595). -/

namespace Sys2Proof.Machine

/-- Free bytes advance the counter of free values and change nothing else. -/
theorem State.freeBytes_state : ∀ (n : Nat) (s : State), (s.freeBytes n).1 = { s with freeNo := s.freeNo + n }
  | 0, _ => rfl
  | n + 1, s => (freeBytes_state n _).trans (by
      show ({ s with freeNo := s.freeNo + 1 + n } : State) = _
      rw [Nat.add_assoc, Nat.add_comm 1 n])

theorem State.freeBytes_length : ∀ (n : Nat) (s : State), (s.freeBytes n).2.length = n
  | 0, _ => rfl
  | n + 1, _ => congrArg (· + 1) (freeBytes_length n _)

theorem State.setEid_taken {op eid : Nat} (s : State) (c : Channel) (inst : Nat) (h : op ≤ 1) (lo : 1 ≤ eid) (hi : eid ≤ 254) :
    s.setEid c inst op eid = (s.setN rMbxMctpEid eid).answerControl c inst 1 0 (leBytes 1 0 ++ leBytes 1 eid ++ leBytes 1 0) :=
  if_pos ⟨h, lo, hi⟩

theorem State.pldmBase_setTid {tid : Nat} (s : State) (c : Channel) (inst : Nat) (lo : 1 ≤ tid) (hi : tid < 255) :
    s.pldmBase c inst 1 tid = ({ s with pldm := { s.pldm with tid := tid } } : State).answerPldm c inst 0 1 0 [] :=
  by simp [State.pldmBase, show tid ≠ 0 ∧ ¬ 255 ≤ tid from by omega]

/-- A record of the repository: its data follow the handle of the next one. -/
theorem State.getPdr_present {k : Nat} (s : State) (c : Channel) (inst : Nat) (lo : 1 ≤ k) (hi : k ≤ s.pdrCount) :
    ∃ n d, s.getPdr c inst k
      = ({ s with freeNo := n } : State).answerPldm c inst 2 0x51 0 (leBytes 4 (if k = s.pdrCount then 0 else k + 1) ++ d) := by
  have first : Nat.max 1 k = k := Nat.max_eq_right lo
  unfold State.getPdr
  rw [first, if_neg (Nat.not_lt.mpr hi)]
  simp only [State.freeBytes_state, List.append_assoc]
  exact ⟨_, _, rfl⟩

/-- Settles O18, by the branch of each message. -/
theorem managementMessagesAreAnswered : Obligations.ManagementMessagesAreAnswered := by
  unfold Obligations.ManagementMessagesAreAnswered
  refine ⟨fun s chan inst hears => ⟨fun op eid ho lo hi => ?_, ?_, ?_, ?_, ?_⟩, fun s chan inst hears => ⟨fun tid lo hi => ?_, ?_, ?_,
    fun k hi lo => ?_, fun x v signed reading => ?_, ?_, fun enable eid => ?_⟩⟩
  · exact congrArg _ ((if_pos hears).trans (s.setEid_taken chan inst ho lo hi))
  · exact ⟨_, by simp only [exec, execMctpGetEndpointId, hears]; rfl⟩
  · exact congrArg _ (if_pos hears)
  · exact congrArg _ (if_pos hears)
  · exact ⟨_, congrArg _ (if_pos hears)⟩
  · exact congrArg _ ((if_pos hears).trans (s.pldmBase_setTid chan inst lo hi))
  · exact congrArg _ (if_pos hears)
  · refine ⟨_, _, State.freeBytes_length 26 s, State.freeBytes_length 9 (s.freeBytes 26).1, s.freeNo + 26 + 9, ?_⟩
    simp only [exec, execPldmGetPdrRepositoryInfo, hears, State.freeBytes_state, Bool.not_true, Bool.false_eq_true, if_false]
  · obtain ⟨n, d, h⟩ := s.getPdr_present chan inst lo hi
    exact ⟨n, d, congrArg _ ((if_pos hears).trans h)⟩
  · refine ⟨s.freeNo + 5, _, State.freeBytes_length 5 s, ?_⟩
    simp only [exec, execPldmGetSensorReading, hears, reading, State.freeBytes_state, Bool.not_true, Bool.false_eq_true, if_false]
  · refine ⟨s.freeNo + 3, (s.freeBytes 3).2.take 1, (s.freeBytes 3).2.drop 1, ?_⟩
    simp only [exec, execPldmGetStateSensorReadings, hears, State.freeBytes_state, Bool.not_true, Bool.false_eq_true, if_false]
  · exact if_neg (by simp [hears])

theorem State.updateOn_running {s : State} {u : PldmUpdate} {c : Channel} (hears : s.hearsMctp c = true) (runs : s.pldm.update = some u)
    (own : u.chan = c) : s.updateOn c = some u := by
  simp [State.updateOn, runs, hears, own]

/-- Settles O19, by the branch of each message. -/
theorem pldmUpdateRunsAndEnds : Obligations.PldmUpdateRunsAndEnds := by
  unfold Obligations.PldmUpdateRunsAndEnds
  refine fun s chan inst now hears => ⟨fun size free => ?_, fun u runs own => ?_⟩
  · simp [exec, execPldmRequestUpdate, hears, free]
  have on := State.updateOn_running hears runs own
  refine ⟨fun data => ?_, fun back ecc t k whole fresh written => ?_, fun k written active => ?_, ?_, fun late => ?_, fun early => ?_⟩
  · simp only [exec, execPldmFirmwareData, on]
  · simp [exec, execPldmTransferComplete, on, fresh, written, Nat.not_lt.mpr whole, MbxResult.ok]
  · rw [written] at active
    simp only [exec, execPldmActivateFirmware, hears, on, written, active, Bool.not_true, Bool.false_eq_true, if_false, if_true]
    exact ⟨_, rfl⟩
  · simp [exec, execPldmCancelUpdate, hears, on]
  · simp [exec, execPldmUpdateTimeout, runs, Nat.not_lt.mpr late]
  · simp [exec, execPldmUpdateTimeout, runs, early]

end Sys2Proof.Machine
end

section
/-! SUPPORT. What a read of a register latches, samples and clears (R7, R80, R201, R236), and writes of registers (R5, R6, R654, R661 to R663). -/

namespace Sys2Proof.Machine

/-! ### Latches -/

/-- What a register reads as depends on no latch and on nothing that left the device. -/
theorem State.word_latch (s : State) (l : List (Nat × Nat)) (o : List Out) (fn off : Nat) :
    ({ s with latch := l, out := o } : State).word fn off = s.word fn off := rfl

theorem State.word_latchWord (s : State) (fn o v fn' off : Nat) : (s.latchWord fn o v).word fn' off = s.word fn' off := rfl

theorem latchKey_inj {fn a b : Nat} : latchKey fn a = latchKey fn b ↔ a = b := Nat.add_left_cancel_iff

/-- Latching words touches only the latches. -/
theorem State.foldl_latchWord (fn : Nat) : ∀ (l : List Nat) (s : State), ∃ m,
    l.foldl (fun s o => s.latchWord fn o (s.word fn o)) s = { s with latch := m }
  | [], s => ⟨s.latch, rfl⟩
  | o :: l, s => State.foldl_latchWord fn l (s.latchWord fn o (s.word fn o))

/-- Dropping latches touches only the latches. -/
theorem State.foldl_unlatch (fn : Nat) : ∀ (l : List Nat) (s : State), ∃ m, l.foldl (fun s o => s.unlatch fn o) s = { s with latch := m }
  | [], s => ⟨s.latch, rfl⟩
  | o :: l, s => State.foldl_unlatch fn l (s.unlatch fn o)

/-- Latching other words keeps a latch. -/
theorem State.latch_foldl_other (fn : Nat) {a : Nat} : ∀ (l : List Nat) (s : State), a ∉ l →
    sparseGet 0 (l.foldl (fun s o => s.latchWord fn o (s.word fn o)) s).latch (latchKey fn a) = sparseGet 0 s.latch (latchKey fn a)
  | [], _, _ => rfl
  | o :: l, s, h => by
    obtain ⟨head, tail⟩ := not_or.mp (mt List.mem_cons.mpr h)
    exact (State.latch_foldl_other fn l _ tail).trans (sparseGet_set_other (mt latchKey_inj.mp head) _)

/-- Every word of the list is latched with what it reads. -/
theorem State.latch_foldl_mem (fn : Nat) {a : Nat} (l : List Nat) (s : State) (w : sparseWf 0 s.latch = true) (h : a ∈ l) :
    sparseGet 0 (l.foldl (fun s o => s.latchWord fn o (s.word fn o)) s).latch (latchKey fn a) = s.word fn a + 1 := by
  induction l generalizing s with
  | nil => exact absurd h List.not_mem_nil
  | cons o l ih =>
    have head : sparseGet 0 (s.latchWord fn o (s.word fn o)).latch (latchKey fn o) = s.word fn o + 1 := sparseGet_set_same w
    by_cases tail : a ∈ l
    · rw [List.foldl_cons, ih _ (sparseSet_wf w) tail, State.word_latchWord]
    · obtain rfl : a = o := (List.mem_cons.mp h).resolve_right tail
      rw [List.foldl_cons, State.latch_foldl_other fn l _ tail, head]

/-! ### Reads -/

/-- A read changes the latches, and LODGE_PWR_PEAK where it is read. -/
theorem State.read_state (s : State) (fn off : Nat) :
    ∃ l, (s.read fn off).1 = { (if fn = 0 ∧ off = rLodgePwrPeak then s.setN off 0 else s) with latch := l } := by
  obtain ⟨m, h⟩ := State.foldl_latchWord fn (latchedBy fn off) (s.unlatch fn off)
  refine ⟨m, ?_⟩
  unfold State.read
  dsimp only
  rw [h]
  split <;> rfl

/-- A read of a VF's register latches what it samples. -/
theorem State.read_samples {s : State} {t off a : Nat} (w : sparseWf 0 s.latch = true) (h : a ∈ latchedBy (t + 1) off) :
    sparseGet 0 (s.read (t + 1) off).1.latch (latchKey (t + 1) a) = s.word (t + 1) a + 1 := by
  unfold State.read
  dsimp only
  rw [if_neg (fun k => Nat.succ_ne_zero t k.1)]
  exact State.latch_foldl_mem (t + 1) _ (s.unlatch (t + 1) off) (sparseSet_wf w) h

/-- A sample that is not void returns its latch. -/
theorem State.read_value_of_sampled {s : State} {fn off v : Nat} (valid : s.sampleVoid fn off = false)
    (h : sparseGet 0 s.latch (latchKey fn off) = v + 1) : (s.read fn off).2 = BitVec.ofNat 32 v := by
  simp [State.read, h, valid]

/-- A void sample returns what the register reads. -/
theorem State.read_value_of_void {s : State} {fn off : Nat} (void : s.sampleVoid fn off = true) :
    (s.read fn off).2 = BitVec.ofNat 32 (s.word fn off) := by
  simp [State.read, void]

theorem State.answerRead_of_function {fn off : Nat} (s : State) (h : fn ≤ 128) :
    s.answerRead fn off = (s.read fn (off / 4 * 4)).1.emit (.readData (s.read fn (off / 4 * 4)).2) :=
  if_pos (decide_eq_true h)

/-! ### Writes -/

/-- A write of one whole word covers that word. -/
theorem wholeWords_of_aligned {off : Nat} {d : Bytes} (len : d.length = 4) (aligned : off % 4 = 0) : wholeWords off d = [(off, fieldAt d 0 4)] := by
  have first : roundUp off 4 = off := by
    unfold roundUp
    omega
  simp [wholeWords, first, len]

theorem execRegisterWrite_word {fn off : Nat} {d : Bytes} (s : State) (function : fn ≤ 128) (len : d.length = 4) (aligned : off % 4 = 0) :
    execRegisterWrite fn off d false s = .next (s.writeWord fn off (fieldAt d 0 4)) := by
  simp [execRegisterWrite, isFunction, function, wholeWords_of_aligned len aligned]

/-- A write to an offset of BAR0 that holds no writable register of PF0 is ignored (R661). -/
theorem State.writeWord_of_noRegister {off : Nat} (s : State) (v : Nat) (bar0 : off < bar2) (none' : descOf pf0Writable off = none) :
    s.writeWord 0 off v = s := by
  simp [State.writeWord, Nat.not_le.mpr bar0, State.writePf0, none']

/-- A write to a VF whose tenant does not exist is ignored (R663). -/
theorem State.writeWord_of_noTenant {fn off : Nat} {s : State} (v : Nat) (bar0 : off < bar2) (vf : fn ≠ 0) (gone : s.exists? (fn - 1) = false) :
    s.writeWord fn off v = s := by
  simp [State.writeWord, Nat.not_le.mpr bar0, vf, State.writeVf, gone]

/-! ### O25 -/

theorem pwrPeak_notShown : rLodgePwrPeak ∉ shownWords := by decide

theorem State.word_pwrPeak (s : State) : BitVec.ofNat 32 (s.word 0 rLodgePwrPeak) = s.get rLodgePwrPeak := by
  have own : s.pf0Word rLodgePwrPeak = s.getN rLodgePwrPeak := s.pf0Word_of_not_shown pwrPeak_notShown
  have canon : s.getN rLodgePwrPeak % 2 ^ 32 = s.getN rLodgePwrPeak := Nat.mod_eq_of_lt (s.get rLodgePwrPeak).isLt
  have whole : s.word 0 rLodgePwrPeak = s.pf0Word rLodgePwrPeak % 2 ^ 32 := rfl
  rw [whole, own, canon]
  exact (BitVec.ofNat_toNat 32 _).trans (BitVec.setWidth_eq _)

/-- Settles O25, by the frame of a read and the branches of a write. -/
theorem registerAccesses : Obligations.RegisterAccesses := by
  unfold Obligations.RegisterAccesses
  refine ⟨fun s fn off function fresh => ⟨fun plain => ?_, fun pf0 peak => ?_⟩, fun s fn off d function =>
    ⟨rfl, fun len aligned bar0 pf0 none' => ?_, fun len aligned bar0 vf gone => ?_⟩⟩
  · obtain ⟨l, h⟩ := s.read_state fn (off / 4 * 4)
    rw [if_neg plain] at h
    refine ⟨l, congrArg _ ((s.answerRead_of_function function).trans ?_)⟩
    rw [h, State.read_value_of_unlatched fresh]
    rfl
  · subst pf0 peak
    obtain ⟨l, h⟩ := s.read_state 0 rLodgePwrPeak
    rw [if_pos ⟨rfl, rfl⟩] at h
    refine ⟨l, congrArg _ ((s.answerRead_of_function function).trans ?_)⟩
    have aligned : rLodgePwrPeak / 4 * 4 = rLodgePwrPeak := by decide
    rw [aligned] at fresh ⊢
    rw [h, State.read_value_of_unlatched fresh, State.word_pwrPeak]
    rfl
  · subst pf0
    exact (execRegisterWrite_word s function len aligned).trans (congrArg _ (s.writeWord_of_noRegister _ bar0 none'))
  · exact (execRegisterWrite_word s function len aligned).trans (congrArg _ (State.writeWord_of_noTenant _ bar0 vf gone))

end Sys2Proof.Machine
end

section
/-! SUPPORT. The registers of a hoop and of a pair, sampled together (R201, R236). -/

namespace Sys2Proof.Machine

theorem State.word_vf {s : State} {t off : Nat} (bar0 : off < bar2) (own : s.commonWord t off = none) (here : s.exists? t = true) :
    s.word (t + 1) off = s.tenantWord t off % 2 ^ 32 := by
  simp [State.word, Nat.not_le.mpr bar0, State.vfWord, own, here]

/-- The word a read answers is 32 bits wide. -/
theorem ofNat32_mod (n : Nat) : BitVec.ofNat 32 (n % 2 ^ 32) = BitVec.ofNat 32 n := BitVec.eq_of_toNat_eq (by simp)

theorem State.tenantWord_hoopHead (s : State) (t : Nat) : s.tenantWord t vHoopHead = (s.viewedHoop t).elim 0 (fun p => p.2.head) := by
  refine Eq.trans (b := match s.viewedHoop t with | some p => p.2.head | none => 0) rfl ?_
  split <;> next h => rw [h]; rfl

theorem State.tenantWord_hoopTail (s : State) (t : Nat) : s.tenantWord t vHoopTail = (s.viewedHoop t).elim 0 (fun p => p.2.tail) := by
  refine Eq.trans (b := match s.viewedHoop t with | some p => p.2.tail | none => 0) rfl ?_
  split <;> next h => rw [h]; rfl

theorem State.tenantWord_hoopRsv (s : State) (t : Nat) : s.tenantWord t vHoopRsv = (s.viewedHoop t).elim 0 (fun p => p.2.rsv) := by
  refine Eq.trans (b := match s.viewedHoop t with | some p => p.2.rsv | none => 0) rfl ?_
  split <;> next h => rw [h]; rfl

theorem State.tenantWord_hoopState (s : State) (t : Nat) :
    s.tenantWord t vHoopState = (s.viewedHoop t).elim 0 (fun p => hoopState p.1 p.2) := by
  refine Eq.trans (b := match s.viewedHoop t with | some p => hoopState p.1 p.2 | none => 0) rfl ?_
  split <;> next h => rw [h]; rfl

theorem State.tenantWord_stakeFull (s : State) (t : Nat) : s.tenantWord t vStakeFull = (s.viewedPair t).elim 0 (fun p => (s.stake p).full) := by
  refine Eq.trans (b := match s.viewedPair t with | some p => (s.stake p).full | none => 0) rfl ?_
  split <;> next h => rw [h]; rfl

theorem State.tenantWord_stakeEmpty (s : State) (t : Nat) :
    s.tenantWord t vStakeEmpty = (s.viewedPair t).elim 0 (fun p => (s.stake p).empty) := by
  refine Eq.trans (b := match s.viewedPair t with | some p => (s.stake p).empty | none => 0) rfl ?_
  split <;> next h => rw [h]; rfl

theorem State.tenantWord_stakePhys (s : State) (t : Nat) : s.tenantWord t vStakePhys = (s.viewedPair t).elim 0 (fun p => p + 2 ^ 31) := by
  refine Eq.trans (b := match s.viewedPair t with | some p => p + 2 ^ 31 | none => 0) rfl ?_
  split <;> next h => rw [h]; rfl

/-- While the hoop's course does not run, its registers read 0. -/
theorem State.word_hoop_void {s : State} {t off : Nat} (here : s.exists? t = true) (h : s.viewedHoop t = none)
    (m : off ∈ vHoopHead :: hoopSamples) : s.word (t + 1) off = 0 := by
  simp only [hoopSamples, List.mem_cons, List.not_mem_nil, or_false] at m
  obtain rfl | rfl | rfl | rfl := m
  · rw [State.word_vf (by decide) rfl here, State.tenantWord_hoopHead, h]; rfl
  · rw [State.word_vf (by decide) rfl here, State.tenantWord_hoopTail, h]; rfl
  · rw [State.word_vf (by decide) rfl here, State.tenantWord_hoopRsv, h]; rfl
  · rw [State.word_vf (by decide) rfl here, State.tenantWord_hoopState, h]; rfl

/-- While the pair is not mapped, its registers read 0. -/
theorem State.word_pair_void {s : State} {t off : Nat} (here : s.exists? t = true) (h : s.viewedPair t = none)
    (m : off ∈ vStakeFull :: stakeSamples) : s.word (t + 1) off = 0 := by
  simp only [stakeSamples, List.mem_cons, List.not_mem_nil, or_false] at m
  obtain rfl | rfl | rfl := m
  · rw [State.word_vf (by decide) rfl here, State.tenantWord_stakeFull, h]; rfl
  · rw [State.word_vf (by decide) rfl here, State.tenantWord_stakeEmpty, h]; rfl
  · rw [State.word_vf (by decide) rfl here, State.tenantWord_stakePhys, h]; rfl

/-- The samples of a hoop are void exactly while its course does not run. -/
theorem State.sampleVoid_hoop (s : State) (t : Nat) {off : Nat} (m : off ∈ hoopSamples) :
    s.sampleVoid (t + 1) off = (s.viewedHoop t).isNone := by
  have apart : ∀ o ∈ hoopSamples, o ∉ stakeSamples := by decide
  simp [State.sampleVoid, apart off m, m]

/-- The samples of a pair are void exactly while it is not mapped. -/
theorem State.sampleVoid_pair (s : State) (t : Nat) {off : Nat} (m : off ∈ stakeSamples) :
    s.sampleVoid (t + 1) off = (s.viewedPair t).isNone := by
  have apart : ∀ o ∈ stakeSamples, o ∉ hoopSamples := by decide
  simp [State.sampleVoid, apart off m, m]

theorem latchedBy_hoopHead (t : Nat) : latchedBy (t + 1) vHoopHead = hoopSamples := by
  have single : isPairLow (t + 1) vHoopHead = false := (if_neg (Nat.succ_ne_zero t)).trans (by decide)
  simp [latchedBy, single]

theorem latchedBy_stakeFull (t : Nat) : latchedBy (t + 1) vStakeFull = stakeSamples := by
  have single : isPairLow (t + 1) vStakeFull = false := (if_neg (Nat.succ_ne_zero t)).trans (by decide)
  have other : vStakeFull ≠ vHoopHead := by decide
  simp [latchedBy, single, other]

/-- A read of a VF's register changes nothing but the latches. -/
theorem State.read_vf_state (s : State) (t off : Nat) : ∃ l, (s.read (t + 1) off).1 = { s with latch := l } := by
  obtain ⟨l, h⟩ := s.read_state (t + 1) off
  exact ⟨l, h.trans (by rw [if_neg (fun k => Nat.succ_ne_zero t k.1)])⟩

theorem State.answerRead_vf {t off : Nat} (s : State) (lt : t < 128) (aligned : off / 4 * 4 = off) :
    s.answerRead (t + 1) off = (s.read (t + 1) off).1.emit (.readData (s.read (t + 1) off).2) := by
  rw [s.answerRead_of_function lt, aligned]

/-- What the registers show of a hoop or a pair depends on no latch and on nothing that left the device. -/
theorem State.viewed_latch (s : State) (l : List (Nat × Nat)) (o : Out) (t : Nat) :
    (({ s with latch := l } : State).emit o).viewedHoop t = s.viewedHoop t ∧ (({ s with latch := l } : State).emit o).viewedPair t = s.viewedPair t :=
  ⟨rfl, rfl⟩

theorem State.word_latch_emit (s : State) (l : List (Nat × Nat)) (o : Out) (fn off : Nat) :
    (({ s with latch := l } : State).emit o).word fn off = s.word fn off := rfl

theorem exec_hoopHeadRead_vf {t : Nat} (s : State) (lt : t < 128) : exec (.hoopHeadRead t) s
    = .next ((s.read (t + 1) vHoopHead).1.emit (.readData (s.read (t + 1) vHoopHead).2)) :=
  congrArg Host.Outcome.next (s.answerRead_vf lt (by decide))

theorem exec_stakeFullRead_vf {t : Nat} (s : State) (lt : t < 128) : exec (.stakeFullRead t) s
    = .next ((s.read (t + 1) vStakeFull).1.emit (.readData (s.read (t + 1) vStakeFull).2)) :=
  congrArg Host.Outcome.next (s.answerRead_vf lt (by decide))

/-- Settles O26: the first read latches what the others read, and a latch counts while the sample is not void. -/
theorem samplesAreTakenTogether : Obligations.SamplesAreTakenTogether := by
  unfold Obligations.SamplesAreTakenTogether
  refine fun s t w lt here => ⟨fun fresh => ⟨_, exec_hoopHeadRead_vf s lt, fun p view => ⟨?_, fun x same runs off m => ?_⟩,
    fun gone => ⟨?_, fun off m => ?_⟩⟩, fun fresh => ⟨_, exec_stakeFullRead_vf s lt, fun p view =>
    ⟨?_, fun x same mapped => ⟨?_, ?_⟩⟩, fun gone => ⟨?_, fun off m => ?_⟩⟩⟩
  all_goals obtain ⟨-, -, -, wl, -⟩ := State.wf_iff.mp w
  · rw [State.read_emit_out, State.read_value_of_unlatched fresh, State.word_vf (by decide) rfl here, State.tenantWord_hoopHead, view, ofNat32_mod, Option.elim_some]
  · refine State.read_value_of_sampled ?_ ?_
    · rw [State.sampleVoid_hoop x t m, Option.isNone_eq_false_iff]
      exact runs
    · rw [same, State.emit_latch]
      exact State.read_samples wl (by rwa [latchedBy_hoopHead])
  · rw [State.read_emit_out, State.read_value_of_unlatched fresh, State.word_hoop_void here gone List.mem_cons_self]
    rfl
  · obtain ⟨l, h⟩ := s.read_vf_state t vHoopHead
    rw [h, State.read_value_of_void]
    · rw [State.word_latch_emit, State.word_hoop_void here gone (List.mem_cons_of_mem _ m)]
      rfl
    · rw [State.sampleVoid_hoop _ t m, Option.isNone_iff_eq_none, (s.viewed_latch l _ t).1]
      exact gone
  · rw [State.read_emit_out, State.read_value_of_unlatched fresh, State.word_vf (by decide) rfl here, State.tenantWord_stakeFull, view, ofNat32_mod, Option.elim_some]
  · have m : vStakeEmpty ∈ stakeSamples := by decide
    rw [State.read_value_of_sampled (v := s.word (t + 1) vStakeEmpty) ?_ ?_, State.word_vf (by decide) rfl here, State.tenantWord_stakeEmpty, view, ofNat32_mod, Option.elim_some]
    · rw [State.sampleVoid_pair x t m, Option.isNone_eq_false_iff]
      exact mapped
    · rw [same, State.emit_latch]
      exact State.read_samples wl (by rwa [latchedBy_stakeFull])
  · have m : vStakePhys ∈ stakeSamples := by decide
    rw [State.read_value_of_sampled (v := s.word (t + 1) vStakePhys) ?_ ?_, State.word_vf (by decide) rfl here, State.tenantWord_stakePhys, view, ofNat32_mod, Option.elim_some]
    · rw [State.sampleVoid_pair x t m, Option.isNone_eq_false_iff]
      exact mapped
    · rw [same, State.emit_latch]
      exact State.read_samples wl (by rwa [latchedBy_stakeFull])
  · rw [State.read_emit_out, State.read_value_of_unlatched fresh, State.word_pair_void here gone List.mem_cons_self]
    rfl
  · obtain ⟨l, h⟩ := s.read_vf_state t vStakeFull
    rw [h, State.read_value_of_void]
    · rw [State.word_latch_emit, State.word_pair_void here gone (List.mem_cons_of_mem _ m)]
      rfl
    · rw [State.sampleVoid_pair _ t m, Option.isNone_iff_eq_none, (s.viewed_latch l _ t).2]
      exact gone

end Sys2Proof.Machine
end

section
/-! SUPPORT. A word write to a PF0 register (R5, R6, R654). -/

namespace Sys2Proof.Machine

theorem leBytes_length : ∀ n v : Nat, (leBytes n v).length = n
  | 0, _ => rfl
  | n + 1, v => congrArg (· + 1) (leBytes_length n (v / 256))

/-- A number written least significant byte first is read back, as far as its bytes hold it. -/
theorem leNat_leBytes : ∀ n v : Nat, leNat (leBytes n v) = v % 256 ^ n
  | 0, v => (Nat.mod_one v).symm
  | n + 1, v => by
    have low : (BitVec.ofNat 8 v).toNat = v % 256 := BitVec.toNat_ofNat v 8
    rw [leBytes, leNat, leNat_leBytes n, low, Nat.pow_succ', Nat.mod_mul]

theorem fieldAt_leBytes (n v : Nat) : fieldAt (leBytes n v) 0 n = v % 256 ^ n := by
  rw [fieldAt, List.drop_zero, List.take_of_length_le (Nat.le_of_eq (leBytes_length n v)), leNat_leBytes]

/-- Beside the register at `off` and the latches, `t` is `s`. -/
structure RegFrame (s : State) (off : Nat) (t : State) : Prop where
  eq : t = { s with pf0 := t.pf0, latch := t.latch }
  other : ∀ o, o ≠ off → t.get o = s.get o

/-- What the writable register `d` takes of a word `v`. -/
def RegDesc.apply (d : RegDesc) (old : Word) (v : Nat) : Word :=
  if d.rw = 0 then clearedWord old d.w1c v else maskedWord (clearedWord old d.w1c v) d.rw v

/-- A write to a PF0 register after READY. -/
theorem State.writePf0_frame {s : State} {off v : Nat} {d : RegDesc} (w : s.wf = true) (ready : s.mbx.ready = true)
    (row : descOf pf0Writable off = some d) (plain : d.shadow = false) :
    (s.writePf0 off v).get off = d.apply (s.get off) v ∧ RegFrame s off (s.writePf0 off v) := by
  obtain ⟨wf0, -⟩ := State.wf_iff.mp w
  unfold State.writePf0 RegDesc.apply
  simp only [row, plain, Bool.false_eq_true, if_false]
  by_cases still : d.rw = 0
  · simp only [still, if_true, decide_true, Bool.true_or]
    exact ⟨State.get_set_same wf0 off _, rfl, fun o n => State.get_set_other s _ n⟩
  · have takes : (decide (d.rw = 0) || (!(s.set off (clearedWord (s.get off) d.w1c v)).mbx.ready && !isEarly off)) = false := by
      simp [still, ready]
    rw [if_neg still, takes, if_neg Bool.false_ne_true, State.get_set_same wf0]
    obtain ⟨l, h⟩ := State.foldl_unlatch 0 (selectedBy 0 off) (s.set off (clearedWord (s.get off) d.w1c v))
    rw [h]
    refine ⟨State.get_set_same (sparseSet_wf wf0) off _, rfl, fun o n => ?_⟩
    rw [State.get_set_other _ _ n]
    exact State.get_set_other s _ n

theorem State.writeWord_pf0 {off : Nat} (s : State) (v : Nat) (bar0 : off < bar2) (own : hasOwnRow 0 off = false) :
    s.writeWord 0 off v = s.writePf0 off v := by
  simp [State.writeWord, Nat.not_le.mpr bar0, own]

/-- Settles O27, from the frame of a PF0 register's write. -/
theorem registerWritesChangeOneRegister : Obligations.RegisterWritesChangeOneRegister := by
  unfold Obligations.RegisterWritesChangeOneRegister
  refine ⟨fun s off v d w ready bar0 aligned small own row plain => ?_, fun s v => rfl⟩
  have word : fieldAt (leBytes 4 v) 0 4 = v := (fieldAt_leBytes 4 v).trans (Nat.mod_eq_of_lt small)
  have run : execRegisterWrite 0 off (leBytes 4 v) false s = .next (s.writePf0 off v) := by
    rw [execRegisterWrite_word s (Nat.zero_le _) (leBytes_length 4 v) aligned, word, State.writeWord_pf0 s v bar0 own]
  obtain ⟨takes, frame, other⟩ := State.writePf0_frame (v := v) w ready row plain
  refine ⟨_, run, takes, other, ?_, ?_, ?_, ?_, ?_, ?_, ?_⟩ <;> rw [frame]

end Sys2Proof.Machine
end

section
/-! SUPPORT. Zeroing of granules and the scrub (spec/04, R116, R122). -/

namespace Sys2Proof.Machine

/-! ### Zeroing -/

/-- A granule added to a list of runs lies in one of them. -/
theorem runsAdd_covers (g : Nat) : ∀ l : Runs, ∃ r ∈ runsAdd l g, r.1 ≤ g ∧ g < r.1 + r.2
  | [] => ⟨(g, 1), List.mem_cons_self, Nat.le_refl _, Nat.lt_succ_self _⟩
  | (b, l) :: t => by
    unfold runsAdd
    split
    · exact ⟨(g, 1), List.mem_cons_self, Nat.le_refl _, Nat.lt_succ_self _⟩
    split
    · exact ⟨(g, l + 1), List.mem_cons_self, Nat.le_refl _, by dsimp only; omega⟩
    split
    · exact ⟨(b, l), List.mem_cons_self, by dsimp only; omega, by dsimp only; omega⟩
    split
    · split
      · split
        · exact ⟨_, List.mem_cons_self, by dsimp only; omega, by dsimp only; omega⟩
        · exact ⟨_, List.mem_cons_self, by dsimp only; omega, by dsimp only; omega⟩
      · exact ⟨_, List.mem_cons_self, by dsimp only; omega, by dsimp only; omega⟩
    · obtain ⟨r, m, h⟩ := runsAdd_covers g t
      exact ⟨r, List.mem_cons_of_mem _ m, h⟩

/-- The first granule of the queue, and the queue without it. -/
theorem zeroHead_cons (b l : Nat) (q : Runs) : zeroHead ((b, l) :: q) = some (b, if l ≤ 1 then q else (b + 1, l - 1) :: q) := by
  show (if l ≤ 1 then some (b, q) else some (b, (b + 1, l - 1) :: q)) = _
  split <;> rfl

theorem State.byteAt_zeroGranule (s : State) (g a : Nat) :
    (s.zeroGranule g).byteAt .hbm a = if g * 0x400000 ≤ a ∧ a < (g + 1) * 0x400000 then 0 else s.byteAt .hbm a :=
  sparseGet_clear _ _ a s.mem.hbm

theorem State.errOf_zeroGranule (s : State) (g w : Nat) :
    (s.zeroGranule g).errOf .hbm w = if g * 0x80000 ≤ w ∧ w < (g + 1) * 0x80000 then 0 else s.errOf .hbm w :=
  sparseGet_clear _ _ w s.mem.hbmErr

/-- Settles O56, by what a cleared range of the sparse memory reads. -/
theorem granulesAreZeroed : Obligations.GranulesAreZeroed := by
  unfold Obligations.GranulesAreZeroed
  intro s b l q untripped first
  have run : execGranuleZeroed s = .next { s.zeroGranule b with mem := { (s.zeroGranule b).mem with
      zeroQ := if l ≤ 1 then q else (b + 1, l - 1) :: q, zeroAcc := 0, hbmFree := runsAdd s.mem.hbmFree b } } := by
    rw [execGranuleZeroed, untripped, first, if_neg Bool.false_ne_true, zeroHead_cons]
    rfl
  refine ⟨_, run, fun a lo hi => ?_, fun a out => ?_, fun a => rfl, fun w lo hi => ?_, runsAdd_covers b _, rfl, rfl, rfl, rfl⟩
  · exact (s.byteAt_zeroGranule b a).trans (if_pos ⟨lo, hi⟩)
  · exact (s.byteAt_zeroGranule b a).trans (if_neg (by omega))
  · exact (s.errOf_zeroGranule b w).trans (if_pos ⟨lo, hi⟩)

/-! ### The scrub -/

/-- What decoding words leaves: the memories but for the bits in error, and all beside the registers that count them. -/
structure ScrubFrame (s t : State) : Prop where
  frame : MemFrame s t
  mem : t.mem = { s.mem with hbmErr := t.mem.hbmErr, oryErr := t.mem.oryErr }

namespace ScrubFrame

theorem refl (s : State) : ScrubFrame s s := ⟨MemFrame.refl s, rfl⟩

theorem trans {s t u : State} (h : ScrubFrame s t) (k : ScrubFrame t u) : ScrubFrame s u :=
  ⟨h.frame.trans k.frame, k.mem.trans (by rw [h.mem])⟩

theorem setErr (s : State) (sp : Space) (w n : Nat) : ScrubFrame s (s.setErr sp w n) := ⟨MemFrame.setErr s sp w n, by cases sp <;> rfl⟩
theorem countCe (s : State) (sp : Space) : ScrubFrame s (s.countCe sp) := ⟨MemFrame.countCe s sp, by cases sp <;> rfl⟩
theorem countUe (s : State) (sp : Space) (w : Nat) : ScrubFrame s (s.countUe sp w) := ⟨MemFrame.countUe s sp w, by cases sp <;> rfl⟩
theorem free (s : State) (w : Nat) : ScrubFrame s (s.free w).2 := ⟨MemFrame.free s w, rfl⟩

theorem eccRead (s : State) (sp : Space) (w : Nat) : ScrubFrame s (s.eccRead sp w).1 := by
  unfold State.eccRead
  split
  · exact refl s
  · exact (setErr s sp w 0).trans (countCe _ sp)
  · exact countUe s sp w
  · dsimp only
    split
    · exact (free s 2).trans (countUe _ sp w)
    · split
      · exact (free s 2).trans (countCe _ sp)
      · exact free s 2

theorem scrubWords (s : State) (sp : Space) (p : Nat → Bool) : ScrubFrame s (s.scrubWords sp p) := by
  unfold State.scrubWords
  refine List.foldlRecOn (motive := ScrubFrame s) _ _ (refl s) fun t h e _ => ?_
  have step : ∀ c : Bool, ScrubFrame s (if c then (t.eccRead sp e.1).1 else t) := fun c => by
    cases c
    · exact h
    · exact h.trans (eccRead t sp e.1)
  exact step _

theorem byteAt {s t : State} (h : ScrubFrame s t) (sp : Space) (a : Nat) : t.byteAt sp a = s.byteAt sp a := by
  unfold State.byteAt
  rw [h.mem]

theorem scrubOry {s t : State} (h : ScrubFrame s t) : t.mem.scrubOry = s.mem.scrubOry := by rw [h.mem]
theorem scrubHbm {s t : State} (h : ScrubFrame s t) : t.mem.scrubHbm = s.mem.scrubHbm := by rw [h.mem]

end ScrubFrame

/-- Without a word in error the scrub leaves the state as it was. -/
theorem State.scrubWords_of_clean {s : State} {sp : Space} (h : s.errs sp = []) (p : Nat → Bool) : s.scrubWords sp p = s := by
  rw [State.scrubWords, h]
  rfl

/-- The scrub's place in the memories holds no byte. -/
theorem State.byteAt_scrubPlace (s : State) (o h : Nat) (sp : Space) (a : Nat) :
    ({ s with mem := { s.mem with scrubOry := o, scrubHbm := h } } : State).byteAt sp a = s.byteAt sp a := by
  cases sp <;> rfl

/-- The words a guard band scrubs. -/
def State.scrubbed (s : State) : State :=
  let o := s.scrubWords .ory (fun w => inWindow (s.mem.scrubOry * 128) 0x20000 0x2000000 (unitOffset s.chip.part.banks (w * 8)))
  o.scrubWords .hbm (fun w => inWindow (o.mem.scrubHbm * 128) 0x200000 0x600000000 (unitOffset s.chip.part.stacks (w * 8)))

theorem State.scrubbed_frame (s : State) : ScrubFrame s s.scrubbed := by
  unfold State.scrubbed
  exact (ScrubFrame.scrubWords s _ _).trans (ScrubFrame.scrubWords _ _ _)

theorem execGuardBand_running {s : State} (h : s.schedRun = true) :
    execGuardBand s = .next { s.scrubbed with mem := { s.scrubbed.mem with
      scrubOry := (s.scrubbed.mem.scrubOry + 1024) % 0x40000, scrubHbm := (s.scrubbed.mem.scrubHbm + 16384) % 0xC000000 } } :=
  if_neg (by simp [h])

/-- Settles O57, from the frame of the decoded words. -/
theorem guardBandsScrub : Obligations.GuardBandsScrub := by
  unfold Obligations.GuardBandsScrub
  refine fun s => ⟨fun still => if_pos (by simp [still]), fun runs => ⟨_, execGuardBand_running runs, ?_, ?_, fun c a => ?_, ?_, ?_, ?_,
    fun hbm ory => ?_⟩⟩
  · rw [← s.scrubbed_frame.scrubOry]
  · rw [← s.scrubbed_frame.scrubHbm]
  · exact (State.byteAt_scrubPlace _ _ _ c a).trans (s.scrubbed_frame.byteAt c a)
  · exact s.scrubbed_frame.frame.tenants
  · exact s.scrubbed_frame.frame.rotas
  · exact s.scrubbed_frame.frame.tasks
  · have same : s.scrubbed = s := by
      rw [State.scrubbed, State.scrubWords_of_clean (sp := .ory) ory, State.scrubWords_of_clean (sp := .hbm) hbm]
    rw [same]

end Sys2Proof.Machine
end

section
/-! SUPPORT. Packets of peers (spec/16, R473, R480 to R482): a packet that is served at once, and what the packet's answer leaves of the memories. -/

namespace Sys2Proof.Machine

/-! ### A packet is served at once -/

theorem State.noteCe_unmarked (s : State) {p : Pkt} (h : p.ce = false) : s.noteCe p = s := by
  unfold State.noteCe
  cases s.qp? p.tenant p.q
  · rfl
  · exact if_neg (by simp [h])

/-- The packet meets a queue pair in RTR or RTS, is the one expected, is not marked, and nothing of its tenant waits at the port. -/
structure ServedAtOnce (s : State) (p : Pkt) (k : Qp) : Prop where
  qp : s.qp? p.tenant p.q = some k
  st : k.st = 2 ∨ k.st = 3
  unmarked : p.ce = false
  expected : psnOrder k.recvPsn p.psn = .expected
  empty : (s.port k.port).rx.any (fun y => y.tenant == p.tenant) = false

section
variable {s : State} {p : Pkt} {k : Qp} (h : ServedAtOnce s p k)
include h

theorem ServedAtOnce.runs : ¬ (k.st ≠ 2 ∧ k.st ≠ 3) := by
  have := h.st
  omega

theorem ServedAtOnce.takePacket (f again : State → Option State) : s.takePacket p f again = f s := by
  simp only [State.takePacket, h.qp, if_neg h.runs, h.expected]

theorem ServedAtOnce.arrive {what : RxWhat} {n : Nat} {u : State}
    (taken : s.tryRx k.port { tenant := p.tenant, bytes := n, what := what } = some u) : s.arrive p what n = u := by
  simp only [State.arrive, h.qp, if_neg h.runs, s.noteCe_unmarked h.unmarked, h.empty, Bool.false_eq_true, if_false, taken]

theorem ServedAtOnce.regionWrite {rkey addr : Nat} {data : Bytes} {first : Bool} {u : State} (low : rkey < 0x80000000)
    (e : s.regionWrite p rkey addr data = some u) : exec (.rdmaWriteReceive p rkey addr data first) s = .next u :=
  congrArg Host.Outcome.next (h.arrive (by dsimp only [State.tryRx]; rw [h.takePacket, if_neg (Nat.not_le.mpr low), e]))

theorem ServedAtOnce.windowWrite {rkey addr : Nat} {data : Bytes} {first : Bool} {u : State} (high : 0x80000000 ≤ rkey)
    (e : s.windowWrite p rkey addr data first = some u) : exec (.rdmaWriteReceive p rkey addr data first) s = .next u :=
  congrArg Host.Outcome.next (h.arrive (by dsimp only [State.tryRx]; rw [h.takePacket, if_pos high, e]))

theorem ServedAtOnce.regionRead {rkey addr len : Nat} {u : State} (e : s.regionRead p rkey addr len false = some u) :
    exec (.rdmaReadReceive p rkey addr len) s = .next u :=
  congrArg Host.Outcome.next (h.arrive (by dsimp only [State.tryRx]; rw [h.takePacket, e]))

theorem ServedAtOnce.send {data : Bytes} {u : State} (e : s.sendTaken p data = some u) : exec (.sendReceive p data) s = .next u :=
  congrArg Host.Outcome.next (h.arrive (by dsimp only [State.tryRx]; rw [h.takePacket, e]))

end

/-- An rkey that names no region is refused. -/
theorem State.regionUse_unknown {s : State} {t rkey : Nat} (h : s.mr? t rkey = none) (addr len : Nat) (write : Bool) :
    s.regionUse t rkey addr len write = .refuse false := by
  rw [State.regionUse, h]

/-- Settles O37, by the branch that serves each packet. -/
theorem peersAreServed : Obligations.PeersAreServed := by
  unfold Obligations.PeersAreServed
  intro s p k qp st unmarked expected empty
  have h : ServedAtOnce s p k := ⟨qp, st, unmarked, expected, empty⟩
  refine ⟨fun rkey addr data first m low go => ?_, fun rkey addr len m u d go read => ?_, fun rkey addr data first r d w high win fits open' tokens => ?_,
    fun data m r d w mark win tokens => ?_, fun data mark => ?_, fun rkey addr data first noWin noMr => ?_, fun rkey addr len noMr => ?_, ?_⟩
  · exact h.regionWrite low (by rw [State.regionWrite, go])
  · exact h.regionRead (by simp only [State.regionRead, go, read, Bool.false_eq_true, if_false])
  · exact h.windowWrite high (by simp [State.windowWrite, win, Nat.not_lt.mpr fits, open', tokens])
  · exact h.send (by simp [State.sendTaken, mark, win, tokens])
  · exact h.send (by simp only [State.sendTaken, mark])
  · by_cases low : rkey < 0x80000000
    · refine h.regionWrite low ?_
      rw [State.regionWrite, State.regionUse_unknown noMr]
      rfl
    · refine h.windowWrite (Nat.not_lt.mp low) ?_
      rw [State.windowWrite, noWin]
      rfl
  · refine h.regionRead ?_
    rw [State.regionRead, State.regionUse_unknown noMr]
    rfl
  · simp only [exec, execAtomicReceive, h.qp, if_neg h.runs, s.noteCe_unmarked unmarked]
    rfl

/-! ### Bytes -/

theorem State.chargeSpare_mem (s : State) (t n : Nat) : (s.chargeSpare t n).mem = s.mem := rfl

theorem State.ackRecv_mem (s : State) (p : Pkt) (n b : Nat) : (s.ackRecv p n b).mem = s.mem := rfl

/-- A charge takes tokens, and leaves the tenant's allocation. -/
theorem State.extents_chargeSpare (s : State) (t n k : Nat) (b : Space) : (s.chargeSpare t n).extents k b = s.extents k b := by
  have read : (s.chargeSpare t n).tenant? k
      = (s.tenant? k).map (fun x => if x.id == t then { x with spare := x.spare.take .remote n } else x) :=
    s.tenant?_updTenant t (f := fun x => { x with spare := x.spare.take .remote n }) (fun _ => rfl) k
  unfold State.extents
  rw [read]
  cases s.tenant? k with
  | none => rfl
  | some x =>
    rw [Option.map_some]
    cases x.id == t <;> rfl

/-- Settles O38: the charge and the answer store nothing, and the write stores its data at the translated addresses. -/
theorem peerWritesKeepOtherBytes : Obligations.PeerWritesKeepOtherBytes := by
  unfold Obligations.PeerWritesKeepOtherBytes
  intro s p k rkey addr data first m b pas w qp st unmarked expected empty low go space trans clean
  have h : ServedAtOnce s p k := ⟨qp, st, unmarked, expected, empty⟩
  subst space
  obtain ⟨-, -, -, -, -, -, wm, -⟩ := State.wf_iff.mp w
  have trans' := (congrArg (translateAll · addr data.length) (s.extents_chargeSpare p.tenant data.length p.tenant _)).trans trans
  obtain ⟨n, done, -, outside, inside⟩ := State.writeMem_clean (s := s.chargeSpare p.tenant data.length) wm trans' clean
  refine ⟨_, h.regionWrite low (by rw [State.regionWrite, go]), fun c a out => ?_, fun nodup => ?_⟩
  · rw [done, State.byteAt_congr (State.ackRecv_mem _ _ _ _), outside c a out]
    exact State.byteAt_congr (State.chargeSpare_mem _ _ _) c a
  · refine Eq.trans (List.map_congr_left fun a _ => ?_) (inside nodup)
    rw [done, State.byteAt_congr (State.ackRecv_mem _ _ _ _)]

end Sys2Proof.Machine
end

section
/-! SUPPORT. Writes of whole 64-bit words (R119, R151): an aligned range is translated word by word, and a word that is written whole needs no
correction, so the write is done whatever errors the memory holds. With it the save of a Coil context (R357, R359). -/

namespace Sys2Proof.Machine

/-! ### Words of a translated range -/

/-- The physical addresses fall into whole words of 8 bytes, `k` bytes of the present word still to come. -/
def WholeWords : List Nat → Nat → Prop
  | [], _ => True
  | _ :: l, k + 1 => WholeWords l k
  | a :: l, 0 => (l.takeWhile (fun p => p / 8 == a / 8)).length = 7 ∧ WholeWords l 7

/-- A translated address lies in its granule at the same place. -/
theorem translate_eq_some {e : Runs} {a p : Nat} (h : translate e a = some p) :
    ∃ g, granuleOf e (a / 0x400000) = some g ∧ p = g * 0x400000 + a % 0x400000 := by
  unfold translate at h
  split at h
  · cases h
  · next g hg => exact ⟨g, hg, (Option.some.inj h).symm⟩

/-- The bytes of an aligned word lie together. -/
theorem translate_within_word {e : Runs} {a p : Nat} (aligned : a % 8 = 0) (h : translate e a = some p) {j : Nat} (hj : j < 8) :
    translate e (a + j) = some (p + j) := by
  obtain ⟨g, hg, rfl⟩ := translate_eq_some h
  have same : (a + j) / 0x400000 = a / 0x400000 := by omega
  have place : (a + j) % 0x400000 = a % 0x400000 + j := by omega
  simp [translate, same, place, hg, Nat.add_assoc]

/-- The next aligned word lies in another physical word. -/
theorem translate_next_word {e : Runs} {a p q : Nat} (aligned : a % 8 = 0) (h : translate e a = some p) (h' : translate e (a + 8) = some q) :
    q / 8 ≠ p / 8 := by
  obtain ⟨g, hg, rfl⟩ := translate_eq_some h
  obtain ⟨g', hg', rfl⟩ := translate_eq_some h'
  by_cases same : (a + 8) / 0x400000 = a / 0x400000
  · rw [same, hg, Option.some.injEq] at hg'
    omega
  · omega

theorem translateAll_succ {e : Runs} {a n : Nat} {l : List Nat} (h : translateAll e a (n + 1) = some l) :
    ∃ p r, l = p :: r ∧ translate e a = some p ∧ translateAll e (a + 1) n = some r := by
  rw [translateAll] at h
  split at h
  · next p r hp hr => exact ⟨p, r, (Option.some.inj h).symm, hp, hr⟩
  · cases h

/-- After `j` bytes of a word the range goes on with the rest of that word, and then leaves it. -/
theorem takeWhile_word {e : Runs} {a p : Nat} (aligned : a % 8 = 0) (at' : translate e a = some p) :
    ∀ (m n j : Nat) (l : List Nat), m + j = 8 → 8 ≤ n + j → translateAll e (a + j) n = some l →
      (l.takeWhile (fun q => q / 8 == p / 8)).length = m
  | 0, 0, j, l, _, _, h => by
    rw [translateAll, Option.some.injEq] at h
    subst h
    rfl
  | 0, n + 1, j, l, hj, _, h => by
    obtain rfl : j = 8 := by omega
    obtain ⟨q, r, rfl, hq, -⟩ := translateAll_succ h
    simp [translate_next_word aligned at' hq]
  | m + 1, n, j, l, hj, hn, h => by
    obtain ⟨n, rfl⟩ : ∃ k, n = k + 1 := ⟨n - 1, by omega⟩
    obtain ⟨q, r, rfl, hq, hr⟩ := translateAll_succ h
    rw [translate_within_word aligned at' (by omega), Option.some.injEq] at hq
    obtain ⟨g, -, whole⟩ := translate_eq_some at'
    have inside : (p + j) / 8 = p / 8 := by omega
    subst hq
    simp [inside, takeWhile_word aligned at' m n (j + 1) r (by omega) (by omega) hr]

/-- An aligned range of whole words. -/
theorem translateAll_wholeWords {e : Runs} : ∀ (n a k : Nat) (l : List Nat), (a + k) % 8 = 0 → (a + n) % 8 = 0 → k < 8 →
    translateAll e a n = some l → WholeWords l k
  | 0, a, k, l, _, _, _, h => by
    rw [translateAll, Option.some.injEq] at h
    subst h
    trivial
  | n + 1, a, k, l, start, stop, hk, h => by
    obtain ⟨p, r, rfl, hp, hr⟩ := translateAll_succ h
    match k with
    | k + 1 => exact translateAll_wholeWords n (a + 1) k r (by omega) (by omega) (by omega) hr
    | 0 => exact ⟨takeWhile_word start hp 7 n 1 r rfl (by omega) hr, translateAll_wholeWords n (a + 1) 7 r (by omega) (by omega) (by omega) hr⟩

/-! ### Writes of whole words -/

theorem takeWhile_word_zip (w : Nat) : ∀ (l : List Nat) (d : Bytes), l.length = d.length →
    ((l.zip d).takeWhile (fun p => p.1 / 8 == w)).length = (l.takeWhile (fun a => a / 8 == w)).length
  | [], _, _ => rfl
  | a :: l, b :: d, h => by
    have ih := takeWhile_word_zip w l d (Nat.succ.inj h)
    by_cases same : a / 8 = w
    · simp [same, ih]
    · simp [same]

/-- The first piece of a run of whole words: at the start of a word its errors are cleared, and the byte is put. -/
theorem State.writePieces_step {a k : Nat} {l : List Nat} {b : Byte} {d : Bytes} {s : State} (t : Nat) (len : l.length = d.length)
    (w : s.mem.wf = true) (whole : WholeWords (a :: l) k) :
    ∃ (u : State) (j : Nat), u.mem.wf = true ∧ (∀ c x, u.byteAt c x = s.byteAt c x) ∧ (∀ m, ({ u with mem := m } : State) = { s with mem := m })
      ∧ s.writePieces t .hbm ((a, b) :: l.zip d) k = (u.putByte .hbm a b).writePieces t .hbm (l.zip d) j ∧ WholeWords l j := by
  cases k with
  | succ k => exact ⟨s, k, w, fun _ _ => rfl, fun _ => rfl, rfl, whole⟩
  | zero =>
    obtain ⟨seven, rest⟩ := whole
    have count : ((l.zip d).takeWhile (fun p => p.1 / 8 == a / 8)).length = 7 := (takeWhile_word_zip _ l d len).trans seven
    exact ⟨s.setErr .hbm (a / 8) 0, 7, Mem.wf_setErr w _ _ _, fun c x => s.byteAt_setErr _ _ _ c x, fun _ => rfl,
      by simp [State.writePieces, count, State.eccWrite], rest⟩

/-- Pieces of whole words of tenant HBM are all written: each byte named holds its new value, and no other byte changes. -/
theorem State.writePieces_wholeWords (t : Nat) (l : List Nat) (d : Bytes) (k : Nat) (s : State) (len : l.length = d.length)
    (w : s.mem.wf = true) (whole : WholeWords l k) : ∃ m, s.writePieces t .hbm (l.zip d) k = ({ s with mem := m }, true)
      ∧ (∀ c x, c ≠ .hbm ∨ x ∉ l → ({ s with mem := m } : State).byteAt c x = s.byteAt c x)
      ∧ (l.Nodup → l.map (({ s with mem := m } : State).byteAt .hbm) = d) := by
  induction l generalizing d k s with
  | nil =>
    obtain rfl : d = [] := List.eq_nil_of_length_eq_zero len.symm
    exact ⟨s.mem, by cases k <;> rfl, fun _ _ _ => rfl, fun _ => rfl⟩
  | cons a l ih =>
    obtain ⟨b, d, rfl⟩ : ∃ b d', d = b :: d' := List.exists_cons_of_length_eq_add_one len.symm
    have rest : l.length = d.length := Nat.succ.inj len
    obtain ⟨u, j, hu, keep, same, step, whole'⟩ := State.writePieces_step (b := b) t rest w whole
    obtain ⟨m, done, outside, inside⟩ := ih d j (u.putByte .hbm a b) rest (Mem.wf_putByte hu _ _ _) whole'
    have eq : ({ u.putByte .hbm a b with mem := m } : State) = { s with mem := m } := same m
    rw [eq] at done outside inside
    refine ⟨m, step.trans done, fun c x out => ?_, fun nodup => ?_⟩
    · rw [outside c x (out.imp id fun h => (not_or.mp (mt List.mem_cons.mpr h)).2),
        State.byteAt_putByte_other u b (out.imp id fun h => (not_or.mp (mt List.mem_cons.mpr h)).1), keep]
    · obtain ⟨fresh, tail⟩ := List.nodup_cons.mp nodup
      rw [List.map_cons, inside tail, outside .hbm a (.inr fresh), State.byteAt_putByte_same hu]

/-- A write of whole words of tenant HBM is done, and changes the bytes it names alone. -/
theorem State.writeMem_wholeWords {s : State} (w : s.mem.wf = true) {t a : Nat} {data : Bytes} {pas : List Nat}
    (ht : translateAll (s.extents t .hbm) a data.length = some pas) (start : a % 8 = 0) (whole : data.length % 8 = 0) :
    ∃ m, s.writeMem t .hbm a data = ({ s with mem := m }, none)
      ∧ (∀ c x, c ≠ .hbm ∨ x ∉ pas → ({ s with mem := m } : State).byteAt c x = s.byteAt c x)
      ∧ (pas.Nodup → pas.map (({ s with mem := m } : State).byteAt .hbm) = data) := by
  obtain ⟨m, done, outside, inside⟩ := State.writePieces_wholeWords t pas data 0 s (translateAll_length ht) w
    (translateAll_wholeWords data.length a 0 pas start (by omega) (by omega) ht)
  have counted : ∀ c x, ({ s with mem := { m with writes := m.writes + 1 } } : State).byteAt c x = ({ s with mem := m } : State).byteAt c x :=
    fun c x => by cases c <;> rfl
  refine ⟨{ m with writes := m.writes + 1 }, ?_, fun c x out => (counted c x).trans (outside c x out), fun nodup => ?_⟩
  · simp only [State.writeMem, ht, done]
  · exact (List.map_congr_left fun a _ => counted .hbm a).trans (inside nodup)

/-! ### Saves of Coil contexts -/

/-- Fields of one size lie one after another. -/
theorem flatten_leBytes_length (n : Nat) (f : Nat → Nat) (k : Nat) : ((List.range k).map (fun i => leBytes n (f i))).flatten.length = k * n := by
  simp [List.length_flatten, Function.comp_def, leBytes_length]

theorem runArea_length (w cap n : Nat) (l : List (Nat × Nat)) : (runArea w cap n l).length = n := by
  rw [runArea, List.length_take, List.length_append, List.length_replicate]
  exact Nat.min_eq_left (Nat.le_add_left _ _)

theorem coilRecordWith_length (c : Coil) (encode : Bool) (crc : Nat) : (coilRecordWith c encode crc).length = 16384 := by
  have live : (if c.width = 0 then List.replicate 12288 0 else runArea c.width (liveCap c.width) 12288 c.hist).length = 12288 := by
    split
    · exact List.length_replicate
    · exact runArea_length _ _ _ _
  have base : (if c.baseWidth = 0 then List.replicate 3072 0 else runArea c.baseWidth (baseCap c.baseWidth) 3072 c.base).length = 3072 := by
    split
    · exact List.length_replicate
    · exact runArea_length _ _ _ _
  simp only [coilRecordWith, List.length_append, leBytes_length, flatten_leBytes_length, live, base, List.length_replicate]

theorem coilRecord_length (c : Coil) (encode : Bool) : (coilRecord c encode).length = 16384 := coilRecordWith_length c encode _

/-- The request is taken off the list and PENDING falls: what a save starts from. -/
def State.coilTaken (s : State) (t : Nat) : State :=
  ({ s with coilReqs := s.coilReqs.filter (fun x => x.tenant != t) } : State).vsetF t vCoilTCtxStatus 0 0 0

theorem execCoilCtxPerform_save {s : State} {t : Nat} {q : CoilReq} {r : Rota} (req : s.coilReq? t = some q) (rota : s.rota? q.handle = some r)
    (idle : r.course = none) (save : q.restore = false) : execCoilCtxPerform t s
      = .next (((s.coilTaken t).writeMem t .hbm q.addr (coilRecord (r.streamCtx q.stream).coil (rsOut r.bin q.stream))).1.coilDone t 0) := by
  simp only [execCoilCtxPerform, req, rota, idle, save, Option.isSome_none, Bool.false_eq_true, if_false, State.coilTaken]

theorem State.byteAt_coilDone (s : State) (t code : Nat) (c : Space) (a : Nat) : (s.coilDone t code).byteAt c a = s.byteAt c a :=
  State.byteAt_congr (by rfl) c a

/-- DONE is set with the RESULT. -/
theorem State.coilDone_status {s : State} (w : sparseWf 0 s.vf = true) (t : Nat) :
    bit ((s.coilDone t 0).vgetN t vCoilTCtxStatus) 1 = true ∧ bits ((s.coilDone t 0).vgetN t vCoilTCtxStatus) 31 16 = 0 := by
  have w' : sparseWf 0 (s.vsetF t vCoilTCtxStatus 31 16 0).vf = true := sparseSet_wf w
  unfold State.coilDone
  refine ⟨?_, ?_⟩
  · have done := State.bits_vgetN_vsetF_same w' t vCoilTCtxStatus 1 (lo := 1) (hi := 1) (Nat.le_refl _) (by omega)
    simpa [bits, bit] using done
  · rw [State.bits_vgetN_vsetF_apart w' t vCoilTCtxStatus, State.bits_vgetN_vsetF_same w t vCoilTCtxStatus]
    all_goals simp

/-- Settles O29: the record is a run of whole words, so its write is done whatever errors the memory holds. -/
theorem coilSavesWriteTheirRecord : Obligations.CoilSavesWriteTheirRecord := by
  unfold Obligations.CoilSavesWriteTheirRecord
  intro s t q r pas w req rota idle save aligned trans
  obtain ⟨-, -, wv, -, -, -, wm, -⟩ := State.wf_iff.mp w
  have len := coilRecord_length (r.streamCtx q.stream).coil (rsOut r.bin q.stream)
  obtain ⟨m, done, outside, inside⟩ := State.writeMem_wholeWords (s := s.coilTaken t) wm (by rw [len]; exact trans) (by omega) (by rw [len])
  have wv' : sparseWf 0 ({ s.coilTaken t with mem := m } : State).vf = true := sparseSet_wf wv
  refine ⟨_, execCoilCtxPerform_save req rota idle save, fun p out => ?_, fun p => ?_, fun nodup => ?_, ?_⟩
  · rw [State.byteAt_coilDone, done, outside .hbm p (.inr out)]
    rfl
  · rw [State.byteAt_coilDone, done, outside .ory p (.inl (by decide))]
    rfl
  · rw [done]
    exact (List.map_congr_left fun a _ => State.byteAt_coilDone _ t 0 .hbm a).trans (inside nodup)
  · rw [done]
    exact State.coilDone_status wv' t

end Sys2Proof.Machine
end

section
/-! SUPPORT. Commits, region updates and Coil context requests (spec/03, R99, R100; spec/04, R135, R153; spec/11, R358, R363). -/

namespace Sys2Proof.Machine

/-- A commit that no check refuses and that no key of the beat hastens waits for its boundary. -/
theorem execCfgCommit_accepted {s : State} (ready : s.mbx.ready = true) (passes : s.commitRefusal s.shadow (changedKeys s.shadow s.pf0) = none)
    (noBeat : (changedKeys s.shadow s.pf0).any isBeatKey = false) : ∃ p, execCfgCommit true s = .next { s with
      pf0 := p, commit := some { snap := s.shadow, beat := s.beat.number + (if (changedKeys s.shadow s.pf0).any isDrain then 2 else 1),
                                 drain := (changedKeys s.shadow s.pf0).any isDrain } } := by
  simp only [execCfgCommit, ready, passes, noBeat, Bool.not_true, Bool.or_self, Bool.false_eq_true, if_false, Bool.false_and]
  split <;> exact ⟨_, rfl⟩

/-- A region update that breaks no rule is pending. -/
theorem execMemTUpdGo_pending {s : State} {t : Nat} {pinned : Ranges} {r : Rota} {i : Nat} {g : Region} (here : s.exists? t = true)
    (hbm : bit (s.vgetN t vMemTUpdTable) 16 = false)
    (named : s.namedRegion t (s.vgetN t vMemTUpdHandle) (bits (s.vgetN t vMemTUpdTable) 15 0) = some (r, i, g)) (stays : r.retiring = false)
    (fits : s.vget64 t vMemTUpdSrc + roBytes r.bin i ≤ runsLen (s.extents t .hbm) * 0x400000) : execMemTUpdGo t true pinned s = .next
      (((if g.pend.isSome then s.vcount t vMemTUpdReplacedCnt 1 else s).updRegion (s.vgetN t vMemTUpdHandle) g.table
          (fun g => { g with pend := some { host := false, addr := s.vget64 t vMemTUpdSrc } })).updResult t 0) := by
  simp only [execMemTUpdGo, here, hbm, named, stays, Nat.not_lt.mpr fits, Bool.not_true, Bool.or_self, Bool.false_eq_true, if_false, decide_false]

/-- A request on the context of a PERSISTENT Coil stream of a Rota of the tenant's own is accepted. -/
theorem State.coilRequest_accepted {s : State} {t : Nat} {r : Rota} (here : s.exists? t = true) (rota : s.rota? (s.vgetN t vCoilTCtxHandle) = some r)
    (own : handleTenant (s.vgetN t vCoilTCtxHandle) = t) (stays : r.retiring = false) (stream : bits (s.vgetN t vCoilTCtxStream) 15 0 < rhNStream r.bin)
    (coil : rsCoil r.bin (bits (s.vgetN t vCoilTCtxStream) 15 0) = true) (persistent : rsPersistent r.bin (bits (s.vgetN t vCoilTCtxStream) 15 0) = true)
    (aligned : s.vget64 t vCoilTCtxAddr % 64 = 0) (fits : s.vget64 t vCoilTCtxAddr + 16384 ≤ runsLen (s.extents t .hbm) * 0x400000) (restore : Bool) :
    s.coilRequest t restore = { s.vsetF t vCoilTCtxStatus 0 0 1 with coilReqs := s.coilReqs.filter (fun x => x.tenant != t)
      ++ [{ tenant := t, handle := s.vgetN t vCoilTCtxHandle, stream := bits (s.vgetN t vCoilTCtxStream) 15 0, addr := s.vget64 t vCoilTCtxAddr,
            restore := restore }] } := by
  simp [State.coilRequest, here, rota, own, stays, Nat.not_le.mpr stream, coil, persistent, aligned, Nat.not_lt.mpr fits]

/-- Settles O28, by the branch that takes each request. -/
theorem commitsRegionsAndContextsAreRequested : Obligations.CommitsRegionsAndContextsAreRequested := by
  unfold Obligations.CommitsRegionsAndContextsAreRequested
  refine ⟨fun s ready => ⟨fun code refused => ?_, fun passes noBeat => ?_⟩, fun s t h sel pinned r i g here eh es hbm named stays fits => ?_,
    fun s t h i r here eh ei rota own stays stream coil persistent aligned fits u eu => ?_⟩
  · simp only [exec, execCfgCommit, ready, refused, Bool.not_true, Bool.or_self, Bool.false_eq_true, if_false]
  · obtain ⟨p, run⟩ := execCfgCommit_accepted ready passes noBeat
    exact ⟨_, run, rfl, rfl, rfl, rfl, rfl, rfl⟩
  · subst eh es
    exact execMemTUpdGo_pending here hbm named stays fits
  · subst eh ei eu
    have accepted := State.coilRequest_accepted here rota own stays stream coil persistent aligned fits
    exact ⟨congrArg _ (accepted false), congrArg _ (accepted true)⟩

end Sys2Proof.Machine
end

section
/-! SUPPORT. The host queues and their tasks (spec/17, R504 to R511, R522). -/

namespace Sys2Proof.Machine

/-! ### Doorbells -/

/-- What a doorbell takes of a value below 4096 is the value. -/
theorem doorbellValue {v : Nat} (h : v < 4096) : bits v 11 0 = v := by
  unfold bits
  omega

theorem execHostTSqTailDb_of {s : State} {t q v : Nat} (here : s.exists? t = true) (hq : q < 8) (hv : v < 4096) :
    execHostTSqTailDb t q v s = if ((s.queue t q).enabled && !(s.queue t q).stopping && decide (v < 2 ^ (s.queue t q).sqLog)) = true
      then .next (s.updQueue t q (fun k => { k with sqTail := v })) else .next (s.logOpen 0x1007 t 0) := by
  unfold execHostTSqTailDb
  simp only [here, doorbellValue hv, show decide (8 ≤ q) = false from decide_eq_false (by omega), Bool.not_true, Bool.or_self, Bool.false_eq_true,
    if_false]
  rfl

theorem execHostTCqHeadDb_of {s : State} {t q v : Nat} (here : s.exists? t = true) (hq : q < 8) (hv : v < 4096) (n : Nat)
    (hn : n = 2 ^ (s.queue t q).cqLog) :
    execHostTCqHeadDb t q v s = if ((s.queue t q).enabled && !(s.queue t q).stopping && decide (v < n)
        && decide ((v + n - (s.queue t q).cqHead) % n ≤ ((s.queue t q).cqTail + n - (s.queue t q).cqHead) % n)) = true
      then .next (s.updQueue t q (fun k => { k with cqHead := v, reserved := k.reserved - (v + n - (s.queue t q).cqHead) % n }))
      else .next (s.logOpen 0x1007 t 0) := by
  subst hn
  unfold execHostTCqHeadDb
  simp only [here, doorbellValue hv, show decide (8 ≤ q) = false from decide_eq_false (by omega), Bool.not_true, Bool.or_self, Bool.false_eq_true,
    if_false]
  rfl

/-- The doorbells of a pair that is not enabled are ignored, and raise the event, whatever the value. -/
theorem execDoorbell_disabled {s : State} {t q : Nat} (v : Nat) (here : s.exists? t = true) (hq : q < 8) (off : (s.queue t q).enabled = false) :
    execHostTSqTailDb t q v s = .next (s.logOpen 0x1007 t 0) ∧ execHostTCqHeadDb t q v s = .next (s.logOpen 0x1007 t 0) := by
  have low : decide (8 ≤ q) = false := decide_eq_false (by omega)
  refine ⟨?_, ?_⟩
  · simp only [execHostTSqTailDb, here, low, off, Bool.not_true, Bool.or_self, Bool.false_and, Bool.false_eq_true, if_false]
    rfl
  · simp only [execHostTCqHeadDb, here, low, off, Bool.not_true, Bool.or_self, Bool.false_and, Bool.false_eq_true, if_false]
    rfl

/-! ### Enables and disables -/

theorem execQueueEnable_disabled {s : State} {t : Nat} {x : Tenant} (found : s.tenant? t = some x) (active : x.phase = .active)
    (off : (s.queue t (s.pairSel t)).enabled = false) : execQueueEnable t s
      = if x.orphaned = true then .next (s.updQueue t (s.pairSel t) (fun k => { k with result := 0x1009 }))
        else if (s.queue t (s.pairSel t)).configOk = false then .next (s.updQueue t (s.pairSel t) (fun k => { k with result := 0x100A }))
        else .next ((if (s.queue t (s.pairSel t)).stopping then s.dropOwed t (s.pairSel t) else s).updQueue t (s.pairSel t) HostQueue.started) := by
  simp [execQueueEnable, found, active, off, errHostTenantOrphaned, errHostQueueInvalid]

/-- Settles O30, by the branches of a doorbell, an enable and a disable. -/
theorem hostQueues : Obligations.HostQueues := by
  unfold Obligations.HostQueues
  refine ⟨⟨fun s t q v here hq off => execDoorbell_disabled v here hq off, fun s t q v here hq hv on goes => ⟨fun inside => ?_, fun outside => ?_,
    fun n step en inside est passes => ?_, fun n en beyond => ?_, fun outside => ?_⟩⟩, fun s t x found active => ⟨fun q eq off =>
    ⟨fun orphan => ?_, fun owned bad => ?_, fun owned good still => ?_⟩, fun q eq on => ?_⟩⟩
  · exact (execHostTSqTailDb_of here hq hv).trans (if_pos (by simp [on, goes, inside]))
  · exact (execHostTSqTailDb_of here hq hv).trans (if_neg (by simp [on, goes, Nat.not_lt.mpr outside]))
  · subst est
    exact (execHostTCqHeadDb_of here hq hv n en).trans (if_pos (by simp [on, goes, inside, passes]))
  · exact (execHostTCqHeadDb_of here hq hv n en).trans (if_neg (by simp [on, goes, Nat.not_le.mpr beyond]))
  · exact (execHostTCqHeadDb_of here hq hv _ rfl).trans (if_neg (by simp [on, goes, Nat.not_lt.mpr outside]))
  · subst eq
    exact (execQueueEnable_disabled found active off).trans (if_pos orphan)
  · subst eq
    exact (execQueueEnable_disabled found active off).trans ((if_neg (by simp [owned])).trans (if_pos bad))
  · subst eq
    refine (execQueueEnable_disabled found active off).trans ((if_neg (by simp [owned])).trans ((if_neg (by simp [good])).trans ?_))
    rw [still]
    rfl
  · subst eq
    exact if_neg (by simp [on])

/-! ### Tasks -/

theorem execTaskAccept_first {s : State} {t q : Nat} {x : Tenant} {f : Fetched} {rest : List Fetched} (found : s.tenant? t = some x)
    (first : x.fetched = f :: rest) (own : f.queue = q) (b : Bytes) (pinned : Ranges) :
    execTaskAccept t q (.data b) pinned s
      = .next ((if !f.seqOk then (s.updTenant t (fun x => { x with fetched := x.fetched.eraseIdx 0 })).refuseTask t (some q) f.desc 0x1005 0
          else (s.updTenant t (fun x => { x with fetched := x.fetched.eraseIdx 0 })).submit t (some q) f.desc (some b) (some pinned)).settleQueue t q) := by
  subst own
  simp only [execTaskAccept, found, first, List.find?_cons, beq_self_eq_true, List.takeWhile_cons, bne_self_eq_false, Bool.false_eq_true, if_false,
    List.length_nil]
  rfl

/-- Settles O31, by the branch of each event. -/
theorem tasksAreFetchedAcceptedAndStaged : Obligations.TasksAreFetchedAcceptedAndStaged := by
  unfold Obligations.TasksAreFetchedAcceptedAndStaged
  refine ⟨fun s t q b may some' whole fits => ?_, fun s t q x f rest b pinned found first own u eu => ⟨fun ok => ?_, fun bad => ?_⟩,
    fun s h seq r x rota task own idle open' alive inputs link free => ?_⟩
  · exact (if_neg (by simp [may, some'])).trans (if_pos ⟨whole, fits⟩)
  · subst eu
    refine (execTaskAccept_first found first own b pinned).trans ?_
    rw [ok]
    rfl
  · subst eu
    refine (execTaskAccept_first found first own b pinned).trans ?_
    rw [bad]
    rfl
  · simp [exec, execHostStagingStart, rota, task, own, idle, open', alive, inputs, link, free]

end Sys2Proof.Machine
end

section
/-! SUPPORT. The host link and what crosses it (spec/17, R499 to R502, R519, R523, R527 to R531). -/

namespace Sys2Proof.Machine

/-! ### The link -/

/-- Configuration answers: the link is up, the function is one of the device's, and it is enabled. -/
theorem configRequest_reaches {s : State} {f : Nat} (up : s.host.dlUp = true) (function : f < 129) (enabled : f ≠ 0 → s.host.vfEnable = true) :
    (!s.host.dlUp || decide (129 ≤ f) || (decide (f ≠ 0) && !s.host.vfEnable)) = false := by
  have low : decide (129 ≤ f) = false := decide_eq_false (by omega)
  by_cases h : f = 0
  · simp [up, h]
  · simp [up, low, enabled h]

/-- A pair as a reset of the interface leaves it. -/
theorem HostQueue.cleared_counts (k : HostQueue) :
    k.cleared.enabled = false ∧ k.cleared.sqHead = 0 ∧ k.cleared.sqTail = 0 ∧ k.cleared.cqHead = 0 ∧ k.cleared.cqTail = 0 := ⟨rfl, rfl, rfl, rfl, rfl⟩

theorem State.pcieReset_tenants (s : State) : ∀ x ∈ s.pcieReset.tenants, x.fetched = []
    ∧ ∀ k ∈ x.queues, k.enabled = false ∧ k.sqHead = 0 ∧ k.sqTail = 0 ∧ k.cqHead = 0 ∧ k.cqTail = 0 := by
  intro x m
  obtain ⟨y, -, rfl⟩ := List.mem_map.mp m
  refine ⟨rfl, fun k hk => ?_⟩
  obtain ⟨j, -, rfl⟩ := List.mem_map.mp hk
  exact j.cleared_counts

/-- Settles O32, by the branch of each event. -/
theorem theHostLink : Obligations.TheHostLink := by
  unfold Obligations.TheHostLink
  refine ⟨fun s f up function enabled => have reached := configRequest_reaches up function enabled; ⟨fun r retry => ?_, fun answers => ⟨fun b factory => ?_, fun pf => ?_, ?_, fun mask => ?_⟩⟩,
    fun s gen width flit => ⟨fun up => if_pos up, fun down main free => ?_, fun up new => ?_, s.pcieReset, rfl, rfl, rfl, rfl, rfl, s.pcieReset_tenants⟩⟩
  · simp only [exec, execConfigRequest, reached, retry, Bool.false_eq_true, if_false, Bool.not_false, if_true]
  · simp only [exec, execConfigRequest, reached, answers, factory, Bool.false_eq_true, if_false, Bool.not_true, if_true]
  · subst pf
    simp [exec, execConfigRequest, up, answers]
  · simp only [exec, execConfigRequest, reached, answers, Bool.false_eq_true, if_false, Bool.not_true, if_true]
  · simp only [exec, execConfigRequest, reached, answers, Bool.false_eq_true, if_false, Bool.not_true, if_true]
  · exact if_neg (by simp [down, main, free])
  · exact if_neg (by simp [up, new])

/-! ### Accesses -/

/-- The translations an invalidation keeps are those outside its range. -/
theorem mem_atc_invalidated {l : List Translation} {t base log2 : Nat} {x : Translation} :
    x ∈ l.filter (fun x => !(x.tenant == t && decide (x.base < base + 2 ^ log2) && decide (base < x.base + 2 ^ x.log2)))
      ↔ x ∈ l ∧ ¬ (x.tenant = t ∧ x.base < base + 2 ^ log2 ∧ base < x.base + 2 ^ x.log2) := by
  simp only [List.mem_filter, Bool.not_eq_true', Bool.and_eq_false_iff, beq_eq_false_iff_ne, decide_eq_false_iff_not, not_and_or, or_assoc, ne_eq]

/-- Settles O33, by the branch of each completion. -/
theorem hostAccessesComplete : Obligations.HostAccessesComplete := by
  unfold Obligations.HostAccessesComplete
  refine ⟨fun s t base log2 => ⟨_, rfl, rfl, rfl, fun x => mem_atc_invalidated, rfl, rfl, rfl⟩, fun s t base log2 p q rd wr held waits lo hi grants => ?_,
    fun s no q b found u eu => ⟨fun len => ?_, ?_⟩⟩
  · have inside : ¬ (p < base ∨ base + 2 ^ log2 ≤ p) := by omega
    simp only [exec, execTranslationCompletion, held, waits, if_neg inside, grants, if_true]
  · subst eu
    simp only [exec, execHostReadCompletion, found, len, if_true]
  · subst eu
    simp only [exec, execHostCplTimeout, found]
    rfl

end Sys2Proof.Machine
end

section
/-! SUPPORT. Queue pair commands and registered regions (spec/16, R470, R472). -/

namespace Sys2Proof.Machine

/-! ### Queue pair commands -/

section
variable {s : State} {t : Nat} (here : s.exists? t = true) {from_ : List Nat} {ctx busy : Bool} {f : State → Nat → State}
include here

/-- A refused command changes nothing but the result. -/
theorem State.qpCommand_refused {code : Nat} (refused : s.qpRefusal t (s.vgetN t vNetTQpSel % 4096) from_ ctx busy = code) (some' : code ≠ 0) :
    s.qpCommand t from_ ctx busy f = s.vsetF t vNetTQpStatus 31 16 code := by
  simp only [State.qpCommand, here, refused, some', Bool.not_true, Bool.false_eq_true, if_false]
  rfl

theorem State.qpCommand_taken (passes : s.qpRefusal t (s.vgetN t vNetTQpSel % 4096) from_ ctx busy = 0) :
    s.qpCommand t from_ ctx busy f = (f s (s.vgetN t vNetTQpSel % 4096)).vsetF t vNetTQpStatus 31 16 0 := by
  simp only [State.qpCommand, here, passes, Bool.not_true, Bool.false_eq_true, if_false, if_true]
  rfl

end

/-- Why a command on a queue pair within the quota is refused. -/
theorem State.qpRefusal_of_qp {s : State} {t q : Nat} {k : Qp} (found : s.qp? t q = some k) (from_ : List Nat) (ctx busy : Bool) :
    s.qpRefusal t q from_ ctx busy = if k.st ∉ from_ then 0x0F04 else if ctx = true ∧ s.ctxOk (s.ctxRegs t) = false then 0x0F06
      else if busy = true ∧ (s.taskNames t q || s.peerNames t q) = true then 0x0F05 else 0 := by
  simp only [State.qpRefusal, found, Bool.not_eq_true', List.contains_eq_mem, decide_eq_false_iff_not, Bool.and_eq_true, errNetQpState,
    errNetQpInvalid, errNetQpBusy]

/-- Settles O34, from the refusals of R470 and the frame of the five commands. -/
theorem queuePairsFollowTheirCommands : Obligations.QueuePairsFollowTheirCommands := by
  unfold Obligations.QueuePairsFollowTheirCommands
  intro s t q here eq
  subst eq
  refine ⟨fun outside => ?outside, fun k found => ?_⟩
  case outside =>
    have refused (from_ : List Nat) (ctx busy : Bool) : s.qpRefusal t (s.vgetN t vNetTQpSel % 4096) from_ ctx busy = 0x0F06 := by
      rw [State.qpRefusal, outside]
      rfl
    have invalid : (0x0F06 : Nat) ≠ 0 := by decide
    simp only [List.forall_mem_cons, List.not_mem_nil, false_implies, implies_true, and_true]
    exact ⟨congrArg _ (State.qpCommand_refused here (refused _ _ _) invalid), congrArg _ (State.qpCommand_refused here (refused _ _ _) invalid),
      congrArg _ (State.qpCommand_refused here (refused _ _ _) invalid), congrArg _ (State.qpCommand_refused here (refused _ _ _) invalid),
      congrArg _ (State.qpCommand_refused here (refused _ _ _) invalid)⟩
  have code := State.qpRefusal_of_qp found
  refine ⟨fun st => ?_, fun st => ?_, fun st => ?_, fun st st' => ?_, fun st bad => ?_, fun named => ⟨fun st good => ?_, fun st => ?_, fun st => ?_⟩,
    fun unnamed => ⟨fun st good => ?_, fun st => ?_, fun st => ?_⟩, fun st => ?_, fun st => ?_⟩
  · exact congrArg _ (State.qpCommand_refused here ((code _ _ _).trans (if_pos (by simpa using st))) (by decide))
  · exact congrArg _ (State.qpCommand_refused here ((code _ _ _).trans (if_pos (by simpa using st))) (by decide))
  · exact congrArg _ (State.qpCommand_refused here ((code _ _ _).trans (if_pos (by simpa using st))) (by decide))
  · exact congrArg _ (State.qpCommand_refused here ((code _ _ _).trans (if_pos (by simp [st, st']))) (by decide))
  · exact congrArg _ (State.qpCommand_refused here ((code _ _ _).trans (by simp [st, bad])) (by decide))
  · exact congrArg _ (State.qpCommand_refused here ((code _ _ _).trans (by rw [named]; simp [st, good])) (by decide))
  · exact congrArg _ (State.qpCommand_refused here ((code _ _ _).trans (by rw [named]; simp [st])) (by decide))
  · exact congrArg _ (State.qpCommand_refused here ((code _ _ _).trans (by rw [named]; simp [st])) (by decide))
  · exact congrArg _ (State.qpCommand_taken here ((code _ _ _).trans (by rw [unnamed]; simp [st, good])))
  · exact congrArg _ (State.qpCommand_taken here ((code _ _ _).trans (by rw [unnamed]; simp [st])))
  · exact congrArg _ (State.qpCommand_taken here ((code _ _ _).trans (by rw [unnamed]; simp [st])))
  · exact congrArg _ (State.qpCommand_taken here ((code _ _ _).trans (by simp [st])))
  · have any : k.st ∈ [0, 1, 2, 3, 4] := by
      simp only [List.mem_cons, List.not_mem_nil, or_false]
      omega
    exact congrArg _ (State.qpCommand_taken here ((code _ _ _).trans (by simp [any])))

/-! ### Registered regions -/

theorem mem_insertBy {α : Type} {key : α → Nat} {x y : α} : ∀ {l : List α}, y ∈ insertBy key x l ↔ y = x ∨ y ∈ l
  | [] => by simp [insertBy]
  | a :: l => by
    unfold insertBy
    split
    · exact List.mem_cons
    · rw [List.mem_cons, mem_insertBy, List.mem_cons]
      exact or_left_comm

/-- Neither access bit is set. -/
theorem mod_four_eq_zero_iff (v : Nat) : v % 4 = 0 ↔ bit v 0 = false ∧ bit v 1 = false := by
  simp only [bit, pow_zero, pow_one, Nat.div_one, beq_eq_false_iff_ne]
  omega

theorem State.extents_vset (s : State) (t off : Nat) (v : Word) (k : Nat) (b : Space) : (s.vset t off v).extents k b = s.extents k b := rfl

/-- A write of CTRL is what the selected region becomes, and its result. -/
theorem execNetTMrCtrl_of {s : State} {t : Nat} (v : Word) (here : s.exists? t = true) : execNetTMrCtrl t v s
    = .next (((s.vset t vNetTMrCtrl v).putRegion t (s.vgetN t vNetTMrSel % 64) (s.vget64 t vNetTMrBase) (s.vget64 t vNetTMrLen) v.toNat).1.vsetF t
        vNetTMrStatus 31 16 ((s.vset t vNetTMrCtrl v).putRegion t (s.vgetN t vNetTMrSel % 64) (s.vget64 t vNetTMrBase) (s.vget64 t vNetTMrLen) v.toNat).2) := by
  have kept (off : Nat) (other : off ≠ vNetTMrCtrl) : (s.vset t vNetTMrCtrl v).vgetN t off = s.vgetN t off :=
    congrArg BitVec.toNat (s.vget_vset_otherOff t v other)
  simp only [execNetTMrCtrl, here, Bool.not_true, Bool.false_eq_true, if_false, State.vget64, kept vNetTMrSel (by decide), kept vNetTMrBase (by decide),
    kept (vNetTMrBase + 4) (by decide), kept vNetTMrLen (by decide), kept (vNetTMrLen + 4) (by decide)]

/-- Registering a region touches the tenants alone. -/
theorem State.putRegion_frame (s : State) (t i base len v : Nat) : ∃ l, (s.putRegion t i base len v).1 = { s with tenants := l } := by
  by_cases none' : v % 4 = 0
  · exact ⟨_, congrArg Prod.fst (if_pos none')⟩
  by_cases bad : len = 0 ∨ runsLen (s.extents t (if bit v 2 then .ory else .hbm)) * 0x400000 < base + len
  · exact ⟨s.tenants, congrArg Prod.fst ((if_neg none').trans (if_pos bad))⟩
  · exact ⟨_, congrArg Prod.fst ((if_neg none').trans (if_neg bad))⟩

/-- Settles O35, by the branches of R472. -/
theorem regionsAreRegistered : Obligations.RegionsAreRegistered := by
  unfold Obligations.RegionsAreRegistered
  intro s t v x i base len size w found here ei eb el es
  subst ei eb el es
  obtain ⟨-, -, wv, -⟩ := State.wf_iff.mp w
  obtain ⟨l, frame⟩ := (s.vset t vNetTMrCtrl v).putRegion_frame t (s.vgetN t vNetTMrSel % 64) (s.vget64 t vNetTMrBase) (s.vget64 t vNetTMrLen) v.toNat
  have status (c : Nat) : bits ((({ s.vset t vNetTMrCtrl v with tenants := l } : State).vsetF t vNetTMrStatus 31 16 c).vgetN t vNetTMrStatus) 31 16
      = c % 2 ^ 16 :=
    State.bits_vgetN_vsetF_same (s := ({ s.vset t vNetTMrCtrl v with tenants := l } : State)) (sparseSet_wf wv) t _ c (by omega) (by omega)
  have found' : (s.vset t vNetTMrCtrl v).tenant? t = some x := found
  refine ⟨_, execNetTMrCtrl_of v here, by rw [frame]; rfl, by rw [frame]; rfl, by rw [frame]; rfl, fun r0 r1 => ?_, fun access bad => ?_,
    fun access some' fits n en => ?_⟩
  · have none' : v.toNat % 4 = 0 := (mod_four_eq_zero_iff _).mpr ⟨r0, r1⟩
    refine ⟨?_, ?_⟩
    · rw [State.putRegion, if_pos none']
      exact State.tenant?_updTenant_same (f := fun x => { x with mrs := x.mrs.filter (fun m => m.no != s.vgetN t vNetTMrSel % 64) }) found' fun _ => rfl
    · have code : ((s.vset t vNetTMrCtrl v).putRegion t (s.vgetN t vNetTMrSel % 64) (s.vget64 t vNetTMrBase) (s.vget64 t vNetTMrLen) v.toNat).2 = 0 := by
        rw [State.putRegion, if_pos none']
      rw [frame, code, status, Nat.zero_mod]
  all_goals
    have access' : ¬ v.toNat % 4 = 0 := by
      rw [mod_four_eq_zero_iff]
      rintro ⟨h0, h1⟩
      simp [h0, h1] at access
  · have refused : (s.vset t vNetTMrCtrl v).putRegion t (s.vgetN t vNetTMrSel % 64) (s.vget64 t vNetTMrBase) (s.vget64 t vNetTMrLen) v.toNat
        = (s.vset t vNetTMrCtrl v, 0x0F07) := (if_neg access').trans (if_pos bad)
    rw [refused] at frame ⊢
    refine ⟨rfl, ?_⟩
    rw [frame, status]
    rfl
  · have fits' := not_or.mpr ⟨some', Nat.not_lt.mpr fits⟩
    refine ⟨?_, ?_⟩
    · have code : ((s.vset t vNetTMrCtrl v).putRegion t (s.vgetN t vNetTMrSel % 64) (s.vget64 t vNetTMrBase) (s.vget64 t vNetTMrLen) v.toNat).2 = 0 := by
        rw [State.putRegion, State.extents_vset, if_neg access', if_neg fits']
      rw [frame, code, status, Nat.zero_mod]
    · refine ⟨{ x with mrs := insertBy (·.no) n (x.mrs.filter (fun m => m.no != s.vgetN t vNetTMrSel % 64)) }, ?_, fun m => ?_⟩
      · rw [State.putRegion, State.extents_vset, if_neg access', if_neg fits', en]
        exact State.tenant?_updTenant_same (f := fun x => { x with mrs := insertBy (·.no) _ (x.mrs.filter (fun m => m.no != s.vgetN t vNetTMrSel % 64)) })
          found' fun _ => rfl
      · rw [mem_insertBy, List.mem_filter, bne_iff_ne, or_comm]

end Sys2Proof.Machine
end

section
/-! SUPPORT. Ports, links, acknowledgements and congestion (spec/16, R463, R464, R469, R471, R476, R477, R496). -/

namespace Sys2Proof.Machine

/-- Settles O36, by the branches of what arrives at a port and of its links. -/
theorem portsAndLinks : Obligations.PortsAndLinks := by
  unfold Obligations.PortsAndLinks
  refine ⟨fun s p up => ⟨fun f ok => if_neg (by simp [ok]), fun f bad => if_pos (by simp [up, bad]), fun mac ip => ?_, fun mac ip => ?_,
    fun mac ip a other => ?_, fun mac ip a other => ?_, fun prio quanta own some' => ?_, fun prio quanta other => if_pos other⟩,
    fun s p present => ⟨fun up => if_neg (by simp [present, up]), fun factory running => ?_, fun media known => ?_⟩⟩
  · exact (if_neg (by simp [up])).trans (if_pos rfl)
  · exact (if_neg (by simp [up])).trans (if_pos rfl)
  · exact (if_neg (by simp [up])).trans (if_neg other)
  · exact (if_neg (by simp [up])).trans (if_neg other)
  · exact (if_neg (not_not.mpr own)).trans (congrArg _ (if_neg some'))
  · exact if_neg (by simp [present, running, Option.isNone_eq_false_iff.mpr factory])
  · exact (if_neg (by simp [present])).trans (by rw [if_pos known])

/-! ### A queue pair read after an update -/

/-- A change that keeps the queue pair's numbers is read back. -/
theorem State.qp?_updQp_same {s : State} {t q : Nat} {k : Qp} (found : s.qp? t q = some k) {f : Qp → Qp}
    (keeps : ∀ j, (f j).tenant = j.tenant ∧ (f j).q = j.q) : (s.updQp t q f).qp? t q = some (f k) := by
  have own : (k.tenant == t && k.q == q) = true := List.find?_some (p := fun x : Qp => x.tenant == t && x.q == q) found
  have same : ((fun x : Qp => x.tenant == t && x.q == q) ∘ fun x => if x.tenant == t && x.q == q then f x else x)
      = fun x => x.tenant == t && x.q == q := by
    funext x
    dsimp only [Function.comp_apply]
    split
    · rw [(keeps x).1, (keeps x).2]
    · rfl
  unfold State.qp? at found ⊢
  unfold State.updQp updWhere
  rw [List.find?_map, same, found, Option.map_some, if_pos own]

/-! ### Rates -/

theorem ratMax_eq_max (a b : Rat) : ratMax a b = max a b := (max_def a b).symm
theorem ratMin_eq_min (a b : Rat) : ratMin a b = min a b := (min_def a b).symm

/-- An increase of the first five stages keeps the target. -/
theorem Qp.increase_recovery {k : Qp} (h : k.stage < 5) (ai : Rat) : (k.increase ai).rc = (k.rc + k.rt) / 2 ∧ (k.increase ai).rt = k.rt := by
  have low : ¬ 5 < (k.stage + 1) % 2 ^ 32 := by omega
  simp only [Qp.increase, if_neg low, and_self]

/-- A later increase raises the target, up to 400 Gb/s. -/
theorem Qp.increase_additive {k : Qp} (h : 5 ≤ k.stage) (h' : k.stage < 2 ^ 32 - 1) (ai : Rat) :
    (k.increase ai).rc = (k.rc + min (k.rt + ai) 400000) / 2 ∧ (k.increase ai).rt = min (k.rt + ai) 400000 := by
  have high : 5 < (k.stage + 1) % 2 ^ 32 := by omega
  simp only [Qp.increase, if_pos high, ratMin_eq_min, and_self]

theorem Qp.increase_numbers (k : Qp) (ai : Rat) : (k.increase ai).tenant = k.tenant ∧ (k.increase ai).q = k.q := ⟨rfl, rfl⟩

/-- The rate timer runs out. -/
theorem execRateTimer_time {s : State} {t q : Nat} {k : Qp} (found : s.qp? t q = some k) : ∃ u, execRateTimer t q false s = .next u
    ∧ (u.qp? t q).map (fun k => (k.rc, k.rt)) = some ((k.increase (s.getN (rNetCcParam + 20) : Nat)).rc, (k.increase (s.getN (rNetCcParam + 20) : Nat)).rt) := by
  refine ⟨s.updQp t q (fun j => { j.increase (s.getN (rNetCcParam + 20) : Nat) with sent := j.sent }), ?_, ?_⟩
  · simp only [execRateTimer, found, Bool.false_and, Bool.false_eq_true, if_false]
    rfl
  · rw [State.qp?_updQp_same (f := fun j => { j.increase (s.getN (rNetCcParam + 20) : Nat) with sent := j.sent }) found fun j => ⟨rfl, rfl⟩]
    rfl

/-- Settles O39, by the branches of an answer and the formulas of R469. -/
theorem acknowledgementsAndCongestion : Obligations.AcknowledgementsAndCongestion := by
  unfold Obligations.AcknowledgementsAndCongestion
  refine ⟨fun s t q k found sends => ⟨fun psn behind some' => ?_, fun psn beyond => ?_, fun psn left => ?_, fun psn rnr spent => ?_,
    fun w first => ⟨fun left => ?_, fun spent => ?_⟩⟩, fun s t q k g found gain => ⟨?_, fun noted => ?_, fun quiet u run => ?_, fun low => ?_,
    fun high small => ?_⟩⟩
  · simp only [exec, execAckReceive, found, sends, behind, some', Bool.false_eq_true, if_false]
    exact ⟨_, if_neg (by decide)⟩
  · simp [exec, execAckReceive, found, beyond]
  · simp [exec, execNakReceive, found, sends, Nat.not_lt.mpr left]
  · have spent' : (!rnr || decide (fieldAt k.ctx 0x2A 1 < k.rnr + 1)) = true := by
      obtain h | h := spent
      · simp [h]
      · simp [Nat.lt_succ_iff.mpr h]
    simp only [exec, execNakReceive, found, sends, spent', ne_eq, not_true_eq_false, if_false, if_true]
  · simp [exec, execRetransmitTimeout, found, first, sends, Nat.not_lt.mpr left]
  · simp [exec, execRetransmitTimeout, found, first, sends, Nat.lt_succ_iff.mpr spent]
  · subst gain
    simp only [exec, execCnpReceive, found, ratMax_eq_max]
    rfl
  · subst gain
    rfl
  · subst gain
    obtain rfl := Host.Outcome.next.inj run
    have read := State.qp?_updQp_same (f := fun k => if k.cnp then { k with cnp := false } else { k with alpha := (1 - s.ccGain) * k.alpha }) found
      fun j => by split <;> exact ⟨rfl, rfl⟩
    rw [quiet] at read
    exact congrArg (Option.map Qp.alpha) read
  · obtain ⟨u, run, rates⟩ := execRateTimer_time found
    refine ⟨u, run, ?_⟩
    rw [rates, (Qp.increase_recovery low _).1, (Qp.increase_recovery low _).2]
  · obtain ⟨u, run, rates⟩ := execRateTimer_time found
    refine ⟨u, run, fun r er => ?_⟩
    subst er
    rw [rates, (Qp.increase_additive high small _).1, (Qp.increase_additive high small _).2]

end Sys2Proof.Machine
end

section
/-! SUPPORT. Sensor datagrams (spec/14, R414 to R417, R430). -/

namespace Sys2Proof.Machine

/-- A first fragment that is its whole frame meets the frame's judgement. -/
theorem State.takeFragment_whole {s : State} {c : Chan} {d : Bytes} (ptp : Nat) (first : c.sn.parts.find? (fun q => sameFrame q.hdr d) = none)
    (ok : sensorOk d = true) (fits : shBytes d ≤ sdMax c.d) (format : sdFormat c.d = 0 ∨ shFormat d = sdFormat c.d) (whole : shLen d = shBytes d) :
    s.takeFragment c d ptp = s.completeFrame c d (d.drop 64) ptp := by
  have known : (sdFormat c.d != 0 && shFormat d != sdFormat c.d) = false := by
    obtain h | h := format
    · simp [h]
    · simp [h]
  simp only [State.takeFragment, first, ok, Nat.not_lt.mpr fits, known, whole, Bool.not_true, decide_false, Bool.or_self, Bool.false_eq_true, if_false,
    if_true]

/-- Settles O40, by the branches that take a datagram, a frame, and the limit of staleness. -/
theorem sensorFramesAreJudged : Obligations.SensorFramesAreJudged := by
  unfold Obligations.SensorFramesAreJudged
  refine ⟨fun s p udp ptp d u eu => ⟨fun nobody => ?_, fun c for' empty tokens => ?_⟩, fun s c d ptp first ok fits format whole u eu =>
    ⟨fun bad => ?_, fun good b verdict => ?_⟩, fun s h i ptp c u eu chan old isOld => ?_⟩
  · subst eu
    exact if_pos (by simp [nobody])
  · subst eu
    have named : (s.notePtp ptp).chans.any (fun c => c.at p udp) = true := by
      have own := List.find?_some (p := fun c : Chan => c.at p udp && decide (sdBase c.d ≤ shSensor d ∧ shSensor d < sdBase c.d + sdN c.d)) for'
      exact List.any_eq_true.mpr ⟨c, List.mem_of_find?_eq_some for', (Bool.and_eq_true_iff.mp own).1⟩
    simp only [exec, execSensorDatagram, named, for', empty, tokens, Bool.not_true, Bool.or_self, Bool.false_eq_true, if_false]
  · subst eu
    exact (State.takeFragment_whole ptp first ok fits format whole).trans (if_pos bad)
  · subst eu
    refine (State.takeFragment_whole ptp first ok fits format whole).trans ((if_neg (not_not.mpr good)).trans ?_)
    rw [verdict]
  · subst eu
    have same : old = fun x => decide ((s.notePtp ptp).staleNs (handleTenant h) < (s.notePtp ptp).ptp.clock - captureOf x.hdr) := by
      funext x
      rw [Bool.eq_iff_iff, isOld, decide_eq_true_iff]
      omega
    subst same
    simp only [exec, execSensorFrameStale, chan]

end Sys2Proof.Machine
end

section
/-! SUPPORT. Courses, slots and waits (spec/02, R87, R110; spec/05, R176, R183, R193; spec/06, R226; spec/16, R488). -/

namespace Sys2Proof.Machine

/-! ### The start and the end of a course -/

/-- What a course that may start meets (R87, R488). -/
theorem State.startable_eq_some {s : State} {h c : Nat} {r : Rota} {x : Task} {b : Bool} (start : s.startable h c = some (r, x, b)) :
    s.rota? h = some r ∧ r.course = none ∧ s.beat.lost = false ∧ s.beat.started = true ∧ s.oldestFor h c = some x ∧ x.nextCourse = c
      ∧ x.busy = false ∧ x.assigned + rcBeatOff r.bin c ≤ s.beat.number + rhSpan r.bin
      ∧ ∃ y, s.tenant? (handleTenant h) = some y ∧ y.phase = .active := by
  unfold State.startable at start
  cases rota : s.rota? h with
  | none => simp [rota] at start
  | some q =>
    cases tenant : s.tenant? (handleTenant h) with
    | none => simp [rota, tenant] at start
    | some y =>
      cases oldest : s.oldestFor h c with
      | none => simp [rota, oldest] at start
      | some z =>
        simp only [rota, tenant, oldest, Option.ite_none_left_eq_some, Option.ite_none_right_eq_some, Bool.or_eq_true, not_or, Bool.not_eq_true,
          Bool.not_eq_false', bne_eq_false_iff_eq, Option.isSome_eq_false_iff, Option.isNone_iff_eq_none, Option.some.injEq, Prod.mk.injEq] at start
        obtain ⟨⟨⟨⟨⟨⟨lost, started⟩, active⟩, idle⟩, -⟩, -⟩, ⟨next', free, due, -⟩, rfl, rfl, -⟩ := start
        exact ⟨rfl, idle, lost, started, rfl, next', free, due, y, rfl, active⟩

/-- The oldest task for a course is of the Rota, neither published nor aborted. -/
theorem State.oldestFor_eq_some {s : State} {h c : Nat} {x : Task} (oldest : s.oldestFor h c = some x) :
    x.handle = h ∧ x.decided = false ∧ x.abort = none := by
  have meets := List.find?_some oldest
  simp only [Bool.and_eq_true, beq_iff_eq, Bool.not_eq_true', Option.isNone_iff_eq_none] at meets
  obtain ⟨⟨⟨own, open'⟩, alive⟩, -⟩ := meets
  exact ⟨own, open', alive⟩

/-- Settles O41, from what a course that may start meets, and the branches of its start and its end. -/
theorem coursesStartAndFinish : Obligations.CoursesStartAndFinish := by
  unfold Obligations.CoursesStartAndFinish
  refine ⟨fun s h c r x b start => ?_, fun s h c none' => by simp only [exec, execCourseStart, none'], fun s h r c runs =>
    ⟨fun going => by simp [exec, execCourseFinish, runs, going], fun ended u eu => ?_⟩⟩
  · obtain ⟨rota, idle, found, started, oldest, next', free, due, active⟩ := State.startable_eq_some start
    obtain ⟨own, open', alive⟩ := State.oldestFor_eq_some oldest
    refine ⟨rota, idle, found, started, own, open', alive, next', free, due, active, fun gated => ?_, fun staged u l load => ?_⟩
    · subst gated
      simp only [exec, execCourseStart, start]
      rfl
    · subst staged
      simp only [exec, execCourseStart, start, load]
  · subst eu
    simp only [exec, execCourseFinish, runs, ended, Bool.not_true, Bool.false_eq_true, if_false]

/-- Settles O42: the event is the abort it names. -/
theorem overrunsAbortTheirTask : Obligations.OverrunsAbortTheirTask := by
  unfold Obligations.OverrunsAbortTheirTask
  intro s h n r c runs eq
  subst eq
  simp only [exec, execRotaCourseOverrun, runs]
  rfl

/-! ### Slots -/

theorem State.rota?_of_running {s : State} {h : Nat} {r : Rota} {c : CourseRun} (runs : s.running h = some (r, c)) :
    s.rota? h = some r ∧ r.course = some c := by
  unfold State.running at runs
  split at runs
  · cases runs
  · next q rota =>
    split at runs
    · cases runs
    · next d course =>
      obtain ⟨rfl, rfl⟩ : q = r ∧ d = c := by simpa only [Option.some.injEq, Prod.mk.injEq] using runs
      exact ⟨rota, course⟩

/-- The slot of count TAIL commits when it is complete. -/
theorem State.commitSlot_ready {s : State} {h i : Nat} {r : Rota} {c : CourseRun} {k : Hoop} {x : Slot} (runs : s.running h = some (r, c))
    (hoop : c.hoop? i = some k) (ready : k.ready = some x) :
    s.commitSlot h i = (s.updHoop h i (fun k => { k with tail := k.tail + 1, ended := x.fin })).linkSignal h r i true 1 := by
  simp only [State.commitSlot, runs, hoop, ready]

theorem State.commitSlot_incomplete {s : State} {h i : Nat} {r : Rota} {c : CourseRun} {k : Hoop} (runs : s.running h = some (r, c))
    (hoop : c.hoop? i = some k) (incomplete : k.ready = none) : s.commitSlot h i = s := by
  simp only [State.commitSlot, runs, hoop, incomplete]

theorem State.linkSignal_unlinked {r : Rota} {i : Nat} (s : State) (h : Nat) (full : Bool) (n : Nat) (unlinked : rpLinked r.bin i = false) :
    s.linkSignal h r i full n = s := if_pos (by simp [unlinked])

/-! ### Waits -/

theorem insertBy_sorted {α : Type} {key : α → Nat} {x : α} : ∀ {l : List α}, l.Pairwise (fun a b => key a ≤ key b) →
    (insertBy key x l).Pairwise (fun a b => key a ≤ key b)
  | [], _ => List.pairwise_singleton _ _
  | a :: l, sorted => by
    obtain ⟨first, rest⟩ := List.pairwise_cons.mp sorted
    unfold insertBy
    split
    · next low => exact List.pairwise_cons.mpr ⟨fun b hb => (List.mem_cons.mp hb).elim (fun e => e ▸ Nat.le_of_lt low)
        (fun m => (Nat.le_of_lt low).trans (first b m)), sorted⟩
    · next high => exact List.pairwise_cons.mpr ⟨fun b hb => (mem_insertBy.mp hb).elim (fun e => e ▸ Nat.le_of_not_lt high) (first b),
        insertBy_sorted rest⟩

/-- Insertion of the elements of a list one by one sorts them. -/
theorem foldl_insertBy {α : Type} {key : α → Nat} : ∀ (l m : List α), m.Pairwise (fun a b => key a ≤ key b) →
    (l.foldl (fun m x => insertBy key x m) m).Pairwise (fun a b => key a ≤ key b)
      ∧ ∀ y, y ∈ l.foldl (fun m x => insertBy key x m) m ↔ y ∈ l ∨ y ∈ m
  | [], m, sorted => ⟨sorted, fun y => by simp⟩
  | x :: l, m, sorted => by
    obtain ⟨sorted', members⟩ := foldl_insertBy l (insertBy key x m) (insertBy_sorted sorted)
    refine ⟨sorted', fun y => ?_⟩
    rw [List.foldl_cons, members, mem_insertBy, List.mem_cons]
    tauto

/-- The first elements of a sorted list are the least: what is not among them is no less than any of them, and then they are as many as asked for. -/
theorem mem_take_or_of_sorted {α : Type} {key : α → Nat} {l : List α} (sorted : l.Pairwise (fun a b => key a ≤ key b)) (n : Nat) {y : α} (m : y ∈ l) :
    y ∈ l.take n ∨ ((l.take n).length = n ∧ ∀ x ∈ l.take n, key x ≤ key y) := by
  rw [← List.take_append_drop n l] at m sorted
  obtain first | rest := List.mem_append.mp m
  · exact .inl first
  · refine .inr ⟨?_, fun x hx => (List.pairwise_append.mp sorted).2.2 x hx y rest⟩
    have : 0 < (l.drop n).length := List.length_pos_of_mem rest
    rw [List.length_drop] at this
    exact List.length_take_of_le (by omega)

/-- The satisfied waits on a pair, in ascending requester index. -/
def State.satisfiedWaits (s : State) (p : Nat) : List StakeWait :=
  (s.waits.filter (fun w => w.pair == p && s.satisfied w)).foldl (fun l w => insertBy (·.requester) w l) []

theorem State.satisfiedWaits_sorted (s : State) (p : Nat) : (s.satisfiedWaits p).Pairwise (fun a b => a.requester ≤ b.requester) :=
  (foldl_insertBy _ [] List.Pairwise.nil).1

theorem State.mem_satisfiedWaits {s : State} {p : Nat} {w : StakeWait} :
    w ∈ s.satisfiedWaits p ↔ w ∈ s.waits ∧ w.pair = p ∧ reached ((s.stake p).count w.full) w.target = true := by
  rw [State.satisfiedWaits, (foldl_insertBy _ [] List.Pairwise.nil).2, List.mem_filter, Bool.and_eq_true, beq_iff_eq]
  simp only [List.not_mem_nil, or_false, State.satisfied]
  refine and_congr_right fun _ => and_congr_right fun own => ?_
  rw [own]

/-- Settles O45, from the slot of count TAIL, and the order of the satisfied waits. -/
theorem slotsAndWaits : Obligations.SlotsAndWaits := by
  unfold Obligations.SlotsAndWaits
  refine ⟨fun s h i r c k runs hoop => ?slots, fun s p => ⟨(s.satisfiedWaits p).take 8, rfl, List.length_take_le _ _,
    (s.satisfiedWaits_sorted p).sublist (List.take_sublist _ _), fun w m => State.mem_satisfiedWaits.mp (List.mem_of_mem_take m),
    fun w m own sat => mem_take_or_of_sorted (s.satisfiedWaits_sorted p) 8 (State.mem_satisfiedWaits.mpr ⟨m, own, sat⟩)⟩⟩
  case slots =>
    obtain ⟨rota, -⟩ := State.rota?_of_running runs
    have commit (none' : r.sensors = []) : exec (.slotCommit h i) s = .next (s.commitSlot h i) := by
      have still : s.flushSensor h i = s := by simp [State.flushSensor, rota, none']
      exact congrArg (fun u : State => Host.Outcome.next (u.commitSlot h i)) still
    have found : s.hoop? h i = some k := by simp only [State.hoop?, runs, hoop]
    refine ⟨fun none' idle => ?_, fun x none' unlinked ready => ?_, fun x none' linked ready => ?_, fun more => ?_, fun done => ?_⟩
    · rw [commit none', State.commitSlot_incomplete runs hoop idle]
    · rw [commit none', State.commitSlot_ready runs hoop ready]
      exact congrArg _ (State.linkSignal_unlinked _ h true 1 unlinked)
    · rw [commit none', State.commitSlot_ready runs hoop ready]
    · simp only [exec, execSlotAcquire, found, more, if_true]
    · simp only [exec, execSlotAcquire, found, Nat.not_lt.mpr done, if_false]

end Sys2Proof.Machine
end

section
/-! SUPPORT. Reading back what an update changes: a Rota, the course it runs, the course's streams and hoops. With it the issue of a run of a direct
input stream (spec/05, R179, R190). -/

namespace Sys2Proof.Machine

/-! ### Reading back -/

/-- A change that keeps what a search asks for is found again, changed. -/
theorem find?_updWhere {α : Type} (l : List α) {p q : α → Bool} {f : α → α} (keeps : ∀ x, q (f x) = q x) :
    (updWhere l p f).find? q = (l.find? q).map (fun x => if p x then f x else x) := by
  have same : (q ∘ fun x => if p x then f x else x) = q := by
    funext x
    dsimp only [Function.comp_apply]
    split
    · exact keeps x
    · rfl
  rw [updWhere, List.find?_map, same]

theorem State.handle_of_rota? {s : State} {h : Nat} {r : Rota} (found : s.rota? h = some r) : r.handle = h := by
  simpa using List.find?_some found

theorem State.rota?_updRota_same {s : State} {h : Nat} {r : Rota} (found : s.rota? h = some r) {f : Rota → Rota} (keeps : ∀ r, (f r).handle = r.handle) :
    (s.updRota h f).rota? h = some (f r) := by
  unfold State.rota? at found
  rw [State.rota?, State.updRota, find?_updWhere _ fun r => by rw [keeps], found, Option.map_some, if_pos (beq_iff_eq.mpr (State.handle_of_rota? found))]

theorem State.running_of {s : State} {h : Nat} {r : Rota} {c : CourseRun} (rota : s.rota? h = some r) (course : r.course = some c) :
    s.running h = some (r, c) := by
  rw [State.running, rota]
  simp only [course]

/-- A Rota that changes beside its course goes on running it. -/
theorem State.running_updRota {s : State} {h : Nat} {r : Rota} {c : CourseRun} (runs : s.running h = some (r, c)) {f : Rota → Rota}
    (keeps : ∀ r, (f r).handle = r.handle ∧ (f r).course = r.course) : (s.updRota h f).running h = some (f r, c) := by
  obtain ⟨rota, course⟩ := State.rota?_of_running runs
  exact State.running_of (State.rota?_updRota_same rota fun r => (keeps r).1) ((keeps r).2.trans course)

theorem State.running_updCourse {s : State} {h : Nat} {r : Rota} {c : CourseRun} (runs : s.running h = some (r, c)) (f : CourseRun → CourseRun) :
    (s.updCourse h f).running h = some ({ r with course := some (f c) }, f c) := by
  obtain ⟨rota, course⟩ := State.rota?_of_running runs
  have read := State.rota?_updRota_same (f := fun r => { r with course := r.course.map f }) rota fun _ => rfl
  rw [course, Option.map_some] at read
  exact State.running_of read rfl

theorem State.running_congr {s t : State} (rotas : t.rotas = s.rotas) (h : Nat) : t.running h = s.running h := by
  unfold State.running State.rota?
  rw [rotas]

theorem State.task?_congr {s t : State} (tasks : t.tasks = s.tasks) (n q : Nat) : t.task? n q = s.task? n q := by
  unfold State.task?
  rw [tasks]

/-- A stream of a running course and all it works with are found. -/
theorem State.streamEnv_of {s : State} {h i : Nat} {r : Rota} {c : CourseRun} {q : StreamRun} {k : Hoop} {x : Task} (runs : s.running h = some (r, c))
    (stream : c.stream? i = some q) (hoop : c.hoop? (rsHoop r.bin i) = some k) (task : s.task? (handleTenant h) c.seq = some x) :
    s.streamEnv h i = some { r := r, c := c, q := q, k := k, x := x } := by
  simp only [State.streamEnv, runs, stream, hoop, task]

theorem State.streamEnv_eq_some {s : State} {h i : Nat} {e : StreamEnv} (found : s.streamEnv h i = some e) :
    s.running h = some (e.r, e.c) ∧ e.c.stream? i = some e.q ∧ e.c.hoop? (rsHoop e.r.bin i) = some e.k
      ∧ s.task? (handleTenant h) e.c.seq = some e.x := by
  unfold State.streamEnv at found
  split at found
  · cases found
  · next r c runs =>
    split at found
    · next q k x stream hoop task =>
      obtain rfl := Option.some.inj found
      exact ⟨runs, stream, hoop, task⟩
    · cases found

/-- Stream `i` of the course Rota `h` runs is found in the state `q`. -/
def State.StreamAt (s : State) (h i : Nat) (q : StreamRun) : Prop := ∃ e, s.streamEnv h i = some e ∧ e.q = q

section
variable {s t : State} {h i : Nat} {q : StreamRun}

theorem State.StreamAt.congr (at' : s.StreamAt h i q) (rotas : t.rotas = s.rotas) (tasks : t.tasks = s.tasks) : t.StreamAt h i q := by
  obtain ⟨e, found, eq⟩ := at'
  refine ⟨e, ?_, eq⟩
  unfold State.streamEnv at found ⊢
  rw [State.running_congr rotas]
  simp only [State.task?_congr tasks]
  exact found

theorem State.StreamAt.updRota (at' : s.StreamAt h i q) {f : Rota → Rota}
    (keeps : ∀ r, (f r).handle = r.handle ∧ (f r).course = r.course ∧ (f r).bin = r.bin) : (s.updRota h f).StreamAt h i q := by
  obtain ⟨e, found, rfl⟩ := at'
  obtain ⟨runs, stream, hoop, task⟩ := State.streamEnv_eq_some found
  refine ⟨{ e with r := f e.r }, State.streamEnv_of (State.running_updRota runs fun r => ⟨(keeps r).1, (keeps r).2.1⟩) stream ?_ task, rfl⟩
  rw [(keeps e.r).2.2]
  exact hoop

theorem State.StreamAt.updHoop (at' : s.StreamAt h i q) (j : Nat) {f : Hoop → Hoop} (keeps : ∀ k, (f k).idx = k.idx) :
    (s.updHoop h j f).StreamAt h i q := by
  obtain ⟨e, found, rfl⟩ := at'
  obtain ⟨runs, stream, hoop, task⟩ := State.streamEnv_eq_some found
  have hoop' := find?_updWhere e.c.hoops (p := fun k => k.idx == j) (q := fun k => k.idx == rsHoop e.r.bin i) (f := f) fun k => by rw [keeps]
  rw [show e.c.hoops.find? (fun k => k.idx == rsHoop e.r.bin i) = some e.k from hoop, Option.map_some] at hoop'
  exact ⟨_, State.streamEnv_of (State.running_updCourse runs _) stream hoop' task, rfl⟩

theorem State.StreamAt.updStream (at' : s.StreamAt h i q) {f : StreamRun → StreamRun} (keeps : ∀ q, (f q).idx = q.idx) :
    (s.updStream h i f).StreamAt h i (f q) := by
  obtain ⟨e, found, rfl⟩ := at'
  obtain ⟨runs, stream, hoop, task⟩ := State.streamEnv_eq_some found
  have own : (e.q.idx == i) = true := List.find?_some (p := fun k : StreamRun => k.idx == i) stream
  have stream' := find?_updWhere e.c.streams (p := fun k => k.idx == i) (q := fun k => k.idx == i) (f := f) fun k => by rw [keeps]
  rw [show e.c.streams.find? (fun k => k.idx == i) = some e.q from stream, Option.map_some, if_pos own] at stream'
  exact ⟨_, State.streamEnv_of (State.running_updCourse runs _) stream' hoop task, rfl⟩

end

/-! ### What an issue leaves -/

theorem State.updHoop_mem (s : State) (h j : Nat) (f : Hoop → Hoop) : (s.updHoop h j f).mem = s.mem := rfl
theorem State.updStream_mem (s : State) (h j : Nat) (f : StreamRun → StreamRun) : (s.updStream h j f).mem = s.mem := rfl

theorem Hoop.reserve_idx (k : Hoop) : k.reserve.idx = k.idx := rfl

theorem Hoop.reserveTo_idx (last : Nat) : ∀ (n : Nat) (k : Hoop), (k.reserveTo last n).idx = k.idx
  | 0, _ => rfl
  | n + 1, k => by
    unfold Hoop.reserveTo
    split
    · rfl
    · exact Hoop.reserveTo_idx last n k.reserve

theorem State.byteAt_portIssue (s : State) (h i : Nat) (e : StreamEnv) (x : Xfer) (c : BwClass) (sp : Space) (a : Nat) :
    (s.portIssue h i e x c).byteAt sp a = s.byteAt sp a := by
  unfold State.portIssue
  dsimp only
  split
  · rfl
  · split
    · rfl
    · cases sp <;> rfl

theorem State.portIssue_frame (s : State) (h i : Nat) (e : StreamEnv) (x : Xfer) (c : BwClass) :
    (s.portIssue h i e x c).rotas = s.rotas ∧ (s.portIssue h i e x c).tasks = s.tasks := by
  unfold State.portIssue
  dsimp only
  split
  · exact ⟨rfl, rfl⟩
  · split <;> exact ⟨rfl, rfl⟩

/-- `t` is `s`, or `s` with a change in one hoop of Rota `h` that keeps the hoop's number. -/
def State.HoopChange (s : State) (h : Nat) (t : State) : Prop :=
  t = s ∨ ∃ (j : Nat) (f : Hoop → Hoop), (∀ k, (f k).idx = k.idx) ∧ t = s.updHoop h j f

theorem State.HoopChange.ite {s : State} {h : Nat} {t u : State} (c : Prop) [Decidable c] (yes : s.HoopChange h t) (no : s.HoopChange h u) :
    s.HoopChange h (if c then t else u) := by
  split
  · exact yes
  · exact no

/-- The END slot is sealed in the hoop alone. -/
theorem State.sealEnd_hoop (s : State) (h i : Nat) : s.HoopChange h (s.sealEnd h i) := by
  have same : s.HoopChange h s := .inl rfl
  unfold State.sealEnd
  split
  · exact same
  · exact .ite _ same (.ite _ (.inr ⟨_, fun k => k.updSlot _ _, fun _ => rfl, rfl⟩) (.ite _ same (.inr ⟨_, fun k => k.reserve.updSlot _ _, fun _ => rfl, rfl⟩)))

theorem State.StreamAt.sealEnd {s : State} {h i : Nat} {q : StreamRun} (at' : s.StreamAt h i q) : (s.sealEnd h i).StreamAt h i q := by
  obtain same | ⟨j, f, keeps, eq⟩ := s.sealEnd_hoop h i
  · rwa [same]
  · rw [eq]
    exact at'.updHoop j keeps

theorem State.byteAt_sealEnd (s : State) (h i : Nat) (sp : Space) (a : Nat) : (s.sealEnd h i).byteAt sp a = s.byteAt sp a := by
  obtain same | ⟨j, f, -, eq⟩ := s.sealEnd_hoop h i
  · rw [same]
  · rw [eq]
    exact State.byteAt_congr rfl sp a

/-- A charge on the read account touches the Rotas alone. -/
theorem State.chargeRota_read (s : State) (h n : Nat) : s.chargeRota h .read n = s.updRota h (fun r => { r with acc := r.acc.take .read n }) := rfl

/-- A transfer that may be issued is in flight, and nothing is stored. -/
theorem State.tryIssue_issued {s : State} {h i : Nat} {e : StreamEnv} {x : Xfer} {need charge runs : Nat} {after : StreamRun → StreamRun}
    (found : s.streamEnv h i = some e) (below : e.q.inFlight.length < rsOutstanding e.r.bin i) (room : need < e.k.head + rpSlots e.r.bin e.k.idx)
    (granted : e.r.acc.has .read charge = true) (keeps : ∀ q, (after q).idx = q.idx) :
    (s.tryIssue h i e x need charge runs after).StreamAt h i
        (after { e.q with nextNo := e.q.nextNo + 1, bytes := e.q.bytes + x.len, inFlight := e.q.inFlight ++ [x] })
      ∧ ∀ c a, (s.tryIssue h i e x need charge runs after).byteAt c a = s.byteAt c a := by
  unfold State.tryIssue
  simp only [if_neg (Nat.not_le.mpr below), if_neg (Nat.not_le.mpr room), granted, Bool.not_true, Bool.false_eq_true, if_false]
  have charged : (if charge = 0 then s else s.chargeRota h .read charge).StreamAt h i e.q
      ∧ ∀ c a, (if charge = 0 then s else s.chargeRota h .read charge).byteAt c a = s.byteAt c a := by
    have at' : s.StreamAt h i e.q := ⟨e, found, rfl⟩
    split
    · exact ⟨at', fun _ _ => rfl⟩
    · exact ⟨at'.updRota fun _ => ⟨rfl, rfl, rfl⟩, fun _ _ => State.byteAt_congr rfl _ _⟩
  generalize (if charge = 0 then s else s.chargeRota h .read charge) = u at charged
  obtain ⟨at', bytes⟩ := charged
  refine ⟨State.StreamAt.sealEnd ?_, fun c a => ?_⟩
  · have issued := at'.congr (u.portIssue_frame h i e x .read).1 (u.portIssue_frame h i e x .read).2
    have reserved := issued.updHoop e.k.idx (f := fun k => k.reserveTo need (rpSlots e.r.bin e.k.idx)) fun k => Hoop.reserveTo_idx _ _ k
    have moved := reserved.updStream
      (f := fun q => after { q with nextNo := q.nextNo + 1, bytes := q.bytes + x.len, inFlight := q.inFlight ++ [x] }) fun q => keeps _
    exact (moved.congr (State.vcount64_rotas _ _ _ _) (State.vcount64_tasks _ _ _ _)).congr (State.vcount64_rotas _ _ _ _) (State.vcount64_tasks _ _ _ _)
  · rw [State.byteAt_sealEnd, State.byteAt_congr (State.vcount64_mem _ _ _ _), State.byteAt_congr (State.vcount64_mem _ _ _ _),
      State.byteAt_congr (State.updStream_mem _ _ _ _), State.byteAt_congr (State.updHoop_mem _ _ _ _), u.byteAt_portIssue, bytes]

/-- A direct input stream from tenant HBM goes on with its next run. -/
theorem State.issueIn_direct {s : State} {h i : Nat} {e : StreamEnv} (space : rsSpace e.r.bin i = 0) (mode : rsMode e.r.bin i = 0)
    (plain : rsCoil e.r.bin i = false) (open' : e.q.ended = false) (more : e.q.pos < srcTotal e.r.bin i) {n len : Nat}
    (run : n = runLen e.r.bin i (e.splitBase i) 0 e.q.pos) (elen : len = delivered e.r.bin i n) (fits : e.q.bytes + len ≤ rsBytes e.r.bin i) {x : Xfer}
    (ex : x = { no := e.q.nextNo, off := e.q.bytes, len := len, addr := e.addrOf i (srcOff e.r.bin i 0 e.q.pos).toNat, n := n, pos := e.q.pos,
                elem := e.elem i, row := 0, zero := false, slot := 0, data := [] }) :
    s.issueIn h i e = s.tryIssue h i e x (e.lastSlot i len) (blocksOf x.addr n) 1 (fun q =>
      if srcTotal e.r.bin i ≤ q.pos + n then { q with pos := q.pos + n, ended := true } else { q with pos := q.pos + n }) := by
  subst run elen ex
  simp only [State.issueIn, State.issueRun, open', space, mode, plain, Nat.not_le.mpr more, Nat.not_lt.mpr fits, Bool.false_eq_true, if_false,
    Nat.reduceBEq, Bool.false_and, Bool.not_false, Bool.true_and, decide_false, if_true, OfNat.zero_ne_ofNat, zero_ne_one]

/-- Settles O43, from what an issue leaves of the stream and of the memories. -/
theorem directStreamsIssueTheirRuns : Obligations.DirectStreamsIssueTheirRuns := by
  unfold Obligations.DirectStreamsIssueTheirRuns
  intro s h i n len e x found input space mode plain open' more run elen fits ex
  have issues : execTransferIssue h i s = .next (s.issueIn h i e) := by
    simp only [execTransferIssue, found, input, Bool.not_false, if_true]
  rw [State.issueIn_direct space mode plain open' more run elen fits ex] at issues
  refine ⟨fun full => issues.trans (congrArg _ (if_pos full)), fun below room granted => ?_⟩
  have length : x.len = len := by rw [ex]
  obtain ⟨⟨f, at', q⟩, bytes⟩ := State.tryIssue_issued (s := s) (x := x) (runs := 1) (after := fun q =>
    if srcTotal e.r.bin i ≤ q.pos + n then { q with pos := q.pos + n, ended := true } else { q with pos := q.pos + n })
    found below room granted (fun q => by split <;> rfl)
  rw [length] at q
  refine ⟨_, f, issues, at', ?_, ?_, ?_, ?_, bytes⟩ <;> rw [q] <;> dsimp only <;> split
  all_goals simp_all

end Sys2Proof.Machine
end

section
/-! SUPPORT. Strand cores (spec/15): reading a core back after its instruction retires, and the CSRs of Table 15-6. -/

namespace Sys2Proof.Machine

/-! ### Reading a core back -/

theorem State.coreAny_eq_some {s : State} {h k : Nat} {e : CoreEnv} (found : s.coreAny h k = some e) :
    e.h = h ∧ e.k = k ∧ s.running h = some (e.r, e.c) ∧ e.c.cores.find? (fun m => m.inst == k) = some e.m
      ∧ s.task? (handleTenant h) e.c.seq = some e.x := by
  unfold State.coreAny at found
  split at found
  · cases found
  · next r c runs =>
    split at found
    · next m x core task =>
      obtain rfl := Option.some.inj found
      exact ⟨rfl, rfl, runs, core, task⟩
    · cases found

theorem State.coreAny_of {s : State} {h k : Nat} {r : Rota} {c : CourseRun} {m : Core} {x : Task} (runs : s.running h = some (r, c))
    (core : c.cores.find? (fun m => m.inst == k) = some m) (task : s.task? (handleTenant h) c.seq = some x) :
    s.coreAny h k = some { h := h, k := k, r := r, c := c, m := m, x := x } := by
  simp only [State.coreAny, runs, core, task]

/-- A core that runs is found, and it has not ended. -/
theorem State.coreEnv_eq_some {s : State} {h k : Nat} {e : CoreEnv} (found : s.coreEnv h k = some e) : s.coreAny h k = some e := by
  unfold State.coreEnv at found
  split at found
  · cases found
  · next any => exact any.trans (Option.ite_none_left_eq_some.mp found).2

theorem State.coreAny_congr {s t : State} (rotas : t.rotas = s.rotas) (tasks : t.tasks = s.tasks) (h k : Nat) : t.coreAny h k = s.coreAny h k := by
  unfold State.coreAny
  rw [State.running_congr rotas]
  simp only [State.task?_congr tasks]

/-- The first of its kind, changed to one of its kind. -/
theorem find?_updWhere_same {α : Type} (l : List α) {p : α → Bool} {f : α → α} (keeps : ∀ x, p x = true → p (f x) = true) :
    (updWhere l p f).find? p = (l.find? p).map f := by
  have same : (p ∘ fun x => if p x then f x else x) = p := by
    funext x
    cases own : p x <;> simp [own, keeps x]
  rw [updWhere, List.find?_map, same]
  cases found : l.find? p with
  | none => rfl
  | some x => simp [List.find?_some found]

theorem State.inst_of_coreAny {s : State} {h k : Nat} {e : CoreEnv} (found : s.coreAny h k = some e) : e.m.inst = k := by
  obtain ⟨-, -, -, core, -⟩ := State.coreAny_eq_some found
  simpa using List.find?_some core

/-- A core that changes is found changed. -/
theorem State.coreAny_updCore {s : State} {h k : Nat} {e : CoreEnv} (found : s.coreAny h k = some e) {f : Core → Core}
    (keeps : ∀ m, m.inst = k → (f m).inst = k) : ∃ g, (s.updCore h k f).coreAny h k = some g ∧ g.m = f e.m := by
  obtain ⟨-, -, runs, core, task⟩ := State.coreAny_eq_some found
  have core' := find?_updWhere_same e.c.cores (p := fun m => m.inst == k) (f := f) (by simpa using keeps)
  rw [core, Option.map_some] at core'
  exact ⟨_, State.coreAny_of (State.running_updCourse runs _) core' task, rfl⟩

/-! ### Retiring -/

/-- `m` with a later cycle counter. -/
def Core.atCycle (m : Core) (c : Nat) : Core := { m with cycle := c }

/-- `m` with its instruction counted. -/
def Core.counted (m : Core) : Core := { m with instret := (m.instret + 1) % 2 ^ 64 }

/-- After an instruction retires the core is as it leaves it, some cycles later. -/
theorem State.retire_core {s : State} {e : CoreEnv} (found : s.coreAny e.h e.k = some e) (bound : Nat) {f : Core → Core}
    (keeps : ∀ m, m.inst = e.k → (f m).inst = e.k) : ∃ c g, (s.retire e bound f).coreAny e.h e.k = some g ∧ g.m = (f (e.m.atCycle c)).counted := by
  have free : (s.free 64).2.coreAny e.h e.k = some e := (State.coreAny_congr rfl rfl e.h e.k).trans found
  obtain ⟨g, timed, gm⟩ := State.coreAny_updCore free
    (f := fun m => m.atCycle ((m.cycle + 1 + (s.free 64).1.toNat % Nat.max 1 bound) % 2 ^ 64)) fun _ own => own
  obtain ⟨g', retired, gm'⟩ := State.coreAny_updCore timed (f := fun m => (f m).counted) fun m => keeps m
  refine ⟨(e.m.cycle + 1 + (s.free 64).1.toNat % Nat.max 1 bound) % 2 ^ 64, g', (State.coreAny_congr (State.vcount64_rotas _ _ _ _) (State.vcount64_tasks _ _ _ _) e.h e.k).trans retired, ?_⟩
  rw [gm', gm]

/-- What an instruction that retires leaves beside its core. -/
structure RetireFrame (s t : State) : Prop where
  stakes : t.stakes = s.stakes
  waits : t.waits = s.waits
  tasks : t.tasks = s.tasks
  mem : t.mem = s.mem

theorem State.retire_frame (s : State) (e : CoreEnv) (bound : Nat) (f : Core → Core) : RetireFrame s (s.retire e bound f) :=
  ⟨State.vcount64_stakes _ _ _ _, State.vcount64_waits _ _ _ _, State.vcount64_tasks _ _ _ _, State.vcount64_mem _ _ _ _⟩

/-- A write of an x register changes no other field. -/
theorem Core.setReg_frame (m : Core) (i : Nat) (v : BitVec 64) : m.setReg i v = { m with x := (m.setReg i v).x } := by
  unfold Core.setReg
  split <;> rfl

theorem Core.setReg_x {m n : Core} (same : n.x = m.x) (i : Nat) (v : BitVec 64) : (n.setReg i v).x = (m.setReg i v).x := by
  unfold Core.setReg
  split
  · exact same
  · exact congrArg (fun x => modifyAt x i fun _ => v) same

/-- Beside the cycle counter and the selectors, `n` is `m`. -/
structure SelectorsOnly (m n : Core) : Prop where
  eq : n = { m with cycle := n.cycle, stakeSel := n.stakeSel, hoopSel := n.hoopSel, drawStream := n.drawStream, drawIndex := n.drawIndex }

theorem SelectorsOnly.of_atCycle {m n : Core} {c : Nat} (only : SelectorsOnly (m.atCycle c) n) : SelectorsOnly m n := by
  constructor
  rw [only.eq]
  rfl

/-- An instruction that gives `v` to `rd`, and else changes only selectors, has retired. -/
theorem Retired.of_setReg {m n : Core} (only : SelectorsOnly m n) (len rd : Nat) (v : BitVec 64) :
    Retired m ((n.setReg rd v).on len).counted len rd v := by
  have x : (n.setReg rd v).x = (m.setReg rd v).x := Core.setReg_x (by rw [only.eq]) rd v
  rw [n.setReg_frame, x, only.eq]
  exact ⟨rfl, rfl, rfl, rfl, rfl, rfl, rfl, rfl⟩

/-! ### CSR instructions -/

/-- A CSR instruction of a running core does what its row says. -/
theorem csrEvent_of {s : State} {h k num : Nat} {q : CsrEnv} (core : s.coreEnv h k = some q.e) (at' : csrAt q.e num = some q)
    (f : State → CsrEnv → State) : csrEvent num f h k s = .next (f s q) := by
  simp only [csrEvent, core, at']

/-- What a CSR instruction that retires with `v` leaves: its core, where only selectors changed, and everything beside it. -/
theorem csrDone_retired {s : State} {h k : Nat} {q : CsrEnv} (core : s.coreEnv h k = some q.e) (v : Nat) {f : Core → Core}
    (only : ∀ m, SelectorsOnly m (f m)) :
    ∃ c g, (s.csrDone q v f).coreAny h k = some g ∧ Retired q.e.m g.m q.len q.rd (BitVec.ofNat 64 v)
      ∧ g.m = (((f (q.e.m.atCycle c)).setReg q.rd (BitVec.ofNat 64 v)).on q.len).counted := by
  obtain ⟨rfl, rfl, -⟩ := State.coreAny_eq_some (State.coreEnv_eq_some core)
  obtain ⟨c, g, found, gm⟩ := State.retire_core (State.coreEnv_eq_some core) 8
    (f := fun m => ((f m).setReg q.rd (BitVec.ofNat 64 v)).on q.len) fun m own => by
      rw [Core.setReg_frame, (only m).eq]; exact own
  refine ⟨c, g, found, ?_, gm⟩
  rw [gm]
  exact Retired.of_setReg ((only _).of_atCycle) _ _ _

/-- What retiring an instruction gives of the rest of the machine, bytes included. -/
theorem RetireFrame.byteAt {s t : State} (frame : RetireFrame s t) (c : Space) (a : Nat) : t.byteAt c a = s.byteAt c a :=
  State.byteAt_congr frame.mem c a

/-- Leaving the selectors is changing only selectors. -/
theorem SelectorsOnly.refl (m : Core) : SelectorsOnly m m := ⟨rfl⟩

/-- What a CSR read leaves: its value in rd, and everything else of the core and the counters, waits, tasks and bytes. -/
theorem csrRead_leaves {s : State} {h k : Nat} {q : CsrEnv} {i : Instr} {v : Nat} (core : s.coreEnv h k = some q.e)
    (runs : exec i s = .next (s.csrDone q v id)) :
    ∃ u f, exec i s = .next u ∧ u.coreAny h k = some f ∧ Retired q.e.m f.m q.len q.rd (BitVec.ofNat 64 v)
      ∧ u.stakes = s.stakes ∧ u.waits = s.waits ∧ u.tasks = s.tasks ∧ (∀ c a, u.byteAt c a = s.byteAt c a) := by
  obtain ⟨-, g, found, retired, -⟩ := csrDone_retired core v (f := id) SelectorsOnly.refl
  have frame : RetireFrame s (s.csrDone q v id) := State.retire_frame s q.e 8 _
  exact ⟨_, g, runs, found, retired, frame.stakes, frame.waits, frame.tasks, frame.byteAt⟩

/-- A selector that is only read. -/
theorem csrSwap_of_read (s : State) {q : CsrEnv} (reads : q.src = none) (old : Nat) (f : Nat → Core → Core) : s.csrSwap q old f = s.csrDone q old id := by
  simp only [State.csrSwap, reads]

/-- A selector that is written. -/
theorem csrSwap_of_write (s : State) {q : CsrEnv} {v : BitVec 64} (writes : q.src = some v) (old : Nat) (f : Nat → Core → Core) :
    s.csrSwap q old f = s.csrDone q old (f v.toNat) := by
  simp only [State.csrSwap, writes]

/-- The selectors of a core. -/
def Core.selectors (m : Core) : Nat × Nat × Nat × Nat := (m.stakeSel, m.hoopSel, m.drawStream, m.drawIndex)

/-- A selector's CSRRW gives the old value, and leaves the selectors as the new value makes them. -/
theorem csrSwap_writes {s : State} {h k : Nat} {q : CsrEnv} {v : BitVec 64} (core : s.coreEnv h k = some q.e) (writes : q.src = some v) (old : Nat)
    {f : Nat → Core → Core} (only : ∀ m, SelectorsOnly m (f v.toNat m)) :
    ∃ g, (s.csrSwap q old f).coreAny h k = some g ∧ Retired q.e.m g.m q.len q.rd (BitVec.ofNat 64 old)
      ∧ ∃ c, g.m.selectors = (f v.toNat (q.e.m.atCycle c)).selectors := by
  obtain ⟨c, g, found, retired, m⟩ := csrDone_retired core old only
  refine ⟨g, by rwa [csrSwap_of_write s writes], retired, c, ?_⟩
  rw [m, Core.setReg_frame]
  rfl

theorem execStrStakeSel_of {s : State} {h k : Nat} {q : CsrEnv} (core : s.coreEnv h k = some q.e) (at' : csrAt q.e 0x800 = some q) :
    exec (.strStakeSel h k) s = .next (s.csrSwap q q.e.m.stakeSel (fun v m => { m with stakeSel := v % 2 ^ 17 })) := by
  simp only [exec, execStrStakeSel, csrEvent_of core at']

theorem execStrHoopSel_of {s : State} {h k : Nat} {q : CsrEnv} (core : s.coreEnv h k = some q.e) (at' : csrAt q.e 0x810 = some q) :
    exec (.strHoopSel h k) s = .next (s.csrSwap q q.e.m.hoopSel (fun v m => { m with hoopSel := v % 2 ^ 16 })) := by
  simp only [exec, execStrHoopSel, csrEvent_of core at']

theorem execStrDrawStream_of {s : State} {h k : Nat} {q : CsrEnv} (core : s.coreEnv h k = some q.e) (at' : csrAt q.e 0x820 = some q) :
    exec (.strDrawStream h k) s = .next (s.csrSwap q q.e.m.drawStream (fun v m => { m with drawStream := v % 2 ^ 32 })) := by
  simp only [exec, execStrDrawStream, csrEvent_of core at']

theorem execStrDrawIndex_of {s : State} {h k : Nat} {q : CsrEnv} (core : s.coreEnv h k = some q.e) (at' : csrAt q.e 0x821 = some q) :
    exec (.strDrawIndex h k) s = .next (s.csrSwap q q.e.m.drawIndex (fun v m => { m with drawIndex := v })) := by
  simp only [exec, execStrDrawIndex, csrEvent_of core at']

theorem execStrCount_of {s : State} {h k v : Nat} {q : CsrEnv} (core : s.coreEnv h k = some q.e) (at' : csrAt q.e 0xCC0 = some q)
    (value : q.pair?.map (fun p => (s.stake p).count q.full) = some v) : exec (.strCount h k) s = .next (s.csrDone q v id) := by
  obtain ⟨p, pair, rfl⟩ := Option.map_eq_some_iff.mp value
  simp only [exec, execStrCount, csrEvent_of core at', pair]

theorem execStrHoopLen_of {s : State} {h k v : Nat} {q : CsrEnv} (core : s.coreEnv h k = some q.e) (at' : csrAt q.e 0xCC1 = some q)
    (value : (q.hoop? false true).bind (fun p => if p.head < p.acq then (p.slot? p.head).map (fun x => x.len + ofBool x.fin * 2 ^ 31) else none) = some v) :
    exec (.strHoopLen h k) s = .next (s.csrDone q v id) := by
  obtain ⟨p, hoop, acquired⟩ := Option.bind_eq_some_iff.mp value
  obtain ⟨below, slot⟩ := Option.ite_none_right_eq_some.mp acquired
  obtain ⟨x, found, rfl⟩ := Option.map_eq_some_iff.mp slot
  simp only [exec, execStrHoopLen, csrEvent_of core at', hoop, if_pos below, found]

theorem execStrHoopState_of {s : State} {h k v : Nat} {q : CsrEnv} (core : s.coreEnv h k = some q.e) (at' : csrAt q.e 0xCC2 = some q)
    (value : (q.hoop? true true).map (fun p => ofBool (p.full (rpSlots q.e.r.bin p.idx)) + 2 * ofBool p.empty + 4 * ofBool p.ended) = some v) :
    exec (.strHoopState h k) s = .next (s.csrDone q v id) := by
  obtain ⟨p, hoop, rfl⟩ := Option.map_eq_some_iff.mp value
  simp only [exec, execStrHoopState, csrEvent_of core at', hoop]

/-- Settles O51: every read of Table 15-6 retires with its value and the identity on the core, and a selector's CSRRW changes that selector. -/
theorem strandReadsAndSelectors : Obligations.StrandReadsAndSelectors := by
  unfold Obligations.StrandReadsAndSelectors
  refine ⟨fun s h k q core => ?_, fun s h k q v core writes kept keeps => ?_⟩
  · simp only [List.forall_mem_cons, List.not_mem_nil, false_imp_iff, implies_true, and_true]
    refine ⟨?_, ?_, ?_, ?_, ?_, ?_, ?_, ?_, ?_, ?_⟩ <;> intro at' reads v value <;> apply csrRead_leaves core
    · simp only [← Option.some.inj value, execStrStakeSel_of core at', csrSwap_of_read s reads]
    · simp only [← Option.some.inj value, execStrHoopSel_of core at', csrSwap_of_read s reads]
    · simp only [← Option.some.inj value, execStrDrawStream_of core at', csrSwap_of_read s reads]
    · simp only [← Option.some.inj value, execStrDrawIndex_of core at', csrSwap_of_read s reads]
    · exact execStrCount_of core at' value
    · exact execStrHoopLen_of core at' value
    · exact execStrHoopState_of core at' value
    · simp only [← Option.some.inj value, exec, execStrBeat, csrEvent_of core at']
    · simp only [← Option.some.inj value, exec, execStrTaskSeq, csrEvent_of core at']
    · simp only [← Option.some.inj value, exec, execStrSampleBase, csrEvent_of core at']
  · refine ⟨fun at' => ?_, fun at' => ?_, fun at' => ?_, fun at' => ?_⟩
    · obtain ⟨f, found, retired, c, sel⟩ := csrSwap_writes core writes q.e.m.stakeSel (f := fun v m => { m with stakeSel := v % 2 ^ 17 }) fun _ => ⟨rfl⟩
      refine ⟨_, f, execStrStakeSel_of core at', found, retired, ?_, (keeps _ _ _ _ _ _).mpr ?_⟩ <;> simp_all [Core.selectors, Core.atCycle]
    · obtain ⟨f, found, retired, c, sel⟩ := csrSwap_writes core writes q.e.m.hoopSel (f := fun v m => { m with hoopSel := v % 2 ^ 16 }) fun _ => ⟨rfl⟩
      refine ⟨_, f, execStrHoopSel_of core at', found, retired, ?_, (keeps _ _ _ _ _ _).mpr ?_⟩ <;> simp_all [Core.selectors, Core.atCycle]
    · obtain ⟨f, found, retired, c, sel⟩ := csrSwap_writes core writes q.e.m.drawStream (f := fun v m => { m with drawStream := v % 2 ^ 32 }) fun _ => ⟨rfl⟩
      refine ⟨_, f, execStrDrawStream_of core at', found, retired, ?_, (keeps _ _ _ _ _ _).mpr ?_⟩ <;> simp_all [Core.selectors, Core.atCycle]
    · obtain ⟨f, found, retired, c, sel⟩ := csrSwap_writes core writes q.e.m.drawIndex (f := fun v m => { m with drawIndex := v }) fun _ => ⟨rfl⟩
      refine ⟨_, f, execStrDrawIndex_of core at', found, retired, ?_, (keeps _ _ _ _ _ _).mpr ?_⟩ <;> simp_all [Core.selectors, Core.atCycle]

end Sys2Proof.Machine
end

section
/-! SUPPORT. The calls of Strand cores (Table 15-6): counters, draws, aborts and the hoops at their own end. -/

namespace Sys2Proof.Machine

/-- A core without a buffered store has performed them all. -/
theorem State.drainAll_of_stores (s : State) {e : CoreEnv} (empty : e.m.stores = []) : s.drainAll e = (s, true) := by
  unfold State.drainAll
  rw [empty]
  rfl

/-- A core that waits does not run. -/
theorem State.coreEnv_of_waiting {s : State} {h k : Nat} (waits : s.waits.any (fun w => w.handle == h && w.inst == k) = true) : s.coreEnv h k = none := by
  unfold State.coreEnv
  split
  · rfl
  · rw [waits, Bool.or_true, if_pos rfl]

theorem execStrWait_of {s : State} {h k p : Nat} {q : CsrEnv} {v : BitVec 64} (core : s.coreEnv h k = some q.e) (at' : csrAt q.e 0x802 = some q)
    (operand : q.src = some v) (pair : q.pair? = some p) : exec (.strWait h k) s = .next
      (if reached ((s.stake p).count q.full) (v.toNat % 2 ^ 32) then s.csrDone q ((s.stake p).count q.full) id
       else { s with waits := s.waits ++ [{ requester := 0x30 + q.e.m.core, handle := h, inst := k, full := q.full, pair := p,
                                            target := v.toNat % 2 ^ 32 }] }) := by
  simp only [exec, execStrWait, csrEvent_of core at', operand, pair]

/-- Settles O52: each call is the branch of its row that the operand selects; the core that waits is the one the new wait names. -/
theorem strandSignalsWaitsDrawsAndAborts : Obligations.StrandSignalsWaitsDrawsAndAborts := by
  unfold Obligations.StrandSignalsWaitsDrawsAndAborts
  intro s h k p q v core operand pair
  refine ⟨fun at' empty some' u is kept => ?_, fun at' there => ?_, fun at' short => ?_, fun at' small => ?_, fun at' low high => ?_⟩
  · subst is
    simp only [exec, execStrSignal, csrEvent_of core at', operand, State.drainAll_of_stores s empty, pair, if_neg some', kept, Bool.false_eq_true, if_false]
  · rw [execStrWait_of core at' operand pair, if_pos there]
  · refine ⟨_, (execStrWait_of core at' operand pair).trans (congrArg _ (if_neg (by rw [short]; decide))), rfl, rfl, rfl, rfl, ?_⟩
    exact State.coreEnv_of_waiting (by simp)
  · simp only [exec, execStrDraw, csrEvent_of core at', operand, if_pos small]
  · simp only [exec, execStrAbort, csrEvent_of core at', operand, if_pos (And.intro low high)]

/-- Settles O53: each call is the branch of its row that the hoop's pointers select. -/
theorem strandHoopCalls : Obligations.StrandHoopCalls := by
  unfold Obligations.StrandHoopCalls
  intro s h k q p core
  refine ⟨fun at' hoop room => ?_, fun at' hoop full => ?_, fun v at' operand empty hoop reserved fits => ?_, fun at' hoop committed => ?_,
    fun at' hoop none' reads => ?_, fun v at' operand hoop acquired => ?_⟩
  · simp only [exec, execStrHoopReserve, csrEvent_of core at', hoop, room, Bool.false_eq_true, if_false]
  · simp only [exec, execStrHoopReserve, csrEvent_of core at', hoop, full, if_true]
  · have taken : ¬ (p.rsv ≤ p.tail ∨ rpSlotBytes q.e.r.bin p.idx < v.toNat % 2 ^ 21) := by omega
    simp only [exec, execStrHoopCommit, csrEvent_of core at', operand, State.drainAll_of_stores s empty, hoop, if_neg taken]
  · simp only [exec, execStrHoopAcquire, csrEvent_of core at', hoop, if_pos committed]
  · simp only [exec, execStrHoopAcquire, csrEvent_of core at', hoop, if_neg (Nat.not_lt.mpr none'), reads, Option.isSome_none, Bool.false_eq_true, if_false]
  · simp only [exec, execStrHoopRelease, csrEvent_of core at', operand, hoop, if_neg (Nat.not_le.mpr acquired)]

end Sys2Proof.Machine
end

section
/-! SUPPORT. Instructions of Strand cores (Table 15-1): an ADD, accesses of local SRAM, and the end of a routine. The meaning of ADD, of loads
and of stores is RISC-V's (notes/assumptions/60.md). -/

namespace Sys2Proof.Machine

/-! ### Local SRAM -/

/-- A store to local SRAM changes no other field. -/
theorem Core.poke_frame : ∀ (d : Bytes) (m : Core) (a : Nat), m.poke a d = { m with sram := (m.poke a d).sram }
  | [], _, _ => rfl
  | b :: t, m, a => Core.poke_frame t { m with sram := sparseSet 0 m.sram a b } (a + 1)

/-- A store to local SRAM leaves the bytes it does not name. -/
theorem Core.poke_sram_outside {j : Nat} : ∀ (d : Bytes) (m : Core) (a : Nat), j < a ∨ a + d.length ≤ j →
    sparseGet 0 (m.poke a d).sram j = sparseGet 0 m.sram j
  | [], _, _, _ => rfl
  | b :: t, m, a, outside => by
    rw [List.length_cons] at outside
    exact (Core.poke_sram_outside t _ (a + 1) (by omega)).trans (sparseGet_set_other (by omega) m.sram)

/-- A store to local SRAM puts its bytes there. -/
theorem Core.poke_sram_inside {j : Nat} : ∀ (d : Bytes) (m : Core) (a : Nat), sparseWf 0 m.sram = true → j < d.length →
    sparseGet 0 (m.poke a d).sram (a + j) = nth d j 0
  | [], _, _, _, inside => absurd inside (Nat.not_lt_zero j)
  | b :: t, m, a, wf, inside => by
    cases j with
    | zero => exact (Core.poke_sram_outside t _ (a + 1) (by omega)).trans (sparseGet_set_same wf)
    | succ j =>
      have rest := Core.poke_sram_inside (j := j) t { m with sram := sparseSet 0 m.sram a b } (a + 1) (sparseSet_wf wf) (by simpa using inside)
      rw [Nat.add_right_comm] at rest
      exact rest

/-- An access that local SRAM holds, and a write only above the code, is decoded to it (Table 15-2). -/
theorem Core.decode_sram {m : Core} {addr n : Nat} {write : Bool} (inside : addr + n ≤ 0x1C000) (data : write = true → m.code ≤ addr) :
    m.decode addr n write false = some (.sram addr) := by
  have space : bits addr 63 60 = 0 := by unfold bits; omega
  have low : addr % 2 ^ 60 = addr := Nat.mod_eq_of_lt (by omega)
  have permitted : (false || decide (0x1C000 < addr + n) || (write && decide (addr < m.code))) = false := by
    cases write <;> simp <;> [omega; exact ⟨by omega, data rfl⟩]
  unfold Core.decode
  dsimp only
  rw [if_pos space, low, permitted]
  rfl

/-! ### ADD -/

/-- The word of ADD rd, ra, rb executes as the sum in rd. -/
theorem Core.execute_add (m : Core) {rd a b w : Nat} (rdIn : rd < 32) (aIn : a < 32) (bIn : b < 32)
    (word : w = b * 2 ^ 20 + a * 2 ^ 15 + rd * 2 ^ 7 + 0x33) (len raw : Nat) :
    m.execute w len raw = .done ((m.setReg rd (m.reg a + m.reg b)).on len) := by
  have op : iOp w = 0x33 := by unfold iOp bits; omega
  have dst : iRd w = rd := by unfold iRd bits; omega
  have f3 : iF3 w = 0 := by unfold iF3 bits; omega
  have rs1 : iRs1 w = a := by unfold iRs1 bits; omega
  have rs2 : iRs2 w = b := by unfold iRs2 bits; omega
  have f7 : iF7 w = 0 := by unfold iF7 bits; omega
  simp only [Core.execute, op, dst, f3, rs1, rs2, f7, opReg, if_true]

/-- A 32-bit instruction inside the code is executed. -/
theorem Core.atPc_of_word {m : Core} {w : Nat} (even : m.pc % 2 = 0) (inside : m.pc + 4 ≤ m.code) (code : m.code ≤ 0x1C000)
    (word : m.sramN m.pc 4 = w) (low : m.sramN m.pc 2 = w % 65536) (long : w % 4 = 3) : m.atPc = .act (m.execute w 4 w) w 4 w := by
  unfold Core.atPc
  dsimp only
  rw [if_neg (by omega), if_neg (by omega), if_neg (by omega), low, if_pos (by omega), if_neg (by omega), word]

/-! ### The end of a routine -/

theorem Core.atPc_of_end {m : Core} (pc : m.pc = 0x1C000) : m.atPc = .finish := if_pos pc

/-- Settles O54: each instruction is found at the pc, and the core is read back after it retires. -/
theorem strandInstructionsRetire : Obligations.StrandInstructionsRetire := by
  unfold Obligations.StrandInstructionsRetire
  intro s h k e core
  have any := State.coreEnv_eq_some core
  obtain ⟨rfl, rfl, -⟩ := State.coreAny_eq_some any
  have own := State.inst_of_coreAny any
  refine ⟨fun rd a b w rdIn aIn bIn word even inside code bytes low => ?_, fun rd addr n sg w len raw v at' inside value => ?_,
    fun addr n v w len raw at' above inside wf => ?_, fun pc empty => ?_, fun code tv w len raw at' => ?_, fun w len raw at' arg => ?_⟩
  · have at' := (Core.atPc_of_word even inside code bytes low (by omega)).trans (by rw [e.m.execute_add rdIn aIn bIn word])
    obtain ⟨c, g, found, gm⟩ := State.retire_core any (costOf w) (f := fun q => { (e.m.setReg rd (e.m.reg a + e.m.reg b)).on 4 with cycle := q.cycle })
      fun _ _ => by rw [Core.setReg_frame]; exact own
    refine ⟨_, g, by simp only [exec, execStrandInstruction, core, at'], found, ?_⟩
    have same : g.m = (((e.m.atCycle c).setReg rd (e.m.reg a + e.m.reg b)).on 4).counted := by
      rw [gm, Core.setReg_frame, Core.setReg_frame (e.m.atCycle c), Core.setReg_x (m := e.m) (n := e.m.atCycle c) rfl]
      rfl
    rw [same]
    exact Retired.of_setReg (SelectorsOnly.of_atCycle (SelectorsOnly.refl _)) _ _ _
  · obtain ⟨c, g, found, gm⟩ := State.retire_core any 2 (f := fun m => (m.loaded rd false n sg (m.sramN addr n)).on len)
      fun m mine => by
        rw [show m.loaded rd false n sg (m.sramN addr n) = m.setReg rd _ from rfl, Core.setReg_frame]; exact mine
    refine ⟨_, g, ?_, found, ?_⟩
    · simp only [exec, execStrandMemoryAccess, core, at', State.coreLoad, Core.decode_sram (m := e.m) (write := false) inside (by simp)]
    · rw [gm, value]
      exact Retired.of_setReg (SelectorsOnly.of_atCycle (SelectorsOnly.refl _)) _ _ _
  · have frame : RetireFrame s (s.retire e 1 (fun m => (m.poke addr (leBytes n v)).on len)) := State.retire_frame s e 1 _
    obtain ⟨c, g, found, gm⟩ := State.retire_core any 1 (f := fun m => (m.poke addr (leBytes n v)).on len)
      fun m mine => by rw [Core.poke_frame]; exact mine
    have sram : g.m.sram = ((e.m.atCycle c).poke addr (leBytes n v)).sram := by rw [gm]; rfl
    refine ⟨_, g, ?_, found, ?_, ?_, ?_, fun j inside' => ?_, fun j outside => ?_, frame.byteAt⟩
    · simp only [exec, execStrandMemoryAccess, core, at', State.coreStore, Core.decode_sram (m := e.m) (write := true) inside fun _ => above]
    · rw [gm, Core.poke_frame]; rfl
    · rw [gm, Core.poke_frame]; rfl
    · rw [gm, Core.poke_frame]; rfl
    · rw [sram]
      exact Core.poke_sram_inside _ _ _ wf (by rwa [leBytes_length])
    · rw [sram]
      exact Core.poke_sram_outside _ _ _ (by rwa [leBytes_length])
  · simp only [exec, execRoutineEnd, core, Core.atPc_of_end pc, State.endRoutine, State.drainAll_of_stores s empty, CoreEnv.t]
  · simp only [exec, execStrandTrap, core, at']
  · simp only [exec, execStrandTrap, core, at', if_neg arg, errStrEcallInvalid]

end Sys2Proof.Machine
end

section
/-! SUPPORT. The Lodge's clockwork (spec/20): what a log entry leaves, and the recomputation of power (R597). -/

namespace Sys2Proof.Machine

/-- What an entry of the log, or a message about the level, leaves: the memories, the tasks, and every register but the count of lost entries. -/
structure LogFrame (s t : State) : Prop where
  mem : t.mem = s.mem
  tasks : t.tasks = s.tasks
  get : ∀ off, off ≠ rLodgeLogLostCnt → t.get off = s.get off

namespace LogFrame

theorem trans {s t u : State} (h : LogFrame s t) (k : LogFrame t u) : LogFrame s u :=
  ⟨k.mem.trans h.mem, k.tasks.trans h.tasks, fun off other => (k.get off other).trans (h.get off other)⟩

theorem logEntry (s : State) (e : LogEntry) : LogFrame s (s.logEntry e) := by
  unfold State.logEntry
  split
  · exact ⟨rfl, rfl, fun _ _ => rfl⟩
  · exact ⟨rfl, rfl, fun _ other => State.get_set_other s _ other⟩

theorem logEvent (s : State) (code tenant detail a b : Nat) : LogFrame s (s.logEvent code tenant detail a b) := logEntry s _

theorem free (s : State) (w : Nat) : LogFrame s (s.free w).2 := ⟨rfl, rfl, fun _ _ => rfl⟩

theorem logOpen (s : State) (code tenant detail : Nat) : LogFrame s (s.logOpen code tenant detail) :=
  (free s 64).trans ((free _ 64).trans (logEvent _ _ _ _ _ _))

theorem logReading (s : State) (code reading : Nat) : LogFrame s (s.logReading code reading) := (free s 64).trans (logEntry _ _)

theorem levelEvent (s : State) (was : Nat) : LogFrame s (s.levelEvent was) := by
  unfold State.levelEvent
  split
  · exact ⟨rfl, rfl, fun _ _ => rfl⟩
  · dsimp only
    split
    · rw [State.freeBytes_state]
      exact ⟨rfl, rfl, fun _ _ => rfl⟩
    · exact ⟨rfl, rfl, fun _ _ => rfl⟩

end LogFrame

/-! ### The recomputation of power -/

/-- The level is one of three. -/
theorem State.recompute_level_le (s : State) : s.recompute.2 ≤ 2 := by
  unfold State.recompute
  dsimp only
  split
  · exact Nat.le_refl 2
  · dsimp only
    split <;> decide

/-- A reading that is missing leaves no power (R597). -/
theorem State.recompute_of_missing {s : State} (missing : s.tele.missing = true) : s.recompute = (0, 2) := by
  unfold State.recompute
  dsimp only
  rw [if_pos (by rw [missing]; rfl)]

/-- The power shown is lowered at once. -/
theorem State.setAvail_lower {s : State} {a : Nat} (w : sparseWf 0 s.pf0 = true) (lower : a < s.getF rAdmPowerAvailW 15 0) :
    (s.setAvail a).getF rAdmPowerAvailW 15 0 = a := by
  have word : a < 2 ^ 16 := Nat.lt_trans lower (Nat.mod_lt _ (by decide))
  unfold State.setAvail
  dsimp only
  rw [if_pos (Or.inl lower)]
  have shown := State.getN_setN_same (s := { s with tele := { s.tele with computed := (a :: s.tele.computed).take 10 } }) w rAdmPowerAvailW a
  rw [State.getN] at shown
  rw [State.getF, wField, shown, bits]
  omega

/-- The power shown is the only register that changes with it. -/
theorem State.get_setAvail_other (s : State) (a : Nat) {off : Nat} (other : off ≠ rAdmPowerAvailW) : (s.setAvail a).get off = s.get off := by
  unfold State.setAvail
  dsimp only
  split
  · exact State.get_setN_other _ a other
  · rfl

theorem State.setAvail_wf (s : State) (a : Nat) (w : sparseWf 0 s.pf0 = true) : sparseWf 0 (s.setAvail a).pf0 = true := by
  unfold State.setAvail
  dsimp only
  split
  · exact sparseSet_wf w
  · exact w

theorem State.setAvail_mem (s : State) (a : Nat) : (s.setAvail a).mem = s.mem := by
  unfold State.setAvail
  dsimp only
  split <;> rfl

theorem State.setAvail_tasks (s : State) (a : Nat) : (s.setAvail a).tasks = s.tasks := by
  unfold State.setAvail
  dsimp only
  split <;> rfl

/-- What a level that changes leaves: the status shows it, the event is raised, and the rest is the log's and the receiver's. -/
theorem State.setLevel_changed {s : State} {l : Nat} (changes : s.level ≠ l) :
    ∃ mask, LogFrame ((s.setF rLodgeThermalStatus 1 0 l).raise rLodgeThermalEvent mask) (s.setLevel l) := by
  unfold State.setLevel
  dsimp only
  rw [if_neg changes]
  exact ⟨_, (LogFrame.logReading _ _ _).trans (LogFrame.levelEvent _ _)⟩

theorem State.setLevel_level {s : State} {l : Nat} (w : sparseWf 0 s.pf0 = true) (range : l ≤ 2) : (s.setLevel l).level = l := by
  by_cases changes : s.level = l
  · rw [State.setLevel, if_pos changes, changes]
  · obtain ⟨mask, frame⟩ := State.setLevel_changed changes
    rw [State.level, State.getF, frame.get _ (by decide), State.raise, State.get_set_other _ _ (by decide), ← State.getF,
      State.getF_setF_same w _ _ (by decide) (by decide)]
    omega

theorem State.get_setLevel_other (s : State) (l : Nat) {off : Nat} (status : off ≠ rLodgeThermalStatus) (event : off ≠ rLodgeThermalEvent)
    (lost : off ≠ rLodgeLogLostCnt) : (s.setLevel l).get off = s.get off := by
  by_cases changes : s.level = l
  · rw [State.setLevel, if_pos changes]
  · obtain ⟨mask, frame⟩ := State.setLevel_changed changes
    rw [frame.get _ lost, State.raise, State.get_set_other _ _ event, State.get_setF_other _ _ _ _ status]

theorem State.setLevel_mem (s : State) (l : Nat) : (s.setLevel l).mem = s.mem := by
  by_cases changes : s.level = l
  · rw [State.setLevel, if_pos changes]
  · obtain ⟨mask, frame⟩ := State.setLevel_changed changes
    exact frame.mem

theorem State.setLevel_tasks (s : State) (l : Nat) : (s.setLevel l).tasks = s.tasks := by
  by_cases changes : s.level = l
  · rw [State.setLevel, if_pos changes]
  · obtain ⟨mask, frame⟩ := State.setLevel_changed changes
    exact frame.tasks

theorem execPowerRecompute_of {s : State} (runs : s.lodgeRuns = true) (begun : s.boot.begun = true) (cool : s.mbx.tripped = false) :
    exec .powerRecompute s = .next ((s.setAvail s.recompute.1).setLevel s.recompute.2) := by
  simp only [exec, execPowerRecompute, runs, begun, cool, Bool.not_true, Bool.or_self, Bool.false_eq_true, if_false]

/-- The state a start-up begins with: it has begun, with the flash the board brings, when it brings one. -/
def State.startsUp (s : State) (flash : Option FlashImage) : State :=
  { s with boot := { s.boot with begun := true }, flash := flash.elim s.flash FlashImage.flash }

/-- The image in force and the values, when a start-up has chosen them. -/
def State.bootChosen (s : State) (self : SelfTest) (now ptp : Nat) : State :=
  let v := (((s.noteTimes now ptp).bootFlash).bootFactory).bootSlot self.slotEcc
  (v.bootCal.1.bootValues v.bootCal.2).bootUnits self

/-- Start-up on both supplies, once (Table 1-7): it stops where a unit stopped it, and starts from the area of the image otherwise. -/
theorem execStartUp_of {s : State} (flash : Option FlashImage) (self : SelfTest) (now ptp : Nat) (aux : s.power.aux = true) (main : s.power.main = true)
    (held : s.power.held = false) (cool : s.mbx.tripped = false) (fresh : s.boot.begun = false) : exec (.startUp flash self now ptp) s
    = if ((s.startsUp flash).bootChosen self now ptp).mbx.stopped then .next ((s.startsUp flash).bootChosen self now ptp)
      else .next (((s.startsUp flash).bootChosen self now ptp).bootFrom (secsOf ((s.startsUp flash).bootChosen self now ptp).boot.area 4)) := by
  have goes : (!s.power.aux || !s.power.main || s.power.held || s.mbx.tripped || s.boot.begun) = false := by
    rw [aux, main, held, cool, fresh]; rfl
  refine (if_neg (by rw [goes]; decide)).trans ?_
  cases flash with
  | none => rfl
  | some x => rfl

/-- Settles O58: start-up and the tick by their branches, and the recomputation by what the power shown and the level each leave of the other. That
START_UP is one step is the model's choice (notes/assumptions/14.md). -/
theorem theLodgeRuns : Obligations.TheLodgeRuns := by
  unfold Obligations.TheLodgeRuns
  refine ⟨fun s flash self now ptp aux main held cool fresh u v hu hv w hw => ⟨fun stopped => ?_, fun runs => ?_⟩, fun s flash self now ptp begun => ?_,
    fun s now ptp x runs u hu => ?_, fun s wf runs begun cool => ?_⟩
  · obtain rfl : w = (s.startsUp flash).bootChosen self now ptp := by rw [hw, hv, hu]; cases flash <;> rfl
    exact (execStartUp_of flash self now ptp aux main held cool fresh).trans (if_pos stopped)
  · obtain rfl : w = (s.startsUp flash).bootChosen self now ptp := by rw [hw, hv, hu]; cases flash <;> rfl
    exact (execStartUp_of flash self now ptp aux main held cool fresh).trans (if_neg (by rw [runs]; decide))
  · simp only [exec, execStartUp, begun, Bool.or_true, if_true]
  · subst hu
    simp only [exec, execLodgeTick, runs, Bool.not_true, Bool.false_eq_true, if_false]
  · have w := (State.wf_iff.mp wf).1
    refine ⟨_, execPowerRecompute_of runs begun cool, State.setLevel_level (s.setAvail_wf _ w) s.recompute_level_le, fun lower => ?_,
      State.recompute_of_missing, (State.setLevel_mem _ _).trans (s.setAvail_mem _), (State.setLevel_tasks _ _).trans (s.setAvail_tasks _)⟩
    rw [State.getF, State.get_setLevel_other _ _ (by decide) (by decide) (by decide)]
    exact State.setAvail_lower w lower

end Sys2Proof.Machine
end

section
/-! SUPPORT. Commands that store nothing in the memories: what the operations they share leave of them, and each command (spec/16, spec/17, spec/20). -/

namespace Sys2Proof.Machine

/-- Where `o` is a next state, its memories are those of `s`. -/
def State.KeepsMem (s : State) (o : Host.Outcome State Fault Refusal) : Prop := ∀ t, o = .next t → t.mem = s.mem

namespace State.KeepsMem

theorem next {s t : State} (h : t.mem = s.mem) : s.KeepsMem (.next t) := by
  intro u is
  obtain rfl := Host.Outcome.next.inj is
  exact h

theorem ite {s : State} {c : Prop} [Decidable c] {o p : Host.Outcome State Fault Refusal} (yes : s.KeepsMem o) (no : s.KeepsMem p) :
    s.KeepsMem (if c then o else p) := by
  split
  · exact yes
  · exact no

end State.KeepsMem

/-! ### Shared operations -/

theorem State.ite_mem {s t u : State} {c : Prop} [Decidable c] (yes : t.mem = s.mem) (no : u.mem = s.mem) : (if c then t else u).mem = s.mem := by
  split
  · exact yes
  · exact no

theorem foldl_keeps_mem {α : Type} {f : State → α → State} (keeps : ∀ s x, (f s x).mem = s.mem) : ∀ (l : List α) (s : State), (l.foldl f s).mem = s.mem
  | [], _ => rfl
  | x :: l, s => (foldl_keeps_mem keeps l (f s x)).trans (keeps s x)

theorem State.loadJtag_mem (s : State) (i : JtagInstr) : (s.loadJtag i).mem = s.mem := State.ite_mem rfl rfl

theorem State.transmit_mem (s : State) (k : Qp) (w : QpWrite) : (s.transmit k w).mem = s.mem := State.ite_mem (s.emit_mem _) (s.emit_mem _)

theorem State.sendWaiting_mem (s : State) (t q : Nat) : (s.sendWaiting t q).mem = s.mem := by
  unfold State.sendWaiting
  split
  · rfl
  · exact State.ite_mem rfl ((State.updQp_mem _ _ _ _).trans (foldl_keeps_mem (fun s w => s.transmit_mem _ w) _ s))

theorem State.sendPort_mem (s : State) (p : Nat) : (s.sendPort p).mem = s.mem := 
  foldl_keeps_mem (fun s (k : Qp) => s.sendWaiting_mem k.tenant k.q) _ s

theorem State.resend_mem (s : State) (t q psn : Nat) : (s.resend t q psn).mem = s.mem := by
  unfold State.resend
  split
  · rfl
  · exact State.ite_mem rfl ((State.updQp_mem _ _ _ _).trans (foldl_keeps_mem (fun s w => s.transmit_mem _ w) _ s))

theorem State.flushQp_mem (s : State) (t q : Nat) : (s.flushQp t q).mem = s.mem := by
  unfold State.flushQp
  split
  · rfl
  · refine (State.updQp_mem _ _ _ _).trans (foldl_keeps_mem (fun s w => ?_) _ s)
    split
    · exact State.updTask_mem _ _ _ _
    · rfl

theorem State.qpError_mem (s : State) (t q : Nat) : (s.qpError t q).mem = s.mem := by
  have counted : ((s.flushQp t q).vcount t vNetTQpErrCnt 1).mem = s.mem := (State.vcount_mem _ _ _ _).trans (s.flushQp_mem t q)
  unfold State.qpError
  split
  · rfl
  · dsimp only
    split
    · exact (LogFrame.logEvent _ _ _ _ _ _).mem.trans counted
    · exact ((LogFrame.free _ 64).trans (LogFrame.logEvent _ _ _ _ _ _)).mem.trans counted

theorem State.qpCommand_mem (s : State) (t : Nat) (from_ : List Nat) (ctx busy : Bool) {f : State → Nat → State} (keeps : ∀ q, (f s q).mem = s.mem) :
    (s.qpCommand t from_ ctx busy f).mem = s.mem :=
  State.ite_mem rfl (State.ite_mem ((State.vsetF_mem _ _ _ _ _ _).trans (keeps _)) (State.vsetF_mem _ _ _ _ _ _))

theorem State.updQueue_mem (s : State) (t q : Nat) (f : HostQueue → HostQueue) : (s.updQueue t q f).mem = s.mem := State.updTenant_mem _ _ _

theorem State.badDoorbell_mem (s : State) (t : Nat) : (s.badDoorbell t).mem = s.mem := (LogFrame.logOpen _ _ _ _).mem

theorem State.answerRead_mem (s : State) (fn off : Nat) : (s.answerRead fn off).mem = s.mem := by
  refine State.ite_mem ((State.emit_mem _ _).trans ?_) rfl
  obtain ⟨l, read⟩ := s.read_state fn (off / 4 * 4)
  rw [read]
  exact State.ite_mem (s.setN_mem _ _) rfl

/-! ### The commands -/

theorem execJtagIdcode_mem (s : State) : s.KeepsMem (execJtagIdcode s) :=
  .ite (.next ((State.emit_mem _ _).trans (s.loadJtag_mem _))) (.next rfl)

theorem execVinPowerOn_mem (s : State) : s.KeepsMem (execVinPowerOn s) := .ite (.next rfl) (.next rfl)

theorem execFrameReceive_mem (p : Nat) (x : Bytes) (s : State) : s.KeepsMem (execFrameReceive p x s) := .ite (.next (s.count_mem _ _)) (.next rfl)

theorem execArpRequest_mem (p : Nat) (x y z : Bytes) (s : State) : s.KeepsMem (execArpRequest p x y z s) :=
  .ite (.next rfl) (.ite (.next (s.emit_mem _)) (.next (s.count_mem _ _)))

theorem execNeighbourSolicitation_mem (p : Nat) (x y z : Bytes) (s : State) : s.KeepsMem (execNeighbourSolicitation p x y z s) :=
  .ite (.next rfl) (.ite (.next (s.emit_mem _)) (.next (s.count_mem _ _)))

theorem execPfcPauseReceive_mem (p prio quanta : Nat) (s : State) : s.KeepsMem (execPfcPauseReceive p prio quanta s) :=
  .ite (.next rfl) (.next (State.ite_mem ((State.sendPort_mem _ _).trans (s.updPort_mem _ _)) (s.updPort_mem _ _)))

theorem execNetLinkDown_mem (p : Nat) (s : State) : s.KeepsMem (execNetLinkDown p s) :=
  .ite (.next rfl) (.next ((LogFrame.logOpen _ _ _ _).mem.trans (s.setF_mem _ _ _ _)))

theorem execNetLinkUp_mem (p : Nat) (s : State) : s.KeepsMem (execNetLinkUp p s) :=
  .ite (.next rfl) (.next ((State.sendPort_mem _ _).trans ((State.updPort_mem _ _ _).trans (s.setF_mem _ _ _ _))))

theorem execOsfpModulePresence_mem (p media : Nat) (s : State) : s.KeepsMem (execOsfpModulePresence p media s) := .ite (.next rfl) (.next (s.setF_mem _ _ _ _))

theorem execNetTMrCtrl_mem (t : Nat) (v : Word) (s : State) : s.KeepsMem (execNetTMrCtrl t v s) := by
  refine .ite (.next rfl) (.next ((State.vsetF_mem _ _ _ _ _ _).trans ?_))
  obtain ⟨l, put⟩ := (s.vset t vNetTMrCtrl v).putRegion_frame t ((s.vset t vNetTMrCtrl v).vgetN t vNetTMrSel % 64)
    ((s.vset t vNetTMrCtrl v).vget64 t vNetTMrBase) ((s.vset t vNetTMrCtrl v).vget64 t vNetTMrLen) v.toNat
  rw [put]
  exact s.vset_mem t vNetTMrCtrl v

theorem execAckReceive_mem (t q psn : Nat) (s : State) : s.KeepsMem (execAckReceive t q psn s) := by
  unfold execAckReceive
  split
  · exact .next rfl
  · exact .ite (.next rfl) (.ite (.next rfl) (.next (s.updQp_mem _ _ _)))

theorem execNakReceive_mem (t q psn : Nat) (rnr : Bool) (s : State) : s.KeepsMem (execNakReceive t q psn rnr s) := by
  unfold execNakReceive
  split
  · exact .next rfl
  · exact .ite (.next rfl) (.ite (.next (s.qpError_mem _ _)) (.next ((State.resend_mem _ _ _ _).trans (s.updQp_mem _ _ _))))

theorem execRetransmitTimeout_mem (t q : Nat) (s : State) : s.KeepsMem (execRetransmitTimeout t q s) := by
  unfold execRetransmitTimeout
  split
  · exact .next rfl
  · split
    · exact .next rfl
    · exact .ite (.next rfl) (.ite (.next (s.qpError_mem _ _)) (.next ((State.resend_mem _ _ _ _).trans (s.updQp_mem _ _ _))))

theorem execCnpReceive_mem (t q : Nat) (s : State) : s.KeepsMem (execCnpReceive t q s) := by
  unfold execCnpReceive
  split
  · exact .next rfl
  · exact .next ((State.updQp_mem _ _ _ _).trans (s.count_mem _ _))

theorem execRateTimer_mem (t q : Nat) (bytes : Bool) (s : State) : s.KeepsMem (execRateTimer t q bytes s) := by
  unfold execRateTimer
  split
  · exact .next rfl
  · exact .ite (.next rfl) (.next (s.updQp_mem _ _ _))

theorem execHostTSqTailDb_mem (t q v : Nat) (s : State) : s.KeepsMem (execHostTSqTailDb t q v s) :=
  .ite (.next rfl) (.ite (.next (s.updQueue_mem _ _ _)) (.next (s.badDoorbell_mem _)))

theorem execHostTCqHeadDb_mem (t q v : Nat) (s : State) : s.KeepsMem (execHostTCqHeadDb t q v s) :=
  .ite (.next rfl) (.ite (.next (s.updQueue_mem _ _ _)) (.next (s.badDoorbell_mem _)))

theorem execLogEntryWrite_mem (now ptp : Nat) (s : State) : s.KeepsMem (execLogEntryWrite now ptp s) := by
  unfold execLogEntryWrite
  split
  · exact .next rfl
  · refine .ite (.next rfl) (.next ((State.msg_mem _ _ _).trans ((State.setN_mem _ _ _).trans ?_)))
    exact State.ite_mem (State.count_mem _ _ _) rfl

theorem execPowerRecompute_mem (s : State) : s.KeepsMem (execPowerRecompute s) :=
  .ite (.next rfl) (.next ((State.setLevel_mem _ _).trans (s.setAvail_mem _)))

theorem execSlotAcquire_mem (h i : Nat) (s : State) : s.KeepsMem (execSlotAcquire h i s) := by
  unfold execSlotAcquire
  split
  · exact .next rfl
  · exact .ite (.next (s.updHoop_mem _ _ _)) (.next rfl)

theorem execAtsInvalidationRequest_mem (t base log2 : Nat) (s : State) : s.KeepsMem (execAtsInvalidationRequest t base log2 s) :=
  .next ((State.emit_mem _ _).trans (State.count_mem _ _ _))

/-- Settles O59: each command leaves the memories as they are. -/
theorem commandsThatStoreNothing : Obligations.CommandsThatStoreNothing := by
  unfold Obligations.CommandsThatStoreNothing
  intro s t p q a b x y z v r c listed runs m n
  refine State.byteAt_congr ((?_ : ∀ c ∈ _, s.KeepsMem (exec c s)) c listed t runs) m n
  simp only [List.forall_mem_cons, List.not_mem_nil, false_imp_iff, implies_true, and_true]
  exact ⟨.next (s.loadJtag_mem _), .next (s.loadJtag_mem _), execJtagIdcode_mem s, execVinPowerOn_mem s, execFrameReceive_mem p x s,
    execArpRequest_mem p x y z s, execNeighbourSolicitation_mem p x y z s, execPfcPauseReceive_mem p q a s, execNetLinkDown_mem p s, execNetLinkUp_mem p s,
    execOsfpModulePresence_mem p q s, .next (s.qpCommand_mem _ _ _ _ fun _ => State.updQp_mem _ _ _ _),
    .next (s.qpCommand_mem _ _ _ _ fun _ => State.updQp_mem _ _ _ _), .next (s.qpCommand_mem _ _ _ _ fun _ => State.updQp_mem _ _ _ _),
    .next (s.qpCommand_mem _ _ _ _ fun _ => State.flushQp_mem _ _ _), .next (s.qpCommand_mem _ _ _ _ fun _ => State.updQp_mem _ _ _ _),
    execNetTMrCtrl_mem p v s, execAckReceive_mem p q a s, execNakReceive_mem p q a r s, execRetransmitTimeout_mem p q s, execCnpReceive_mem p q s,
    .next (s.updQp_mem _ _ _), execRateTimer_mem p q r s, execHostTSqTailDb_mem p q a s, execHostTCqHeadDb_mem p q a s, .next (s.answerRead_mem _ _),
    .next (s.answerRead_mem _ _), .next (s.answerRead_mem _ _), .next (s.set_mem _ _), .next (s.answerRead_mem _ _), execLogEntryWrite_mem a b s,
    execPowerRecompute_mem s, execSlotAcquire_mem p q s, execAtsInvalidationRequest_mem p q a s⟩

end Sys2Proof.Machine
end

section
/-! SUPPORT. The Weave operations on a batch of every input (spec/07, spec/08): an operation behind a GROUP_KEY, and the record of a STATS group. -/

namespace Sys2Proof.Machine

section
variable {s u : State} {h i opcode : Nat} {e : OpEnv} {slots : List (Hoop × Slot)} {bs : List Bytes} {c : Instr} {kern : OpEnv → Kern} {k : KernOut}

/-- A command that is the event of a column operation runs its kernel on the batch. -/
theorem exec_of_colEvent {fin : OpEnv → Fin} (is : exec c s = .next (colEvent opcode kern fin h i s))
    (ready : BatchReady s h .weave i e ([odIn e.d, odIn2 e.d].filter (fun i => i != 0xFFFF)) slots u bs) (named : odOpcode e.d = opcode)
    (run : kern e u e bs false = k) (faultless : k.fault = none) : exec c s = .next (e.ran e.weave slots 1 k) :=
  is.trans (congrArg _ (colEvent_of_batchReady ready named run faultless fin))

/-- An operation behind a GROUP_KEY runs once its identifiers are there. -/
theorem exec_of_idEvent {fin : Fin} (is : exec c s = .next (idEvent opcode kern fin h i s))
    (ready : BatchReady s h .weave i e ([odIn e.d, odIn2 e.d].filter (fun i => i != 0xFFFF)) slots u bs) (ids : e.idsReady = true)
    (named : odOpcode e.d = opcode) (run : kern e u e bs false = k) (faultless : k.fault = none) :
    exec c s = .next (e.ran e.weave slots 1 k) := by
  refine is.trans (congrArg _ ?_)
  simp only [idEvent, ready.env, ids, Bool.not_true, Bool.and_false, Bool.false_eq_true, if_false]
  exact colEvent_of_batchReady ready named run faultless _

end

/-- Settles O47: every command is the event of its operation, with the kernel of its row. -/
theorem weaveOperationsRun : Obligations.WeaveOperationsRun := by
  unfold Obligations.WeaveOperationsRun
  refine ⟨fun s u h i e slots bs ready => ?_, fun s u h i e slots bs ready ids => ?_, fun s h i e env sent named leads done passed => ?_⟩
  · simp only [List.forall_mem_cons, List.not_mem_nil, false_imp_iff, implies_true, and_true]
    refine ⟨?_, ?_, ?_, ?_, ?_, ?_, ?_, ?_, ?_, ?_, ?_, ?_, ?_, ?_, ?_, ?_, ?_, ?_, ?_, ?_, ?_, ?_⟩
    all_goals exact fun named faultless => exec_of_colEvent rfl ready named rfl faultless
  · simp only [List.forall_mem_cons, List.not_mem_nil, false_imp_iff, implies_true, and_true]
    constructor <;> exact fun named faultless => exec_of_idEvent rfl ready ids named rfl faultless
  · simp only [exec, execStatsRecordEmit, env, sent, List.length_nil, ne_eq, not_true_eq_false, if_false, named, leads, done]
    rw [List.any_eq_false.mpr fun k member => ?_]
    · rfl
    · obtain ⟨o, found, past⟩ := passed k member
      simp [found, Nat.not_lt.mpr past]

end Sys2Proof.Machine
end

section
/-! SUPPORT. The Quotient unit on a batch of every input (spec/09): element functions of operands from hoops and immediates, and the solves. -/

namespace Sys2Proof.Machine

/-! ### What a batch of operands comes to -/

/-- Batches that are all well formed: none is found bad. -/
theorem find?_bad_of_good {α β : Type} {f : α → Option β} {l : List α} {good : List β} (parsed : l.map f = good.map some) :
    (List.range l.length).find? (fun i => (nth (l.map f) i none).isNone) = none := by
  have length : l.length = good.length := by simpa using congrArg List.length parsed
  rw [List.find?_eq_none]
  intro i inside
  rw [List.mem_range, length] at inside
  simp [parsed, nth, inside]

/-- Operands that are aligned: none differs from the first. -/
theorem aligned_operands {o : Operand} {rest : List Operand} (aligned : ∀ p ∈ rest, p.rowBase = o.rowBase ∧ p.rows.length = o.rows.length) :
    (o :: rest).any (fun p => decide (p.rows.length ≠ o.rows.length) || decide (p.rowBase ≠ o.rowBase)) = false := by
  rw [List.any_eq_false]
  rintro p (_ | ⟨_, member⟩)
  · simp
  · obtain ⟨base, rows⟩ := aligned p member
    simp [base, rows]

/-! ### Element functions -/

/-- The rows an element function without a forwarded operand computes. -/
def OpEnv.quoHoopRows (e : OpEnv) (func : Nat) (o : Operand) (rest : List Operand) : List (Option Nat × List Nat) :=
  quoRows (qdF64 e.d) func
    (quoOperand (qdSrcA e.d) (qdImmA e.d) (if qdSrcA e.d = 0 then (o :: rest)[0]? else none) none o.rows.length)
    (quoOperand (qdSrcB e.d) (qdImmB e.d) (if qdSrcB e.d = 0 then (if qdSrcA e.d = 0 then (o :: rest)[1]? else (o :: rest)[0]?) else none)
      none o.rows.length)

/-- An element function of operands from hoops or immediates, ready on a batch that is not the last, computes its rows and counts. -/
theorem State.quoElement_of_batchReady {s u : State} {h i func : Nat} {e : OpEnv} {slots : List (Hoop × Slot)} {bs : List Bytes}
    (ready : BatchReady s h .quotient i e (qdHoops e.d) slots u bs) (named : qdFunc e.d = func) (direct : qdFwds e.d = []) (takers : e.takersReady = true)
    {ops : List Batch} {o : Operand} {rest : List Operand} (parsed : bs.map (quoBatch (qdF64 e.d)) = ops.map some)
    (operands : ops.map (fun b => b.operand (qdF64 e.d)) = o :: rest)
    (aligned : ∀ p ∈ rest, p.rowBase = o.rowBase ∧ p.rows.length = o.rows.length) :
    s.quoElement e = e.ran e.quotient slots 1 (KernOut.ok (u.tally e.t quoRegs ((e.quoHoopRows func o rest).flatMap (·.2)))
      { e.o with nums := [e.o.taken + 1],
                 table := [(e.o.taken, packFwd { rowBase := o.rowBase, rows := (e.quoHoopRows func o rest).map (·.1) } false false)] }
      (if qdOut e.d = 0xFFFF then []
        else [{ hoop := qdOut e.d, data := fixedBatch (qdType e.d) o.rowBase ((e.quoHoopRows func o rest).map (·.1)), fin := false }])) := by
  have going : ¬ 2 ≤ e.o.stage := Nat.not_le.mpr ready.going
  have slots' : slots ≠ [] := by
    rintro rfl
    exact absurd ready.body (by decide)
  have values : (bs.map (quoBatch (qdF64 e.d))).filterMap (fun b => b.map (fun x => x.operand (qdF64 e.d))) = o :: rest := by
    rw [parsed, ← operands]
    simp [List.filterMap_map]
  have good := find?_bad_of_good parsed
  have same := aligned_operands aligned
  unfold State.quoElement
  simp only [OpEnv.quoHoopRows, named, ready.sent, List.length_nil, ne_eq, not_true_eq_false, if_false, going, decide_false, takers, direct, List.map_nil, List.any_nil,
    Bool.not_true, Bool.or_self, Bool.false_eq_true, ready.got, List.filterMap_nil, ready.body, Bool.and_false, List.length_eq_zero_iff, slots',
    Bool.false_and, ready.read, good, values, List.append_nil, same, ready.more, List.getElem?_nil, ite_self]
  exact KernOut.settle_of_faultless rfl _ _ _ _

/-- The event of an element function is one step of it. -/
theorem quoEvent_of {s : State} {h i func : Nat} {e : OpEnv} (env : s.opEnv h .quotient i = some e) (named : qdFunc e.d = func) :
    quoEvent func h i s = .next (s.quoElement e) := by
  simp only [quoEvent, env, named, if_true]

/-! ### Solves -/

theorem entriesEvent_of {s : State} {h i func : Nat} {e : OpEnv} (env : s.opEnv h .quotient i = some e) (named : qdFunc e.d = func) :
    entriesEvent func h i s = .next (s.runOp e e.quotient [qdIn e.d] (entriesKern (func == 6)) (endAlone [qdOut e.d])) := by
  simp only [entriesEvent, env, named, if_true]

theorem execSolveSpd_of {s : State} {h i : Nat} {e : OpEnv} (env : s.opEnv h .quotient i = some e) (named : qdFunc e.d = 5) :
    execSolveSpd h i s = .next (s.runOp e e.quotient [qdIn e.d] solveKern (endAlone [qdOut e.d])) := by
  simp only [execSolveSpd, env, named, if_true]

/-- Settles O49: the four element functions are one event, and the solves run their kernels. -/
theorem quotientOperationsRun : Obligations.QuotientOperationsRun := by
  unfold Obligations.QuotientOperationsRun
  refine fun s u h i e slots bs => ⟨fun ready direct takers ops o rest parsed operands aligned => ?_, fun ready => ?_⟩
  · have element {func : Nat} (named : qdFunc e.d = func) :=
      (quoEvent_of ready.env named).trans (congrArg _ (State.quoElement_of_batchReady ready named direct takers parsed operands aligned))
    simp only [List.forall_mem_cons, List.not_mem_nil, false_imp_iff, implies_true, and_true]
    refine ⟨?_, ?_, ?_, ?_⟩ <;> rintro named _ rfl <;> exact element named
  · simp only [List.forall_mem_cons, List.not_mem_nil, false_imp_iff, implies_true, and_true]
    refine ⟨fun named faultless => ?_, fun named faultless => ?_, fun named faultless => ?_⟩
    · exact (execSolveSpd_of ready.env named).trans (congrArg _ (State.runOp_of_batchReady ready rfl faultless _ _))
    · exact (entriesEvent_of ready.env named).trans (congrArg _ (State.runOp_of_batchReady ready rfl faultless _ _))
    · exact (entriesEvent_of ready.env named).trans (congrArg _ (State.runOp_of_batchReady ready rfl faultless _ _))

end Sys2Proof.Machine
end

section
/-! SUPPORT. Tree ensembles, samples, selection, Trellis jobs and shuffles on ready inputs (spec/10, spec/13, spec/14, spec/16). -/

namespace Sys2Proof.Machine

section
variable {s u : State} {h i kind : Nat} {e : OpEnv} {slots : List (Hoop × Slot)} {bs : List Bytes} {c : Instr} {kern : Kern} {k : KernOut}

theorem exec_of_arbourEvent (is : exec c s = arbourEvent kind h i s)
    (ready : BatchReady s h .arbour i e ([adIn e.d].filter (fun i => i != 0xFFFF)) slots u bs) (named : adMode e.d = kind)
    (faultless : (arbourKern u e bs false).fault = none) : exec c s = .next (e.ran e.arbour slots 1 (arbourKern u e bs false)) := by
  rw [is]
  simp only [arbourEvent, ready.env, named, if_true]
  exact congrArg _ (State.runOp_of_batchReady ready rfl faultless _ _)

theorem exec_of_sampleEvent {outs : Bytes → List Nat} (is : exec c s = sampleEvent kind kern outs h i s)
    (ready : BatchReady s h .sample i e ([mdIn e.d].filter (fun i => i != 0xFFFF)) slots u bs) (named : mdKind e.d = kind)
    (run : kern u e bs false = k) (faultless : k.fault = none) : exec c s = .next (e.ran e.sampleWeave slots 1 k) := by
  rw [is]
  simp only [sampleEvent, ready.env, named, if_true]
  exact congrArg _ (State.runOp_of_batchReady ready run faultless _ _)

end

/-- A merge that releases records puts them out (R411). -/
theorem exec_sampleMerge_of {s u : State} {h i : Nat} {e : OpEnv} {rs : List Bytes} (env : s.opEnv h .sample i = some e) (kind : mdKind e.d = 2)
    (sent : e.o.outQ = []) (going : e.o.stage < 2) (open' : e.o.lastSeen = false) (some' : rs ≠ [])
    (released : s.releaseAll e (e.laneRecords + 1) = (u, rs, none)) : exec (.sampleMerge h i) s
    = .next ((((u.vcount64 e.t vWeaveTSample rs.length).vcount e.t vWeaveTSampleAbortCnt (rs.filter srAborted).length).updOp e.h
          e.o.key (fun o => { o with stage := 1, outQ := recordOuts e.r.bin (mdOut e.d) rs (rs.any srLast) })).flushAll e e.sampleWeave) := by
  have records : rs.isEmpty = false := by simpa using some'
  simp only [exec, execSampleMerge, env, kind, if_true, State.mergeStep, sent, List.length_nil, ne_eq, not_true_eq_false, if_false,
    Nat.not_le.mpr going, open', Bool.false_eq_true, released, records, Bool.false_and]

/-- A selection runs one step of it while nothing waits to go out. -/
theorem exec_selectRow_of {s : State} {h i : Nat} {e : OpEnv} (env : s.opEnv h .select i = some e) (sent : e.o.outQ = []) (going : e.o.stage < 2) :
    exec (.selectRow h i) s = .next (s.selStep e) := by
  simp only [exec, execSelectRow, env, sent, List.length_nil, ne_eq, not_true_eq_false, if_false, Nat.not_le.mpr going]

/-- A selection that takes a batch of values keeps them. -/
theorem State.selTake_of_batch {s u : State} {e : OpEnv} {k : Hoop} {x : Slot} {d : Bytes} {o : OpRun} {f : Bytes → Option OpRun} (body : x.bare = false)
    (read : s.readInputs e.r [(k, x)] = (u, .ok [d])) (taken : f d = some o) :
    s.selTake e k x f = e.ran e.select [(k, x)] 1 (KernOut.ok u o []) := by
  simp only [State.selTake, body, Bool.false_eq_true, if_false, read, List.headD_cons, taken]
  exact KernOut.settle_of_faultless rfl _ _ _ _

/-- A Trellis job transforms the next record of its slot, and stays in it while records follow (R423). -/
theorem exec_trellisJob_of {s u v : State} {h i : Nat} {e : OpEnv} {k : Hoop} {x : Slot} {b out : Bytes} (env : s.opEnv h .sample i = some e)
    (kind : mdKind e.d = 5) (sent : e.o.outQ = []) (going : e.o.stage < 2) (got : e.c.front (mdIn e.d) e.o.key = .got k x) (body : x.bare = false)
    (read : s.readSlot e.r k x.no (nth e.o.nums 0 0) (x.len - nth e.o.nums 0 0) = (u, .ok b)) (good : recordOk b = true)
    (made : u.trellisRecord e (b.take (srBytes b)) = (v, .ok out)) (more : nth e.o.nums 0 0 + (b.take (srBytes b)).length < x.len) :
    exec (.trellisJob h i) s = .next (e.ran e.trellis [] 1 (KernOut.ok v { e.o with
      nums := [nth e.o.nums 0 0 + (b.take (srBytes b)).length, nth e.o.nums 1 0 + 1] } [{ hoop := mdOut e.d, data := out, fin := false }])) := by
  simp only [exec, execTrellisJob, env, kind, if_true, State.trellisStep, sent, List.length_nil, ne_eq, not_true_eq_false, if_false,
    Nat.not_le.mpr going, got, body, Bool.false_eq_true, read, good, Bool.not_true, made, Nat.not_le.mpr more, decide_false, Bool.false_and]
  exact congrArg _ (KernOut.settle_of_faultless rfl _ _ _ _)

/-- A shuffle whose rows all went, and whose batches are not the last, releases them. -/
theorem State.shufBatch_sent {u v : State} {e : OpEnv} {slots : List (Hoop × Slot)} {a b : Bytes} {rows : List ShufRow}
    (rowsOf : shufRows e.d a b = .ok rows)
    (sent : u.shufRowsFrom e.h e.i (nth e.o.nums 0 0) (rows.drop (nth e.o.nums 0 0)) = (v, rows.length, none))
    (more : slots.any (fun p => p.2.fin) = false) :
    u.shufBatch e slots a b = (v.updOp e.h e.o.key (fun o => { o with nums := [0, 0], stage := 0 })).finishInputs e slots := by
  unfold State.shufBatch
  rw [rowsOf]
  dsimp only
  rw [sent]
  dsimp only
  rw [if_neg (Nat.lt_irrefl _), more]
  exact if_pos rfl

/-- A shuffle whose rows all went releases its pair of batches (R485, R486). -/
theorem exec_shuffleOut_of {s u v : State} {h i : Nat} {e : OpEnv} {slots : List (Hoop × Slot)} {a b : Bytes} {rows : List ShufRow}
    (ready : BatchReady s h .network i e [shIn e.d, shPart e.d] slots u [a, b]) (kind : fieldAt e.d 3 1 = 2) (stage : e.o.stage = 0)
    (split : shufRows e.d a b = .ok rows)
    (sent : u.shufRowsFrom e.h e.i (nth e.o.nums 0 0) (rows.drop (nth e.o.nums 0 0)) = (v, rows.length, none)) :
    exec (.shuffleOut h i) s = .next ((v.updOp e.h e.o.key (fun o => { o with nums := [0, 0], stage := 0 })).finishInputs e slots) := by
  have first' : nth [a, b] 0 [] = a := rfl
  have second : nth [a, b] 1 [] = b := rfl
  have begun : ¬ (fieldAt e.d 3 1 ≠ 2 ∨ 2 ≤ e.o.stage) := by
    rintro (other | past)
    · exact other kind
    · exact absurd (stage ▸ past) (by decide)
  simp only [exec, execShuffleOut, ready.env]
  rw [if_neg begun, if_neg (by rw [stage]; decide), ready.got]
  simp only [ready.body, Bool.false_eq_true, if_false, ready.read, first', second]
  exact congrArg _ (State.shufBatch_sent split sent ready.more)

/-- Settles O50: each event takes the branch its ready inputs select. -/
theorem samplesSelectionsJobsAndShufflesRun : Obligations.SamplesSelectionsJobsAndShufflesRun := by
  unfold Obligations.SamplesSelectionsJobsAndShufflesRun
  refine ⟨fun s u h i e slots bs => ⟨fun ready => ?_, fun ready => ?_, fun rs env kind sent going open' some' released => ?_⟩, fun s h i e => ⟨?_, ?_, ?_⟩⟩
  · simp only [List.forall_mem_cons, List.not_mem_nil, false_imp_iff, implies_true, and_true]
    constructor <;> intro named faultless
    · exact exec_of_arbourEvent rfl ready named faultless
    · exact exec_of_arbourEvent rfl ready named faultless
  · simp only [List.forall_mem_cons, List.not_mem_nil, false_imp_iff, implies_true, and_true]
    constructor <;> intro named faultless
    · exact exec_of_sampleEvent (kern := splitKern) (outs := fun d => (List.range (mdLanes d)).map (mdLane d)) rfl ready named rfl faultless
    · exact exec_of_sampleEvent (kern := drawKern) (outs := fun d => [mdOut d]) rfl ready named rfl faultless
  · exact exec_sampleMerge_of env kind sent going open' some' released
  · intro env sent going fixed
    refine ⟨fun full => ?_, fun k x u d o short got body read taken => ?_⟩
    · rw [exec_selectRow_of env sent going]
      simp only [State.selStep, ne_eq, fixed, not_false_eq_true, if_true, full]
    · rw [exec_selectRow_of env sent going]
      simp only [State.selStep, ne_eq, fixed, not_false_eq_true, if_true, Nat.not_le.mpr short, if_false, got]
      exact congrArg _ (State.selTake_of_batch body read taken)
  · intro k x u v b out env kind sent going got body read good made more
    exact exec_trellisJob_of env kind sent going got body read good made more
  · intro slots u v a b rows ready kind stage split sent
    exact exec_shuffleOut_of ready kind stage split sent

end Sys2Proof.Machine
end

section
/-! SUPPORT. Coil frames (spec/11, R350, R352, R353): a frame decoded to its end whose bytes fit, and a slot encoded into a frame. -/

namespace Sys2Proof.Machine

/-- A step of a decode to the end of its frame, with every byte of it fresh and with room for them, delivers them and ends the frame. -/
theorem State.decodeStep_whole {s u : State} {h i : Nat} {e : StreamEnv} {d : Decoded}
    (decoded : d = decodeFrame (e.coil i) e.q.raw (e.regionBytes i - e.q.rawPos)) (whole : d.stop = none) (fresh : e.q.frameOut = 0) (some' : d.out ≠ [])
    (room : d.out.length ≤ e.room i) (fits : e.q.bytes + d.out.length ≤ rsBytes e.r.bin i)
    (delivered : ((((s.updHoop h e.k.idx (fun k => k.reserveTo ((e.q.bytes + d.out.length - 1) / Nat.max 1 (rpSlotBytes e.r.bin e.k.idx))
        (rpSlots e.r.bin e.k.idx))).updStream h i (fun q => { q with bytes := q.bytes + d.out.length, frameOut := q.frameOut + d.out.length }))).vcount64
          (handleTenant h) vCoilTDecBytes d.out.length).deliverBytes h i e.q.bytes d.out = (u, none)) :
    s.decodeStep h i e = u.endFrame h i e d := by
  have now : (d.out.drop e.q.frameOut).take (e.room i) = d.out := by rw [fresh, List.drop_zero, List.take_of_length_le room]
  have length : d.out.length ≠ 0 := fun none' => some' (List.length_eq_zero_iff.mp none')
  unfold State.decodeStep
  rw [← decoded]
  dsimp only
  rw [now, if_neg (by rw [decide_eq_true_eq]; exact Nat.not_lt.mpr fits), if_neg length, delivered]
  dsimp only
  rw [fresh, List.drop_zero, if_neg (Nat.lt_irrefl _), whole]

/-- Settles O46: the decode goes to the end of its frame, and the encode takes the branch of a slot and a frame that fit. -/
theorem coilFramesAreDecodedAndEncoded : Obligations.CoilFramesAreDecodedAndEncoded := by
  unfold Obligations.CoilFramesAreDecodedAndEncoded
  refine fun s h i e env coil => ⟨fun d u input going decoded whole fresh some' room fits delivered => ?_,
    fun x d u f output going idle there slot fits read encoded frame v after => ?_⟩
  · simp only [exec, execCoilFrameDecode, env, input, coil, going, Bool.not_true, Bool.or_self, Bool.false_eq_true, if_false]
    exact congrArg _ (State.decodeStep_whole decoded whole fresh some' room fits delivered)
  · subst after
    have begins : (!rsOut e.r.bin i || !rsCoil e.r.bin i || e.q.ended || e.q.raw.length != 0 || decide (e.k.acq ≤ e.q.slotNo)) = false := by
      simp [output, coil, going, idle, there]
    simp only [exec, execCoilFrameEncode, env, begins, Bool.false_eq_true, if_false, slot, Nat.not_lt.mpr fits, read]
    rw [← encoded, if_neg (Nat.not_lt.mpr frame)]

end Sys2Proof.Machine
end
